-- ==== Sys2Proof/Word.lean ====
section
/-! DEFINITION. The words of the VXW2 and the names of the fields of an instruction word (R70 to R76). -/
namespace Sys2Proof

/-- A byte of local store or of system memory. -/
abbrev Byte := BitVec 8
/-- A 64-bit scalar register, control register or instruction word. -/
abbrev Word := BitVec 64
/-- The 512 data bits of a vector register (R12). -/
abbrev VData := BitVec 512
/-- The 128-bit side word of a vector register (R14). -/
abbrev Side := BitVec 128
/-- A poison origin record (R64). -/
abbrev Org := BitVec 128
/-- A local address, 20 bits (R42). -/
abbrev LAddr := BitVec 20
/-- A scalar or vector register number (R73). -/
abbrev Reg := BitVec 5

/-- The type codes of R74; code 15 is reserved and has no constructor. -/
inductive Ty where
  | none | i8 | i16 | i32 | i64 | n8 | n16 | n32 | n64 | f16 | bf16 | f32 | vb4 | vb8 | vb16
  deriving DecidableEq, Repr

/-- The rounding codes of R50 where stochastic rounding is not allowed. -/
inductive Rz where
  | rne | rz
  deriving DecidableEq, Repr

/-- The rounding codes of R50 with the seed register that SR takes from C (R82). -/
inductive Rnd where
  | rne | rz | sr (seed : Reg)
  deriving DecidableEq, Repr

/-- The combining modes of a compare (R76). -/
inductive Cmb where
  | plain | and | or | andor
  deriving DecidableEq, Repr

/-- The controlling guard of an instruction: N and G (R75). -/
structure Pred where
  n : Bool
  g : BitVec 3
  deriving DecidableEq, Repr

/-- The two guard destinations of a compare-type instruction with their combining mode (R76). -/
structure GDst where
  pd1 : BitVec 3
  cmb : Cmb
  pd2 : BitVec 3
  deriving DecidableEq, Repr

/-- The A operand of a vector instruction that accepts a feed queue (R72, R83). -/
inductive VSrc where
  | reg (a : Reg)
  | fq (i : BitVec 1)
  deriving DecidableEq, Repr

/-- The count of a vector shift: lanes of B, or IMM10[5:0] with IMM10[9] = 1 (R127). -/
inductive ShSrc where
  | reg (b : Reg)
  | imm (k : BitVec 6)
  deriving DecidableEq, Repr

/-- The lane mask MK and the masked-off policy MA (R72, R83). -/
structure Lane where
  mask : BitVec 3
  ag : Bool
  deriving DecidableEq, Repr

/-- The immediate of CHBIND (R175): channel, priority, X, PIN and the pinned context. -/
structure ChImm where
  ch : BitVec 6
  prio : BitVec 3
  x : Bool
  pin : Bool
  ctx : BitVec 2
  deriving DecidableEq, Repr

end Sys2Proof
end

