-- ==== Sys2Proof/Config.lean ====
section
/-! DEFINITION. What the spec leaves open, as constants without a value: nothing can evaluate them or prove a value of them. Each is applied to a plain counter of the state or to the operands it depends on. -/
namespace Sys2Proof.Config

/-- DESIGN CHOICE (log 4): the module cycles that pass before the step numbered `tick`. -/
opaque elapsed : Nat → Nat

/-- DESIGN CHOICE (log 6): which of the moves open at the step numbered `tick` is made. -/
opaque choose : Nat → Nat

/-- DESIGN CHOICE (log 7): which entry of a full page-map cache the fill numbered `n` replaces (R40 names no replacement rule). -/
opaque victim : Nat → Nat

/-- How many of the last store accesses of an instruction a unit of the core comes before (R22, R144, R145), by the core's position and the tick of the step. -/
opaque late : Nat → Nat → Nat

/-- How many of the lines that units wrote since the last issue access `i` of an instruction precedes (R144: not indivisible against other units), by the core's position and the cycle of its issue. -/
opaque lag : Nat → Nat → Nat → Nat

/-- Element `i` of a tile left by the MMA hit by an uncorrectable error, by the core's count of open values (R156: not specified). -/
opaque ueElement : Nat → Nat → BitVec 48

/-- The scale that such an MMA leaves in integer-and-scale mode (R156: any value from the old one to 32,767). -/
opaque ueScale : Nat → Nat

/-- Whether a CXL write attempt that was reported failed, or not acknowledged, reached the memory all the same (R335 does not say), by the step's number. -/
opaque lostWrite : Nat → Bool

/-- The words of the management log's entry for a thermal trip of a field (R410 names no cause code for it, and R323 has none), by the count of records. -/
opaque tripRecord : Nat → Nat → List (BitVec 64)

/-- The reading of the hottest column sensor of a field, in thousandths of a degree Celsius, by the cycle (R316). -/
opaque hottest : Nat → Nat → Nat

/-- Whether the partner of a CXL port is a single Type 3 device, as link training finds it (R376), by the boot count and the port. -/
opaque soleType3 : Nat → Nat → Bool

/-- Whether the stored fault map fails its check at a boot (R406), by the boot count. -/
opaque faultMapBad : Nat → Bool

/-- Whether the test of the bypass paths of a field fails at a boot (R250), by the boot count. -/
opaque bypassBad : Nat → Nat → Bool

/-- The first 16 bytes of the digest of the stored fault map (R408), whose form the spec does not give: by the faulty querns of each field and the retired pages. -/
opaque faultMapDigest : List (Nat × List Nat) → List Nat → BitVec 128

/-- The operational-key certificate and the signature over an attestation header (R407, R408), as words: by the operational key, the one-time index and the header. -/
opaque attestTail : Nat → Nat → List (BitVec 64) → List (BitVec 64)

/-- Module power in W, averaged over an epoch, by the cycle in which the next one ends (R409). -/
opaque modulePower : Nat → BitVec 32

/-- The coolant inlet in °C, by the cycle (R409). -/
opaque coolantInlet : Nat → BitVec 16

end Sys2Proof.Config
end

