-- ==== Sys2Proof/Machine/Types.lean ====
section
/-! DEFINITION. The type codes of R74, the lane and block counts of R120, the codes of the encoded fields, and the operand conditions of R77, R80, R121, R151, R184 and R202 that the decoder checks. -/
namespace Sys2Proof

/-- The code of a type in TY and TY2 (R74). -/
def Ty.code : Ty → BitVec 4
  | .none => 0 | .i8 => 1 | .i16 => 2 | .i32 => 3 | .i64 => 4 | .n8 => 5 | .n16 => 6 | .n32 => 7
  | .n64 => 8 | .f16 => 9 | .bf16 => 10 | .f32 => 11 | .vb4 => 12 | .vb8 => 13 | .vb16 => 14

/-- The type of a code (R74). The reserved code 15 gives `none`, which the decoder then rejects. -/
def Ty.ofCode (c : BitVec 4) : Ty :=
  match c.toNat with
  | 1 => .i8 | 2 => .i16 | 3 => .i32 | 4 => .i64 | 5 => .n8 | 6 => .n16 | 7 => .n32
  | 8 => .n64 | 9 => .f16 | 10 => .bf16 | 11 => .f32 | 12 => .vb4 | 13 => .vb8 | 14 => .vb16
  | _ => .none

/-- f16, bf16 and f32 ('ieee' in R80). -/
def Ty.isFloat : Ty → Bool
  | .f16 | .bf16 | .f32 => true
  | _ => false

/-- i8 to n64 ('int' in R80). -/
def Ty.isInt : Ty → Bool
  | .i8 | .i16 | .i32 | .i64 | .n8 | .n16 | .n32 | .n64 => true
  | _ => false

/-- The signed integer types (R46). -/
def Ty.isSigned : Ty → Bool
  | .i8 | .i16 | .i32 | .i64 => true
  | _ => false

/-- The types with lanes: int and ieee. -/
def Ty.isLane (ty : Ty) : Bool := ty.isInt || ty.isFloat

/-- vb4, vb8 and vb16 ('vb' in R80). -/
def Ty.isBlock : Ty → Bool
  | .vb4 | .vb8 | .vb16 => true
  | _ => false

/-- f16 and bf16. -/
def Ty.isHalf : Ty → Bool
  | .f16 | .bf16 => true
  | _ => false

/-- The types of the local and remote atomics (R80). -/
def Ty.isAtomic : Ty → Bool
  | .i32 | .i64 | .n32 | .n64 => true
  | _ => false

/-- The width of a lane in bits; for a block type, of a mantissa (R53). -/
def Ty.width : Ty → Nat
  | .i8 | .n8 | .vb8 => 8
  | .i16 | .n16 | .f16 | .bf16 | .vb16 => 16
  | .i32 | .n32 | .f32 => 32
  | .i64 | .n64 => 64
  | .vb4 => 4
  | .none => 64

/-- n(TY) of R120. -/
def Ty.lanes (ty : Ty) : Nat := 512 / ty.width

/-- nb(TY) of R120. -/
def Ty.blocks : Ty → Nat
  | .vb4 => 4 | .vb8 => 2 | .vb16 => 1
  | _ => 0

/-- The rounding code RM (R50). -/
def Rz.code : Rz → BitVec 2
  | .rne => 0 | .rz => 1

/-- The rounding of a code; the decoder rejects the codes that this does not give back. -/
def Rz.ofCode (c : BitVec 2) : Rz := if c = 1#2 then .rz else .rne

/-- The rounding code RM where SR is allowed (R50). -/
def Rnd.code : Rnd → BitVec 2
  | .rne => 0 | .rz => 1 | .sr _ => 2

/-- The seed register that SR names in C; otherwise C is zero (R82). -/
def Rnd.seed : Rnd → Reg
  | .sr c => c
  | _ => 0

/-- The rounding of RM and C (R82). -/
def Rnd.ofCode (c : BitVec 2) (seed : Reg) : Rnd :=
  if c = 2#2 then .sr seed else if c = 1#2 then .rz else .rne

/-- True of stochastic rounding. -/
def Rnd.isSr : Rnd → Bool
  | .sr _ => true
  | _ => false

/-- CMB of R76. -/
def Cmb.code : Cmb → BitVec 2
  | .plain => 0 | .and => 1 | .or => 2 | .andor => 3

/-- The combining mode of a code (R76). -/
def Cmb.ofCode (c : BitVec 2) : Cmb :=
  match c.toNat with
  | 0 => .plain | 1 => .and | 2 => .or | _ => .andor

/-- The A field of a vector source: zero for a feed queue (R86). -/
def VSrc.field : VSrc → Reg
  | .reg a => a
  | .fq _ => 0

/-- FQE (R72). -/
def VSrc.fqe : VSrc → BitVec 1
  | .reg _ => 0
  | .fq _ => 1

/-- FQI (R72). -/
def VSrc.fqi : VSrc → BitVec 1
  | .reg _ => 0
  | .fq i => i

/-- The vector source of the fields FQE, FQI and A (R72). -/
def VSrc.ofFields (e i : BitVec 1) (a : Reg) : VSrc := if e = 1#1 then .fq i else .reg a

/-- The B field of a vector shift (R127). -/
def ShSrc.field : ShSrc → Reg
  | .reg b => b
  | .imm _ => 0

/-- IMM10 of a vector shift (R127). -/
def ShSrc.imm10 : ShSrc → BitVec 10
  | .reg _ => 0
  | .imm k => 1#1 ++ (0#3 ++ k)

/-- The shift source of IMM10 and B (R127). -/
def ShSrc.ofFields (im : BitVec 10) (b : Reg) : ShSrc :=
  if im.extractLsb' 9 1 = 1#1 then .imm (im.extractLsb' 0 6) else .reg b

/-- The D field of SCPY: zero when DN = 1 (R184). -/
def scpyD : Option Reg → Reg
  | some d => d
  | none => 0

/-- DN of SCPY (R184). -/
def scpyDN : Option Reg → BitVec 1
  | some _ => 0
  | none => 1

/-- The destination pattern register of SCPY, none when DN = 1 (R184). -/
def scpyOfFields (dn : BitVec 1) (d : Reg) : Option Reg := if dn = 1#1 then none else some d

/-- A Bool as one bit. -/
def bit1 (b : Bool) : BitVec 1 := if b then 1#1 else 0#1

/-- PD1 and PD2 satisfy R76: equal only when both are zero. -/
def GDst.wf (gd : GDst) : Bool := gd.pd1 != gd.pd2 || gd.pd1 == 0#3

/-- An immediate shift count is less than the lane width (R121). -/
def ShSrc.wf (sh : ShSrc) (ty : Ty) : Bool :=
  match sh with
  | .reg _ => true
  | .imm k => decide (k.toNat < ty.width)

/-- The types of CVT (R80, R107) and where SR is allowed (R50). -/
def cvtWf (ty ty2 : Ty) (r : Rnd) : Bool :=
  (ty.isAtomic || ty.isFloat) && (ty2.isAtomic || ty2.isFloat) && !(r.isSr && ty == .f32)

/-- The part count r = max / min of two counts (R136). -/
def partCount (ns nd : Nat) : Nat := max ns nd / min ns nd

/-- VCVT: types, rounding and part (R80, R121, R136). -/
def vcvtWf (ty ty2 : Ty) (r : Rnd) (part : BitVec 3) : Bool :=
  ty.isLane && ty2.isLane && !(r.isSr && ty == .f32) && !(ty == ty2 && ty.isInt)
    && decide (part.toNat < partCount ty2.lanes ty.lanes)

/-- The part count of BTOF (R140). -/
def btofParts (ty ty2 : Ty) : Nat :=
  if 32 * ty2.blocks ≥ ty.lanes then 32 * ty2.blocks / ty.lanes else 1

/-- BTOF: types, rounding and part (R121, R140). -/
def btofWf (ty ty2 : Ty) (r : Rnd) (part : BitVec 3) : Bool :=
  ty.isFloat && ty2.isBlock && !(r.isSr && ty == .f32) && decide (part.toNat < btofParts ty ty2)

/-- BFROMF: types, block slot, and B only for f32 (R121, R140). -/
def bfromfWf (ty ty2 : Ty) (b : Reg) (k : BitVec 2) : Bool :=
  ty.isBlock && ty2.isFloat && decide (k.toNat < ty.blocks) && (ty2 == .f32 || b == 0#5)

/-- BREFMT: two different block types and the part (R121, R139). -/
def brefmtWf (ty ty2 : Ty) (part : BitVec 3) : Bool :=
  ty.isBlock && ty2.isBlock && ty != ty2 && decide (part.toNat < partCount ty2.blocks ty.blocks)

/-- MMA: types, the B operand and the half (R151). -/
def mmaWf (ty : Ty) (b : Reg) (h : BitVec 1) : Bool :=
  (ty.isBlock || ty.isHalf) && (h == 0#1 || ty == .vb16) && (ty.isBlock || b == 0#5)

/-- The parts of a row that ACCRD and ACCWR number (R151). -/
def accParts : Ty → Nat
  | .i64 => 4 | .f32 => 2 | .f16 | .bf16 => 1
  | _ => 0

/-- ACCRD: type, part and rounding (R151). -/
def accrdWf (ty : Ty) (q : BitVec 2) (r : Rnd) : Bool :=
  decide (q.toNat < accParts ty) && !(r.isSr && ty == .f32) && (ty != .i64 || r == .rne)

/-- ACCWR: type and part (R151). -/
def accwrWf (ty : Ty) (q : BitVec 2) : Bool :=
  (ty == .i64 || ty == .f32) && decide (q.toNat < accParts ty)

/-- The types of a B latch (R150, R157). -/
def latchTyWf (ty : Ty) : Bool := ty.isBlock || ty.isHalf

/-- SCPY: no space code 3, and one endpoint local (R184). -/
def scpyWf (sp dp : BitVec 2) : Bool := sp != 3#2 && dp != 3#2 && (sp == 0#2 || dp == 0#2)

/-- The control-register indices that R25 assigns. -/
def crAssigned (idx : BitVec 12) : Bool :=
  let i := idx.toNat
  decide (i < 5) || i == 0x10 || i == 0x20 || (decide (0x28 ≤ i) && decide (i < 0x30))
    || i == 0x30 || i == 0x31 || i == 0x40 || (decide (0x50 ≤ i) && decide (i < 0x54))
    || i == 0x60 || i == 0x61 || i == 0x70 || i == 0x71

end Sys2Proof
end

