-- ==== Sys2Proof/Syntax.lean ====
section
/-! DEFINITION. The operations of the VXW2: one constructor for each row of the opcode table. The rows with an encoding carry their guard and operand fields (R71 to R83); the rows without one are moves of the module's other units and inputs from outside, and name the unit, record or message they act on. -/
namespace Sys2Proof

/-- One constructor per row of spec/opcode_table.json. -/
inductive Instr where
  /-- ADD (R98): Adds two scalar registers with wrapping and writes the 64-bit result. -/
  | add (p : Pred) (d : Reg) (a : Reg) (b : Reg)
  /-- SUB (R98): Subtracts scalar register B from scalar register A with wrapping. -/
  | sub (p : Pred) (d : Reg) (a : Reg) (b : Reg)
  /-- AND (R98): Writes the bitwise AND of two scalar registers. -/
  | and (p : Pred) (d : Reg) (a : Reg) (b : Reg)
  /-- OR (R98): Writes the bitwise OR of two scalar registers. -/
  | or (p : Pred) (d : Reg) (a : Reg) (b : Reg)
  /-- XOR (R98): Writes the bitwise XOR of two scalar registers. -/
  | xor (p : Pred) (d : Reg) (a : Reg) (b : Reg)
  /-- ANDN (R98): Writes A AND NOT B. -/
  | andn (p : Pred) (d : Reg) (a : Reg) (b : Reg)
  /-- SHL (R98): Shifts A left by B[5:0] and keeps the low 64 bits. -/
  | shl (p : Pred) (d : Reg) (a : Reg) (b : Reg)
  /-- SHR (R98): Shifts A right by B[5:0] with zero fill. -/
  | shr (p : Pred) (d : Reg) (a : Reg) (b : Reg)
  /-- SRA (R98): Shifts A right by B[5:0] with sign fill. -/
  | sra (p : Pred) (d : Reg) (a : Reg) (b : Reg)
  /-- ROR (R98): Rotates A right by B[5:0]. -/
  | ror (p : Pred) (d : Reg) (a : Reg) (b : Reg)
  /-- MIN (R98): Writes the signed minimum of two scalars. -/
  | min (p : Pred) (d : Reg) (a : Reg) (b : Reg)
  /-- MAX (R98): Writes the signed maximum of two scalars. -/
  | max (p : Pred) (d : Reg) (a : Reg) (b : Reg)
  /-- MINN (R98): Writes the unsigned minimum of two scalars. -/
  | minn (p : Pred) (d : Reg) (a : Reg) (b : Reg)
  /-- MAXN (R98): Writes the unsigned maximum of two scalars. -/
  | maxn (p : Pred) (d : Reg) (a : Reg) (b : Reg)
  /-- ADDI (R99): Adds the sign-extended 32-bit immediate to a scalar. -/
  | addi (p : Pred) (d : Reg) (a : Reg) (im : BitVec 32)
  /-- ANDI (R99): ANDs a scalar with the sign-extended immediate. -/
  | andi (p : Pred) (d : Reg) (a : Reg) (im : BitVec 32)
  /-- ORI (R99): ORs a scalar with the sign-extended immediate. -/
  | ori (p : Pred) (d : Reg) (a : Reg) (im : BitVec 32)
  /-- XORI (R99): XORs a scalar with the sign-extended immediate. -/
  | xori (p : Pred) (d : Reg) (a : Reg) (im : BitVec 32)
  /-- SHLI (R99): Shifts a scalar left by IMM32[5:0]. -/
  | shli (p : Pred) (d : Reg) (a : Reg) (k : BitVec 6)
  /-- SHRI (R99): Shifts a scalar right by IMM32[5:0] with zero fill. -/
  | shri (p : Pred) (d : Reg) (a : Reg) (k : BitVec 6)
  /-- SRAI (R99): Shifts a scalar right by IMM32[5:0] with sign fill. -/
  | srai (p : Pred) (d : Reg) (a : Reg) (k : BitVec 6)
  /-- MUL (R100): Writes the low 64 bits of the product of two scalars. -/
  | mul (p : Pred) (d : Reg) (a : Reg) (b : Reg)
  /-- MULH (R100): Writes the high 64 bits of the signed 128-bit product. -/
  | mulh (p : Pred) (d : Reg) (a : Reg) (b : Reg)
  /-- MULHN (R100): Writes the high 64 bits of the unsigned 128-bit product. -/
  | mulhn (p : Pred) (d : Reg) (a : Reg) (b : Reg)
  /-- DIV (R100): Writes the signed quotient truncated toward zero, with fixed edge cases. -/
  | div (p : Pred) (d : Reg) (a : Reg) (b : Reg)
  /-- DIVN (R100): Writes the unsigned quotient. -/
  | divn (p : Pred) (d : Reg) (a : Reg) (b : Reg)
  /-- REM (R100): Writes the signed remainder with the sign of the dividend. -/
  | rem (p : Pred) (d : Reg) (a : Reg) (b : Reg)
  /-- REMN (R100): Writes the unsigned remainder. -/
  | remn (p : Pred) (d : Reg) (a : Reg) (b : Reg)
  /-- CMP_EQ (R103): Compares two scalars for equality and writes the result and its complement to two guards. -/
  | cmpEq (p : Pred) (gd : GDst) (a : Reg) (b : Reg)
  /-- CMP_NE (R103): Compares two scalars for inequality into two guards. -/
  | cmpNe (p : Pred) (gd : GDst) (a : Reg) (b : Reg)
  /-- CMP_LT (R103): Signed less-than compare of two scalars into two guards. -/
  | cmpLt (p : Pred) (gd : GDst) (a : Reg) (b : Reg)
  /-- CMP_GE (R103): Signed greater-or-equal compare into two guards. -/
  | cmpGe (p : Pred) (gd : GDst) (a : Reg) (b : Reg)
  /-- CMP_LO (R103): Unsigned less-than compare into two guards. -/
  | cmpLo (p : Pred) (gd : GDst) (a : Reg) (b : Reg)
  /-- CMP_HS (R103): Unsigned greater-or-equal compare into two guards. -/
  | cmpHs (p : Pred) (gd : GDst) (a : Reg) (b : Reg)
  /-- CMPI_EQ (R103): Compares a scalar with the sign-extended immediate for equality into two guards. -/
  | cmpiEq (p : Pred) (gd : GDst) (a : Reg) (im : BitVec 32)
  /-- CMPI_NE (R103): Compares a scalar with the immediate for inequality. -/
  | cmpiNe (p : Pred) (gd : GDst) (a : Reg) (im : BitVec 32)
  /-- CMPI_LT (R103): Signed less-than compare against the immediate. -/
  | cmpiLt (p : Pred) (gd : GDst) (a : Reg) (im : BitVec 32)
  /-- CMPI_GE (R103): Signed greater-or-equal compare against the immediate. -/
  | cmpiGe (p : Pred) (gd : GDst) (a : Reg) (im : BitVec 32)
  /-- CMPI_LO (R103): Unsigned less-than compare against the sign-extended immediate. -/
  | cmpiLo (p : Pred) (gd : GDst) (a : Reg) (im : BitVec 32)
  /-- CMPI_HS (R103): Unsigned greater-or-equal compare against the sign-extended immediate. -/
  | cmpiHs (p : Pred) (gd : GDst) (a : Reg) (im : BitVec 32)
  /-- FCMP_EQ (R104): Floating-point equality compare into two guards. -/
  | fcmpEq (p : Pred) (gd : GDst) (a : Reg) (b : Reg) (ty : Ty)
  /-- FCMP_LT (R104): Floating-point less-than compare into two guards, IOE on any NaN. -/
  | fcmpLt (p : Pred) (gd : GDst) (a : Reg) (b : Reg) (ty : Ty)
  /-- FCMP_LE (R104): Floating-point less-or-equal compare into two guards. -/
  | fcmpLe (p : Pred) (gd : GDst) (a : Reg) (b : Reg) (ty : Ty)
  /-- FCMP_UN (R104): Tests whether either floating-point operand is NaN. -/
  | fcmpUn (p : Pred) (gd : GDst) (a : Reg) (b : Reg) (ty : Ty)
  /-- GAND (R105): ANDs two guards and writes the result to two guard destinations. -/
  | gand (p : Pred) (gd : GDst) (a : BitVec 3) (b : BitVec 3)
  /-- GOR (R105): ORs two guards into two guard destinations. -/
  | gor (p : Pred) (gd : GDst) (a : BitVec 3) (b : BitVec 3)
  /-- GXOR (R105): XORs two guards into two guard destinations. -/
  | gxor (p : Pred) (gd : GDst) (a : BitVec 3) (b : BitVec 3)
  /-- GANDN (R105): Writes guard A AND NOT guard B into two guard destinations. -/
  | gandn (p : Pred) (gd : GDst) (a : BitVec 3) (b : BitVec 3)
  /-- GSET (R105): Writes an immediate bit and its complement into two guards. -/
  | gset (p : Pred) (gd : GDst) (v : BitVec 1)
  /-- GRD (R105): Reads all eight guards into a scalar register. -/
  | grd (p : Pred) (d : Reg)
  /-- FADD (R106): Scalar floating-point add rounded once by RM. -/
  | fadd (p : Pred) (d : Reg) (a : Reg) (b : Reg) (ty : Ty) (rm : Rz)
  /-- FSUB (R106): Scalar floating-point subtract. -/
  | fsub (p : Pred) (d : Reg) (a : Reg) (b : Reg) (ty : Ty) (rm : Rz)
  /-- FMUL (R106): Scalar floating-point multiply. -/
  | fmul (p : Pred) (d : Reg) (a : Reg) (b : Reg) (ty : Ty) (rm : Rz)
  /-- FDIV (R106): Scalar floating-point divide on the shared divider. -/
  | fdiv (p : Pred) (d : Reg) (a : Reg) (b : Reg) (ty : Ty) (rm : Rz)
  /-- FSQRT (R106): Scalar floating-point square root. -/
  | fsqrt (p : Pred) (d : Reg) (a : Reg) (ty : Ty) (rm : Rz)
  /-- FMA (R106): Scalar fused multiply-add with one rounding. -/
  | fma (p : Pred) (d : Reg) (a : Reg) (b : Reg) (c : Reg) (ty : Ty) (rm : Rz)
  /-- FMIN (R106): Scalar IEEE minimumNumber. -/
  | fmin (p : Pred) (d : Reg) (a : Reg) (b : Reg) (ty : Ty) (rm : Rz)
  /-- FMAX (R106): Scalar IEEE maximumNumber. -/
  | fmax (p : Pred) (d : Reg) (a : Reg) (b : Reg) (ty : Ty) (rm : Rz)
  /-- CVT (R107): Converts a scalar from type TY2 to type TY. -/
  | cvt (p : Pred) (d : Reg) (a : Reg) (ty : Ty) (ty2 : Ty) (rnd : Rnd)
  /-- CLZ (R101): Counts leading zero bits of a scalar. -/
  | clz (p : Pred) (d : Reg) (a : Reg)
  /-- CTZ (R101): Counts trailing zero bits of a scalar. -/
  | ctz (p : Pred) (d : Reg) (a : Reg)
  /-- POPC (R101): Counts the one bits of a scalar. -/
  | popc (p : Pred) (d : Reg) (a : Reg)
  /-- BEXT (R101): Extracts a bit field of a scalar, zero-extended. -/
  | bext (p : Pred) (d : Reg) (a : Reg) (b : Reg)
  /-- BINS (R101): Inserts the low bits of A into a field of D. -/
  | bins (p : Pred) (d : Reg) (a : Reg) (b : Reg)
  /-- MOV (R102): Copies a scalar with its poison bit. -/
  | mov (p : Pred) (d : Reg) (a : Reg)
  /-- SEL (R102): Selects one of two scalars by a guard. -/
  | sel (p : Pred) (d : Reg) (a : Reg) (b : Reg) (k : BitVec 3)
  /-- MOVI (R102): Writes the sign-extended 32-bit immediate. -/
  | movi (p : Pred) (d : Reg) (im : BitVec 32)
  /-- MOVIH (R102): Writes the immediate into the upper 32 bits of D. -/
  | movih (p : Pred) (d : Reg) (im : BitVec 32)
  /-- ADR (R102): Writes PC plus a signed byte offset. -/
  | adr (p : Pred) (d : Reg) (im : BitVec 32)
  /-- LD_I8 (R108): Loads a sign-extended byte from local store. -/
  | ldI8 (p : Pred) (d : Reg) (a : Reg) (im : BitVec 32)
  /-- LD_I16 (R108): Loads a sign-extended 16-bit value. -/
  | ldI16 (p : Pred) (d : Reg) (a : Reg) (im : BitVec 32)
  /-- LD_I32 (R108): Loads a sign-extended 32-bit value. -/
  | ldI32 (p : Pred) (d : Reg) (a : Reg) (im : BitVec 32)
  /-- LD_I64 (R108): Loads a 64-bit value. -/
  | ldI64 (p : Pred) (d : Reg) (a : Reg) (im : BitVec 32)
  /-- LD_N8 (R108): Loads a zero-extended byte. -/
  | ldN8 (p : Pred) (d : Reg) (a : Reg) (im : BitVec 32)
  /-- LD_N16 (R108): Loads a zero-extended 16-bit value. -/
  | ldN16 (p : Pred) (d : Reg) (a : Reg) (im : BitVec 32)
  /-- LD_N32 (R108): Loads a zero-extended 32-bit value. -/
  | ldN32 (p : Pred) (d : Reg) (a : Reg) (im : BitVec 32)
  /-- ST_I8 (R108): Stores the low byte of a scalar, journalling the old bytes. -/
  | stI8 (p : Pred) (d : Reg) (a : Reg) (im : BitVec 32)
  /-- ST_I16 (R108): Stores the low 16 bits of a scalar. -/
  | stI16 (p : Pred) (d : Reg) (a : Reg) (im : BitVec 32)
  /-- ST_I32 (R108): Stores the low 32 bits of a scalar. -/
  | stI32 (p : Pred) (d : Reg) (a : Reg) (im : BitVec 32)
  /-- ST_I64 (R108): Stores a 64-bit scalar. -/
  | stI64 (p : Pred) (d : Reg) (a : Reg) (im : BitVec 32)
  /-- AM_ADD (R113): Indivisibly adds to a local-store word and returns the old value. -/
  | amAdd (p : Pred) (d : Reg) (a : Reg) (b : Reg) (ty : Ty)
  /-- AM_AND (R113): Indivisibly ANDs a local-store word. -/
  | amAnd (p : Pred) (d : Reg) (a : Reg) (b : Reg) (ty : Ty)
  /-- AM_OR (R113): Indivisibly ORs a local-store word. -/
  | amOr (p : Pred) (d : Reg) (a : Reg) (b : Reg) (ty : Ty)
  /-- AM_XOR (R113): Indivisibly XORs a local-store word. -/
  | amXor (p : Pred) (d : Reg) (a : Reg) (b : Reg) (ty : Ty)
  /-- AM_MIN (R113): Indivisibly takes the minimum into a local-store word. -/
  | amMin (p : Pred) (d : Reg) (a : Reg) (b : Reg) (ty : Ty)
  /-- AM_MAX (R113): Indivisibly takes the maximum into a local-store word. -/
  | amMax (p : Pred) (d : Reg) (a : Reg) (b : Reg) (ty : Ty)
  /-- AM_SWP (R113): Indivisibly swaps a local-store word. -/
  | amSwp (p : Pred) (d : Reg) (a : Reg) (b : Reg) (ty : Ty)
  /-- AM_CAS (R113): Indivisibly compares and swaps a local-store word. -/
  | amCas (p : Pred) (d : Reg) (a : Reg) (b : Reg) (c : Reg) (ty : Ty)
  /-- BR (R114): Branches by a signed word offset. -/
  | br (p : Pred) (im : BitVec 32)
  /-- CALL (R114): Branches by a word offset and writes the return address to s31. -/
  | call (p : Pred) (im : BitVec 32)
  /-- JMP (R114): Jumps to the address in a scalar register. -/
  | jmp (p : Pred) (a : Reg)
  /-- CALLR (R114): Jumps to a register target and writes the return address to s31. -/
  | callr (p : Pred) (a : Reg)
  /-- RET (R114): Returns to a register target with return-stack prediction. -/
  | ret (p : Pred) (a : Reg)
  /-- LOOP (R116): Decrements a counter register and branches while it is nonzero. -/
  | loop (p : Pred) (a : Reg) (im : BitVec 32)
  /-- CRR (R117): Reads a control register into a scalar. -/
  | crr (p : Pred) (d : Reg) (idx : BitVec 12)
  /-- CRW (R117): Writes a control register field by field, for registers with no row of their own. -/
  | crw (p : Pred) (idx : BitVec 12) (a : Reg)
  /-- CRS (R117): Reads a control register and sets bits of its RW fields. -/
  | crs (p : Pred) (d : Reg) (idx : BitVec 12) (a : Reg)
  /-- CRC (R117): Reads a control register and clears bits of its RW fields. -/
  | crc (p : Pred) (d : Reg) (idx : BitVec 12) (a : Reg)
  /-- PMAPC_INV (R35): Writing 1 to PMAPC.INV invalidates all 16 page-map cache entries. -/
  | pmapcInv (p : Pred) (a : Reg)
  /-- ISLCFG_UNBIND (R34): A privileged write of 0 to ISLCFG.BND while bound performs ISREL. -/
  | islcfgUnbind (p : Pred) (a : Reg)
  /-- VADD_I (R127): Adds integer lanes with wrapping. -/
  | vaddI (p : Pred) (d : Reg) (a : VSrc) (b : Reg) (ty : Ty) (l : Lane)
  /-- VSUB_I (R127): Subtracts integer lanes with wrapping. -/
  | vsubI (p : Pred) (d : Reg) (a : VSrc) (b : Reg) (ty : Ty) (l : Lane)
  /-- VMUL_I (R127): Multiplies integer lanes keeping the low bits. -/
  | vmulI (p : Pred) (d : Reg) (a : VSrc) (b : Reg) (ty : Ty) (l : Lane)
  /-- VMULH (R127): Multiplies integer lanes keeping the high bits. -/
  | vmulh (p : Pred) (d : Reg) (a : VSrc) (b : Reg) (ty : Ty) (l : Lane)
  /-- VMIN_I (R127): Lane-wise integer minimum. -/
  | vminI (p : Pred) (d : Reg) (a : VSrc) (b : Reg) (ty : Ty) (l : Lane)
  /-- VMAX_I (R127): Lane-wise integer maximum. -/
  | vmaxI (p : Pred) (d : Reg) (a : VSrc) (b : Reg) (ty : Ty) (l : Lane)
  /-- VAND (R127): Lane-wise bitwise AND. -/
  | vand (p : Pred) (d : Reg) (a : VSrc) (b : Reg) (ty : Ty) (l : Lane)
  /-- VOR (R127): Lane-wise bitwise OR. -/
  | vor (p : Pred) (d : Reg) (a : VSrc) (b : Reg) (ty : Ty) (l : Lane)
  /-- VXOR (R127): Lane-wise bitwise XOR. -/
  | vxor (p : Pred) (d : Reg) (a : VSrc) (b : Reg) (ty : Ty) (l : Lane)
  /-- VSHL (R127): Lane-wise left shift by register or immediate count. -/
  | vshl (p : Pred) (d : Reg) (a : VSrc) (sh : ShSrc) (ty : Ty) (l : Lane)
  /-- VSHR (R127): Lane-wise logical right shift. -/
  | vshr (p : Pred) (d : Reg) (a : VSrc) (sh : ShSrc) (ty : Ty) (l : Lane)
  /-- VSRA (R127): Lane-wise arithmetic right shift. -/
  | vsra (p : Pred) (d : Reg) (a : VSrc) (sh : ShSrc) (ty : Ty) (l : Lane)
  /-- VABS_I (R127): Lane-wise integer absolute value with wrapping. -/
  | vabsI (p : Pred) (d : Reg) (a : VSrc) (ty : Ty) (l : Lane)
  /-- VNEG_I (R127): Lane-wise integer negation with wrapping. -/
  | vnegI (p : Pred) (d : Reg) (a : VSrc) (ty : Ty) (l : Lane)
  /-- VADDS (R127): Lane-wise saturating add. -/
  | vadds (p : Pred) (d : Reg) (a : VSrc) (b : Reg) (ty : Ty) (l : Lane)
  /-- VSUBS (R127): Lane-wise saturating subtract. -/
  | vsubs (p : Pred) (d : Reg) (a : VSrc) (b : Reg) (ty : Ty) (l : Lane)
  /-- VADD_F (R128): Lane-wise IEEE add rounded once. -/
  | vaddF (p : Pred) (d : Reg) (a : VSrc) (b : Reg) (ty : Ty) (rm : Rz) (l : Lane)
  /-- VSUB_F (R128): Lane-wise IEEE subtract. -/
  | vsubF (p : Pred) (d : Reg) (a : VSrc) (b : Reg) (ty : Ty) (rm : Rz) (l : Lane)
  /-- VMUL_F (R128): Lane-wise IEEE multiply. -/
  | vmulF (p : Pred) (d : Reg) (a : VSrc) (b : Reg) (ty : Ty) (rm : Rz) (l : Lane)
  /-- VMIN_F (R128): Lane-wise IEEE minimumNumber. -/
  | vminF (p : Pred) (d : Reg) (a : VSrc) (b : Reg) (ty : Ty) (l : Lane)
  /-- VMAX_F (R128): Lane-wise IEEE maximumNumber. -/
  | vmaxF (p : Pred) (d : Reg) (a : VSrc) (b : Reg) (ty : Ty) (l : Lane)
  /-- VABS_F (R128): Clears the sign of each IEEE lane. -/
  | vabsF (p : Pred) (d : Reg) (a : VSrc) (ty : Ty) (l : Lane)
  /-- VNEG_F (R128): Inverts the sign of each IEEE lane. -/
  | vnegF (p : Pred) (d : Reg) (a : VSrc) (ty : Ty) (l : Lane)
  /-- VFMA (R129): Lane-wise fused a × b + c. -/
  | vfma (p : Pred) (d : Reg) (a : VSrc) (b : Reg) (c : Reg) (ty : Ty) (rm : Rz) (l : Lane)
  /-- VFMS (R129): Lane-wise fused a × b − c. -/
  | vfms (p : Pred) (d : Reg) (a : VSrc) (b : Reg) (c : Reg) (ty : Ty) (rm : Rz) (l : Lane)
  /-- VFNMA (R129): Lane-wise fused −(a × b) + c. -/
  | vfnma (p : Pred) (d : Reg) (a : VSrc) (b : Reg) (c : Reg) (ty : Ty) (rm : Rz) (l : Lane)
  /-- VDOT (R130): Exact pairwise FP16/BF16 dot product into FP32 lanes with one rounding. -/
  | vdot (p : Pred) (d : Reg) (a : VSrc) (b : Reg) (c : Reg) (ty : Ty) (l : Lane)
  /-- VCMP_EQ (R131): Integer lane equality compare into a mask. -/
  | vcmpEq (p : Pred) (d : BitVec 3) (a : VSrc) (b : Reg) (ty : Ty) (l : Lane)
  /-- VCMP_NE (R131): Integer lane inequality compare into a mask. -/
  | vcmpNe (p : Pred) (d : BitVec 3) (a : VSrc) (b : Reg) (ty : Ty) (l : Lane)
  /-- VCMP_LT (R131): Signed lane less-than compare into a mask. -/
  | vcmpLt (p : Pred) (d : BitVec 3) (a : VSrc) (b : Reg) (ty : Ty) (l : Lane)
  /-- VCMP_GE (R131): Signed lane greater-or-equal compare into a mask. -/
  | vcmpGe (p : Pred) (d : BitVec 3) (a : VSrc) (b : Reg) (ty : Ty) (l : Lane)
  /-- VCMP_LO (R131): Unsigned lane less-than compare into a mask. -/
  | vcmpLo (p : Pred) (d : BitVec 3) (a : VSrc) (b : Reg) (ty : Ty) (l : Lane)
  /-- VCMP_HS (R131): Unsigned lane greater-or-equal compare into a mask. -/
  | vcmpHs (p : Pred) (d : BitVec 3) (a : VSrc) (b : Reg) (ty : Ty) (l : Lane)
  /-- VCMP_EQ_F (R131): IEEE lane equality compare into a mask. -/
  | vcmpEqF (p : Pred) (d : BitVec 3) (a : VSrc) (b : Reg) (ty : Ty) (l : Lane)
  /-- VCMP_LT_F (R131): IEEE lane less-than compare into a mask. -/
  | vcmpLtF (p : Pred) (d : BitVec 3) (a : VSrc) (b : Reg) (ty : Ty) (l : Lane)
  /-- VCMP_LE_F (R131): IEEE lane less-or-equal compare into a mask. -/
  | vcmpLeF (p : Pred) (d : BitVec 3) (a : VSrc) (b : Reg) (ty : Ty) (l : Lane)
  /-- VCMP_UN_F (R131): IEEE lane unordered test into a mask. -/
  | vcmpUnF (p : Pred) (d : BitVec 3) (a : VSrc) (b : Reg) (ty : Ty) (l : Lane)
  /-- MAND (R132): ANDs two mask registers. -/
  | mand (p : Pred) (d : BitVec 3) (a : BitVec 3) (b : BitVec 3)
  /-- MOR (R132): ORs two mask registers. -/
  | mor (p : Pred) (d : BitVec 3) (a : BitVec 3) (b : BitVec 3)
  /-- MXOR (R132): XORs two mask registers. -/
  | mxor (p : Pred) (d : BitVec 3) (a : BitVec 3) (b : BitVec 3)
  /-- MANDN (R132): Writes mask A AND NOT mask B. -/
  | mandn (p : Pred) (d : BitVec 3) (a : BitVec 3) (b : BitVec 3)
  /-- MPOPC (R132): Counts the set bits of a mask into a scalar. -/
  | mpopc (p : Pred) (d : Reg) (a : BitVec 3)
  /-- MFIRST (R132): Writes the index of the lowest set mask bit. -/
  | mfirst (p : Pred) (d : Reg) (a : BitVec 3)
  /-- MTOS (R132): Copies a mask into a scalar. -/
  | mtos (p : Pred) (d : Reg) (a : BitVec 3)
  /-- MFROMS (R132): Copies a scalar into a mask. -/
  | mfroms (p : Pred) (d : BitVec 3) (a : Reg)
  /-- VPERM (R133): Permutes lanes by an index vector. -/
  | vperm (p : Pred) (d : Reg) (a : VSrc) (b : Reg) (ty : Ty) (l : Lane)
  /-- VBCAST (R133): Broadcasts a scalar into every lane. -/
  | vbcast (p : Pred) (d : Reg) (a : Reg) (ty : Ty) (l : Lane)
  /-- VINS (R133): Inserts a scalar into one lane. -/
  | vins (p : Pred) (d : Reg) (a : Reg) (k : BitVec 10) (ty : Ty) (l : Lane)
  /-- VEXT (R133): Extracts one lane into a scalar. -/
  | vext (p : Pred) (d : Reg) (a : VSrc) (k : BitVec 10) (ty : Ty)
  /-- VSLIDE (R133): Slides lanes down across two registers. -/
  | vslide (p : Pred) (d : Reg) (a : VSrc) (b : Reg) (k : BitVec 10) (ty : Ty) (l : Lane)
  /-- VSLIDED (R133): Slides lanes up across two registers. -/
  | vslided (p : Pred) (d : Reg) (a : VSrc) (b : Reg) (k : BitVec 10) (ty : Ty) (l : Lane)
  /-- VCOMP (R134): Compresses selected lanes to the low lanes. -/
  | vcomp (p : Pred) (d : Reg) (a : VSrc) (ty : Ty) (l : Lane)
  /-- VEXPD (R134): Expands low lanes into selected lanes. -/
  | vexpd (p : Pred) (d : Reg) (a : VSrc) (ty : Ty) (l : Lane)
  /-- VZIP (R133): Interleaves half of two registers' lanes. -/
  | vzip (p : Pred) (d : Reg) (a : VSrc) (b : Reg) (h : BitVec 1) (ty : Ty) (l : Lane)
  /-- VUNZIP (R133): De-interleaves lanes of two registers. -/
  | vunzip (p : Pred) (d : Reg) (a : VSrc) (b : Reg) (o : BitVec 1) (ty : Ty) (l : Lane)
  /-- VRED_ADD (R135): Sums the active lanes into a scalar. -/
  | vredAdd (p : Pred) (d : Reg) (a : VSrc) (ty : Ty) (rm : Rz) (mk : BitVec 3)
  /-- VRED_MIN (R135): Reduces the active lanes to their minimum. -/
  | vredMin (p : Pred) (d : Reg) (a : VSrc) (ty : Ty) (mk : BitVec 3)
  /-- VRED_MAX (R135): Reduces the active lanes to their maximum. -/
  | vredMax (p : Pred) (d : Reg) (a : VSrc) (ty : Ty) (mk : BitVec 3)
  /-- VRED_AND (R135): Bitwise AND reduction of active lanes. -/
  | vredAnd (p : Pred) (d : Reg) (a : VSrc) (ty : Ty) (mk : BitVec 3)
  /-- VRED_OR (R135): Bitwise OR reduction of active lanes. -/
  | vredOr (p : Pred) (d : Reg) (a : VSrc) (ty : Ty) (mk : BitVec 3)
  /-- VRED_XOR (R135): Bitwise XOR reduction of active lanes. -/
  | vredXor (p : Pred) (d : Reg) (a : VSrc) (ty : Ty) (mk : BitVec 3)
  /-- VCVT (R136): Converts lanes between integer and IEEE types with part placement. -/
  | vcvt (p : Pred) (d : Reg) (a : VSrc) (ty : Ty) (ty2 : Ty) (rnd : Rnd) (part : BitVec 3) (l : Lane)
  /-- BADD (R137): Adds blocks element-wise and rewrites them through ToBlock. -/
  | badd (p : Pred) (d : Reg) (a : VSrc) (b : Reg) (ty : Ty) (rnd : Rnd) (l : Lane)
  /-- BSUB (R137): Subtracts blocks element-wise. -/
  | bsub (p : Pred) (d : Reg) (a : VSrc) (b : Reg) (ty : Ty) (rnd : Rnd) (l : Lane)
  /-- BMUL (R137): Multiplies blocks element-wise. -/
  | bmul (p : Pred) (d : Reg) (a : VSrc) (b : Reg) (ty : Ty) (rnd : Rnd) (l : Lane)
  /-- BMIN (R137): Element-wise block minimum. -/
  | bmin (p : Pred) (d : Reg) (a : VSrc) (b : Reg) (ty : Ty) (rnd : Rnd) (l : Lane)
  /-- BMAX (R137): Element-wise block maximum. -/
  | bmax (p : Pred) (d : Reg) (a : VSrc) (b : Reg) (ty : Ty) (rnd : Rnd) (l : Lane)
  /-- BNEG (R137): Negates block elements. -/
  | bneg (p : Pred) (d : Reg) (a : VSrc) (ty : Ty) (rnd : Rnd) (l : Lane)
  /-- BSCALE (R138): Scales block elements by a power of two. -/
  | bscale (p : Pred) (d : Reg) (a : VSrc) (k : BitVec 10) (ty : Ty) (rnd : Rnd) (l : Lane)
  /-- BNORM (R139): Renormalises each block through ToBlock. -/
  | bnorm (p : Pred) (d : Reg) (a : VSrc) (ty : Ty) (rnd : Rnd) (l : Lane)
  /-- BTOF (R140): Converts block elements into IEEE lanes. -/
  | btof (p : Pred) (d : Reg) (a : VSrc) (ty : Ty) (ty2 : Ty) (rnd : Rnd) (part : BitVec 3) (l : Lane)
  /-- BFROMF (R140): Converts 32 IEEE values into one block slot. -/
  | bfromf (p : Pred) (d : Reg) (a : Reg) (b : Reg) (ty : Ty) (ty2 : Ty) (rnd : Rnd) (k : BitVec 2)
  /-- BREFMT (R139): Converts blocks from one VB format to another. -/
  | brefmt (p : Pred) (d : Reg) (a : VSrc) (ty : Ty) (ty2 : Ty) (rnd : Rnd) (part : BitVec 3) (l : Lane)
  /-- BGETH (R141): Reads a block header into a scalar. -/
  | bgeth (p : Pred) (d : Reg) (a : VSrc) (k : BitVec 2)
  /-- BSETH (R141): Writes a block header from a scalar. -/
  | bseth (p : Pred) (d : Reg) (a : Reg) (k : BitVec 2)
  /-- VRCP (R142): Correctly rounded reciprocal of FP32 lanes. -/
  | vrcp (p : Pred) (d : Reg) (a : VSrc) (l : Lane)
  /-- VRSQ (R142): Correctly rounded reciprocal square root. -/
  | vrsq (p : Pred) (d : Reg) (a : VSrc) (l : Lane)
  /-- VEXP2 (R142): Correctly rounded 2^x. -/
  | vexp2 (p : Pred) (d : Reg) (a : VSrc) (l : Lane)
  /-- VLOG2 (R142): Correctly rounded log2 x. -/
  | vlog2 (p : Pred) (d : Reg) (a : VSrc) (l : Lane)
  /-- VLD (R143): Loads one 64-byte line into a vector register. -/
  | vld (p : Pred) (d : Reg) (a : Reg) (k : BitVec 10) (l : Lane)
  /-- VST (R143): Stores the active bytes of a vector register to one line. -/
  | vst (p : Pred) (d : Reg) (a : Reg) (k : BitVec 10) (mk : BitVec 3)
  /-- VLDX (R144): Gathers 16 32-bit lanes from local store. -/
  | vldx (p : Pred) (d : Reg) (a : Reg) (b : Reg) (l : Lane)
  /-- VSTX (R144): Scatters 16 32-bit lanes to local store. -/
  | vstx (p : Pred) (d : Reg) (a : Reg) (b : Reg) (mk : BitVec 3)
  /-- BLD (R145): Loads blocks in the split layout. -/
  | bld (p : Pred) (d : Reg) (a : Reg) (b : Reg) (ty : Ty) (k : BitVec 10)
  /-- BST (R145): Stores blocks in the split layout. -/
  | bst (p : Pred) (d : Reg) (a : Reg) (b : Reg) (ty : Ty) (k : BitVec 10)
  /-- FQPOP (R147): Consumes the head feed-queue entry into a vector register. -/
  | fqpop (p : Pred) (d : Reg) (q : BitVec 1)
  /-- FQDROP (R147): Consumes and discards the head feed-queue entry. -/
  | fqdrop (p : Pred) (q : BitVec 1)
  /-- FQMARK (R147): Tests the head entry's marks into two guards without consuming. -/
  | fqmark (p : Pred) (gd : GDst) (q : BitVec 1) (msk : BitVec 9)
  /-- MMA (R155): Issues a matrix multiply-accumulate from local store and a B latch into a tile. -/
  | mma (p : Pred) (d : BitVec 2) (a : Reg) (b : Reg) (c : Reg) (ty : Ty) (h : BitVec 1) (bl : BitVec 1)
  /-- MMAN (R155): Issues a negated matrix multiply-accumulate. -/
  | mman (p : Pred) (d : BitVec 2) (a : Reg) (b : Reg) (c : Reg) (ty : Ty) (h : BitVec 1) (bl : BitVec 1)
  /-- MMA_TILE_WRITE (R153): At t_w the MMA writes the tile, T, flags and origin, after the residue check. -/
  | mmaTileWrite (k : Nat)
  /-- ACCZ (R159): Zeroes an accumulator with a given scale and clears its flags and poison. -/
  | accz (p : Pred) (d : BitVec 2) (t : BitVec 10)
  /-- ACCMODE (R159): Zeroes an accumulator and sets its mode. -/
  | accmode (p : Pred) (d : BitVec 2) (m : BitVec 1)
  /-- ACCRD (R160): Reads part of a tile row into vector lanes. -/
  | accrd (p : Pred) (d : Reg) (a : BitVec 2) (row : BitVec 5) (q : BitVec 2) (ty : Ty) (rnd : Rnd)
  /-- ACCWR (R162): Writes part of a tile row from a vector. -/
  | accwr (p : Pred) (d : BitVec 2) (a : Reg) (row : BitVec 5) (q : BitVec 2) (ty : Ty)
  /-- ACCEXP (R161): Exports a tile row to one block slot. -/
  | accexp (p : Pred) (d : Reg) (a : BitVec 2) (row : BitVec 5) (q : BitVec 2) (ty : Ty) (rnd : Rnd)
  /-- ACCSWP (R159): Exchanges the whole contents of two accumulators. -/
  | accswp (p : Pred) (d : BitVec 2) (a : BitVec 2)
  /-- ACCSC (R163): Sets the tile scale from a scalar, rescaling the elements. -/
  | accsc (p : Pred) (d : BitVec 2) (a : Reg)
  /-- ACCSC_FIT (R163): Lowers the tile scale as far as every element fits. -/
  | accscFit (p : Pred) (d : BitVec 2)
  /-- ACCRAW (R160): Privileged raw read of tile elements ignoring poison. -/
  | accraw (p : Pred) (d : Reg) (a : BitVec 2) (row : BitVec 5) (q : BitVec 2)
  /-- ACCRAW_ORG (R160): Privileged read of a tile's origin record and ACCST. -/
  | accrawOrg (p : Pred) (d : Reg) (a : BitVec 2)
  /-- MACQ (R164): Requests the quern's matrix licence and writes the grant to two guards. -/
  | macq (p : Pred) (gd : GDst)
  /-- MREL (R164): Releases the licence or cancels a queued request. -/
  | mrel (p : Pred)
  /-- MXFR (R164): Hands the licence to the twin without moving a tile. -/
  | mxfr (p : Pred)
  /-- MXFR_MIGRATE (R164): Hands the licence to the twin and starts moving a tile over the bonds. -/
  | mxfrMigrate (p : Pred) (a : BitVec 2) (b : BitVec 2)
  /-- MIGRATION_DONE (R164): At c + 13 the tile lands in the twin's accumulator and the twin holds the licence. -/
  | migrationDone (q : Nat)
  /-- TWR (R166): Reads a twin-window register into a vector. -/
  | twr (p : Pred) (d : Reg) (a : BitVec 3)
  /-- TWW (R166): Writes a vector into a twin-window register. -/
  | tww (p : Pred) (d : BitVec 3) (a : Reg)
  /-- XCHT (R166): Indivisibly exchanges a vector with a twin-window register. -/
  | xcht (p : Pred) (d : Reg) (a : BitVec 3)
  /-- BLLD (R157): Loads a whole B latch from local store. -/
  | blld (p : Pred) (d : BitVec 1) (a : Reg) (b : Reg) (ty : Ty)
  /-- BLMV (R157): Moves a vector into one latch column. -/
  | blmv (p : Pred) (d : BitVec 1) (a : Reg) (j : BitVec 5) (ty : Ty)
  /-- BLCLR (R157): Clears a B latch and its tag. -/
  | blclr (p : Pred) (d : BitVec 1)
  /-- SEND (R172): Sends a message to a relative destination, held until commit. -/
  | send (p : Pred) (a : Reg) (b : Reg) (c : Reg) (ch : BitVec 6)
  /-- SEND_REL (R172): Sends a message after the context's earlier streams finish. -/
  | sendRel (p : Pred) (a : Reg) (b : Reg) (c : Reg) (ch : BitVec 6)
  /-- XSEND (R172): Sends a message to a named destination on any module. -/
  | xsend (p : Pred) (a : Reg) (b : Reg) (c : Reg) (ch : BitVec 6)
  /-- XSEND_REL (R172): Sends a named message after earlier streams finish. -/
  | xsendRel (p : Pred) (a : Reg) (b : Reg) (c : Reg) (ch : BitVec 6)
  /-- CHBIND_WAKE (R175): Binds a channel in WAKE mode. -/
  | chbindWake (p : Pred) (a : Reg) (ci : ChImm)
  /-- CHBIND_LAND (R175): Binds a channel in LAND mode with a ring descriptor. -/
  | chbindLand (p : Pred) (d : Reg) (a : Reg) (ci : ChImm)
  /-- CHBIND_FEED (R175): Binds a channel in FEED mode to a pinned context's queue. -/
  | chbindFeed (p : Pred) (d : Reg) (a : Reg) (ci : ChImm)
  /-- JSET (R177): Binds a join set over member channels. -/
  | jset (p : Pred) (a : Reg) (b : Reg) (set : BitVec 4) (prio : BitVec 3) (x : BitVec 1)
  /-- CHUNB (R178): Unbinds a channel or whole join set, discarding pending work. -/
  | chunb (p : Pred) (ch : BitVec 6)
  /-- CHST (R179): Reads a channel status word. -/
  | chst (p : Pred) (d : Reg) (ch : BitVec 6)
  /-- AWAIT_CTR (R180): Ends the activation waiting for an arrival counter threshold. -/
  | awaitCtr (p : Pred) (a : Reg) (k : BitVec 4)
  /-- AWAIT_BATCH (R180): Ends the activation waiting for a batch bound. -/
  | awaitBatch (p : Pred) (a : Reg)
  /-- AWAIT_LIC (R180): Ends the activation waiting for the licence, queuing a request. -/
  | awaitLic (p : Pred)
  /-- AWAIT_TKT (R180): Ends the activation waiting for a ticket. -/
  | awaitTkt (p : Pred) (a : Reg)
  /-- AWAIT_CHAN (R181): Ends the activation waiting for a message on a WAKE channel. -/
  | awaitChan (p : Pred) (ch : BitVec 6)
  /-- YIELD (R182): Ends the activation leaving the context READY. -/
  | yield (p : Pred)
  /-- END (R182): Ends the activation, seals a non-empty open batch and frees the context. -/
  | endAct (p : Pred)
  /-- SLVL (R183): Builds one lane of a stream access pattern. -/
  | slvl (p : Pred) (d : Reg) (a : Reg) (b : Reg) (lv : BitVec 3)
  /-- SCPY (R184): Issues a stream copy between two spaces. -/
  | scpy (p : Pred) (d : Option Reg) (a : Reg) (b : Reg) (c : Reg) (sp : BitVec 2) (dp : BitVec 2) (st : BitVec 3)
  /-- SGTH (R185): Issues a gather-on-fill stream. -/
  | sgth (p : Pred) (d : Reg) (a : Reg) (b : Reg) (c : Reg) (sp : BitVec 2) (st : BitVec 3)
  /-- SFQ (R186): Issues a stream that fills the context's own feed queue. -/
  | sfq (p : Pred) (d : Reg) (a : Reg) (c : Reg) (sp : BitVec 2) (q : BitVec 1) (cl : BitVec 3) (st : BitVec 3)
  /-- SFQ_REMOTE (R186): Issues a stream that feeds a remote FEED channel as messages. -/
  | sfqRemote (p : Pred) (d : Reg) (a : Reg) (b : Reg) (c : Reg) (cl : BitVec 3) (st : BitVec 3)
  /-- SBAR (R188): Places a stream barrier in the open batch. -/
  | sbar (p : Pred) (mask : BitVec 8)
  /-- BSEAL (R190): Seals the open batch and returns its number. -/
  | bseal (p : Pred) (d : Reg)
  /-- WAITB (R190): Ends the activation waiting for a batch bound. -/
  | waitb (p : Pred) (n : BitVec 16)
  /-- BSTAT (R190): Reads batch status and finish of a named batch. -/
  | bstat (p : Pred) (d : Reg) (a : Reg)
  /-- PUT (R191): Issues a remote write with a ticket. -/
  | put (p : Pred) (d : Reg) (a : Reg) (b : Reg) (c : Reg)
  /-- GET (R191): Issues a remote read with a ticket. -/
  | get (p : Pred) (d : Reg) (a : Reg) (b : Reg) (c : Reg)
  /-- TKST (R193): Reads a ticket's status word. -/
  | tkst (p : Pred) (d : Reg) (a : Reg)
  /-- TKST_VALUE (R193): Reads a remote atomic ticket's old value. -/
  | tkstValue (p : Pred) (d : Reg) (a : Reg)
  /-- RA_ADD (R191): Issues a remote atomic add. -/
  | raAdd (p : Pred) (d : Reg) (a : Reg) (b : Reg) (ty : Ty)
  /-- RA_AND (R191): Issues a remote atomic AND. -/
  | raAnd (p : Pred) (d : Reg) (a : Reg) (b : Reg) (ty : Ty)
  /-- RA_OR (R191): Issues a remote atomic OR. -/
  | raOr (p : Pred) (d : Reg) (a : Reg) (b : Reg) (ty : Ty)
  /-- RA_XOR (R191): Issues a remote atomic XOR. -/
  | raXor (p : Pred) (d : Reg) (a : Reg) (b : Reg) (ty : Ty)
  /-- RA_MIN (R191): Issues a remote atomic minimum. -/
  | raMin (p : Pred) (d : Reg) (a : Reg) (b : Reg) (ty : Ty)
  /-- RA_MAX (R191): Issues a remote atomic maximum. -/
  | raMax (p : Pred) (d : Reg) (a : Reg) (b : Reg) (ty : Ty)
  /-- RA_SWP (R191): Issues a remote atomic swap. -/
  | raSwp (p : Pred) (d : Reg) (a : Reg) (b : Reg) (ty : Ty)
  /-- RA_CAS (R191): Issues a remote atomic compare-and-swap. -/
  | raCas (p : Pred) (d : Reg) (a : Reg) (b : Reg) (c : Reg) (ty : Ty)
  /-- CTRB (R195): Contributes bytes to the next step of a combine tree. -/
  | ctrb (p : Pred) (d : Reg) (a : Reg) (b : Reg) (ip : BitVec 1)
  /-- TBUILD (R194): Asks the launch sequencer to build a combine tree. -/
  | tbuild (p : Pred) (d : Reg) (a : Reg)
  /-- TFREE (R196): Aborts any open step and removes a tree. -/
  | tfree (p : Pred) (d : Reg) (a : Reg)
  /-- TABORT (R196): Aborts a tree's open step at every member. -/
  | tabort (p : Pred) (a : Reg)
  /-- TQRY_STATUS (R196): Reads a tree's status word. -/
  | tqryStatus (p : Pred) (d : Reg) (a : Reg)
  /-- TQRY_DONE_BITMAP (R196): Reads the done bitmap of the last in-place step. -/
  | tqryDoneBitmap (p : Pred) (d : Reg) (a : Reg)
  /-- TQRY_QUORUM_COUNT (R196): Reads the member count of the last quorum result. -/
  | tqryQuorumCount (p : Pred) (d : Reg) (a : Reg)
  /-- FENCE_CTX (R197): Holds later outbound work until earlier operations have left the core. -/
  | fenceCtx (p : Pred)
  /-- FENCE_CORE (R197): Fence at core scope. -/
  | fenceCore (p : Pred)
  /-- FENCE_PAIR (R197): Fence at quern-pair scope. -/
  | fencePair (p : Pred)
  /-- FENCE_GRP (R197): Fence at group scope. -/
  | fenceGrp (p : Pred)
  /-- FENCE_MOD (R197): Fence at module scope. -/
  | fenceMod (p : Pred)
  /-- FENCE_SYS (R197): Fence at system scope. -/
  | fenceSys (p : Pred)
  /-- ACSET (R198): Sets an arrival counter. -/
  | acset (p : Pred) (a : Reg) (k : BitVec 4)
  /-- ACADD (R198): Adds to an arrival counter with clamping. -/
  | acadd (p : Pred) (d : Reg) (a : Reg) (k : BitVec 4)
  /-- ACRD (R198): Reads an arrival counter. -/
  | acrd (p : Pred) (d : Reg) (k : BitVec 4)
  /-- SUSPEND (R206): Suspends the group into a sprig and captures the issuing context. -/
  | suspend (p : Pred) (d : Reg) (a : Reg) (b : Reg) (c : Reg)
  /-- RESUME (R208): Resumes a sprig, reporting failure to the fault channel. -/
  | resume (p : Pred) (d : Reg) (a : Reg) (b : Reg) (c : Reg) (f : BitVec 1)
  /-- RESUME_ST (R208): Resumes a sprig, reporting failure in the ticket only. -/
  | resumeSt (p : Pred) (d : Reg) (a : Reg) (b : Reg) (c : Reg) (f : BitVec 1)
  /-- COPY (R208): Copies a sealed sprig. -/
  | copy (p : Pred) (d : Reg) (a : Reg) (b : Reg) (c : Reg)
  /-- COPY_ST (R208): Copies a sealed sprig, reporting in the ticket only. -/
  | copySt (p : Pred) (d : Reg) (a : Reg) (b : Reg) (c : Reg)
  /-- DISCARD (R208): Discards a sprig. -/
  | discard (p : Pred) (d : Reg) (a : Reg) (b : Reg)
  /-- DISCARD_ST (R208): Discards a sprig, reporting in the ticket only. -/
  | discardSt (p : Pred) (d : Reg) (a : Reg) (b : Reg)
  /-- TRAP (R212): Raises the SWTRAP cause with a code. -/
  | trap (p : Pred) (code : BitVec 10)
  /-- BKPT (R212): Raises the BKPT cause with a code. -/
  | bkpt (p : Pred) (code : BitVec 10)
  /-- TRET_REISSUE (R212): Ends the handler and reissues the trapping instruction. -/
  | tretReissue (p : Pred)
  /-- TRET_NEXT (R212): Ends the handler and continues after the trapping instruction. -/
  | tretNext (p : Pred)
  /-- TRET_TARGET (R212): Ends the handler and jumps to a register target. -/
  | tretTarget (p : Pred) (a : Reg)
  /-- ISBIND (R214): Requests to bind a lockstep island. -/
  | isbind (p : Pred) (d : Reg) (a : Reg)
  /-- ISREL (R214): Releases the core from its island. -/
  | isrel (p : Pred)
  /-- ISEND_LATCH (R215): Sends a timed delivery into a latch column of an island member. -/
  | isendLatch (p : Pred) (a : Reg) (b : Reg) (bl : BitVec 1) (j : BitVec 5) (ty : Ty)
  /-- ISEND_TWIN (R215): Sends a timed delivery into a twin-window register of an island member. -/
  | isendTwin (p : Pred) (a : Reg) (b : Reg) (tw : BitVec 3)
  /-- ISSYNC (R215): Stalls until the island schedule counter reaches a value. -/
  | issync (p : Pred) (a : Reg)
  /-- SCHEDULE_VALUE_REACHED (R215): The schedule counter reaches an ISSYNC target and the stalled instruction proceeds. -/
  | scheduleValueReached (k : Nat)
  /-- LAUNCH (R216): Copies a launch record and enqueues it. -/
  | launch (p : Pred) (d : Reg) (a : Reg) (b : Reg)
  /-- EVSIG (R216): Adds an amount to an event counter. -/
  | evsig (p : Pred) (a : Reg) (b : Reg)
  /-- EVARM (R216): Arms a wake on a channel for an event threshold. -/
  | evarm (p : Pred) (a : Reg) (b : Reg) (ch : BitVec 6)
  /-- EVRD (R216): Reads an event counter into local store. -/
  | evrd (p : Pred) (d : Reg) (a : Reg) (b : Reg)
  /-- PSNQ_SCALAR (R217): Reads a scalar's poison bit. -/
  | psnqScalar (p : Pred) (d : Reg) (a : Reg)
  /-- PSNQ_VECTOR (R217): Reads half of a vector block's origin record. -/
  | psnqVector (p : Pred) (d : Reg) (a : Reg) (half : BitVec 1) (k : BitVec 2)
  /-- PSNQ_ACC (R217): Reads half of an accumulator's origin record. -/
  | psnqAcc (p : Pred) (d : Reg) (a : BitVec 2) (half : BitVec 1)
  /-- PSNQ_TWIN (R217): Reads half of a twin-window register's origin. -/
  | psnqTwin (p : Pred) (d : Reg) (a : BitVec 3) (half : BitVec 1)
  /-- PSNCLS (R218): Clears a scalar's poison bit. -/
  | psncls (p : Pred) (d : Reg)
  /-- PSNCLV (R218): Replaces poison blocks of a vector with zero blocks. -/
  | psnclv (p : Pred) (d : Reg)
  /-- PSNCLA (R218): Privileged clear of an accumulator's poison. -/
  | psncla (p : Pred) (d : BitVec 2)
  /-- SELECT_ACTIVATION (R281): The scheduler chooses the next READY context or pending activation. -/
  | selectActivation (k : Nat)
  /-- CONDITION_MET (R180): A parked context's wait condition becomes true and it turns READY. -/
  | conditionMet (k : Nat) (c : BitVec 2)
  /-- WATCHDOG_EXPIRY (R213): The activation watchdog reaches its limit and WDOG is trapped. -/
  | watchdogExpiry (k : Nat)
  /-- MESSAGE_OFFER (R173): A SEND or FEED message arrives and is accepted, refused or discarded by its binding. -/
  | messageOffer (n : Nat)
  /-- REOFFER (R173): A refused message is offered again after 64 cycles. -/
  | reoffer (k : Nat) (id : Nat)
  /-- PUT_PERFORM (R192): The destination's remote-operation unit performs an arriving PUT. -/
  | putPerform (n : Nat)
  /-- GET_SERVE (R192): The destination reads bytes for an arriving GET and returns them. -/
  | getServe (n : Nat)
  /-- RA_PERFORM (R192): The destination performs an arriving remote atomic. -/
  | raPerform (n : Nat)
  /-- STREAM_STORE_PERFORM (R367): An arriving stream store is performed at the destination core. -/
  | streamStorePerform (n : Nat)
  /-- STREAM_READ_SERVE (R232): A core serves a stream read request from its local store. -/
  | streamReadServe (n : Nat)
  /-- ACKNOWLEDGEMENT (R193): An acknowledgement arrives and completes a ticket or stream store. -/
  | acknowledgement (n : Nat)
  /-- GET_DATA (R191): Returned read data is written at the requester's destination. -/
  | getData (n : Nat)
  /-- REFUSAL (R253): A refusal response makes the sender hold the message for re-offer. -/
  | refusal (n : Nat)
  /-- STALE_NAME (R254): A stale report arrives and the sender re-translates or reports STALE. -/
  | staleName (n : Nat)
  /-- RETRANSLATE_CHECK (R254): Every 64 cycles a held stale operation re-checks its page-map entry. -/
  | retranslateCheck (k : Nat) (id : Nat)
  /-- DELIVERY_FAILURE (R171): A delivery-failure response is reported to the sender's fault channel. -/
  | deliveryFailure (n : Nat)
  /-- UNLISTED_KIND (R244): A router receives a message of unlisted KIND and discards it. -/
  | unlistedKind (n : Nat)
  /-- STREAM_START (R231): A stream command starts once its queue and barrier conditions hold. -/
  | streamStart (k : Nat) (id : Nat)
  /-- STREAM_FINISH (R190): A stream command's reads and stores are all performed. -/
  | streamFinish (k : Nat) (id : Nat)
  /-- TIMED_LANDING (R286): A timed message is written into its target at its landing cycle. -/
  | timedLanding (k : Nat) (n : Nat)
  /-- ISLAND_BIND (R214): The last member's ISBIND arrives and the island binds or fails. -/
  | islandBind (gid : BitVec 16) (iid : BitVec 16)
  /-- ISTO (R214): Not every member issued ISBIND within 1 ms, so the bind fails. -/
  | isto (gid : BitVec 16) (iid : BitVec 16)
  /-- DROOP_TRIP (R288): A member's droop sensor trips and the island gate stops. -/
  | droopTrip (k : Nat)
  /-- DROOP_CLEAR (R288): The droop sensor clears and the island clock restarts. -/
  | droopClear (k : Nat)
  /-- EPOCH_STEP (R314): The governor samples, decides budget, grants, releases and link widths each epoch. -/
  | epochStep (f : Nat)
  /-- LAUNCH_ENQUEUE (R260): A launch record reaches the sequencer and is enqueued or refused. -/
  | launchEnqueue (n : Nat)
  /-- RECORD_SLOT_WRITE (R387): A host write to a record slot collects bytes and enqueues at offset 0x38. -/
  | recordSlotWrite (q : BitVec 4) (w : BitVec 3) (data : BitVec 64)
  /-- START_GROUP (R272): A queue head whose dependence is met is checked, placed, loaded and started. -/
  | startGroup (q : BitVec 4)
  /-- EVENT_SIGNAL (R216): An EVSIG reaches the sequencer and raises its event counter. -/
  | eventSignal (n : Nat)
  /-- EVRD_RESPONSE (R216): The event counter value is written at the requester. -/
  | evrdResponse (n : Nat)
  /-- FAULT_RECORD_POST (R326): A trap record arrives at the fault channel or the queue fault log. -/
  | faultRecordPost (n : Nat)
  /-- TREE_BUILD (R194): The sequencer builds a tree's router entries and completes the ticket. -/
  | treeBuild (n : Nat)
  /-- TREE_REMOVE (R196): The tree's entries are removed from every router for TFREE. -/
  | treeRemove (n : Nat)
  /-- TERMINATION_PROBE (R274): An idle core starts a two-wave termination probe of its group. -/
  | terminationProbe (gid : BitVec 16)
  /-- PROBE_WAVE (R274): A probe wave returns with idle states and message counts. -/
  | probeWave (gid : BitVec 16)
  /-- PAGE_RELEASE (R275): Once all group stores resolve, the group completes and its pages start scrubbing. -/
  | pageRelease (gid : BitVec 16)
  /-- SCRUB_DONE (R276): A page's scrub ends and it becomes allocatable. -/
  | scrubDone (page : Nat)
  /-- COMPACTION (R277): A head waiting 100 µs for pages triggers compaction. -/
  | compaction (q : BitVec 4)
  /-- PREEMPTION (R278): A head that compaction cannot place pre-empts lower-ranked groups. -/
  | preemption (q : BitVec 4)
  /-- SPRIG_MARKER (R350): The suspension marker reaches a member, which captures at its next boundary. -/
  | sprigMarker (k : Nat)
  /-- SEAL_SPRIG (R350): After drain or the deadline, the sprig is written, digested and sealed. -/
  | sealSprig (gid : BitVec 16)
  /-- DEBT_RESOLUTION (R351): A debt's store is acknowledged or fails and NDEBT is decremented. -/
  | debtResolution (n : Nat) (cause : BitVec 12)
  /-- SPRIG_STEP (R208): The owning edge block performs the indivisible header step of a sprig operation. -/
  | sprigStep (n : Nat)
  /-- AUTO_RESUME (R359): The sequencer resumes its own sprig once sealed and pages fit. -/
  | autoResume (n : Nat)
  /-- GENERATION_CLOSE (R255): A router receives ADV and closes the pages' old generation. -/
  | generationClose (a : Nat) (r : Nat)
  /-- DRAIN_MARKER (R255): A router receives a drain marker on one class of one input port. -/
  | drainMarker (a : Nat) (r : Nat) (port : BitVec 3) (cls : BitVec 2)
  /-- ALL_DRAINED (R255): Every router has reported drained and the field agent writes tables and names. -/
  | allDrained (a : Nat)
  /-- GENERATION_OPEN (R255): A router receives OPN and opens the pages. -/
  | generationOpen (a : Nat) (r : Nat)
  /-- ROTATION_DUE (R259): A field's rotation falls due and its pages are emptied. -/
  | rotationDue (f : Nat)
  /-- ROTATE (R259): Once the field's pages are free the repair table rotates and generations advance. -/
  | rotate (f : Nat)
  /-- DETECTED_TRANSIENT (R330, R333): A detected transient rolls back and replays the touched commit windows. `place.1` = 0 is the core itself, in context `place.2` or in no single one; 1 is its remote-operation unit and 2 its stream unit, which perform the same operation again. -/
  | detectedTransient (k : Nat) (place : BitVec 2 × Option (BitVec 2))
  /-- UNCORRECTABLE_ERROR (R112): An uncorrectable local-store word is detected and marked poison. -/
  | uncorrectableError (k : Nat) (wa : Option (BitVec 20))
  /-- CORRECTABLE_ERROR (R322): A correctable error is corrected in place and counted. -/
  | correctableError
  /-- LINK_RETRY (R334): A link flit fails its check and the sender resends from it, on port `flit.1` of router r; `flit.2` says that it is the flit that failed last. -/
  | linkRetry (r : Nat) (flit : BitVec 3 × Bool)
  /-- RETIRE_CORE (R341): A permanent core fault retires the core and moves its group. -/
  | retireCore (k : Nat) (trig : BitVec 2)
  /-- CXL_ACCESS (R371): An owning edge block performs a CXL line access. -/
  | cxlAccess (n : Nat)
  /-- CXL_COMPLETION (R335): A CXL read or write completion returns to the edge block. -/
  | cxlCompletion (n : Nat) (ok : Bool)
  /-- CXL_TIMEOUT (R335): A CXL access unfinished after 50 µs is re-issued or fails. -/
  | cxlTimeout (n : Nat)
  /-- WALK_COMPLETE (R382): A translation walk ends with a translation or a fault. -/
  | walkComplete (n : Nat)
  /-- HOST_ACCESS (R385): A host CXL.mem access reaches an owning edge block. -/
  | hostAccess (h : BitVec 2) (line : Nat) (kind : BitVec 2) (data : BitVec 512)
  /-- BIRSP (R385): A host's back-invalidation response lets the pending module access proceed. -/
  | birsp (h : BitVec 2) (line : Nat) (dirty : Option (BitVec 512))
  /-- XINV (R383): A write to XINV starts a translation invalidation. -/
  | xinv (w : BitVec 64) (range : BitVec 64)
  /-- EVENT_WORD_ADD (R388): A host write to an event word adds to its counter. -/
  | eventWordAdd (e : BitVec 16) (v : BitVec 32)
  /-- CLRF (R388): Writing CLRF clears an event's FAIL bit. -/
  | clrf (e : BitVec 16)
  /-- MSIX_ARM (R389): A host arms an MSI-X interrupt on an event threshold. -/
  | msixArm (i : BitVec 6) (w : BitVec 64)
  /-- FAULT_LOG_EMPTY (R386): Writing bit 63 of the fault-log control empties the log and clears the count. -/
  | faultLogEmpty (q : BitVec 4)
  /-- MGMT_LOG_EMPTY (R404): Writing the management-log control empties the log. -/
  | mgmtLogEmpty
  /-- TREE_SLOT_SELECT (R404): Selects a router tree slot for management reads. -/
  | treeSlotSelect (w : BitVec 64)
  /-- ROUTE_UPDATE (R392): A write to a module route entry switches routes after the old port drains. -/
  | routeUpdate (near : Bool) (i : BitVec 12) (v : BitVec 16)
  /-- MGMT_WRITE (R404): A write to a management register that has no row of its own. -/
  | mgmtWrite (off : BitVec 20) (v : BitVec 64)
  /-- GO (R406): BOOTCTL.GO starts the governor, sequencer and links. -/
  | go
  /-- RST (R406): BOOTCTL.RST resets the module. -/
  | rst
  /-- MODULE_RESET (R406): Power-on or reset runs the boot steps up to awaiting configuration. -/
  | moduleReset
  /-- NONCE_WRITE (R408): A nonce write starts an attestation report. -/
  | nonceWrite (i : BitVec 2) (v : BitVec 64)
  /-- ATTEST_READY (R408): The signed attestation report becomes readable. -/
  | attestReady
  /-- THERMAL_TRIP (R410): A column reaching 115 °C stops every clock and halts the module. -/
  | thermalTrip (f : Nat)
  /-- COMBINE_UNIT (R300): A combine unit arrives at a router and its position is combined when all inputs are present. -/
  | combineUnit (n : Nat)
  /-- RNQ (R303): A renormalise request reaches the root, which raises the scale and aborts the step. -/
  | rnq (n : Nat)
  /-- RNM (R303): A renormalise commit reaches a router, which rescales and asks for resends. -/
  | rnm (n : Nat)
  /-- RESULT_DELIVERY (R306): A combine result unit is delivered to a member in place or as a message. -/
  | resultDelivery (n : Nat)
  /-- QUORUM_WAIT (R307): A quorum input waiting 1 µs makes the router forward a partial. -/
  | quorumWait (r : Nat) (gid : BitVec 16) (tid : BitVec 12) (pos : Nat)
  /-- QUORUM_DEADLINE (R307): A quorum step completes when DLN expires at the root. -/
  | quorumDeadline (gid : BitVec 16) (tid : BitVec 12)
  /-- TREE_JOIN (R400): A join request reaches the root module and is accepted or refused. -/
  | treeJoin (n : Nat)
  /-- PARTIAL (R402): A joined module's partial reaches the root router. -/
  | treePartial (n : Nat)
  /-- DETACH (R403): A joined module's session closes or it frees its part of the tree. -/
  | detach (m : BitVec 20) (gid : BitVec 16) (tid : BitVec 12)
  /-- FRAME_RECEIVE (R397): A wide-area frame is authenticated and its records delivered. -/
  | frameReceive (p : Nat) (frame : List (BitVec 8))
  /-- FRAME_RESEND (R397): The oldest unacknowledged frame times out and frames are resent. -/
  | frameResend (p : Nat) (m : BitVec 20)
  /-- ACK_TIMER (R397): 10 µs without carrying an ACK makes the receiver send an acknowledgement frame. -/
  | ackTimer (p : Nat) (m : BitVec 20)
  /-- HANDSHAKE (R399): A handshake frame establishes session keys. -/
  | handshake (p : Nat) (frame : List (BitVec 8))
  /-- SESSION_CLOSE (R398): A close frame closes a session. -/
  | sessionClose (p : Nat) (m : BitVec 20)
  /-- SESSION_TIMEOUT (R398): A session with no valid frame for TOUT closes. -/
  | sessionTimeout (p : Nat) (m : BitVec 20)
  /-- REKEY (R399): A session is rekeyed before its SEQ limit or after an hour. -/
  | rekey (p : Nat) (m : BitVec 20)
  /-- LOCAL_RETRY (R395): A local-mode link flit fails its check and a resend is requested. -/
  | localRetry (p : Nat) (seq : BitVec 8)
  /-- RETRAINING (R395): Sixteen consecutive failures start a link retraining. -/
  | retraining (p : Nat)
  /-- LINK_DOWN (R395): A link not retrained within TOUT goes down. -/
  | linkDown (p : Nat)
  /-- KILL_GROUP (R266): System software ends a running group, which then completes with CAUSE KILL. -/
  | killGroup (gid : BitVec 16)
  /-- SUSPEND_REQUEST (R207): A committed SUSPEND request reaches the launch sequencer, which starts the suspension or answers SBUSY. -/
  | suspendRequest (n : Nat)
  /-- SPRIG_OPERATION_REQUEST (R209): A RESUME, COPY or DISCARD request reaches the target launch sequencer, which reserves pages and compares DIG, or completes the ticket with NOPAGE or BADARG. -/
  | sprigOperationRequest (n : Nat)
  /-- ADVANCE_SPACING_ELAPSED (R255): The 10 ms spacing since a page's last generation advance ends, and a held advance may begin. -/
  | advanceSpacingElapsed (page : Nat)
  /-- LOCAL_LINK_ACK (R395): A local-mode receiver acknowledges by sequence number at least every 256 cycles, freeing the sender's retry flits. -/
  | localLinkAck (p : Nat) (seq : BitVec 8)
  /-- RETRAINING_COMPLETE (R395): A retraining local link comes back up within 10 ms and the waiting traffic resumes. -/
  | retrainingComplete (p : Nat)
  /-- SELF_TEST_FAILURE (R340): A field agent's self-test fails, giving the core a permanent fault. -/
  | selfTestFailure (k : Nat)
  /-- POWER_LOSS (R407): The module loses power; all program state is lost, while the nonvolatile store keeps skipped signature indices and the boot count. -/
  | powerLoss
  /-- CLEAR_BAR (R398): System software clears the bar on a peer's session so that messages to it are no longer answered NOCHN. -/
  | clearBar (p : Nat) (m : BitVec 20)
  /-- FIRMWARE_UPDATE (R406): An update request makes the security core write the inactive firmware slot, which takes effect at the next reset. -/
  | firmwareUpdate (ver : BitVec 16) (sigOk : Bool)
  /-- RAISE_FUSED_MINIMUM (R406): A separate signed request raises the fused minimum firmware version. -/
  | raiseFusedMinimum (v : BitVec 16) (sigOk : Bool)
  deriving DecidableEq, Repr

end Sys2Proof
end

