-- ==== Sys2Proof/WellFormed.lean ====
section
/-! DEFINITION. Well-formed operations: the operand conditions that R77 steps 4 to 7, R121, R151, R184 and R202 check beside the fields themselves. -/
namespace Sys2Proof

/-- The operands of the operation are ones its instruction allows. Operations without a word have no such condition. -/
def Instr.wf (i : Instr) : Bool :=
  match i with
  | .add _ _ _ _ => true
  | .sub _ _ _ _ => true
  | .and _ _ _ _ => true
  | .or _ _ _ _ => true
  | .xor _ _ _ _ => true
  | .andn _ _ _ _ => true
  | .shl _ _ _ _ => true
  | .shr _ _ _ _ => true
  | .sra _ _ _ _ => true
  | .ror _ _ _ _ => true
  | .min _ _ _ _ => true
  | .max _ _ _ _ => true
  | .minn _ _ _ _ => true
  | .maxn _ _ _ _ => true
  | .addi _ _ _ _ => true
  | .andi _ _ _ _ => true
  | .ori _ _ _ _ => true
  | .xori _ _ _ _ => true
  | .shli _ _ _ _ => true
  | .shri _ _ _ _ => true
  | .srai _ _ _ _ => true
  | .mul _ _ _ _ => true
  | .mulh _ _ _ _ => true
  | .mulhn _ _ _ _ => true
  | .div _ _ _ _ => true
  | .divn _ _ _ _ => true
  | .rem _ _ _ _ => true
  | .remn _ _ _ _ => true
  | .cmpEq _ gd _ _ => gd.wf
  | .cmpNe _ gd _ _ => gd.wf
  | .cmpLt _ gd _ _ => gd.wf
  | .cmpGe _ gd _ _ => gd.wf
  | .cmpLo _ gd _ _ => gd.wf
  | .cmpHs _ gd _ _ => gd.wf
  | .cmpiEq _ gd _ _ => gd.wf
  | .cmpiNe _ gd _ _ => gd.wf
  | .cmpiLt _ gd _ _ => gd.wf
  | .cmpiGe _ gd _ _ => gd.wf
  | .cmpiLo _ gd _ _ => gd.wf
  | .cmpiHs _ gd _ _ => gd.wf
  | .fcmpEq _ gd _ _ ty => gd.wf && ty.isFloat
  | .fcmpLt _ gd _ _ ty => gd.wf && ty.isFloat
  | .fcmpLe _ gd _ _ ty => gd.wf && ty.isFloat
  | .fcmpUn _ gd _ _ ty => gd.wf && ty.isFloat
  | .gand _ gd _ _ => gd.wf
  | .gor _ gd _ _ => gd.wf
  | .gxor _ gd _ _ => gd.wf
  | .gandn _ gd _ _ => gd.wf
  | .gset _ gd _ => gd.wf
  | .grd _ _ => true
  | .fadd _ _ _ _ ty _ => ty.isFloat
  | .fsub _ _ _ _ ty _ => ty.isFloat
  | .fmul _ _ _ _ ty _ => ty.isFloat
  | .fdiv _ _ _ _ ty _ => ty.isFloat
  | .fsqrt _ _ _ ty _ => ty.isFloat
  | .fma _ _ _ _ _ ty _ => ty.isFloat
  | .fmin _ _ _ _ ty _ => ty.isFloat
  | .fmax _ _ _ _ ty _ => ty.isFloat
  | .cvt _ _ _ ty ty2 rnd => cvtWf ty ty2 rnd
  | .clz _ _ _ => true
  | .ctz _ _ _ => true
  | .popc _ _ _ => true
  | .bext _ _ _ _ => true
  | .bins _ _ _ _ => true
  | .mov _ _ _ => true
  | .sel _ _ _ _ _ => true
  | .movi _ _ _ => true
  | .movih _ _ _ => true
  | .adr _ _ _ => true
  | .ldI8 _ _ _ _ => true
  | .ldI16 _ _ _ _ => true
  | .ldI32 _ _ _ _ => true
  | .ldI64 _ _ _ _ => true
  | .ldN8 _ _ _ _ => true
  | .ldN16 _ _ _ _ => true
  | .ldN32 _ _ _ _ => true
  | .stI8 _ _ _ _ => true
  | .stI16 _ _ _ _ => true
  | .stI32 _ _ _ _ => true
  | .stI64 _ _ _ _ => true
  | .amAdd _ _ _ _ ty => ty.isAtomic
  | .amAnd _ _ _ _ ty => ty.isAtomic
  | .amOr _ _ _ _ ty => ty.isAtomic
  | .amXor _ _ _ _ ty => ty.isAtomic
  | .amMin _ _ _ _ ty => ty.isAtomic
  | .amMax _ _ _ _ ty => ty.isAtomic
  | .amSwp _ _ _ _ ty => ty.isAtomic
  | .amCas _ _ _ _ _ ty => ty.isAtomic
  | .br _ _ => true
  | .call _ _ => true
  | .jmp _ _ => true
  | .callr _ _ => true
  | .ret _ _ => true
  | .loop _ _ _ => true
  | .crr _ _ idx => crAssigned idx
  | .crw _ idx _ => crAssigned idx && idx != 0x040#12 && idx != 0x031#12
  | .crs _ _ idx _ => crAssigned idx
  | .crc _ _ idx _ => crAssigned idx
  | .pmapcInv _ _ => true
  | .islcfgUnbind _ _ => true
  | .vaddI _ _ _ _ ty _ => ty.isInt
  | .vsubI _ _ _ _ ty _ => ty.isInt
  | .vmulI _ _ _ _ ty _ => ty.isInt
  | .vmulh _ _ _ _ ty _ => ty.isInt
  | .vminI _ _ _ _ ty _ => ty.isInt
  | .vmaxI _ _ _ _ ty _ => ty.isInt
  | .vand _ _ _ _ ty _ => ty.isInt
  | .vor _ _ _ _ ty _ => ty.isInt
  | .vxor _ _ _ _ ty _ => ty.isInt
  | .vshl _ _ _ sh ty _ => ty.isInt && sh.wf ty
  | .vshr _ _ _ sh ty _ => ty.isInt && sh.wf ty
  | .vsra _ _ _ sh ty _ => ty.isInt && sh.wf ty
  | .vabsI _ _ _ ty _ => ty.isInt
  | .vnegI _ _ _ ty _ => ty.isInt
  | .vadds _ _ _ _ ty _ => ty.isInt
  | .vsubs _ _ _ _ ty _ => ty.isInt
  | .vaddF _ _ _ _ ty _ _ => ty.isFloat
  | .vsubF _ _ _ _ ty _ _ => ty.isFloat
  | .vmulF _ _ _ _ ty _ _ => ty.isFloat
  | .vminF _ _ _ _ ty _ => ty.isFloat
  | .vmaxF _ _ _ _ ty _ => ty.isFloat
  | .vabsF _ _ _ ty _ => ty.isFloat
  | .vnegF _ _ _ ty _ => ty.isFloat
  | .vfma _ _ _ _ _ ty _ _ => ty.isFloat
  | .vfms _ _ _ _ _ ty _ _ => ty.isFloat
  | .vfnma _ _ _ _ _ ty _ _ => ty.isFloat
  | .vdot _ _ _ _ _ ty _ => ty.isHalf
  | .vcmpEq _ _ _ _ ty _ => ty.isInt
  | .vcmpNe _ _ _ _ ty _ => ty.isInt
  | .vcmpLt _ _ _ _ ty _ => ty.isInt
  | .vcmpGe _ _ _ _ ty _ => ty.isInt
  | .vcmpLo _ _ _ _ ty _ => ty.isInt
  | .vcmpHs _ _ _ _ ty _ => ty.isInt
  | .vcmpEqF _ _ _ _ ty _ => ty.isFloat
  | .vcmpLtF _ _ _ _ ty _ => ty.isFloat
  | .vcmpLeF _ _ _ _ ty _ => ty.isFloat
  | .vcmpUnF _ _ _ _ ty _ => ty.isFloat
  | .mand _ _ _ _ => true
  | .mor _ _ _ _ => true
  | .mxor _ _ _ _ => true
  | .mandn _ _ _ _ => true
  | .mpopc _ _ _ => true
  | .mfirst _ _ _ => true
  | .mtos _ _ _ => true
  | .mfroms _ _ _ => true
  | .vperm _ _ _ _ ty _ => ty.isLane
  | .vbcast _ _ _ ty _ => ty.isLane
  | .vins _ _ _ k ty _ => ty.isLane && decide (k.toNat < ty.lanes)
  | .vext _ _ _ k ty => ty.isLane && decide (k.toNat < ty.lanes)
  | .vslide _ _ _ _ k ty _ => ty.isLane && decide (k.toNat < ty.lanes)
  | .vslided _ _ _ _ k ty _ => ty.isLane && decide (k.toNat < ty.lanes)
  | .vcomp _ _ _ ty _ => ty.isLane
  | .vexpd _ _ _ ty _ => ty.isLane
  | .vzip _ _ _ _ _ ty _ => ty.isLane
  | .vunzip _ _ _ _ _ ty _ => ty.isLane
  | .vredAdd _ _ _ ty rm _ => ty.isLane && (ty.isFloat || rm == .rne)
  | .vredMin _ _ _ ty _ => ty.isLane
  | .vredMax _ _ _ ty _ => ty.isLane
  | .vredAnd _ _ _ ty _ => ty.isInt
  | .vredOr _ _ _ ty _ => ty.isInt
  | .vredXor _ _ _ ty _ => ty.isInt
  | .vcvt _ _ _ ty ty2 rnd part _ => vcvtWf ty ty2 rnd part
  | .badd _ _ _ _ ty _ _ => ty.isBlock
  | .bsub _ _ _ _ ty _ _ => ty.isBlock
  | .bmul _ _ _ _ ty _ _ => ty.isBlock
  | .bmin _ _ _ _ ty _ _ => ty.isBlock
  | .bmax _ _ _ _ ty _ _ => ty.isBlock
  | .bneg _ _ _ ty _ _ => ty.isBlock
  | .bscale _ _ _ _ ty _ _ => ty.isBlock
  | .bnorm _ _ _ ty _ _ => ty.isBlock
  | .btof _ _ _ ty ty2 rnd part _ => btofWf ty ty2 rnd part
  | .bfromf _ _ _ b ty ty2 _ k => bfromfWf ty ty2 b k
  | .brefmt _ _ _ ty ty2 _ part _ => brefmtWf ty ty2 part
  | .bgeth _ _ _ _ => true
  | .bseth _ _ _ _ => true
  | .vrcp _ _ _ _ => true
  | .vrsq _ _ _ _ => true
  | .vexp2 _ _ _ _ => true
  | .vlog2 _ _ _ _ => true
  | .vld _ _ _ _ _ => true
  | .vst _ _ _ _ _ => true
  | .vldx _ _ _ _ _ => true
  | .vstx _ _ _ _ _ => true
  | .bld _ _ _ _ ty _ => ty.isBlock
  | .bst _ _ _ _ ty _ => ty.isBlock
  | .fqpop _ _ _ => true
  | .fqdrop _ _ => true
  | .fqmark _ gd _ msk => gd.wf && msk != 0#9
  | .mma _ _ _ b _ ty h _ => mmaWf ty b h
  | .mman _ _ _ b _ ty h _ => mmaWf ty b h
  | .mmaTileWrite _ => true
  | .accz _ _ _ => true
  | .accmode _ _ _ => true
  | .accrd _ _ _ _ q ty rnd => accrdWf ty q rnd
  | .accwr _ _ _ _ q ty => accwrWf ty q
  | .accexp _ _ _ _ q ty _ => ty.isBlock && decide (q.toNat < ty.blocks)
  | .accswp _ _ _ => true
  | .accsc _ _ _ => true
  | .accscFit _ _ => true
  | .accraw _ _ _ _ _ => true
  | .accrawOrg _ _ _ => true
  | .macq _ gd => gd.wf
  | .mrel _ => true
  | .mxfr _ => true
  | .mxfrMigrate _ _ _ => true
  | .migrationDone _ => true
  | .twr _ _ _ => true
  | .tww _ _ _ => true
  | .xcht _ _ _ => true
  | .blld _ _ _ b ty => latchTyWf ty && (ty.isBlock || b == 0#5)
  | .blmv _ _ _ _ ty => latchTyWf ty
  | .blclr _ _ => true
  | .send _ _ _ _ _ => true
  | .sendRel _ _ _ _ _ => true
  | .xsend _ _ _ _ _ => true
  | .xsendRel _ _ _ _ _ => true
  | .chbindWake _ _ _ => true
  | .chbindLand _ _ _ _ => true
  | .chbindFeed _ _ _ _ => true
  | .jset _ _ _ _ _ _ => true
  | .chunb _ _ => true
  | .chst _ _ _ => true
  | .awaitCtr _ _ _ => true
  | .awaitBatch _ _ => true
  | .awaitLic _ => true
  | .awaitTkt _ _ => true
  | .awaitChan _ _ => true
  | .yield _ => true
  | .endAct _ => true
  | .slvl _ _ _ _ _ => true
  | .scpy _ _ _ _ _ sp dp _ => scpyWf sp dp
  | .sgth _ _ _ _ _ sp _ => sp != 3#2
  | .sfq _ _ _ _ sp _ _ _ => sp != 3#2
  | .sfqRemote _ _ _ _ _ _ _ => true
  | .sbar _ _ => true
  | .bseal _ _ => true
  | .waitb _ _ => true
  | .bstat _ _ _ => true
  | .put _ _ _ _ _ => true
  | .get _ _ _ _ _ => true
  | .tkst _ _ _ => true
  | .tkstValue _ _ _ => true
  | .raAdd _ _ _ _ ty => ty.isAtomic
  | .raAnd _ _ _ _ ty => ty.isAtomic
  | .raOr _ _ _ _ ty => ty.isAtomic
  | .raXor _ _ _ _ ty => ty.isAtomic
  | .raMin _ _ _ _ ty => ty.isAtomic
  | .raMax _ _ _ _ ty => ty.isAtomic
  | .raSwp _ _ _ _ ty => ty.isAtomic
  | .raCas _ _ _ _ _ ty => ty.isAtomic
  | .ctrb _ _ _ _ _ => true
  | .tbuild _ _ _ => true
  | .tfree _ _ _ => true
  | .tabort _ _ => true
  | .tqryStatus _ _ _ => true
  | .tqryDoneBitmap _ _ _ => true
  | .tqryQuorumCount _ _ _ => true
  | .fenceCtx _ => true
  | .fenceCore _ => true
  | .fencePair _ => true
  | .fenceGrp _ => true
  | .fenceMod _ => true
  | .fenceSys _ => true
  | .acset _ _ _ => true
  | .acadd _ _ _ _ => true
  | .acrd _ _ _ => true
  | .suspend _ _ _ _ _ => true
  | .resume _ _ _ _ _ _ => true
  | .resumeSt _ _ _ _ _ _ => true
  | .copy _ _ _ _ _ => true
  | .copySt _ _ _ _ _ => true
  | .discard _ _ _ _ => true
  | .discardSt _ _ _ _ => true
  | .trap _ _ => true
  | .bkpt _ _ => true
  | .tretReissue _ => true
  | .tretNext _ => true
  | .tretTarget _ _ => true
  | .isbind _ _ _ => true
  | .isrel _ => true
  | .isendLatch _ _ _ _ _ ty => latchTyWf ty
  | .isendTwin _ _ _ _ => true
  | .issync _ _ => true
  | .scheduleValueReached _ => true
  | .launch _ _ _ _ => true
  | .evsig _ _ _ => true
  | .evarm _ _ _ _ => true
  | .evrd _ _ _ _ => true
  | .psnqScalar _ _ _ => true
  | .psnqVector _ _ _ _ _ => true
  | .psnqAcc _ _ _ _ => true
  | .psnqTwin _ _ _ _ => true
  | .psncls _ _ => true
  | .psnclv _ _ => true
  | .psncla _ _ => true
  | .selectActivation _ => true
  | .conditionMet _ _ => true
  | .watchdogExpiry _ => true
  | .messageOffer _ => true
  | .reoffer _ _ => true
  | .putPerform _ => true
  | .getServe _ => true
  | .raPerform _ => true
  | .streamStorePerform _ => true
  | .streamReadServe _ => true
  | .acknowledgement _ => true
  | .getData _ => true
  | .refusal _ => true
  | .staleName _ => true
  | .retranslateCheck _ _ => true
  | .deliveryFailure _ => true
  | .unlistedKind _ => true
  | .streamStart _ _ => true
  | .streamFinish _ _ => true
  | .timedLanding _ _ => true
  | .islandBind _ _ => true
  | .isto _ _ => true
  | .droopTrip _ => true
  | .droopClear _ => true
  | .epochStep _ => true
  | .launchEnqueue _ => true
  | .recordSlotWrite _ _ _ => true
  | .startGroup _ => true
  | .eventSignal _ => true
  | .evrdResponse _ => true
  | .faultRecordPost _ => true
  | .treeBuild _ => true
  | .treeRemove _ => true
  | .terminationProbe _ => true
  | .probeWave _ => true
  | .pageRelease _ => true
  | .scrubDone _ => true
  | .compaction _ => true
  | .preemption _ => true
  | .sprigMarker _ => true
  | .sealSprig _ => true
  | .debtResolution _ _ => true
  | .sprigStep _ => true
  | .autoResume _ => true
  | .generationClose _ _ => true
  | .drainMarker _ _ _ _ => true
  | .allDrained _ => true
  | .generationOpen _ _ => true
  | .rotationDue _ => true
  | .rotate _ => true
  | .detectedTransient _ _ => true
  | .uncorrectableError _ _ => true
  | .correctableError => true
  | .linkRetry _ _ => true
  | .retireCore _ _ => true
  | .cxlAccess _ => true
  | .cxlCompletion _ _ => true
  | .cxlTimeout _ => true
  | .walkComplete _ => true
  | .hostAccess _ _ _ _ => true
  | .birsp _ _ _ => true
  | .xinv _ _ => true
  | .eventWordAdd _ _ => true
  | .clrf _ => true
  | .msixArm _ _ => true
  | .faultLogEmpty _ => true
  | .mgmtLogEmpty => true
  | .treeSlotSelect _ => true
  | .routeUpdate _ _ _ => true
  | .mgmtWrite _ _ => true
  | .go => true
  | .rst => true
  | .moduleReset => true
  | .nonceWrite _ _ => true
  | .attestReady => true
  | .thermalTrip _ => true
  | .combineUnit _ => true
  | .rnq _ => true
  | .rnm _ => true
  | .resultDelivery _ => true
  | .quorumWait _ _ _ _ => true
  | .quorumDeadline _ _ => true
  | .treeJoin _ => true
  | .treePartial _ => true
  | .detach _ _ _ => true
  | .frameReceive _ _ => true
  | .frameResend _ _ => true
  | .ackTimer _ _ => true
  | .handshake _ _ => true
  | .sessionClose _ _ => true
  | .sessionTimeout _ _ => true
  | .rekey _ _ => true
  | .localRetry _ _ => true
  | .retraining _ => true
  | .linkDown _ => true
  | .killGroup _ => true
  | .suspendRequest _ => true
  | .sprigOperationRequest _ => true
  | .advanceSpacingElapsed _ => true
  | .localLinkAck _ _ => true
  | .retrainingComplete _ => true
  | .selfTestFailure _ => true
  | .powerLoss => true
  | .clearBar _ _ => true
  | .firmwareUpdate _ _ => true
  | .raiseFusedMinimum _ _ => true

end Sys2Proof
end

