-- ==== Sys2Proof/Decode.lean ====
section
/-! DEFINITION. The encoder and the decoder of the 64-bit instruction word: formats of R71, subfields of R72, opcode map of R79 to R81, and the checks of R77. -/
namespace Sys2Proof

/-- Why a word is no instruction (R77). The core traps ILL on each. -/
inductive Reject where
  /-- fewer than eight bytes -/
  | short
  /-- R77 step 1: OP is not assigned -/
  | opcode
  /-- R77 step 2 or 6: FN, or the selector beneath it, is not assigned -/
  | function
  /-- R77 steps 3, 4 and 8: a reserved or unused field is not zero, or a field value has no meaning -/
  | reserved
  /-- R77 steps 4 to 7, R25, R121, R151, R184, R202: an operand the instruction does not allow -/
  | operand
  deriving DecidableEq, Repr

/-- The X field of R72. -/
def packX (ty : BitVec 4) (rm : BitVec 2) (mk : BitVec 3) (ma fqe fqi : BitVec 1) (ty2 : BitVec 4) (im : BitVec 10) : BitVec 26 :=
  ty ++ (rm ++ (mk ++ (ma ++ (fqe ++ (fqi ++ (ty2 ++ im))))))

/-- A REG word (R71). -/
def packReg (p : Pred) (op : BitVec 8) (fn : BitVec 6) (d a b c : Reg) (x : BitVec 26) : Word :=
  bit1 p.n ++ (p.g ++ (op ++ (fn ++ (d ++ (a ++ (b ++ (c ++ x)))))))

/-- An IMM or BRN word (R71). -/
def packImm (p : Pred) (op : BitVec 8) (fn : BitVec 6) (d a : Reg) (sub : BitVec 4) (im : BitVec 32) : Word :=
  bit1 p.n ++ (p.g ++ (op ++ (fn ++ (d ++ (a ++ (sub ++ im))))))

/-- A PRD word (R71). -/
def packPrd (p : Pred) (op : BitVec 8) (fn : BitVec 6) (gd : GDst) (a b : Reg) (x : BitVec 26) : Word :=
  bit1 p.n ++ (p.g ++ (op ++ (fn ++ (gd.pd1 ++ (gd.cmb.code ++ (a ++ (b ++ (gd.pd2 ++ (0#2 ++ x)))))))))

/-- A PRI word (R71). -/
def packPri (p : Pred) (op : BitVec 8) (fn : BitVec 6) (gd : GDst) (a : Reg) (im : BitVec 32) : Word :=
  bit1 p.n ++ (p.g ++ (op ++ (fn ++ (gd.pd1 ++ (gd.cmb.code ++ (a ++ (gd.pd2 ++ (0#1 ++ im))))))))

/-- N and G (R71, R75). -/
def wP (w : Word) : Pred := ⟨w.extractLsb' 63 1 == 1#1, w.extractLsb' 60 3⟩

/-- OP (R71, R72). -/
def wOp (w : Word) : BitVec 8 := w.extractLsb' 52 8

/-- FN (R71, R72). -/
def wFn (w : Word) : BitVec 6 := w.extractLsb' 46 6

/-- D (R71, R72). -/
def wD (w : Word) : BitVec 5 := w.extractLsb' 41 5

/-- A (R71, R72). -/
def wA (w : Word) : BitVec 5 := w.extractLsb' 36 5

/-- B (R71, R72). -/
def wB (w : Word) : BitVec 5 := w.extractLsb' 31 5

/-- C (R71, R72). -/
def wC (w : Word) : BitVec 5 := w.extractLsb' 26 5

/-- SUB (R71, R72). -/
def wSub (w : Word) : BitVec 4 := w.extractLsb' 32 4

/-- IMM32 (R71, R72). -/
def wI32 (w : Word) : BitVec 32 := w.extractLsb' 0 32

/-- TY (R71, R72). -/
def wTy (w : Word) : BitVec 4 := w.extractLsb' 22 4

/-- RM (R71, R72). -/
def wRm (w : Word) : BitVec 2 := w.extractLsb' 20 2

/-- MK (R71, R72). -/
def wMk (w : Word) : BitVec 3 := w.extractLsb' 17 3

/-- MA (R71, R72). -/
def wMa (w : Word) : BitVec 1 := w.extractLsb' 16 1

/-- FQE (R71, R72). -/
def wFqe (w : Word) : BitVec 1 := w.extractLsb' 15 1

/-- FQI (R71, R72). -/
def wFqi (w : Word) : BitVec 1 := w.extractLsb' 14 1

/-- TY2 (R71, R72). -/
def wTy2 (w : Word) : BitVec 4 := w.extractLsb' 10 4

/-- IMM10 (R71, R72). -/
def wI10 (w : Word) : BitVec 10 := w.extractLsb' 0 10

/-- MK and MA (R72). -/
def wLane (w : Word) : Lane := ⟨wMk w, wMa w == 1#1⟩

/-- PD1, CMB and PD2 of a PRD word (R71). -/
def wGd (w : Word) : GDst := ⟨w.extractLsb' 43 3, Cmb.ofCode (w.extractLsb' 41 2), w.extractLsb' 28 3⟩

/-- PD1, CMB and PD2 of a PRI word (R71). -/
def wGdi (w : Word) : GDst := ⟨w.extractLsb' 43 3, Cmb.ofCode (w.extractLsb' 41 2), w.extractLsb' 33 3⟩

/-- The immediate of CHBIND (R175). -/
def wCh (w : Word) : ChImm :=
  ⟨w.extractLsb' 0 6, w.extractLsb' 8 3, w.extractLsb' 11 1 == 1#1, w.extractLsb' 12 1 == 1#1, w.extractLsb' 13 2⟩

/-- The word of an instruction (R71, R72, R80, R81); `none` for the operations that have no word. -/
def encode (i : Instr) : Option Word :=
  match i with
  | .add p d a b => some (packReg p 1#8 0#6 d a b 0#5 0#26)
  | .sub p d a b => some (packReg p 1#8 1#6 d a b 0#5 0#26)
  | .and p d a b => some (packReg p 1#8 2#6 d a b 0#5 0#26)
  | .or p d a b => some (packReg p 1#8 3#6 d a b 0#5 0#26)
  | .xor p d a b => some (packReg p 1#8 4#6 d a b 0#5 0#26)
  | .andn p d a b => some (packReg p 1#8 5#6 d a b 0#5 0#26)
  | .shl p d a b => some (packReg p 1#8 6#6 d a b 0#5 0#26)
  | .shr p d a b => some (packReg p 1#8 7#6 d a b 0#5 0#26)
  | .sra p d a b => some (packReg p 1#8 8#6 d a b 0#5 0#26)
  | .ror p d a b => some (packReg p 1#8 9#6 d a b 0#5 0#26)
  | .min p d a b => some (packReg p 1#8 10#6 d a b 0#5 0#26)
  | .max p d a b => some (packReg p 1#8 11#6 d a b 0#5 0#26)
  | .minn p d a b => some (packReg p 1#8 12#6 d a b 0#5 0#26)
  | .maxn p d a b => some (packReg p 1#8 13#6 d a b 0#5 0#26)
  | .addi p d a im => some (packImm p 2#8 0#6 d a 0#4 im)
  | .andi p d a im => some (packImm p 2#8 1#6 d a 0#4 im)
  | .ori p d a im => some (packImm p 2#8 2#6 d a 0#4 im)
  | .xori p d a im => some (packImm p 2#8 3#6 d a 0#4 im)
  | .shli p d a k => some (packImm p 2#8 4#6 d a 0#4 (0#26 ++ k))
  | .shri p d a k => some (packImm p 2#8 5#6 d a 0#4 (0#26 ++ k))
  | .srai p d a k => some (packImm p 2#8 6#6 d a 0#4 (0#26 ++ k))
  | .mul p d a b => some (packReg p 3#8 0#6 d a b 0#5 0#26)
  | .mulh p d a b => some (packReg p 3#8 1#6 d a b 0#5 0#26)
  | .mulhn p d a b => some (packReg p 3#8 2#6 d a b 0#5 0#26)
  | .div p d a b => some (packReg p 3#8 3#6 d a b 0#5 0#26)
  | .divn p d a b => some (packReg p 3#8 4#6 d a b 0#5 0#26)
  | .rem p d a b => some (packReg p 3#8 5#6 d a b 0#5 0#26)
  | .remn p d a b => some (packReg p 3#8 6#6 d a b 0#5 0#26)
  | .cmpEq p gd a b => some (packPrd p 4#8 0#6 gd a b 0#26)
  | .cmpNe p gd a b => some (packPrd p 4#8 1#6 gd a b 0#26)
  | .cmpLt p gd a b => some (packPrd p 4#8 2#6 gd a b 0#26)
  | .cmpGe p gd a b => some (packPrd p 4#8 3#6 gd a b 0#26)
  | .cmpLo p gd a b => some (packPrd p 4#8 4#6 gd a b 0#26)
  | .cmpHs p gd a b => some (packPrd p 4#8 5#6 gd a b 0#26)
  | .cmpiEq p gd a im => some (packPri p 4#8 16#6 gd a im)
  | .cmpiNe p gd a im => some (packPri p 4#8 17#6 gd a im)
  | .cmpiLt p gd a im => some (packPri p 4#8 18#6 gd a im)
  | .cmpiGe p gd a im => some (packPri p 4#8 19#6 gd a im)
  | .cmpiLo p gd a im => some (packPri p 4#8 20#6 gd a im)
  | .cmpiHs p gd a im => some (packPri p 4#8 21#6 gd a im)
  | .fcmpEq p gd a b ty => some (packPrd p 4#8 32#6 gd a b (packX ty.code 0#2 0#3 0#1 0#1 0#1 0#4 0#10))
  | .fcmpLt p gd a b ty => some (packPrd p 4#8 33#6 gd a b (packX ty.code 0#2 0#3 0#1 0#1 0#1 0#4 0#10))
  | .fcmpLe p gd a b ty => some (packPrd p 4#8 34#6 gd a b (packX ty.code 0#2 0#3 0#1 0#1 0#1 0#4 0#10))
  | .fcmpUn p gd a b ty => some (packPrd p 4#8 35#6 gd a b (packX ty.code 0#2 0#3 0#1 0#1 0#1 0#4 0#10))
  | .gand p gd a b => some (packPrd p 5#8 0#6 gd (0#2 ++ a) (0#2 ++ b) 0#26)
  | .gor p gd a b => some (packPrd p 5#8 1#6 gd (0#2 ++ a) (0#2 ++ b) 0#26)
  | .gxor p gd a b => some (packPrd p 5#8 2#6 gd (0#2 ++ a) (0#2 ++ b) 0#26)
  | .gandn p gd a b => some (packPrd p 5#8 3#6 gd (0#2 ++ a) (0#2 ++ b) 0#26)
  | .gset p gd v => some (packPrd p 5#8 8#6 gd 0#5 0#5 (packX 0#4 0#2 0#3 0#1 0#1 0#1 0#4 (0#9 ++ v)))
  | .grd p d => some (packReg p 5#8 9#6 d 0#5 0#5 0#5 0#26)
  | .fadd p d a b ty rm => some (packReg p 6#8 0#6 d a b 0#5 (packX ty.code rm.code 0#3 0#1 0#1 0#1 0#4 0#10))
  | .fsub p d a b ty rm => some (packReg p 6#8 1#6 d a b 0#5 (packX ty.code rm.code 0#3 0#1 0#1 0#1 0#4 0#10))
  | .fmul p d a b ty rm => some (packReg p 6#8 2#6 d a b 0#5 (packX ty.code rm.code 0#3 0#1 0#1 0#1 0#4 0#10))
  | .fdiv p d a b ty rm => some (packReg p 6#8 3#6 d a b 0#5 (packX ty.code rm.code 0#3 0#1 0#1 0#1 0#4 0#10))
  | .fsqrt p d a ty rm => some (packReg p 6#8 4#6 d a 0#5 0#5 (packX ty.code rm.code 0#3 0#1 0#1 0#1 0#4 0#10))
  | .fma p d a b c ty rm => some (packReg p 6#8 5#6 d a b c (packX ty.code rm.code 0#3 0#1 0#1 0#1 0#4 0#10))
  | .fmin p d a b ty rm => some (packReg p 6#8 6#6 d a b 0#5 (packX ty.code rm.code 0#3 0#1 0#1 0#1 0#4 0#10))
  | .fmax p d a b ty rm => some (packReg p 6#8 7#6 d a b 0#5 (packX ty.code rm.code 0#3 0#1 0#1 0#1 0#4 0#10))
  | .cvt p d a ty ty2 rnd => some (packReg p 7#8 0#6 d a 0#5 rnd.seed (packX ty.code rnd.code 0#3 0#1 0#1 0#1 ty2.code 0#10))
  | .clz p d a => some (packReg p 8#8 0#6 d a 0#5 0#5 0#26)
  | .ctz p d a => some (packReg p 8#8 1#6 d a 0#5 0#5 0#26)
  | .popc p d a => some (packReg p 8#8 2#6 d a 0#5 0#5 0#26)
  | .bext p d a b => some (packReg p 8#8 3#6 d a b 0#5 0#26)
  | .bins p d a b => some (packReg p 8#8 4#6 d a b 0#5 0#26)
  | .mov p d a => some (packReg p 9#8 0#6 d a 0#5 0#5 0#26)
  | .sel p d a b k => some (packReg p 9#8 1#6 d a b (0#2 ++ k) 0#26)
  | .movi p d im => some (packImm p 9#8 2#6 d 0#5 0#4 im)
  | .movih p d im => some (packImm p 9#8 3#6 d 0#5 0#4 im)
  | .adr p d im => some (packImm p 9#8 4#6 d 0#5 0#4 im)
  | .ldI8 p d a im => some (packImm p 16#8 0#6 d a 0#4 im)
  | .ldI16 p d a im => some (packImm p 16#8 1#6 d a 0#4 im)
  | .ldI32 p d a im => some (packImm p 16#8 2#6 d a 0#4 im)
  | .ldI64 p d a im => some (packImm p 16#8 3#6 d a 0#4 im)
  | .ldN8 p d a im => some (packImm p 16#8 4#6 d a 0#4 im)
  | .ldN16 p d a im => some (packImm p 16#8 5#6 d a 0#4 im)
  | .ldN32 p d a im => some (packImm p 16#8 6#6 d a 0#4 im)
  | .stI8 p d a im => some (packImm p 17#8 0#6 d a 0#4 im)
  | .stI16 p d a im => some (packImm p 17#8 1#6 d a 0#4 im)
  | .stI32 p d a im => some (packImm p 17#8 2#6 d a 0#4 im)
  | .stI64 p d a im => some (packImm p 17#8 3#6 d a 0#4 im)
  | .amAdd p d a b ty => some (packReg p 18#8 0#6 d a b 0#5 (packX ty.code 0#2 0#3 0#1 0#1 0#1 0#4 0#10))
  | .amAnd p d a b ty => some (packReg p 18#8 1#6 d a b 0#5 (packX ty.code 0#2 0#3 0#1 0#1 0#1 0#4 0#10))
  | .amOr p d a b ty => some (packReg p 18#8 2#6 d a b 0#5 (packX ty.code 0#2 0#3 0#1 0#1 0#1 0#4 0#10))
  | .amXor p d a b ty => some (packReg p 18#8 3#6 d a b 0#5 (packX ty.code 0#2 0#3 0#1 0#1 0#1 0#4 0#10))
  | .amMin p d a b ty => some (packReg p 18#8 4#6 d a b 0#5 (packX ty.code 0#2 0#3 0#1 0#1 0#1 0#4 0#10))
  | .amMax p d a b ty => some (packReg p 18#8 5#6 d a b 0#5 (packX ty.code 0#2 0#3 0#1 0#1 0#1 0#4 0#10))
  | .amSwp p d a b ty => some (packReg p 18#8 6#6 d a b 0#5 (packX ty.code 0#2 0#3 0#1 0#1 0#1 0#4 0#10))
  | .amCas p d a b c ty => some (packReg p 18#8 7#6 d a b c (packX ty.code 0#2 0#3 0#1 0#1 0#1 0#4 0#10))
  | .br p im => some (packImm p 24#8 0#6 0#5 0#5 0#4 im)
  | .call p im => some (packImm p 24#8 1#6 0#5 0#5 0#4 im)
  | .jmp p a => some (packReg p 24#8 2#6 0#5 a 0#5 0#5 0#26)
  | .callr p a => some (packReg p 24#8 3#6 0#5 a 0#5 0#5 0#26)
  | .ret p a => some (packReg p 24#8 4#6 0#5 a 0#5 0#5 0#26)
  | .loop p a im => some (packImm p 25#8 0#6 0#5 a 0#4 im)
  | .crr p d idx => some (packImm p 26#8 0#6 d 0#5 0#4 (0#20 ++ idx))
  | .crw p idx a => some (packImm p 26#8 1#6 0#5 a 0#4 (0#20 ++ idx))
  | .crs p d idx a => some (packImm p 26#8 2#6 d a 0#4 (0#20 ++ idx))
  | .crc p d idx a => some (packImm p 26#8 3#6 d a 0#4 (0#20 ++ idx))
  | .pmapcInv p a => some (packImm p 26#8 1#6 0#5 a 0#4 (0#20 ++ 0x040#12))
  | .islcfgUnbind p a => some (packImm p 26#8 1#6 0#5 a 0#4 (0#20 ++ 0x031#12))
  | .vaddI p d a b ty l => some (packReg p 64#8 0#6 d a.field b 0#5 (packX ty.code 0#2 l.mask (bit1 l.ag) a.fqe a.fqi 0#4 0#10))
  | .vsubI p d a b ty l => some (packReg p 64#8 1#6 d a.field b 0#5 (packX ty.code 0#2 l.mask (bit1 l.ag) a.fqe a.fqi 0#4 0#10))
  | .vmulI p d a b ty l => some (packReg p 64#8 2#6 d a.field b 0#5 (packX ty.code 0#2 l.mask (bit1 l.ag) a.fqe a.fqi 0#4 0#10))
  | .vmulh p d a b ty l => some (packReg p 64#8 3#6 d a.field b 0#5 (packX ty.code 0#2 l.mask (bit1 l.ag) a.fqe a.fqi 0#4 0#10))
  | .vminI p d a b ty l => some (packReg p 64#8 4#6 d a.field b 0#5 (packX ty.code 0#2 l.mask (bit1 l.ag) a.fqe a.fqi 0#4 0#10))
  | .vmaxI p d a b ty l => some (packReg p 64#8 5#6 d a.field b 0#5 (packX ty.code 0#2 l.mask (bit1 l.ag) a.fqe a.fqi 0#4 0#10))
  | .vand p d a b ty l => some (packReg p 64#8 6#6 d a.field b 0#5 (packX ty.code 0#2 l.mask (bit1 l.ag) a.fqe a.fqi 0#4 0#10))
  | .vor p d a b ty l => some (packReg p 64#8 7#6 d a.field b 0#5 (packX ty.code 0#2 l.mask (bit1 l.ag) a.fqe a.fqi 0#4 0#10))
  | .vxor p d a b ty l => some (packReg p 64#8 8#6 d a.field b 0#5 (packX ty.code 0#2 l.mask (bit1 l.ag) a.fqe a.fqi 0#4 0#10))
  | .vshl p d a sh ty l => some (packReg p 64#8 9#6 d a.field sh.field 0#5 (packX ty.code 0#2 l.mask (bit1 l.ag) a.fqe a.fqi 0#4 sh.imm10))
  | .vshr p d a sh ty l => some (packReg p 64#8 10#6 d a.field sh.field 0#5 (packX ty.code 0#2 l.mask (bit1 l.ag) a.fqe a.fqi 0#4 sh.imm10))
  | .vsra p d a sh ty l => some (packReg p 64#8 11#6 d a.field sh.field 0#5 (packX ty.code 0#2 l.mask (bit1 l.ag) a.fqe a.fqi 0#4 sh.imm10))
  | .vabsI p d a ty l => some (packReg p 64#8 12#6 d a.field 0#5 0#5 (packX ty.code 0#2 l.mask (bit1 l.ag) a.fqe a.fqi 0#4 0#10))
  | .vnegI p d a ty l => some (packReg p 64#8 13#6 d a.field 0#5 0#5 (packX ty.code 0#2 l.mask (bit1 l.ag) a.fqe a.fqi 0#4 0#10))
  | .vadds p d a b ty l => some (packReg p 64#8 14#6 d a.field b 0#5 (packX ty.code 0#2 l.mask (bit1 l.ag) a.fqe a.fqi 0#4 0#10))
  | .vsubs p d a b ty l => some (packReg p 64#8 15#6 d a.field b 0#5 (packX ty.code 0#2 l.mask (bit1 l.ag) a.fqe a.fqi 0#4 0#10))
  | .vaddF p d a b ty rm l => some (packReg p 65#8 0#6 d a.field b 0#5 (packX ty.code rm.code l.mask (bit1 l.ag) a.fqe a.fqi 0#4 0#10))
  | .vsubF p d a b ty rm l => some (packReg p 65#8 1#6 d a.field b 0#5 (packX ty.code rm.code l.mask (bit1 l.ag) a.fqe a.fqi 0#4 0#10))
  | .vmulF p d a b ty rm l => some (packReg p 65#8 2#6 d a.field b 0#5 (packX ty.code rm.code l.mask (bit1 l.ag) a.fqe a.fqi 0#4 0#10))
  | .vminF p d a b ty l => some (packReg p 65#8 4#6 d a.field b 0#5 (packX ty.code 0#2 l.mask (bit1 l.ag) a.fqe a.fqi 0#4 0#10))
  | .vmaxF p d a b ty l => some (packReg p 65#8 5#6 d a.field b 0#5 (packX ty.code 0#2 l.mask (bit1 l.ag) a.fqe a.fqi 0#4 0#10))
  | .vabsF p d a ty l => some (packReg p 65#8 12#6 d a.field 0#5 0#5 (packX ty.code 0#2 l.mask (bit1 l.ag) a.fqe a.fqi 0#4 0#10))
  | .vnegF p d a ty l => some (packReg p 65#8 13#6 d a.field 0#5 0#5 (packX ty.code 0#2 l.mask (bit1 l.ag) a.fqe a.fqi 0#4 0#10))
  | .vfma p d a b c ty rm l => some (packReg p 66#8 0#6 d a.field b c (packX ty.code rm.code l.mask (bit1 l.ag) a.fqe a.fqi 0#4 0#10))
  | .vfms p d a b c ty rm l => some (packReg p 66#8 1#6 d a.field b c (packX ty.code rm.code l.mask (bit1 l.ag) a.fqe a.fqi 0#4 0#10))
  | .vfnma p d a b c ty rm l => some (packReg p 66#8 2#6 d a.field b c (packX ty.code rm.code l.mask (bit1 l.ag) a.fqe a.fqi 0#4 0#10))
  | .vdot p d a b c ty l => some (packReg p 66#8 8#6 d a.field b c (packX ty.code 0#2 l.mask (bit1 l.ag) a.fqe a.fqi 0#4 0#10))
  | .vcmpEq p d a b ty l => some (packReg p 67#8 0#6 (0#2 ++ d) a.field b 0#5 (packX ty.code 0#2 l.mask (bit1 l.ag) a.fqe a.fqi 0#4 0#10))
  | .vcmpNe p d a b ty l => some (packReg p 67#8 1#6 (0#2 ++ d) a.field b 0#5 (packX ty.code 0#2 l.mask (bit1 l.ag) a.fqe a.fqi 0#4 0#10))
  | .vcmpLt p d a b ty l => some (packReg p 67#8 2#6 (0#2 ++ d) a.field b 0#5 (packX ty.code 0#2 l.mask (bit1 l.ag) a.fqe a.fqi 0#4 0#10))
  | .vcmpGe p d a b ty l => some (packReg p 67#8 3#6 (0#2 ++ d) a.field b 0#5 (packX ty.code 0#2 l.mask (bit1 l.ag) a.fqe a.fqi 0#4 0#10))
  | .vcmpLo p d a b ty l => some (packReg p 67#8 4#6 (0#2 ++ d) a.field b 0#5 (packX ty.code 0#2 l.mask (bit1 l.ag) a.fqe a.fqi 0#4 0#10))
  | .vcmpHs p d a b ty l => some (packReg p 67#8 5#6 (0#2 ++ d) a.field b 0#5 (packX ty.code 0#2 l.mask (bit1 l.ag) a.fqe a.fqi 0#4 0#10))
  | .vcmpEqF p d a b ty l => some (packReg p 67#8 32#6 (0#2 ++ d) a.field b 0#5 (packX ty.code 0#2 l.mask (bit1 l.ag) a.fqe a.fqi 0#4 0#10))
  | .vcmpLtF p d a b ty l => some (packReg p 67#8 33#6 (0#2 ++ d) a.field b 0#5 (packX ty.code 0#2 l.mask (bit1 l.ag) a.fqe a.fqi 0#4 0#10))
  | .vcmpLeF p d a b ty l => some (packReg p 67#8 34#6 (0#2 ++ d) a.field b 0#5 (packX ty.code 0#2 l.mask (bit1 l.ag) a.fqe a.fqi 0#4 0#10))
  | .vcmpUnF p d a b ty l => some (packReg p 67#8 35#6 (0#2 ++ d) a.field b 0#5 (packX ty.code 0#2 l.mask (bit1 l.ag) a.fqe a.fqi 0#4 0#10))
  | .mand p d a b => some (packReg p 68#8 0#6 (0#2 ++ d) (0#2 ++ a) (0#2 ++ b) 0#5 0#26)
  | .mor p d a b => some (packReg p 68#8 1#6 (0#2 ++ d) (0#2 ++ a) (0#2 ++ b) 0#5 0#26)
  | .mxor p d a b => some (packReg p 68#8 2#6 (0#2 ++ d) (0#2 ++ a) (0#2 ++ b) 0#5 0#26)
  | .mandn p d a b => some (packReg p 68#8 3#6 (0#2 ++ d) (0#2 ++ a) (0#2 ++ b) 0#5 0#26)
  | .mpopc p d a => some (packReg p 68#8 8#6 d (0#2 ++ a) 0#5 0#5 0#26)
  | .mfirst p d a => some (packReg p 68#8 9#6 d (0#2 ++ a) 0#5 0#5 0#26)
  | .mtos p d a => some (packReg p 68#8 10#6 d (0#2 ++ a) 0#5 0#5 0#26)
  | .mfroms p d a => some (packReg p 68#8 11#6 (0#2 ++ d) a 0#5 0#5 0#26)
  | .vperm p d a b ty l => some (packReg p 69#8 0#6 d a.field b 0#5 (packX ty.code 0#2 l.mask (bit1 l.ag) a.fqe a.fqi 0#4 0#10))
  | .vbcast p d a ty l => some (packReg p 69#8 1#6 d a 0#5 0#5 (packX ty.code 0#2 l.mask (bit1 l.ag) 0#1 0#1 0#4 0#10))
  | .vins p d a k ty l => some (packReg p 69#8 2#6 d a 0#5 0#5 (packX ty.code 0#2 l.mask (bit1 l.ag) 0#1 0#1 0#4 k))
  | .vext p d a k ty => some (packReg p 69#8 3#6 d a.field 0#5 0#5 (packX ty.code 0#2 0#3 0#1 a.fqe a.fqi 0#4 k))
  | .vslide p d a b k ty l => some (packReg p 69#8 4#6 d a.field b 0#5 (packX ty.code 0#2 l.mask (bit1 l.ag) a.fqe a.fqi 0#4 k))
  | .vslided p d a b k ty l => some (packReg p 69#8 5#6 d a.field b 0#5 (packX ty.code 0#2 l.mask (bit1 l.ag) a.fqe a.fqi 0#4 k))
  | .vcomp p d a ty l => some (packReg p 69#8 6#6 d a.field 0#5 0#5 (packX ty.code 0#2 l.mask (bit1 l.ag) a.fqe a.fqi 0#4 0#10))
  | .vexpd p d a ty l => some (packReg p 69#8 7#6 d a.field 0#5 0#5 (packX ty.code 0#2 l.mask (bit1 l.ag) a.fqe a.fqi 0#4 0#10))
  | .vzip p d a b h ty l => some (packReg p 69#8 8#6 d a.field b 0#5 (packX ty.code 0#2 l.mask (bit1 l.ag) a.fqe a.fqi 0#4 (0#9 ++ h)))
  | .vunzip p d a b o ty l => some (packReg p 69#8 9#6 d a.field b 0#5 (packX ty.code 0#2 l.mask (bit1 l.ag) a.fqe a.fqi 0#4 (0#9 ++ o)))
  | .vredAdd p d a ty rm mk => some (packReg p 70#8 0#6 d a.field 0#5 0#5 (packX ty.code rm.code mk 0#1 a.fqe a.fqi 0#4 0#10))
  | .vredMin p d a ty mk => some (packReg p 70#8 1#6 d a.field 0#5 0#5 (packX ty.code 0#2 mk 0#1 a.fqe a.fqi 0#4 0#10))
  | .vredMax p d a ty mk => some (packReg p 70#8 2#6 d a.field 0#5 0#5 (packX ty.code 0#2 mk 0#1 a.fqe a.fqi 0#4 0#10))
  | .vredAnd p d a ty mk => some (packReg p 70#8 3#6 d a.field 0#5 0#5 (packX ty.code 0#2 mk 0#1 a.fqe a.fqi 0#4 0#10))
  | .vredOr p d a ty mk => some (packReg p 70#8 4#6 d a.field 0#5 0#5 (packX ty.code 0#2 mk 0#1 a.fqe a.fqi 0#4 0#10))
  | .vredXor p d a ty mk => some (packReg p 70#8 5#6 d a.field 0#5 0#5 (packX ty.code 0#2 mk 0#1 a.fqe a.fqi 0#4 0#10))
  | .vcvt p d a ty ty2 rnd part l => some (packReg p 71#8 0#6 d a.field 0#5 rnd.seed (packX ty.code rnd.code l.mask (bit1 l.ag) a.fqe a.fqi ty2.code (0#7 ++ part)))
  | .badd p d a b ty rnd l => some (packReg p 72#8 0#6 d a.field b rnd.seed (packX ty.code rnd.code l.mask (bit1 l.ag) a.fqe a.fqi 0#4 0#10))
  | .bsub p d a b ty rnd l => some (packReg p 72#8 1#6 d a.field b rnd.seed (packX ty.code rnd.code l.mask (bit1 l.ag) a.fqe a.fqi 0#4 0#10))
  | .bmul p d a b ty rnd l => some (packReg p 72#8 2#6 d a.field b rnd.seed (packX ty.code rnd.code l.mask (bit1 l.ag) a.fqe a.fqi 0#4 0#10))
  | .bmin p d a b ty rnd l => some (packReg p 72#8 3#6 d a.field b rnd.seed (packX ty.code rnd.code l.mask (bit1 l.ag) a.fqe a.fqi 0#4 0#10))
  | .bmax p d a b ty rnd l => some (packReg p 72#8 4#6 d a.field b rnd.seed (packX ty.code rnd.code l.mask (bit1 l.ag) a.fqe a.fqi 0#4 0#10))
  | .bneg p d a ty rnd l => some (packReg p 72#8 5#6 d a.field 0#5 rnd.seed (packX ty.code rnd.code l.mask (bit1 l.ag) a.fqe a.fqi 0#4 0#10))
  | .bscale p d a k ty rnd l => some (packReg p 72#8 6#6 d a.field 0#5 rnd.seed (packX ty.code rnd.code l.mask (bit1 l.ag) a.fqe a.fqi 0#4 k))
  | .bnorm p d a ty rnd l => some (packReg p 73#8 0#6 d a.field 0#5 rnd.seed (packX ty.code rnd.code l.mask (bit1 l.ag) a.fqe a.fqi 0#4 0#10))
  | .btof p d a ty ty2 rnd part l => some (packReg p 73#8 1#6 d a.field 0#5 rnd.seed (packX ty.code rnd.code l.mask (bit1 l.ag) a.fqe a.fqi ty2.code (0#7 ++ part)))
  | .bfromf p d a b ty ty2 rnd k => some (packReg p 73#8 2#6 d a b rnd.seed (packX ty.code rnd.code 0#3 0#1 0#1 0#1 ty2.code (0#8 ++ k)))
  | .brefmt p d a ty ty2 rnd part l => some (packReg p 73#8 3#6 d a.field 0#5 rnd.seed (packX ty.code rnd.code l.mask (bit1 l.ag) a.fqe a.fqi ty2.code (0#7 ++ part)))
  | .bgeth p d a k => some (packReg p 73#8 4#6 d a.field 0#5 0#5 (packX 0#4 0#2 0#3 0#1 a.fqe a.fqi 0#4 (0#8 ++ k)))
  | .bseth p d a k => some (packReg p 73#8 5#6 d a 0#5 0#5 (packX 0#4 0#2 0#3 0#1 0#1 0#1 0#4 (0#8 ++ k)))
  | .vrcp p d a l => some (packReg p 74#8 0#6 d a.field 0#5 0#5 (packX 11#4 0#2 l.mask (bit1 l.ag) a.fqe a.fqi 0#4 0#10))
  | .vrsq p d a l => some (packReg p 74#8 1#6 d a.field 0#5 0#5 (packX 11#4 0#2 l.mask (bit1 l.ag) a.fqe a.fqi 0#4 0#10))
  | .vexp2 p d a l => some (packReg p 74#8 2#6 d a.field 0#5 0#5 (packX 11#4 0#2 l.mask (bit1 l.ag) a.fqe a.fqi 0#4 0#10))
  | .vlog2 p d a l => some (packReg p 74#8 3#6 d a.field 0#5 0#5 (packX 11#4 0#2 l.mask (bit1 l.ag) a.fqe a.fqi 0#4 0#10))
  | .vld p d a k l => some (packReg p 75#8 0#6 d a 0#5 0#5 (packX 0#4 0#2 l.mask (bit1 l.ag) 0#1 0#1 0#4 k))
  | .vst p d a k mk => some (packReg p 75#8 1#6 d a 0#5 0#5 (packX 0#4 0#2 mk 0#1 0#1 0#1 0#4 k))
  | .vldx p d a b l => some (packReg p 75#8 2#6 d a b 0#5 (packX 0#4 0#2 l.mask (bit1 l.ag) 0#1 0#1 0#4 0#10))
  | .vstx p d a b mk => some (packReg p 75#8 3#6 d a b 0#5 (packX 0#4 0#2 mk 0#1 0#1 0#1 0#4 0#10))
  | .bld p d a b ty k => some (packReg p 75#8 8#6 d a b 0#5 (packX ty.code 0#2 0#3 0#1 0#1 0#1 0#4 k))
  | .bst p d a b ty k => some (packReg p 75#8 9#6 d a b 0#5 (packX ty.code 0#2 0#3 0#1 0#1 0#1 0#4 k))
  | .fqpop p d q => some (packReg p 76#8 0#6 d 0#5 0#5 0#5 (packX 0#4 0#2 0#3 0#1 1#1 q 0#4 0#10))
  | .fqdrop p q => some (packReg p 76#8 2#6 0#5 0#5 0#5 0#5 (packX 0#4 0#2 0#3 0#1 1#1 q 0#4 0#10))
  | .fqmark p gd q msk => some (packPrd p 76#8 1#6 gd (0#4 ++ q) 0#5 (packX 0#4 0#2 0#3 0#1 0#1 0#1 0#4 (0#1 ++ msk)))
  | .mma p d a b c ty h bl => some (packReg p 128#8 0#6 (0#3 ++ d) a b c (packX ty.code 0#2 0#3 0#1 0#1 0#1 0#4 (0#8 ++ (h ++ bl))))
  | .mman p d a b c ty h bl => some (packReg p 128#8 1#6 (0#3 ++ d) a b c (packX ty.code 0#2 0#3 0#1 0#1 0#1 0#4 (0#8 ++ (h ++ bl))))
  | .mmaTileWrite _ => none
  | .accz p d t => some (packReg p 129#8 0#6 (0#3 ++ d) 0#5 0#5 0#5 (packX 0#4 0#2 0#3 0#1 0#1 0#1 0#4 t))
  | .accmode p d m => some (packReg p 129#8 1#6 (0#3 ++ d) 0#5 0#5 0#5 (packX 0#4 0#2 0#3 0#1 0#1 0#1 0#4 (0#9 ++ m)))
  | .accrd p d a row q ty rnd => some (packReg p 129#8 2#6 d (0#3 ++ a) 0#5 rnd.seed (packX ty.code rnd.code 0#3 0#1 0#1 0#1 0#4 (0#3 ++ (q ++ row))))
  | .accwr p d a row q ty => some (packReg p 129#8 3#6 (0#3 ++ d) a 0#5 0#5 (packX ty.code 0#2 0#3 0#1 0#1 0#1 0#4 (0#3 ++ (q ++ row))))
  | .accexp p d a row q ty rnd => some (packReg p 129#8 4#6 d (0#3 ++ a) 0#5 rnd.seed (packX ty.code rnd.code 0#3 0#1 0#1 0#1 0#4 (0#3 ++ (q ++ row))))
  | .accswp p d a => some (packReg p 129#8 5#6 (0#3 ++ d) (0#3 ++ a) 0#5 0#5 0#26)
  | .accsc p d a => some (packReg p 129#8 6#6 (0#3 ++ d) a 0#5 0#5 0#26)
  | .accscFit p d => some (packReg p 129#8 6#6 (0#3 ++ d) 0#5 0#5 0#5 (packX 0#4 0#2 0#3 0#1 0#1 0#1 0#4 (0#9 ++ 1#1)))
  | .accraw p d a row q => some (packReg p 129#8 7#6 d (0#3 ++ a) 0#5 0#5 (packX 0#4 0#2 0#3 0#1 0#1 0#1 0#4 (0#3 ++ (q ++ row))))
  | .accrawOrg p d a => some (packReg p 129#8 7#6 d (0#3 ++ a) 0#5 0#5 (packX 0#4 0#2 0#3 0#1 0#1 0#1 0#4 (1#1 ++ 0#9)))
  | .macq p gd => some (packPrd p 130#8 0#6 gd 0#5 0#5 0#26)
  | .mrel p => some (packReg p 130#8 1#6 0#5 0#5 0#5 0#5 0#26)
  | .mxfr p => some (packReg p 130#8 2#6 0#5 0#5 0#5 0#5 0#26)
  | .mxfrMigrate p a b => some (packReg p 130#8 2#6 0#5 (0#3 ++ a) (0#3 ++ b) 0#5 (packX 0#4 0#2 0#3 0#1 0#1 0#1 0#4 (0#9 ++ 1#1)))
  | .migrationDone _ => none
  | .twr p d a => some (packReg p 131#8 0#6 d (0#2 ++ a) 0#5 0#5 0#26)
  | .tww p d a => some (packReg p 131#8 1#6 (0#2 ++ d) a 0#5 0#5 0#26)
  | .xcht p d a => some (packReg p 131#8 2#6 d (0#2 ++ a) 0#5 0#5 0#26)
  | .blld p d a b ty => some (packReg p 132#8 0#6 (0#4 ++ d) a b 0#5 (packX ty.code 0#2 0#3 0#1 0#1 0#1 0#4 0#10))
  | .blmv p d a j ty => some (packReg p 132#8 1#6 (0#4 ++ d) a 0#5 0#5 (packX ty.code 0#2 0#3 0#1 0#1 0#1 0#4 (0#5 ++ j)))
  | .blclr p d => some (packReg p 132#8 2#6 (0#4 ++ d) 0#5 0#5 0#5 0#26)
  | .send p a b c ch => some (packReg p 160#8 0#6 0#5 a b c (packX 0#4 0#2 0#3 0#1 0#1 0#1 0#4 (0#4 ++ ch)))
  | .sendRel p a b c ch => some (packReg p 160#8 1#6 0#5 a b c (packX 0#4 0#2 0#3 0#1 0#1 0#1 0#4 (0#4 ++ ch)))
  | .xsend p a b c ch => some (packReg p 160#8 2#6 0#5 a b c (packX 0#4 0#2 0#3 0#1 0#1 0#1 0#4 (0#4 ++ ch)))
  | .xsendRel p a b c ch => some (packReg p 160#8 3#6 0#5 a b c (packX 0#4 0#2 0#3 0#1 0#1 0#1 0#4 (0#4 ++ ch)))
  | .chbindWake p a ci => some (packImm p 161#8 0#6 0#5 a 0#4 (0#17 ++ (ci.ctx ++ ((bit1 ci.pin) ++ ((bit1 ci.x) ++ (ci.prio ++ (0#2 ++ ci.ch)))))))
  | .chbindLand p d a ci => some (packImm p 161#8 0#6 d a 2#4 (0#17 ++ (ci.ctx ++ ((bit1 ci.pin) ++ ((bit1 ci.x) ++ (ci.prio ++ (0#2 ++ ci.ch)))))))
  | .chbindFeed p d a ci => some (packImm p 161#8 0#6 d a 3#4 (0#17 ++ (ci.ctx ++ ((bit1 ci.pin) ++ ((bit1 ci.x) ++ (ci.prio ++ (0#2 ++ ci.ch)))))))
  | .jset p a b set prio x => some (packReg p 161#8 1#6 0#5 a b 0#5 (packX 0#4 0#2 0#3 0#1 0#1 0#1 0#4 (0#2 ++ (x ++ (prio ++ set)))))
  | .chunb p ch => some (packImm p 161#8 2#6 0#5 0#5 0#4 (0#26 ++ ch))
  | .chst p d ch => some (packImm p 161#8 3#6 d 0#5 0#4 (0#26 ++ ch))
  | .awaitCtr p a k => some (packImm p 162#8 0#6 0#5 a 0#4 (0#28 ++ k))
  | .awaitBatch p a => some (packImm p 162#8 0#6 0#5 a 1#4 0#32)
  | .awaitLic p => some (packImm p 162#8 0#6 0#5 0#5 2#4 0#32)
  | .awaitTkt p a => some (packImm p 162#8 0#6 0#5 a 3#4 0#32)
  | .awaitChan p ch => some (packImm p 162#8 0#6 0#5 0#5 4#4 (0#26 ++ ch))
  | .yield p => some (packReg p 162#8 1#6 0#5 0#5 0#5 0#5 0#26)
  | .endAct p => some (packReg p 162#8 2#6 0#5 0#5 0#5 0#5 0#26)
  | .slvl p d a b lv => some (packReg p 163#8 0#6 d a b 0#5 (packX 0#4 0#2 0#3 0#1 0#1 0#1 0#4 (0#7 ++ lv)))
  | .scpy p d a b c sp dp st => some (packReg p 163#8 1#6 (scpyD d) a b c (packX 0#4 0#2 0#3 0#1 0#1 0#1 0#4 (0#2 ++ (st ++ ((scpyDN d) ++ (dp ++ sp))))))
  | .sgth p d a b c sp st => some (packReg p 163#8 2#6 d a b c (packX 0#4 0#2 0#3 0#1 0#1 0#1 0#4 (0#2 ++ (st ++ (0#3 ++ sp)))))
  | .sfq p d a c sp q cl st => some (packReg p 163#8 3#6 d a 0#5 c (packX 0#4 0#2 0#3 0#1 0#1 0#1 0#4 (st ++ (cl ++ (q ++ (0#1 ++ sp))))))
  | .sfqRemote p d a b c cl st => some (packReg p 163#8 3#6 d a b c (packX 0#4 0#2 0#3 0#1 0#1 0#1 0#4 (st ++ (cl ++ (0#1 ++ (1#1 ++ 0#2))))))
  | .sbar p mask => some (packReg p 163#8 4#6 0#5 0#5 0#5 0#5 (packX 0#4 0#2 0#3 0#1 0#1 0#1 0#4 (0#2 ++ mask)))
  | .bseal p d => some (packReg p 164#8 0#6 d 0#5 0#5 0#5 0#26)
  | .waitb p n => some (packImm p 164#8 1#6 0#5 0#5 0#4 (0#16 ++ n))
  | .bstat p d a => some (packReg p 164#8 2#6 d a 0#5 0#5 0#26)
  | .put p d a b c => some (packReg p 165#8 0#6 d a b c 0#26)
  | .get p d a b c => some (packReg p 165#8 1#6 d a b c 0#26)
  | .tkst p d a => some (packReg p 165#8 2#6 d a 0#5 0#5 0#26)
  | .tkstValue p d a => some (packReg p 165#8 2#6 d a 0#5 0#5 (packX 0#4 0#2 0#3 0#1 0#1 0#1 0#4 (0#9 ++ 1#1)))
  | .raAdd p d a b ty => some (packReg p 165#8 8#6 d a b 0#5 (packX ty.code 0#2 0#3 0#1 0#1 0#1 0#4 0#10))
  | .raAnd p d a b ty => some (packReg p 165#8 9#6 d a b 0#5 (packX ty.code 0#2 0#3 0#1 0#1 0#1 0#4 0#10))
  | .raOr p d a b ty => some (packReg p 165#8 10#6 d a b 0#5 (packX ty.code 0#2 0#3 0#1 0#1 0#1 0#4 0#10))
  | .raXor p d a b ty => some (packReg p 165#8 11#6 d a b 0#5 (packX ty.code 0#2 0#3 0#1 0#1 0#1 0#4 0#10))
  | .raMin p d a b ty => some (packReg p 165#8 12#6 d a b 0#5 (packX ty.code 0#2 0#3 0#1 0#1 0#1 0#4 0#10))
  | .raMax p d a b ty => some (packReg p 165#8 13#6 d a b 0#5 (packX ty.code 0#2 0#3 0#1 0#1 0#1 0#4 0#10))
  | .raSwp p d a b ty => some (packReg p 165#8 14#6 d a b 0#5 (packX ty.code 0#2 0#3 0#1 0#1 0#1 0#4 0#10))
  | .raCas p d a b c ty => some (packReg p 165#8 15#6 d a b c (packX ty.code 0#2 0#3 0#1 0#1 0#1 0#4 0#10))
  | .ctrb p d a b ip => some (packReg p 166#8 0#6 d a b 0#5 (packX 0#4 0#2 0#3 0#1 0#1 0#1 0#4 (0#9 ++ ip)))
  | .tbuild p d a => some (packReg p 166#8 1#6 d a 0#5 0#5 0#26)
  | .tfree p d a => some (packReg p 166#8 2#6 d a 0#5 0#5 0#26)
  | .tabort p a => some (packReg p 166#8 3#6 0#5 a 0#5 0#5 0#26)
  | .tqryStatus p d a => some (packReg p 166#8 4#6 d a 0#5 0#5 0#26)
  | .tqryDoneBitmap p d a => some (packReg p 166#8 4#6 d a 0#5 0#5 (packX 0#4 0#2 0#3 0#1 0#1 0#1 0#4 1#10))
  | .tqryQuorumCount p d a => some (packReg p 166#8 4#6 d a 0#5 0#5 (packX 0#4 0#2 0#3 0#1 0#1 0#1 0#4 2#10))
  | .fenceCtx p => some (packImm p 167#8 0#6 0#5 0#5 0#4 0#32)
  | .fenceCore p => some (packImm p 167#8 0#6 0#5 0#5 1#4 0#32)
  | .fencePair p => some (packImm p 167#8 0#6 0#5 0#5 2#4 0#32)
  | .fenceGrp p => some (packImm p 167#8 0#6 0#5 0#5 3#4 0#32)
  | .fenceMod p => some (packImm p 167#8 0#6 0#5 0#5 4#4 0#32)
  | .fenceSys p => some (packImm p 167#8 0#6 0#5 0#5 5#4 0#32)
  | .acset p a k => some (packReg p 168#8 0#6 0#5 a 0#5 0#5 (packX 0#4 0#2 0#3 0#1 0#1 0#1 0#4 (0#6 ++ k)))
  | .acadd p d a k => some (packReg p 168#8 1#6 d a 0#5 0#5 (packX 0#4 0#2 0#3 0#1 0#1 0#1 0#4 (0#6 ++ k)))
  | .acrd p d k => some (packReg p 168#8 2#6 d 0#5 0#5 0#5 (packX 0#4 0#2 0#3 0#1 0#1 0#1 0#4 (0#6 ++ k)))
  | .suspend p d a b c => some (packReg p 192#8 0#6 d a b c 0#26)
  | .resume p d a b c f => some (packReg p 192#8 1#6 d a b c (packX 0#4 0#2 0#3 0#1 0#1 0#1 0#4 (0#9 ++ f)))
  | .resumeSt p d a b c f => some (packReg p 192#8 2#6 d a b c (packX 0#4 0#2 0#3 0#1 0#1 0#1 0#4 (0#9 ++ f)))
  | .copy p d a b c => some (packReg p 192#8 3#6 d a b c 0#26)
  | .copySt p d a b c => some (packReg p 192#8 4#6 d a b c 0#26)
  | .discard p d a b => some (packReg p 192#8 5#6 d a b 0#5 0#26)
  | .discardSt p d a b => some (packReg p 192#8 6#6 d a b 0#5 0#26)
  | .trap p code => some (packReg p 193#8 0#6 0#5 0#5 0#5 0#5 (packX 0#4 0#2 0#3 0#1 0#1 0#1 0#4 code))
  | .bkpt p code => some (packReg p 193#8 2#6 0#5 0#5 0#5 0#5 (packX 0#4 0#2 0#3 0#1 0#1 0#1 0#4 code))
  | .tretReissue p => some (packReg p 193#8 1#6 0#5 0#5 0#5 0#5 0#26)
  | .tretNext p => some (packReg p 193#8 1#6 0#5 0#5 0#5 0#5 (packX 0#4 0#2 0#3 0#1 0#1 0#1 0#4 (0#8 ++ 1#2)))
  | .tretTarget p a => some (packReg p 193#8 1#6 0#5 a 0#5 0#5 (packX 0#4 0#2 0#3 0#1 0#1 0#1 0#4 (0#8 ++ 2#2)))
  | .isbind p d a => some (packReg p 194#8 0#6 d a 0#5 0#5 0#26)
  | .isrel p => some (packReg p 194#8 1#6 0#5 0#5 0#5 0#5 0#26)
  | .isendLatch p a b bl j ty => some (packReg p 194#8 2#6 0#5 a b 0#5 (packX ty.code 0#2 0#3 0#1 0#1 0#1 0#4 (j ++ (0#4 ++ bl))))
  | .isendTwin p a b tw => some (packReg p 194#8 2#6 0#5 a b 0#5 (packX 0#4 0#2 0#3 0#1 0#1 0#1 0#4 (0#5 ++ (tw ++ 2#2))))
  | .issync p a => some (packReg p 194#8 3#6 0#5 a 0#5 0#5 0#26)
  | .scheduleValueReached _ => none
  | .launch p d a b => some (packReg p 195#8 0#6 d a b 0#5 0#26)
  | .evsig p a b => some (packReg p 195#8 1#6 0#5 a b 0#5 0#26)
  | .evarm p a b ch => some (packReg p 195#8 2#6 0#5 a b 0#5 (packX 0#4 0#2 0#3 0#1 0#1 0#1 0#4 (0#4 ++ ch)))
  | .evrd p d a b => some (packReg p 195#8 3#6 d a b 0#5 0#26)
  | .psnqScalar p d a => some (packReg p 196#8 0#6 d a 0#5 0#5 0#26)
  | .psnqVector p d a half k => some (packReg p 196#8 0#6 d a 0#5 0#5 (packX 0#4 0#2 0#3 0#1 0#1 0#1 0#4 (0#5 ++ (k ++ (half ++ 1#2)))))
  | .psnqAcc p d a half => some (packReg p 196#8 0#6 d (0#3 ++ a) 0#5 0#5 (packX 0#4 0#2 0#3 0#1 0#1 0#1 0#4 (0#7 ++ (half ++ 2#2))))
  | .psnqTwin p d a half => some (packReg p 196#8 0#6 d (0#2 ++ a) 0#5 0#5 (packX 0#4 0#2 0#3 0#1 0#1 0#1 0#4 (0#7 ++ (half ++ 3#2))))
  | .psncls p d => some (packReg p 196#8 1#6 d 0#5 0#5 0#5 0#26)
  | .psnclv p d => some (packReg p 196#8 2#6 d 0#5 0#5 0#5 0#26)
  | .psncla p d => some (packReg p 196#8 3#6 (0#3 ++ d) 0#5 0#5 0#5 0#26)
  | .selectActivation _ => none
  | .conditionMet _ _ => none
  | .watchdogExpiry _ => none
  | .messageOffer _ => none
  | .reoffer _ _ => none
  | .putPerform _ => none
  | .getServe _ => none
  | .raPerform _ => none
  | .streamStorePerform _ => none
  | .streamReadServe _ => none
  | .acknowledgement _ => none
  | .getData _ => none
  | .refusal _ => none
  | .staleName _ => none
  | .retranslateCheck _ _ => none
  | .deliveryFailure _ => none
  | .unlistedKind _ => none
  | .streamStart _ _ => none
  | .streamFinish _ _ => none
  | .timedLanding _ _ => none
  | .islandBind _ _ => none
  | .isto _ _ => none
  | .droopTrip _ => none
  | .droopClear _ => none
  | .epochStep _ => none
  | .launchEnqueue _ => none
  | .recordSlotWrite _ _ _ => none
  | .startGroup _ => none
  | .eventSignal _ => none
  | .evrdResponse _ => none
  | .faultRecordPost _ => none
  | .treeBuild _ => none
  | .treeRemove _ => none
  | .terminationProbe _ => none
  | .probeWave _ => none
  | .pageRelease _ => none
  | .scrubDone _ => none
  | .compaction _ => none
  | .preemption _ => none
  | .sprigMarker _ => none
  | .sealSprig _ => none
  | .debtResolution _ _ => none
  | .sprigStep _ => none
  | .autoResume _ => none
  | .generationClose _ _ => none
  | .drainMarker _ _ _ _ => none
  | .allDrained _ => none
  | .generationOpen _ _ => none
  | .rotationDue _ => none
  | .rotate _ => none
  | .detectedTransient _ _ => none
  | .uncorrectableError _ _ => none
  | .correctableError => none
  | .linkRetry _ _ => none
  | .retireCore _ _ => none
  | .cxlAccess _ => none
  | .cxlCompletion _ _ => none
  | .cxlTimeout _ => none
  | .walkComplete _ => none
  | .hostAccess _ _ _ _ => none
  | .birsp _ _ _ => none
  | .xinv _ _ => none
  | .eventWordAdd _ _ => none
  | .clrf _ => none
  | .msixArm _ _ => none
  | .faultLogEmpty _ => none
  | .mgmtLogEmpty => none
  | .treeSlotSelect _ => none
  | .routeUpdate _ _ _ => none
  | .mgmtWrite _ _ => none
  | .go => none
  | .rst => none
  | .moduleReset => none
  | .nonceWrite _ _ => none
  | .attestReady => none
  | .thermalTrip _ => none
  | .combineUnit _ => none
  | .rnq _ => none
  | .rnm _ => none
  | .resultDelivery _ => none
  | .quorumWait _ _ _ _ => none
  | .quorumDeadline _ _ => none
  | .treeJoin _ => none
  | .treePartial _ => none
  | .detach _ _ _ => none
  | .frameReceive _ _ => none
  | .frameResend _ _ => none
  | .ackTimer _ _ => none
  | .handshake _ _ => none
  | .sessionClose _ _ => none
  | .sessionTimeout _ _ => none
  | .rekey _ _ => none
  | .localRetry _ _ => none
  | .retraining _ => none
  | .linkDown _ => none
  | .killGroup _ => none
  | .suspendRequest _ => none
  | .sprigOperationRequest _ => none
  | .advanceSpacingElapsed _ => none
  | .localLinkAck _ _ => none
  | .retrainingComplete _ => none
  | .selfTestFailure _ => none
  | .powerLoss => none
  | .clearBar _ _ => none
  | .firmwareUpdate _ _ => none
  | .raiseFusedMinimum _ _ => none

/-- The instructions of OP 0x01 (R80), before the checks of R77. -/
def candidate01 (w : Word) : Except Reject Instr :=
  match (wFn w).toNat with
  | 0 => .ok (.add (wP w) (wD w) (wA w) (wB w))
  | 1 => .ok (.sub (wP w) (wD w) (wA w) (wB w))
  | 2 => .ok (.and (wP w) (wD w) (wA w) (wB w))
  | 3 => .ok (.or (wP w) (wD w) (wA w) (wB w))
  | 4 => .ok (.xor (wP w) (wD w) (wA w) (wB w))
  | 5 => .ok (.andn (wP w) (wD w) (wA w) (wB w))
  | 6 => .ok (.shl (wP w) (wD w) (wA w) (wB w))
  | 7 => .ok (.shr (wP w) (wD w) (wA w) (wB w))
  | 8 => .ok (.sra (wP w) (wD w) (wA w) (wB w))
  | 9 => .ok (.ror (wP w) (wD w) (wA w) (wB w))
  | 10 => .ok (.min (wP w) (wD w) (wA w) (wB w))
  | 11 => .ok (.max (wP w) (wD w) (wA w) (wB w))
  | 12 => .ok (.minn (wP w) (wD w) (wA w) (wB w))
  | 13 => .ok (.maxn (wP w) (wD w) (wA w) (wB w))
  | _ => .error .function

/-- The instructions of OP 0x02 (R80), before the checks of R77. -/
def candidate02 (w : Word) : Except Reject Instr :=
  match (wFn w).toNat with
  | 0 => .ok (.addi (wP w) (wD w) (wA w) (wI32 w))
  | 1 => .ok (.andi (wP w) (wD w) (wA w) (wI32 w))
  | 2 => .ok (.ori (wP w) (wD w) (wA w) (wI32 w))
  | 3 => .ok (.xori (wP w) (wD w) (wA w) (wI32 w))
  | 4 => .ok (.shli (wP w) (wD w) (wA w) ((wI32 w).extractLsb' 0 6))
  | 5 => .ok (.shri (wP w) (wD w) (wA w) ((wI32 w).extractLsb' 0 6))
  | 6 => .ok (.srai (wP w) (wD w) (wA w) ((wI32 w).extractLsb' 0 6))
  | _ => .error .function

/-- The instructions of OP 0x03 (R80), before the checks of R77. -/
def candidate03 (w : Word) : Except Reject Instr :=
  match (wFn w).toNat with
  | 0 => .ok (.mul (wP w) (wD w) (wA w) (wB w))
  | 1 => .ok (.mulh (wP w) (wD w) (wA w) (wB w))
  | 2 => .ok (.mulhn (wP w) (wD w) (wA w) (wB w))
  | 3 => .ok (.div (wP w) (wD w) (wA w) (wB w))
  | 4 => .ok (.divn (wP w) (wD w) (wA w) (wB w))
  | 5 => .ok (.rem (wP w) (wD w) (wA w) (wB w))
  | 6 => .ok (.remn (wP w) (wD w) (wA w) (wB w))
  | _ => .error .function

/-- The instructions of OP 0x04 (R80), before the checks of R77. -/
def candidate04 (w : Word) : Except Reject Instr :=
  match (wFn w).toNat with
  | 0 => .ok (.cmpEq (wP w) (wGd w) (wA w) (wB w))
  | 1 => .ok (.cmpNe (wP w) (wGd w) (wA w) (wB w))
  | 2 => .ok (.cmpLt (wP w) (wGd w) (wA w) (wB w))
  | 3 => .ok (.cmpGe (wP w) (wGd w) (wA w) (wB w))
  | 4 => .ok (.cmpLo (wP w) (wGd w) (wA w) (wB w))
  | 5 => .ok (.cmpHs (wP w) (wGd w) (wA w) (wB w))
  | 16 => .ok (.cmpiEq (wP w) (wGdi w) (wA w) (wI32 w))
  | 17 => .ok (.cmpiNe (wP w) (wGdi w) (wA w) (wI32 w))
  | 18 => .ok (.cmpiLt (wP w) (wGdi w) (wA w) (wI32 w))
  | 19 => .ok (.cmpiGe (wP w) (wGdi w) (wA w) (wI32 w))
  | 20 => .ok (.cmpiLo (wP w) (wGdi w) (wA w) (wI32 w))
  | 21 => .ok (.cmpiHs (wP w) (wGdi w) (wA w) (wI32 w))
  | 32 => .ok (.fcmpEq (wP w) (wGd w) (wA w) (wB w) (Ty.ofCode (wTy w)))
  | 33 => .ok (.fcmpLt (wP w) (wGd w) (wA w) (wB w) (Ty.ofCode (wTy w)))
  | 34 => .ok (.fcmpLe (wP w) (wGd w) (wA w) (wB w) (Ty.ofCode (wTy w)))
  | 35 => .ok (.fcmpUn (wP w) (wGd w) (wA w) (wB w) (Ty.ofCode (wTy w)))
  | _ => .error .function

/-- The instructions of OP 0x05 (R80), before the checks of R77. -/
def candidate05 (w : Word) : Except Reject Instr :=
  match (wFn w).toNat with
  | 0 => .ok (.gand (wP w) (wGd w) ((wA w).extractLsb' 0 3) ((wB w).extractLsb' 0 3))
  | 1 => .ok (.gor (wP w) (wGd w) ((wA w).extractLsb' 0 3) ((wB w).extractLsb' 0 3))
  | 2 => .ok (.gxor (wP w) (wGd w) ((wA w).extractLsb' 0 3) ((wB w).extractLsb' 0 3))
  | 3 => .ok (.gandn (wP w) (wGd w) ((wA w).extractLsb' 0 3) ((wB w).extractLsb' 0 3))
  | 8 => .ok (.gset (wP w) (wGd w) ((wI10 w).extractLsb' 0 1))
  | 9 => .ok (.grd (wP w) (wD w))
  | _ => .error .function

/-- The instructions of OP 0x06 (R80), before the checks of R77. -/
def candidate06 (w : Word) : Except Reject Instr :=
  match (wFn w).toNat with
  | 0 => .ok (.fadd (wP w) (wD w) (wA w) (wB w) (Ty.ofCode (wTy w)) (Rz.ofCode (wRm w)))
  | 1 => .ok (.fsub (wP w) (wD w) (wA w) (wB w) (Ty.ofCode (wTy w)) (Rz.ofCode (wRm w)))
  | 2 => .ok (.fmul (wP w) (wD w) (wA w) (wB w) (Ty.ofCode (wTy w)) (Rz.ofCode (wRm w)))
  | 3 => .ok (.fdiv (wP w) (wD w) (wA w) (wB w) (Ty.ofCode (wTy w)) (Rz.ofCode (wRm w)))
  | 4 => .ok (.fsqrt (wP w) (wD w) (wA w) (Ty.ofCode (wTy w)) (Rz.ofCode (wRm w)))
  | 5 => .ok (.fma (wP w) (wD w) (wA w) (wB w) (wC w) (Ty.ofCode (wTy w)) (Rz.ofCode (wRm w)))
  | 6 => .ok (.fmin (wP w) (wD w) (wA w) (wB w) (Ty.ofCode (wTy w)) (Rz.ofCode (wRm w)))
  | 7 => .ok (.fmax (wP w) (wD w) (wA w) (wB w) (Ty.ofCode (wTy w)) (Rz.ofCode (wRm w)))
  | _ => .error .function

/-- The instructions of OP 0x07 (R80), before the checks of R77. -/
def candidate07 (w : Word) : Except Reject Instr :=
  match (wFn w).toNat with
  | 0 => .ok (.cvt (wP w) (wD w) (wA w) (Ty.ofCode (wTy w)) (Ty.ofCode (wTy2 w)) (Rnd.ofCode (wRm w) (wC w)))
  | _ => .error .function

/-- The instructions of OP 0x08 (R80), before the checks of R77. -/
def candidate08 (w : Word) : Except Reject Instr :=
  match (wFn w).toNat with
  | 0 => .ok (.clz (wP w) (wD w) (wA w))
  | 1 => .ok (.ctz (wP w) (wD w) (wA w))
  | 2 => .ok (.popc (wP w) (wD w) (wA w))
  | 3 => .ok (.bext (wP w) (wD w) (wA w) (wB w))
  | 4 => .ok (.bins (wP w) (wD w) (wA w) (wB w))
  | _ => .error .function

/-- The instructions of OP 0x09 (R80), before the checks of R77. -/
def candidate09 (w : Word) : Except Reject Instr :=
  match (wFn w).toNat with
  | 0 => .ok (.mov (wP w) (wD w) (wA w))
  | 1 => .ok (.sel (wP w) (wD w) (wA w) (wB w) ((wC w).extractLsb' 0 3))
  | 2 => .ok (.movi (wP w) (wD w) (wI32 w))
  | 3 => .ok (.movih (wP w) (wD w) (wI32 w))
  | 4 => .ok (.adr (wP w) (wD w) (wI32 w))
  | _ => .error .function

/-- The instructions of OP 0x10 (R80), before the checks of R77. -/
def candidate10 (w : Word) : Except Reject Instr :=
  match (wFn w).toNat with
  | 0 => .ok (.ldI8 (wP w) (wD w) (wA w) (wI32 w))
  | 1 => .ok (.ldI16 (wP w) (wD w) (wA w) (wI32 w))
  | 2 => .ok (.ldI32 (wP w) (wD w) (wA w) (wI32 w))
  | 3 => .ok (.ldI64 (wP w) (wD w) (wA w) (wI32 w))
  | 4 => .ok (.ldN8 (wP w) (wD w) (wA w) (wI32 w))
  | 5 => .ok (.ldN16 (wP w) (wD w) (wA w) (wI32 w))
  | 6 => .ok (.ldN32 (wP w) (wD w) (wA w) (wI32 w))
  | _ => .error .function

/-- The instructions of OP 0x11 (R80), before the checks of R77. -/
def candidate11 (w : Word) : Except Reject Instr :=
  match (wFn w).toNat with
  | 0 => .ok (.stI8 (wP w) (wD w) (wA w) (wI32 w))
  | 1 => .ok (.stI16 (wP w) (wD w) (wA w) (wI32 w))
  | 2 => .ok (.stI32 (wP w) (wD w) (wA w) (wI32 w))
  | 3 => .ok (.stI64 (wP w) (wD w) (wA w) (wI32 w))
  | _ => .error .function

/-- The instructions of OP 0x12 (R80), before the checks of R77. -/
def candidate12 (w : Word) : Except Reject Instr :=
  match (wFn w).toNat with
  | 0 => .ok (.amAdd (wP w) (wD w) (wA w) (wB w) (Ty.ofCode (wTy w)))
  | 1 => .ok (.amAnd (wP w) (wD w) (wA w) (wB w) (Ty.ofCode (wTy w)))
  | 2 => .ok (.amOr (wP w) (wD w) (wA w) (wB w) (Ty.ofCode (wTy w)))
  | 3 => .ok (.amXor (wP w) (wD w) (wA w) (wB w) (Ty.ofCode (wTy w)))
  | 4 => .ok (.amMin (wP w) (wD w) (wA w) (wB w) (Ty.ofCode (wTy w)))
  | 5 => .ok (.amMax (wP w) (wD w) (wA w) (wB w) (Ty.ofCode (wTy w)))
  | 6 => .ok (.amSwp (wP w) (wD w) (wA w) (wB w) (Ty.ofCode (wTy w)))
  | 7 => .ok (.amCas (wP w) (wD w) (wA w) (wB w) (wC w) (Ty.ofCode (wTy w)))
  | _ => .error .function

/-- The instructions of OP 0x18 (R80), before the checks of R77. -/
def candidate18 (w : Word) : Except Reject Instr :=
  match (wFn w).toNat with
  | 0 => .ok (.br (wP w) (wI32 w))
  | 1 => .ok (.call (wP w) (wI32 w))
  | 2 => .ok (.jmp (wP w) (wA w))
  | 3 => .ok (.callr (wP w) (wA w))
  | 4 => .ok (.ret (wP w) (wA w))
  | _ => .error .function

/-- The instructions of OP 0x19 (R80), before the checks of R77. -/
def candidate19 (w : Word) : Except Reject Instr :=
  match (wFn w).toNat with
  | 0 => .ok (.loop (wP w) (wA w) (wI32 w))
  | _ => .error .function

/-- The instructions of OP 0x1A (R80), before the checks of R77. -/
def candidate1A (w : Word) : Except Reject Instr :=
  match (wFn w).toNat with
  | 0 => .ok (.crr (wP w) (wD w) ((wI32 w).extractLsb' 0 12))
  | 1 => 
    if (wI32 w).extractLsb' 0 12 = 0x040#12 then .ok (.pmapcInv (wP w) (wA w)) else
    if (wI32 w).extractLsb' 0 12 = 0x031#12 then .ok (.islcfgUnbind (wP w) (wA w)) else .ok (.crw (wP w) ((wI32 w).extractLsb' 0 12) (wA w))
  | 2 => .ok (.crs (wP w) (wD w) ((wI32 w).extractLsb' 0 12) (wA w))
  | 3 => .ok (.crc (wP w) (wD w) ((wI32 w).extractLsb' 0 12) (wA w))
  | _ => .error .function

/-- The instructions of OP 0x40 (R80), before the checks of R77. -/
def candidate40 (w : Word) : Except Reject Instr :=
  match (wFn w).toNat with
  | 0 => .ok (.vaddI (wP w) (wD w) (VSrc.ofFields (wFqe w) (wFqi w) (wA w)) (wB w) (Ty.ofCode (wTy w)) (wLane w))
  | 1 => .ok (.vsubI (wP w) (wD w) (VSrc.ofFields (wFqe w) (wFqi w) (wA w)) (wB w) (Ty.ofCode (wTy w)) (wLane w))
  | 2 => .ok (.vmulI (wP w) (wD w) (VSrc.ofFields (wFqe w) (wFqi w) (wA w)) (wB w) (Ty.ofCode (wTy w)) (wLane w))
  | 3 => .ok (.vmulh (wP w) (wD w) (VSrc.ofFields (wFqe w) (wFqi w) (wA w)) (wB w) (Ty.ofCode (wTy w)) (wLane w))
  | 4 => .ok (.vminI (wP w) (wD w) (VSrc.ofFields (wFqe w) (wFqi w) (wA w)) (wB w) (Ty.ofCode (wTy w)) (wLane w))
  | 5 => .ok (.vmaxI (wP w) (wD w) (VSrc.ofFields (wFqe w) (wFqi w) (wA w)) (wB w) (Ty.ofCode (wTy w)) (wLane w))
  | 6 => .ok (.vand (wP w) (wD w) (VSrc.ofFields (wFqe w) (wFqi w) (wA w)) (wB w) (Ty.ofCode (wTy w)) (wLane w))
  | 7 => .ok (.vor (wP w) (wD w) (VSrc.ofFields (wFqe w) (wFqi w) (wA w)) (wB w) (Ty.ofCode (wTy w)) (wLane w))
  | 8 => .ok (.vxor (wP w) (wD w) (VSrc.ofFields (wFqe w) (wFqi w) (wA w)) (wB w) (Ty.ofCode (wTy w)) (wLane w))
  | 9 => .ok (.vshl (wP w) (wD w) (VSrc.ofFields (wFqe w) (wFqi w) (wA w)) (ShSrc.ofFields (wI10 w) (wB w)) (Ty.ofCode (wTy w)) (wLane w))
  | 10 => .ok (.vshr (wP w) (wD w) (VSrc.ofFields (wFqe w) (wFqi w) (wA w)) (ShSrc.ofFields (wI10 w) (wB w)) (Ty.ofCode (wTy w)) (wLane w))
  | 11 => .ok (.vsra (wP w) (wD w) (VSrc.ofFields (wFqe w) (wFqi w) (wA w)) (ShSrc.ofFields (wI10 w) (wB w)) (Ty.ofCode (wTy w)) (wLane w))
  | 12 => .ok (.vabsI (wP w) (wD w) (VSrc.ofFields (wFqe w) (wFqi w) (wA w)) (Ty.ofCode (wTy w)) (wLane w))
  | 13 => .ok (.vnegI (wP w) (wD w) (VSrc.ofFields (wFqe w) (wFqi w) (wA w)) (Ty.ofCode (wTy w)) (wLane w))
  | 14 => .ok (.vadds (wP w) (wD w) (VSrc.ofFields (wFqe w) (wFqi w) (wA w)) (wB w) (Ty.ofCode (wTy w)) (wLane w))
  | 15 => .ok (.vsubs (wP w) (wD w) (VSrc.ofFields (wFqe w) (wFqi w) (wA w)) (wB w) (Ty.ofCode (wTy w)) (wLane w))
  | _ => .error .function

/-- The instructions of OP 0x41 (R80), before the checks of R77. -/
def candidate41 (w : Word) : Except Reject Instr :=
  match (wFn w).toNat with
  | 0 => .ok (.vaddF (wP w) (wD w) (VSrc.ofFields (wFqe w) (wFqi w) (wA w)) (wB w) (Ty.ofCode (wTy w)) (Rz.ofCode (wRm w)) (wLane w))
  | 1 => .ok (.vsubF (wP w) (wD w) (VSrc.ofFields (wFqe w) (wFqi w) (wA w)) (wB w) (Ty.ofCode (wTy w)) (Rz.ofCode (wRm w)) (wLane w))
  | 2 => .ok (.vmulF (wP w) (wD w) (VSrc.ofFields (wFqe w) (wFqi w) (wA w)) (wB w) (Ty.ofCode (wTy w)) (Rz.ofCode (wRm w)) (wLane w))
  | 4 => .ok (.vminF (wP w) (wD w) (VSrc.ofFields (wFqe w) (wFqi w) (wA w)) (wB w) (Ty.ofCode (wTy w)) (wLane w))
  | 5 => .ok (.vmaxF (wP w) (wD w) (VSrc.ofFields (wFqe w) (wFqi w) (wA w)) (wB w) (Ty.ofCode (wTy w)) (wLane w))
  | 12 => .ok (.vabsF (wP w) (wD w) (VSrc.ofFields (wFqe w) (wFqi w) (wA w)) (Ty.ofCode (wTy w)) (wLane w))
  | 13 => .ok (.vnegF (wP w) (wD w) (VSrc.ofFields (wFqe w) (wFqi w) (wA w)) (Ty.ofCode (wTy w)) (wLane w))
  | _ => .error .function

/-- The instructions of OP 0x42 (R80), before the checks of R77. -/
def candidate42 (w : Word) : Except Reject Instr :=
  match (wFn w).toNat with
  | 0 => .ok (.vfma (wP w) (wD w) (VSrc.ofFields (wFqe w) (wFqi w) (wA w)) (wB w) (wC w) (Ty.ofCode (wTy w)) (Rz.ofCode (wRm w)) (wLane w))
  | 1 => .ok (.vfms (wP w) (wD w) (VSrc.ofFields (wFqe w) (wFqi w) (wA w)) (wB w) (wC w) (Ty.ofCode (wTy w)) (Rz.ofCode (wRm w)) (wLane w))
  | 2 => .ok (.vfnma (wP w) (wD w) (VSrc.ofFields (wFqe w) (wFqi w) (wA w)) (wB w) (wC w) (Ty.ofCode (wTy w)) (Rz.ofCode (wRm w)) (wLane w))
  | 8 => .ok (.vdot (wP w) (wD w) (VSrc.ofFields (wFqe w) (wFqi w) (wA w)) (wB w) (wC w) (Ty.ofCode (wTy w)) (wLane w))
  | _ => .error .function

/-- The instructions of OP 0x43 (R80), before the checks of R77. -/
def candidate43 (w : Word) : Except Reject Instr :=
  match (wFn w).toNat with
  | 0 => .ok (.vcmpEq (wP w) ((wD w).extractLsb' 0 3) (VSrc.ofFields (wFqe w) (wFqi w) (wA w)) (wB w) (Ty.ofCode (wTy w)) (wLane w))
  | 1 => .ok (.vcmpNe (wP w) ((wD w).extractLsb' 0 3) (VSrc.ofFields (wFqe w) (wFqi w) (wA w)) (wB w) (Ty.ofCode (wTy w)) (wLane w))
  | 2 => .ok (.vcmpLt (wP w) ((wD w).extractLsb' 0 3) (VSrc.ofFields (wFqe w) (wFqi w) (wA w)) (wB w) (Ty.ofCode (wTy w)) (wLane w))
  | 3 => .ok (.vcmpGe (wP w) ((wD w).extractLsb' 0 3) (VSrc.ofFields (wFqe w) (wFqi w) (wA w)) (wB w) (Ty.ofCode (wTy w)) (wLane w))
  | 4 => .ok (.vcmpLo (wP w) ((wD w).extractLsb' 0 3) (VSrc.ofFields (wFqe w) (wFqi w) (wA w)) (wB w) (Ty.ofCode (wTy w)) (wLane w))
  | 5 => .ok (.vcmpHs (wP w) ((wD w).extractLsb' 0 3) (VSrc.ofFields (wFqe w) (wFqi w) (wA w)) (wB w) (Ty.ofCode (wTy w)) (wLane w))
  | 32 => .ok (.vcmpEqF (wP w) ((wD w).extractLsb' 0 3) (VSrc.ofFields (wFqe w) (wFqi w) (wA w)) (wB w) (Ty.ofCode (wTy w)) (wLane w))
  | 33 => .ok (.vcmpLtF (wP w) ((wD w).extractLsb' 0 3) (VSrc.ofFields (wFqe w) (wFqi w) (wA w)) (wB w) (Ty.ofCode (wTy w)) (wLane w))
  | 34 => .ok (.vcmpLeF (wP w) ((wD w).extractLsb' 0 3) (VSrc.ofFields (wFqe w) (wFqi w) (wA w)) (wB w) (Ty.ofCode (wTy w)) (wLane w))
  | 35 => .ok (.vcmpUnF (wP w) ((wD w).extractLsb' 0 3) (VSrc.ofFields (wFqe w) (wFqi w) (wA w)) (wB w) (Ty.ofCode (wTy w)) (wLane w))
  | _ => .error .function

/-- The instructions of OP 0x44 (R80), before the checks of R77. -/
def candidate44 (w : Word) : Except Reject Instr :=
  match (wFn w).toNat with
  | 0 => .ok (.mand (wP w) ((wD w).extractLsb' 0 3) ((wA w).extractLsb' 0 3) ((wB w).extractLsb' 0 3))
  | 1 => .ok (.mor (wP w) ((wD w).extractLsb' 0 3) ((wA w).extractLsb' 0 3) ((wB w).extractLsb' 0 3))
  | 2 => .ok (.mxor (wP w) ((wD w).extractLsb' 0 3) ((wA w).extractLsb' 0 3) ((wB w).extractLsb' 0 3))
  | 3 => .ok (.mandn (wP w) ((wD w).extractLsb' 0 3) ((wA w).extractLsb' 0 3) ((wB w).extractLsb' 0 3))
  | 8 => .ok (.mpopc (wP w) (wD w) ((wA w).extractLsb' 0 3))
  | 9 => .ok (.mfirst (wP w) (wD w) ((wA w).extractLsb' 0 3))
  | 10 => .ok (.mtos (wP w) (wD w) ((wA w).extractLsb' 0 3))
  | 11 => .ok (.mfroms (wP w) ((wD w).extractLsb' 0 3) (wA w))
  | _ => .error .function

/-- The instructions of OP 0x45 (R80), before the checks of R77. -/
def candidate45 (w : Word) : Except Reject Instr :=
  match (wFn w).toNat with
  | 0 => .ok (.vperm (wP w) (wD w) (VSrc.ofFields (wFqe w) (wFqi w) (wA w)) (wB w) (Ty.ofCode (wTy w)) (wLane w))
  | 1 => .ok (.vbcast (wP w) (wD w) (wA w) (Ty.ofCode (wTy w)) (wLane w))
  | 2 => .ok (.vins (wP w) (wD w) (wA w) (wI10 w) (Ty.ofCode (wTy w)) (wLane w))
  | 3 => .ok (.vext (wP w) (wD w) (VSrc.ofFields (wFqe w) (wFqi w) (wA w)) (wI10 w) (Ty.ofCode (wTy w)))
  | 4 => .ok (.vslide (wP w) (wD w) (VSrc.ofFields (wFqe w) (wFqi w) (wA w)) (wB w) (wI10 w) (Ty.ofCode (wTy w)) (wLane w))
  | 5 => .ok (.vslided (wP w) (wD w) (VSrc.ofFields (wFqe w) (wFqi w) (wA w)) (wB w) (wI10 w) (Ty.ofCode (wTy w)) (wLane w))
  | 6 => .ok (.vcomp (wP w) (wD w) (VSrc.ofFields (wFqe w) (wFqi w) (wA w)) (Ty.ofCode (wTy w)) (wLane w))
  | 7 => .ok (.vexpd (wP w) (wD w) (VSrc.ofFields (wFqe w) (wFqi w) (wA w)) (Ty.ofCode (wTy w)) (wLane w))
  | 8 => .ok (.vzip (wP w) (wD w) (VSrc.ofFields (wFqe w) (wFqi w) (wA w)) (wB w) ((wI10 w).extractLsb' 0 1) (Ty.ofCode (wTy w)) (wLane w))
  | 9 => .ok (.vunzip (wP w) (wD w) (VSrc.ofFields (wFqe w) (wFqi w) (wA w)) (wB w) ((wI10 w).extractLsb' 0 1) (Ty.ofCode (wTy w)) (wLane w))
  | _ => .error .function

/-- The instructions of OP 0x46 (R80), before the checks of R77. -/
def candidate46 (w : Word) : Except Reject Instr :=
  match (wFn w).toNat with
  | 0 => .ok (.vredAdd (wP w) (wD w) (VSrc.ofFields (wFqe w) (wFqi w) (wA w)) (Ty.ofCode (wTy w)) (Rz.ofCode (wRm w)) (wMk w))
  | 1 => .ok (.vredMin (wP w) (wD w) (VSrc.ofFields (wFqe w) (wFqi w) (wA w)) (Ty.ofCode (wTy w)) (wMk w))
  | 2 => .ok (.vredMax (wP w) (wD w) (VSrc.ofFields (wFqe w) (wFqi w) (wA w)) (Ty.ofCode (wTy w)) (wMk w))
  | 3 => .ok (.vredAnd (wP w) (wD w) (VSrc.ofFields (wFqe w) (wFqi w) (wA w)) (Ty.ofCode (wTy w)) (wMk w))
  | 4 => .ok (.vredOr (wP w) (wD w) (VSrc.ofFields (wFqe w) (wFqi w) (wA w)) (Ty.ofCode (wTy w)) (wMk w))
  | 5 => .ok (.vredXor (wP w) (wD w) (VSrc.ofFields (wFqe w) (wFqi w) (wA w)) (Ty.ofCode (wTy w)) (wMk w))
  | _ => .error .function

/-- The instructions of OP 0x47 (R80), before the checks of R77. -/
def candidate47 (w : Word) : Except Reject Instr :=
  match (wFn w).toNat with
  | 0 => .ok (.vcvt (wP w) (wD w) (VSrc.ofFields (wFqe w) (wFqi w) (wA w)) (Ty.ofCode (wTy w)) (Ty.ofCode (wTy2 w)) (Rnd.ofCode (wRm w) (wC w)) ((wI10 w).extractLsb' 0 3) (wLane w))
  | _ => .error .function

/-- The instructions of OP 0x48 (R80), before the checks of R77. -/
def candidate48 (w : Word) : Except Reject Instr :=
  match (wFn w).toNat with
  | 0 => .ok (.badd (wP w) (wD w) (VSrc.ofFields (wFqe w) (wFqi w) (wA w)) (wB w) (Ty.ofCode (wTy w)) (Rnd.ofCode (wRm w) (wC w)) (wLane w))
  | 1 => .ok (.bsub (wP w) (wD w) (VSrc.ofFields (wFqe w) (wFqi w) (wA w)) (wB w) (Ty.ofCode (wTy w)) (Rnd.ofCode (wRm w) (wC w)) (wLane w))
  | 2 => .ok (.bmul (wP w) (wD w) (VSrc.ofFields (wFqe w) (wFqi w) (wA w)) (wB w) (Ty.ofCode (wTy w)) (Rnd.ofCode (wRm w) (wC w)) (wLane w))
  | 3 => .ok (.bmin (wP w) (wD w) (VSrc.ofFields (wFqe w) (wFqi w) (wA w)) (wB w) (Ty.ofCode (wTy w)) (Rnd.ofCode (wRm w) (wC w)) (wLane w))
  | 4 => .ok (.bmax (wP w) (wD w) (VSrc.ofFields (wFqe w) (wFqi w) (wA w)) (wB w) (Ty.ofCode (wTy w)) (Rnd.ofCode (wRm w) (wC w)) (wLane w))
  | 5 => .ok (.bneg (wP w) (wD w) (VSrc.ofFields (wFqe w) (wFqi w) (wA w)) (Ty.ofCode (wTy w)) (Rnd.ofCode (wRm w) (wC w)) (wLane w))
  | 6 => .ok (.bscale (wP w) (wD w) (VSrc.ofFields (wFqe w) (wFqi w) (wA w)) (wI10 w) (Ty.ofCode (wTy w)) (Rnd.ofCode (wRm w) (wC w)) (wLane w))
  | _ => .error .function

/-- The instructions of OP 0x49 (R80), before the checks of R77. -/
def candidate49 (w : Word) : Except Reject Instr :=
  match (wFn w).toNat with
  | 0 => .ok (.bnorm (wP w) (wD w) (VSrc.ofFields (wFqe w) (wFqi w) (wA w)) (Ty.ofCode (wTy w)) (Rnd.ofCode (wRm w) (wC w)) (wLane w))
  | 1 => .ok (.btof (wP w) (wD w) (VSrc.ofFields (wFqe w) (wFqi w) (wA w)) (Ty.ofCode (wTy w)) (Ty.ofCode (wTy2 w)) (Rnd.ofCode (wRm w) (wC w)) ((wI10 w).extractLsb' 0 3) (wLane w))
  | 2 => .ok (.bfromf (wP w) (wD w) (wA w) (wB w) (Ty.ofCode (wTy w)) (Ty.ofCode (wTy2 w)) (Rnd.ofCode (wRm w) (wC w)) ((wI10 w).extractLsb' 0 2))
  | 3 => .ok (.brefmt (wP w) (wD w) (VSrc.ofFields (wFqe w) (wFqi w) (wA w)) (Ty.ofCode (wTy w)) (Ty.ofCode (wTy2 w)) (Rnd.ofCode (wRm w) (wC w)) ((wI10 w).extractLsb' 0 3) (wLane w))
  | 4 => .ok (.bgeth (wP w) (wD w) (VSrc.ofFields (wFqe w) (wFqi w) (wA w)) ((wI10 w).extractLsb' 0 2))
  | 5 => .ok (.bseth (wP w) (wD w) (wA w) ((wI10 w).extractLsb' 0 2))
  | _ => .error .function

/-- The instructions of OP 0x4A (R80), before the checks of R77. -/
def candidate4A (w : Word) : Except Reject Instr :=
  match (wFn w).toNat with
  | 0 => .ok (.vrcp (wP w) (wD w) (VSrc.ofFields (wFqe w) (wFqi w) (wA w)) (wLane w))
  | 1 => .ok (.vrsq (wP w) (wD w) (VSrc.ofFields (wFqe w) (wFqi w) (wA w)) (wLane w))
  | 2 => .ok (.vexp2 (wP w) (wD w) (VSrc.ofFields (wFqe w) (wFqi w) (wA w)) (wLane w))
  | 3 => .ok (.vlog2 (wP w) (wD w) (VSrc.ofFields (wFqe w) (wFqi w) (wA w)) (wLane w))
  | _ => .error .function

/-- The instructions of OP 0x4B (R80), before the checks of R77. -/
def candidate4B (w : Word) : Except Reject Instr :=
  match (wFn w).toNat with
  | 0 => .ok (.vld (wP w) (wD w) (wA w) (wI10 w) (wLane w))
  | 1 => .ok (.vst (wP w) (wD w) (wA w) (wI10 w) (wMk w))
  | 2 => .ok (.vldx (wP w) (wD w) (wA w) (wB w) (wLane w))
  | 3 => .ok (.vstx (wP w) (wD w) (wA w) (wB w) (wMk w))
  | 8 => .ok (.bld (wP w) (wD w) (wA w) (wB w) (Ty.ofCode (wTy w)) (wI10 w))
  | 9 => .ok (.bst (wP w) (wD w) (wA w) (wB w) (Ty.ofCode (wTy w)) (wI10 w))
  | _ => .error .function

/-- The instructions of OP 0x4C (R80), before the checks of R77. -/
def candidate4C (w : Word) : Except Reject Instr :=
  match (wFn w).toNat with
  | 0 => .ok (.fqpop (wP w) (wD w) (wFqi w))
  | 1 => .ok (.fqmark (wP w) (wGd w) ((wA w).extractLsb' 0 1) ((wI10 w).extractLsb' 0 9))
  | 2 => .ok (.fqdrop (wP w) (wFqi w))
  | _ => .error .function

/-- The instructions of OP 0x80 (R80), before the checks of R77. -/
def candidate80 (w : Word) : Except Reject Instr :=
  match (wFn w).toNat with
  | 0 => .ok (.mma (wP w) ((wD w).extractLsb' 0 2) (wA w) (wB w) (wC w) (Ty.ofCode (wTy w)) ((wI10 w).extractLsb' 1 1) ((wI10 w).extractLsb' 0 1))
  | 1 => .ok (.mman (wP w) ((wD w).extractLsb' 0 2) (wA w) (wB w) (wC w) (Ty.ofCode (wTy w)) ((wI10 w).extractLsb' 1 1) ((wI10 w).extractLsb' 0 1))
  | _ => .error .function

/-- The instructions of OP 0x81 (R80), before the checks of R77. -/
def candidate81 (w : Word) : Except Reject Instr :=
  match (wFn w).toNat with
  | 0 => .ok (.accz (wP w) ((wD w).extractLsb' 0 2) (wI10 w))
  | 1 => .ok (.accmode (wP w) ((wD w).extractLsb' 0 2) ((wI10 w).extractLsb' 0 1))
  | 2 => .ok (.accrd (wP w) (wD w) ((wA w).extractLsb' 0 2) ((wI10 w).extractLsb' 0 5) ((wI10 w).extractLsb' 5 2) (Ty.ofCode (wTy w)) (Rnd.ofCode (wRm w) (wC w)))
  | 3 => .ok (.accwr (wP w) ((wD w).extractLsb' 0 2) (wA w) ((wI10 w).extractLsb' 0 5) ((wI10 w).extractLsb' 5 2) (Ty.ofCode (wTy w)))
  | 4 => .ok (.accexp (wP w) (wD w) ((wA w).extractLsb' 0 2) ((wI10 w).extractLsb' 0 5) ((wI10 w).extractLsb' 5 2) (Ty.ofCode (wTy w)) (Rnd.ofCode (wRm w) (wC w)))
  | 5 => .ok (.accswp (wP w) ((wD w).extractLsb' 0 2) ((wA w).extractLsb' 0 2))
  | 6 => 
    if (wI10 w).extractLsb' 0 1 = 1#1 then .ok (.accscFit (wP w) ((wD w).extractLsb' 0 2)) else .ok (.accsc (wP w) ((wD w).extractLsb' 0 2) (wA w))
  | 7 => 
    if (wI10 w).extractLsb' 9 1 = 1#1 then .ok (.accrawOrg (wP w) (wD w) ((wA w).extractLsb' 0 2)) else .ok (.accraw (wP w) (wD w) ((wA w).extractLsb' 0 2) ((wI10 w).extractLsb' 0 5) ((wI10 w).extractLsb' 5 2))
  | _ => .error .function

/-- The instructions of OP 0x82 (R80), before the checks of R77. -/
def candidate82 (w : Word) : Except Reject Instr :=
  match (wFn w).toNat with
  | 0 => .ok (.macq (wP w) (wGd w))
  | 1 => .ok (.mrel (wP w))
  | 2 => 
    if (wI10 w).extractLsb' 0 1 = 1#1 then .ok (.mxfrMigrate (wP w) ((wA w).extractLsb' 0 2) ((wB w).extractLsb' 0 2)) else .ok (.mxfr (wP w))
  | _ => .error .function

/-- The instructions of OP 0x83 (R80), before the checks of R77. -/
def candidate83 (w : Word) : Except Reject Instr :=
  match (wFn w).toNat with
  | 0 => .ok (.twr (wP w) (wD w) ((wA w).extractLsb' 0 3))
  | 1 => .ok (.tww (wP w) ((wD w).extractLsb' 0 3) (wA w))
  | 2 => .ok (.xcht (wP w) (wD w) ((wA w).extractLsb' 0 3))
  | _ => .error .function

/-- The instructions of OP 0x84 (R80), before the checks of R77. -/
def candidate84 (w : Word) : Except Reject Instr :=
  match (wFn w).toNat with
  | 0 => .ok (.blld (wP w) ((wD w).extractLsb' 0 1) (wA w) (wB w) (Ty.ofCode (wTy w)))
  | 1 => .ok (.blmv (wP w) ((wD w).extractLsb' 0 1) (wA w) ((wI10 w).extractLsb' 0 5) (Ty.ofCode (wTy w)))
  | 2 => .ok (.blclr (wP w) ((wD w).extractLsb' 0 1))
  | _ => .error .function

/-- The instructions of OP 0xA0 (R80), before the checks of R77. -/
def candidateA0 (w : Word) : Except Reject Instr :=
  match (wFn w).toNat with
  | 0 => .ok (.send (wP w) (wA w) (wB w) (wC w) ((wI10 w).extractLsb' 0 6))
  | 1 => .ok (.sendRel (wP w) (wA w) (wB w) (wC w) ((wI10 w).extractLsb' 0 6))
  | 2 => .ok (.xsend (wP w) (wA w) (wB w) (wC w) ((wI10 w).extractLsb' 0 6))
  | 3 => .ok (.xsendRel (wP w) (wA w) (wB w) (wC w) ((wI10 w).extractLsb' 0 6))
  | _ => .error .function

/-- The instructions of OP 0xA1 (R80), before the checks of R77. -/
def candidateA1 (w : Word) : Except Reject Instr :=
  match (wFn w).toNat with
  | 0 => 
    match (wSub w).toNat with
    | 0 => .ok (.chbindWake (wP w) (wA w) (wCh w))
    | 2 => .ok (.chbindLand (wP w) (wD w) (wA w) (wCh w))
    | 3 => .ok (.chbindFeed (wP w) (wD w) (wA w) (wCh w))
    | _ => .error .function
  | 1 => .ok (.jset (wP w) (wA w) (wB w) ((wI10 w).extractLsb' 0 4) ((wI10 w).extractLsb' 4 3) ((wI10 w).extractLsb' 7 1))
  | 2 => .ok (.chunb (wP w) ((wI32 w).extractLsb' 0 6))
  | 3 => .ok (.chst (wP w) (wD w) ((wI32 w).extractLsb' 0 6))
  | _ => .error .function

/-- The instructions of OP 0xA2 (R80), before the checks of R77. -/
def candidateA2 (w : Word) : Except Reject Instr :=
  match (wFn w).toNat with
  | 0 => 
    match (wSub w).toNat with
    | 0 => .ok (.awaitCtr (wP w) (wA w) ((wI32 w).extractLsb' 0 4))
    | 1 => .ok (.awaitBatch (wP w) (wA w))
    | 2 => .ok (.awaitLic (wP w))
    | 3 => .ok (.awaitTkt (wP w) (wA w))
    | 4 => .ok (.awaitChan (wP w) ((wI32 w).extractLsb' 0 6))
    | _ => .error .function
  | 1 => .ok (.yield (wP w))
  | 2 => .ok (.endAct (wP w))
  | _ => .error .function

/-- The instructions of OP 0xA3 (R80), before the checks of R77. -/
def candidateA3 (w : Word) : Except Reject Instr :=
  match (wFn w).toNat with
  | 0 => .ok (.slvl (wP w) (wD w) (wA w) (wB w) ((wI10 w).extractLsb' 0 3))
  | 1 => .ok (.scpy (wP w) (scpyOfFields ((wI10 w).extractLsb' 4 1) (wD w)) (wA w) (wB w) (wC w) ((wI10 w).extractLsb' 0 2) ((wI10 w).extractLsb' 2 2) ((wI10 w).extractLsb' 5 3))
  | 2 => .ok (.sgth (wP w) (wD w) (wA w) (wB w) (wC w) ((wI10 w).extractLsb' 0 2) ((wI10 w).extractLsb' 5 3))
  | 3 => 
    if (wI10 w).extractLsb' 2 1 = 1#1 then .ok (.sfqRemote (wP w) (wD w) (wA w) (wB w) (wC w) ((wI10 w).extractLsb' 4 3) ((wI10 w).extractLsb' 7 3)) else .ok (.sfq (wP w) (wD w) (wA w) (wC w) ((wI10 w).extractLsb' 0 2) ((wI10 w).extractLsb' 3 1) ((wI10 w).extractLsb' 4 3) ((wI10 w).extractLsb' 7 3))
  | 4 => .ok (.sbar (wP w) ((wI10 w).extractLsb' 0 8))
  | _ => .error .function

/-- The instructions of OP 0xA4 (R80), before the checks of R77. -/
def candidateA4 (w : Word) : Except Reject Instr :=
  match (wFn w).toNat with
  | 0 => .ok (.bseal (wP w) (wD w))
  | 1 => .ok (.waitb (wP w) ((wI32 w).extractLsb' 0 16))
  | 2 => .ok (.bstat (wP w) (wD w) (wA w))
  | _ => .error .function

/-- The instructions of OP 0xA5 (R80), before the checks of R77. -/
noncomputable def candidateA5 (w : Word) : Except Reject Instr :=
  match (wFn w).toNat with
  | 0 => .ok (.put (wP w) (wD w) (wA w) (wB w) (wC w))
  | 1 => .ok (.get (wP w) (wD w) (wA w) (wB w) (wC w))
  | 2 => 
    if (wI10 w).extractLsb' 0 1 = 1#1 then .ok (.tkstValue (wP w) (wD w) (wA w)) else .ok (.tkst (wP w) (wD w) (wA w))
  | 8 => .ok (.raAdd (wP w) (wD w) (wA w) (wB w) (Ty.ofCode (wTy w)))
  | 9 => .ok (.raAnd (wP w) (wD w) (wA w) (wB w) (Ty.ofCode (wTy w)))
  | 10 => .ok (.raOr (wP w) (wD w) (wA w) (wB w) (Ty.ofCode (wTy w)))
  | 11 => .ok (.raXor (wP w) (wD w) (wA w) (wB w) (Ty.ofCode (wTy w)))
  | 12 => .ok (.raMin (wP w) (wD w) (wA w) (wB w) (Ty.ofCode (wTy w)))
  | 13 => .ok (.raMax (wP w) (wD w) (wA w) (wB w) (Ty.ofCode (wTy w)))
  | 14 => .ok (.raSwp (wP w) (wD w) (wA w) (wB w) (Ty.ofCode (wTy w)))
  | 15 => .ok (.raCas (wP w) (wD w) (wA w) (wB w) (wC w) (Ty.ofCode (wTy w)))
  | _ => .error .function

/-- The instructions of OP 0xA6 (R80), before the checks of R77. -/
noncomputable def candidateA6 (w : Word) : Except Reject Instr :=
  match (wFn w).toNat with
  | 0 => .ok (.ctrb (wP w) (wD w) (wA w) (wB w) ((wI10 w).extractLsb' 0 1))
  | 1 => .ok (.tbuild (wP w) (wD w) (wA w))
  | 2 => .ok (.tfree (wP w) (wD w) (wA w))
  | 3 => .ok (.tabort (wP w) (wA w))
  | 4 => 
    if (wI10 w).extractLsb' 0 10 = 1#10 then .ok (.tqryDoneBitmap (wP w) (wD w) (wA w)) else
    if (wI10 w).extractLsb' 0 10 = 2#10 then .ok (.tqryQuorumCount (wP w) (wD w) (wA w)) else .ok (.tqryStatus (wP w) (wD w) (wA w))
  | _ => .error .function

/-- The instructions of OP 0xA7 (R80), before the checks of R77. -/
noncomputable def candidateA7 (w : Word) : Except Reject Instr :=
  match (wFn w).toNat with
  | 0 => 
    match (wSub w).toNat with
    | 0 => .ok (.fenceCtx (wP w))
    | 1 => .ok (.fenceCore (wP w))
    | 2 => .ok (.fencePair (wP w))
    | 3 => .ok (.fenceGrp (wP w))
    | 4 => .ok (.fenceMod (wP w))
    | 5 => .ok (.fenceSys (wP w))
    | _ => .error .function
  | _ => .error .function

/-- The instructions of OP 0xA8 (R80), before the checks of R77. -/
noncomputable def candidateA8 (w : Word) : Except Reject Instr :=
  match (wFn w).toNat with
  | 0 => .ok (.acset (wP w) (wA w) ((wI10 w).extractLsb' 0 4))
  | 1 => .ok (.acadd (wP w) (wD w) (wA w) ((wI10 w).extractLsb' 0 4))
  | 2 => .ok (.acrd (wP w) (wD w) ((wI10 w).extractLsb' 0 4))
  | _ => .error .function

/-- The instructions of OP 0xC0 (R80), before the checks of R77. -/
noncomputable def candidateC0 (w : Word) : Except Reject Instr :=
  match (wFn w).toNat with
  | 0 => .ok (.suspend (wP w) (wD w) (wA w) (wB w) (wC w))
  | 1 => .ok (.resume (wP w) (wD w) (wA w) (wB w) (wC w) ((wI10 w).extractLsb' 0 1))
  | 2 => .ok (.resumeSt (wP w) (wD w) (wA w) (wB w) (wC w) ((wI10 w).extractLsb' 0 1))
  | 3 => .ok (.copy (wP w) (wD w) (wA w) (wB w) (wC w))
  | 4 => .ok (.copySt (wP w) (wD w) (wA w) (wB w) (wC w))
  | 5 => .ok (.discard (wP w) (wD w) (wA w) (wB w))
  | 6 => .ok (.discardSt (wP w) (wD w) (wA w) (wB w))
  | _ => .error .function

/-- The instructions of OP 0xC1 (R80), before the checks of R77. -/
noncomputable def candidateC1 (w : Word) : Except Reject Instr :=
  match (wFn w).toNat with
  | 0 => .ok (.trap (wP w) (wI10 w))
  | 1 => 
    if (wI10 w).extractLsb' 0 2 = 1#2 then .ok (.tretNext (wP w)) else
    if (wI10 w).extractLsb' 0 2 = 2#2 then .ok (.tretTarget (wP w) (wA w)) else .ok (.tretReissue (wP w))
  | 2 => .ok (.bkpt (wP w) (wI10 w))
  | _ => .error .function

/-- The instructions of OP 0xC2 (R80), before the checks of R77. -/
noncomputable def candidateC2 (w : Word) : Except Reject Instr :=
  match (wFn w).toNat with
  | 0 => .ok (.isbind (wP w) (wD w) (wA w))
  | 1 => .ok (.isrel (wP w))
  | 2 => 
    if (wI10 w).extractLsb' 0 2 = 2#2 then .ok (.isendTwin (wP w) (wA w) (wB w) ((wI10 w).extractLsb' 2 3)) else .ok (.isendLatch (wP w) (wA w) (wB w) ((wI10 w).extractLsb' 0 1) ((wI10 w).extractLsb' 5 5) (Ty.ofCode (wTy w)))
  | 3 => .ok (.issync (wP w) (wA w))
  | _ => .error .function

/-- The instructions of OP 0xC3 (R80), before the checks of R77. -/
noncomputable def candidateC3 (w : Word) : Except Reject Instr :=
  match (wFn w).toNat with
  | 0 => .ok (.launch (wP w) (wD w) (wA w) (wB w))
  | 1 => .ok (.evsig (wP w) (wA w) (wB w))
  | 2 => .ok (.evarm (wP w) (wA w) (wB w) ((wI10 w).extractLsb' 0 6))
  | 3 => .ok (.evrd (wP w) (wD w) (wA w) (wB w))
  | _ => .error .function

/-- The instructions of OP 0xC4 (R80), before the checks of R77. -/
noncomputable def candidateC4 (w : Word) : Except Reject Instr :=
  match (wFn w).toNat with
  | 0 => 
    if (wI10 w).extractLsb' 0 2 = 1#2 then .ok (.psnqVector (wP w) (wD w) (wA w) ((wI10 w).extractLsb' 2 1) ((wI10 w).extractLsb' 3 2)) else
    if (wI10 w).extractLsb' 0 2 = 2#2 then .ok (.psnqAcc (wP w) (wD w) ((wA w).extractLsb' 0 2) ((wI10 w).extractLsb' 2 1)) else
    if (wI10 w).extractLsb' 0 2 = 3#2 then .ok (.psnqTwin (wP w) (wD w) ((wA w).extractLsb' 0 3) ((wI10 w).extractLsb' 2 1)) else .ok (.psnqScalar (wP w) (wD w) (wA w))
  | 1 => .ok (.psncls (wP w) (wD w))
  | 2 => .ok (.psnclv (wP w) (wD w))
  | 3 => .ok (.psncla (wP w) ((wD w).extractLsb' 0 2))
  | _ => .error .function

/-- The instruction that OP, FN and the selectors name (R77 steps 1, 2 and 6). It is noncomputable, as are the definitions over it: compiled code holds at most 245 constructors with fields, and the opcode table has 401 rows. The kernel evaluates it. -/
noncomputable def candidate (w : Word) : Except Reject Instr :=
  match (wOp w).toNat with
  | 1 => candidate01 w
  | 2 => candidate02 w
  | 3 => candidate03 w
  | 4 => candidate04 w
  | 5 => candidate05 w
  | 6 => candidate06 w
  | 7 => candidate07 w
  | 8 => candidate08 w
  | 9 => candidate09 w
  | 16 => candidate10 w
  | 17 => candidate11 w
  | 18 => candidate12 w
  | 24 => candidate18 w
  | 25 => candidate19 w
  | 26 => candidate1A w
  | 64 => candidate40 w
  | 65 => candidate41 w
  | 66 => candidate42 w
  | 67 => candidate43 w
  | 68 => candidate44 w
  | 69 => candidate45 w
  | 70 => candidate46 w
  | 71 => candidate47 w
  | 72 => candidate48 w
  | 73 => candidate49 w
  | 74 => candidate4A w
  | 75 => candidate4B w
  | 76 => candidate4C w
  | 128 => candidate80 w
  | 129 => candidate81 w
  | 130 => candidate82 w
  | 131 => candidate83 w
  | 132 => candidate84 w
  | 160 => candidateA0 w
  | 161 => candidateA1 w
  | 162 => candidateA2 w
  | 163 => candidateA3 w
  | 164 => candidateA4 w
  | 165 => candidateA5 w
  | 166 => candidateA6 w
  | 167 => candidateA7 w
  | 168 => candidateA8 w
  | 192 => candidateC0 w
  | 193 => candidateC1 w
  | 194 => candidateC2 w
  | 195 => candidateC3 w
  | 196 => candidateC4 w
  | _ => .error .opcode

/-- Decode a word by the checks of R77. A field with no meaning fails the comparison with the word written back. -/
noncomputable def decode (w : Word) : Except Reject Instr :=
  match candidate w with
  | .error e => .error e
  | .ok i =>
    if !i.wf then .error .operand
    else if encode i = some w then .ok i
    else .error .reserved

/-- The eight bytes of a word, little-endian (R5, R70). -/
def wordBytes (w : Word) : List Byte :=
  (List.range 8).map fun k => w.extractLsb' (8 * k) 8

/-- The word of eight bytes, little-endian (R5, R70). -/
def bytesWord (b : List Byte) : Word :=
  b.foldr (fun x acc => (acc <<< 8) ||| x.setWidth 64) 0#64

/-- Decode the instruction at the head of a list of bytes and give the rest (R70). -/
noncomputable def decodeBytes (b : List Byte) : Except Reject (Instr × List Byte) :=
  if (b.take 8).length = 8 then
    match decode (bytesWord (b.take 8)) with
    | .ok i => .ok (i, b.drop 8)
    | .error e => .error e
  else .error .short

/-- The instruction the decoder reads from a table row's word `w`: the eight bytes as local store holds them (R70). -/
noncomputable def decodeTableWord (nbits w : Nat) : Option Instr :=
  if nbits ≤ 64 then
    match decodeBytes (wordBytes (BitVec.ofNat 64 w)) with
    | .ok (i, _) => some i
    | .error _ => none
  else none

end Sys2Proof
end

