-- ==== Sys2Proof/Machine/Num.lean ====
section
/-! DEFINITION. Exact numbers and roundings: RoundInt (R51), the random word of stochastic rounding (R52), integer clamps (R46), the sticky flags (R30, R69), and the IEEE formats with one rounding (R47 to R49). A number m * 2^e is held as the two integers m and e. -/
namespace Sys2Proof

/-- The seven sticky flags at their bit positions of R30. -/
abbrev Flags := BitVec 7
/-- IEEE invalid operation (R30). -/
def fIOE : Flags := 1#7
/-- IEEE overflow (R30). -/
def fOVF : Flags := 2#7
/-- IEEE underflow (R30). -/
def fUNF : Flags := 4#7
/-- Inexact (R30). -/
def fINX : Flags := 8#7
/-- Saturated (R30). -/
def fSAT : Flags := 16#7
/-- An accumulator renormalised (R30). -/
def fRNM : Flags := 32#7
/-- A poisoned value produced or consumed (R30). -/
def fPSN : Flags := 64#7

/-- A rounding mode with its random word (R50, R51). -/
inductive RMode where
  | rne | rz | sr (u : BitVec 32)
  deriving DecidableEq, Repr

/-- The rounding of a deterministic code (R50). -/
def Rz.mode : Rz → RMode
  | .rne => .rne
  | .rz => .rz

/-- Mix32 of R52. -/
def mix32 (x : BitVec 32) : BitVec 32 :=
  let x := x ^^^ (x >>> 16)
  let x := x * 0x7FEB352D#32
  let x := x ^^^ (x >>> 15)
  let x := x * 0x846CA68B#32
  x ^^^ (x >>> 16)

/-- SRRand of R52. -/
def srRand (seed : Word) (i : Nat) : BitVec 32 :=
  mix32 (seed.extractLsb' 0 32 ^^^ mix32 (seed.extractLsb' 32 32 ^^^ mix32 (BitVec.ofNat 32 i)))

/-- The rounding of element i when the seed register holds `seed` (R52, R82). -/
def Rnd.mode (r : Rnd) (seed : Word) (i : Nat) : RMode :=
  match r with
  | .rne => .rne
  | .rz => .rz
  | .sr _ => .sr (srRand seed i)

/-- 2^k for an integer exponent that is known to be nonnegative. -/
def pow2 (k : Int) : Int := 2 ^ k.toNat

/-- RoundInt of R51 on m * 2^e. -/
def roundInt (m e : Int) (rm : RMode) : Int :=
  if 0 ≤ e then m * pow2 e
  else
    let d := pow2 (-e)
    let fl := m / d
    let r := m % d
    if r = 0 then fl
    else
      match rm with
      | .rne => if 2 * r > d then fl + 1 else if 2 * r < d then fl else if fl % 2 = 0 then fl else fl + 1
      | .rz => if m > 0 then fl else fl + 1
      | .sr u => if (u.toNat : Int) < r * 2 ^ 32 / d then fl + 1 else fl

/-- m * 2^e is an integer. -/
def isWhole (m e : Int) : Bool := decide (0 ≤ e) || m % pow2 (-e) == 0

/-- The comparison m * 2^e ≥ n of a number with an integer. -/
def dyGe (m e n : Int) : Bool := if 0 ≤ e then decide (m * pow2 e ≥ n) else decide (m ≥ n * pow2 (-e))

/-- The comparison m1 * 2^e1 < m2 * 2^e2. -/
def dyLt (m1 e1 m2 e2 : Int) : Bool :=
  if e1 ≤ e2 then decide (m1 < m2 * pow2 (e2 - e1)) else decide (m1 * pow2 (e1 - e2) < m2)

/-- The exact sum of two numbers, at the smaller exponent. -/
def dyAdd (a b : Int × Int) : Int × Int :=
  if a.2 ≤ b.2 then (a.1 + b.1 * pow2 (b.2 - a.2), a.2) else (a.1 * pow2 (a.2 - b.2) + b.1, b.2)

/-- Floor(Log2(m)) of a positive natural number. -/
def ilog2 (m : Nat) : Int := (m.log2 : Int)

/-- Floor of the square root of n, one result bit per unit of fuel, from the top. -/
def isqrtGo (n : Nat) : Nat → Nat → Nat
  | 0, r => r
  | k + 1, r => if (r + 2 ^ k) * (r + 2 ^ k) ≤ n then isqrtGo n k (r + 2 ^ k) else isqrtGo n k r

/-- Floor of the square root. -/
def isqrt (n : Nat) : Nat := isqrtGo n (n.log2 / 2 + 1) 0

/-- The least value of an integer type (R46). -/
def Ty.minVal (ty : Ty) : Int := if ty.isSigned then -(2 ^ (ty.width - 1)) else 0

/-- The greatest value of an integer type (R46). -/
def Ty.maxVal (ty : Ty) : Int := if ty.isSigned then 2 ^ (ty.width - 1) - 1 else 2 ^ ty.width - 1

/-- Clamp to a range. -/
def clampInt (x lo hi : Int) : Int := if x < lo then lo else if hi < x then hi else x

/-- The value of the low bits of a lane as an integer type (R46). -/
def Ty.value (ty : Ty) (x : BitVec 64) : Int :=
  let n : Int := ((x.toNat % 2 ^ ty.width : Nat) : Int)
  if ty.isSigned && decide (n ≥ 2 ^ (ty.width - 1)) then n - 2 ^ ty.width else n

/-- The lane bits of an integer, wrapping to the type's width (R46). -/
def Ty.wrap (ty : Ty) (x : Int) : BitVec 64 := BitVec.ofNat 64 (x % 2 ^ ty.width).toNat

/-- A value with the flags that making it sets (R69). -/
structure FRes where
  bits : BitVec 64
  flags : Flags
  deriving DecidableEq, Repr

/-- Clamp to an integer type, with SAT when the value changes (R46). -/
def satInt (ty : Ty) (x : Int) : FRes :=
  let y := clampInt x ty.minVal ty.maxVal
  ⟨ty.wrap y, if y = x then 0 else fSAT⟩

/-- The significand width of an IEEE format, hidden bit included (R47). -/
def Ty.prec : Ty → Nat
  | .f16 => 11 | .bf16 => 8 | _ => 24

/-- The least normal exponent of an IEEE format (R47). -/
def Ty.emin : Ty → Int
  | .f16 => -14 | _ => -126

/-- The encoding of +infinity (R47). -/
def Ty.infBits : Ty → Nat
  | .f16 => 0x7C00 | .bf16 => 0x7F80 | _ => 0x7F800000

/-- The canonical NaN (R47). -/
def Ty.nanBits : Ty → BitVec 64
  | .f16 => 0x7E00 | .bf16 => 0x7FC0 | _ => 0x7FC00000

/-- What an IEEE encoding stands for. A finite value is (-1)^neg * m * 2^e. -/
inductive FVal where
  | nan (signalling : Bool)
  | inf (neg : Bool)
  | fin (neg : Bool) (m : Nat) (e : Int)
  deriving DecidableEq, Repr

/-- Read the low bits of a lane as an IEEE format (R47). -/
def Ty.unpack (ty : Ty) (x : BitVec 64) : FVal :=
  let n := x.toNat % 2 ^ ty.width
  let neg := decide (n ≥ 2 ^ (ty.width - 1))
  let a := n % 2 ^ (ty.width - 1)
  let frac := a % 2 ^ (ty.prec - 1)
  let ex := a / 2 ^ (ty.prec - 1)
  if a > ty.infBits then .nan (decide (frac < 2 ^ (ty.prec - 2)))
  else if a = ty.infBits then .inf neg
  else if ex = 0 then .fin neg frac (ty.emin - (ty.prec - 1 : Nat))
  else .fin neg (frac + 2 ^ (ty.prec - 1)) ((ex : Int) - 1 + ty.emin - (ty.prec - 1 : Nat))

/-- The sign bit of a format. -/
def Ty.signBits (ty : Ty) (neg : Bool) : Nat := if neg then 2 ^ (ty.width - 1) else 0

/-- A signed infinity. -/
def Ty.inf (ty : Ty) (neg : Bool) : BitVec 64 := BitVec.ofNat 64 (ty.infBits + ty.signBits neg)

/-- A signed zero. -/
def Ty.zero (ty : Ty) (neg : Bool) : BitVec 64 := BitVec.ofNat 64 (ty.signBits neg)

/-- The result is tiny: rounded to the format's precision with an unbounded exponent it lies below the least normal number (R48). -/
def Ty.tiny (ty : Ty) (m e : Int) (rm : RMode) : Bool :=
  let top := ilog2 m.natAbs + e
  decide (top < ty.emin) &&
    decide ((roundInt m (e - (top - (ty.prec - 1 : Nat))) rm).natAbs < 2 ^ ty.prec || top + 1 < ty.emin)

/-- Round m * 2^e once into an IEEE format (R48, R51). `zneg` is the sign of an exact zero. -/
def Ty.round (ty : Ty) (rm : RMode) (zneg : Bool) (m e : Int) : FRes :=
  if m = 0 then ⟨ty.zero zneg, 0⟩
  else
    let neg := decide (m < 0)
    let top := ilog2 m.natAbs + e
    let sub := ty.emin - (ty.prec - 1 : Nat)
    let ulp := max (top - (ty.prec - 1 : Nat)) sub
    let q := roundInt m (e - ulp) rm
    let a := (ulp - sub).toNat * 2 ^ (ty.prec - 1) + q.natAbs
    if a ≥ ty.infBits then
      ⟨BitVec.ofNat 64 ((if rm = .rz then ty.infBits - 1 else ty.infBits) + ty.signBits neg), fOVF ||| fINX⟩
    else
      let inexact := !isWhole m (e - ulp)
      ⟨BitVec.ofNat 64 (a + ty.signBits neg),
        if inexact then fINX ||| (if ty.tiny m e rm then fUNF else 0) else 0⟩

/-- The canonical NaN, with IOE when `bad` (R48). -/
def Ty.nan (ty : Ty) (bad : Bool) : FRes := ⟨ty.nanBits, if bad then fIOE else 0⟩

/-- The signed significand of a finite value. -/
def sgn (neg : Bool) (m : Nat) : Int := if neg then -(m : Int) else m

/-- A NaN that is signalling. -/
def FVal.isSnan : FVal → Bool
  | .nan b => b
  | _ => false

/-- A NaN. -/
def FVal.isNan : FVal → Bool
  | .nan _ => true
  | _ => false

/-- Negate a value; a NaN is left as it is. -/
def FVal.neg : FVal → FVal
  | .nan s => .nan s
  | .inf n => .inf !n
  | .fin n m e => .fin (!n) m e

/-- a + b rounded once (R48, R106). -/
def Ty.fadd (ty : Ty) (rm : RMode) (a b : FVal) : FRes :=
  match a, b with
  | .nan s, b => ty.nan (s || b.isSnan)
  | a, .nan s => ty.nan (s || a.isSnan)
  | .inf x, .inf y => if x = y then ⟨ty.inf x, 0⟩ else ty.nan true
  | .inf x, .fin _ _ _ => ⟨ty.inf x, 0⟩
  | .fin _ _ _, .inf y => ⟨ty.inf y, 0⟩
  | .fin x m e, .fin y n f =>
    let s := dyAdd (sgn x m, e) (sgn y n, f)
    ty.round rm (x && y) s.1 s.2

/-- a * b rounded once (R48, R106). -/
def Ty.fmul (ty : Ty) (rm : RMode) (a b : FVal) : FRes :=
  match a, b with
  | .nan s, b => ty.nan (s || b.isSnan)
  | a, .nan s => ty.nan (s || a.isSnan)
  | .inf x, .inf y => ⟨ty.inf (x != y), 0⟩
  | .inf x, .fin y m _ => if m = 0 then ty.nan true else ⟨ty.inf (x != y), 0⟩
  | .fin x m _, .inf y => if m = 0 then ty.nan true else ⟨ty.inf (x != y), 0⟩
  | .fin x m e, .fin y n f => ty.round rm (x != y) (sgn (x != y) (m * n)) (e + f)

/-- A quotient of naturals m / n to 64 fraction bits with a sticky bit below them. -/
def stickyDiv (m n : Nat) : Nat :=
  2 * (m * 2 ^ 64 / n) + (if m * 2 ^ 64 % n = 0 then 0 else 1)

/-- a / b rounded once (R48, R106). -/
def Ty.fdiv (ty : Ty) (rm : RMode) (a b : FVal) : FRes :=
  match a, b with
  | .nan s, b => ty.nan (s || b.isSnan)
  | a, .nan s => ty.nan (s || a.isSnan)
  | .inf _, .inf _ => ty.nan true
  | .inf x, .fin y _ _ => ⟨ty.inf (x != y), 0⟩
  | .fin x _ _, .inf y => ⟨ty.zero (x != y), 0⟩
  | .fin x m e, .fin y n f =>
    if n = 0 then (if m = 0 then ty.nan true else ⟨ty.inf (x != y), 0⟩)
    else ty.round rm (x != y) (sgn (x != y) (stickyDiv m n)) (e - f - 65)

/-- A square root of m to at least 40 significant bits, with a sticky bit; the result's exponent is half of `e - 80`, for even e. -/
def stickySqrt (m : Nat) : Nat :=
  let n := m * 2 ^ 80
  let r := isqrt n
  2 * r + (if r * r = n then 0 else 1)

/-- The square root rounded once (R48, R106). -/
def Ty.fsqrt (ty : Ty) (rm : RMode) (a : FVal) : FRes :=
  match a with
  | .nan s => ty.nan s
  | .inf x => if x then ty.nan true else ⟨ty.inf false, 0⟩
  | .fin x m e =>
    if m = 0 then ⟨ty.zero x, 0⟩
    else if x then ty.nan true
    else if e % 2 = 0 then ty.round rm false (stickySqrt m) ((e - 80) / 2 - 1)
    else ty.round rm false (stickySqrt (2 * m)) ((e - 1 - 80) / 2 - 1)

/-- a * b + c with one rounding; the product of an infinity and a zero is invalid whatever c is (R48, R106). -/
def Ty.fma (ty : Ty) (rm : RMode) (a b c : FVal) : FRes :=
  let snan := a.isSnan || b.isSnan || c.isSnan
  let prod : FVal × Bool :=
    match a, b with
    | .nan s, _ => (.nan s, false)
    | _, .nan s => (.nan s, false)
    | .inf x, .inf y => (.inf (x != y), false)
    | .inf x, .fin y m _ => if m = 0 then (.nan false, true) else (.inf (x != y), false)
    | .fin x m _, .inf y => if m = 0 then (.nan false, true) else (.inf (x != y), false)
    | .fin x m e, .fin y n f => (.fin (x != y) (m * n) (e + f), false)
  if prod.2 then ty.nan true
  else
    match prod.1, c with
    | .nan _, _ => ty.nan snan
    | _, .nan _ => ty.nan snan
    | p, c => ty.fadd rm p c

/-- A value is below another, for two values that are not NaN; the two zeros are equal (R104). -/
def FVal.lt (a b : FVal) : Bool :=
  match a, b with
  | .nan _, _ => false
  | _, .nan _ => false
  | .inf x, .inf y => x && !y
  | .inf x, .fin _ _ _ => x
  | .fin _ _ _, .inf y => !y
  | .fin x m e, .fin y n f => dyLt (sgn x m) e (sgn y n) f

/-- Two values that are not NaN are equal; the two zeros are equal (R104). -/
def FVal.eq (a b : FVal) : Bool := !a.isNan && !b.isNan && !a.lt b && !b.lt a

/-- The order of minimumNumber: -0 below +0 (R106). -/
def FVal.ltz (a b : FVal) : Bool :=
  match a, b with
  | .fin x m e, .fin y n f => if m = 0 && n = 0 then x && !y else dyLt (sgn x m) e (sgn y n) f
  | a, b => a.lt b

/-- minimumNumber and maximumNumber (R106) on the encodings x and y. -/
def Ty.fminmax (ty : Ty) (isMax : Bool) (x y : BitVec 64) : FRes :=
  let a := ty.unpack x
  let b := ty.unpack y
  let fl : Flags := if a.isSnan || b.isSnan then fIOE else 0
  if a.isNan then (if b.isNan then ⟨ty.nanBits, fl⟩ else ⟨y, fl⟩)
  else if b.isNan then ⟨x, fl⟩
  else if isMax then ⟨if a.ltz b then y else x, fl⟩
  else ⟨if b.ltz a then y else x, fl⟩

/-- Round an exact number to an integer type and clamp it (R51). -/
def Ty.toInt (ty : Ty) (rm : RMode) (m e : Int) : FRes :=
  let r := roundInt m e rm
  let y := clampInt r ty.minVal ty.maxVal
  ⟨ty.wrap y, if y ≠ r then fIOE else if isWhole m e then 0 else fINX⟩

/-- The conversion of one lane from `src` to `dst` (R46, R49, R51, R107). -/
def convLane (dst src : Ty) (rm : RMode) (x : BitVec 64) : FRes :=
  if src.isInt then
    if dst.isInt then satInt dst (src.value x)
    else dst.round rm false (src.value x) 0
  else
    match src.unpack x with
    | .nan s => if dst.isInt then ⟨0, fIOE⟩ else ⟨dst.nanBits, if s then fIOE else 0⟩
    | .inf n =>
      if dst.isInt then ⟨dst.wrap (if n then dst.minVal else dst.maxVal), fIOE⟩ else ⟨dst.inf n, 0⟩
    | .fin n m e => if dst.isInt then dst.toInt rm (sgn n m) e else dst.round rm n (sgn n m) e

/-- The low bits of a scalar that a typed operand occupies (R91). -/
def Ty.low (ty : Ty) (x : Word) : BitVec 64 := BitVec.ofNat 64 (x.toNat % 2 ^ ty.width)

/-- A typed result in a scalar register: i32 sign-extended, the others zero-extended (R91). -/
def Ty.extend (ty : Ty) (x : BitVec 64) : Word :=
  if ty.isSigned then BitVec.ofInt 64 (ty.value x) else x

/-- The registers that a rounding reads: the seed under SR (R82). -/
def Rnd.srcs : Rnd → List Reg
  | .sr k => [k]
  | _ => []

end Sys2Proof
end

