-- ==== Sys2Proof/Machine/Poison.lean ====
section
/-! DEFINITION. Cause codes (R323) and poison origin records (R64, R65). -/
namespace Sys2Proof

/-- The cause names of R323. -/
inductive Cause where
  | ill | priv | badaddr | misaln | badrel | psnuse | psnsink | nolic | lrev | bltag | acmd | badpat | badarg
  | chbusy | msglen | swtrap | bkpt | nohnd | wdog | isnb | islate
  | nan | fmt | spsn | lspsn | mmaue | gidx | cxlpsn
  | nochn | stale | psncxl | xlat | cxlto | dres | nseal | domn | right | padx | isrep | isflt | isunb | isto | retire
  | tfull | texist | tnomem | cbusy | abort | qlate | sbusy | nopage | qfull | badimg | depf | stfail | kill | evfull
  deriving DecidableEq, Repr

/-- The 12-bit code of a cause (R323). -/
def Cause.code : Cause → BitVec 12
  | .ill => 0x001 | .priv => 0x002 | .badaddr => 0x003 | .misaln => 0x004 | .badrel => 0x005 | .psnuse => 0x006
  | .psnsink => 0x007 | .nolic => 0x008 | .lrev => 0x009 | .bltag => 0x00A | .acmd => 0x00B | .badpat => 0x00C
  | .badarg => 0x00D | .chbusy => 0x00E | .msglen => 0x00F | .swtrap => 0x010 | .bkpt => 0x011 | .nohnd => 0x012
  | .wdog => 0x013 | .isnb => 0x014 | .islate => 0x015
  | .nan => 0x0C0 | .fmt => 0x0C1 | .spsn => 0x0C2 | .lspsn => 0x0C3 | .mmaue => 0x0C4 | .gidx => 0x0C5 | .cxlpsn => 0x0C6
  | .nochn => 0x040 | .stale => 0x041 | .psncxl => 0x042 | .xlat => 0x043 | .cxlto => 0x044 | .dres => 0x045
  | .nseal => 0x046 | .domn => 0x047 | .right => 0x048 | .padx => 0x049 | .isrep => 0x04A | .isflt => 0x04B
  | .isunb => 0x04C | .isto => 0x04D | .retire => 0x04E
  | .tfull => 0x080 | .texist => 0x081 | .tnomem => 0x082 | .cbusy => 0x083 | .abort => 0x084 | .qlate => 0x085
  | .sbusy => 0x086 | .nopage => 0x087 | .qfull => 0x088 | .badimg => 0x089 | .depf => 0x08A | .stfail => 0x08B
  | .kill => 0x08C | .evfull => 0x08D

/-- Code 0: no cause. -/
def noCause : BitVec 12 := 0

/-- An origin record of R64. -/
def mkOrigin (group : BitVec 16) (cause : BitVec 12) (pc : LAddr) (modu : BitVec 20) (name : BitVec 32) : Org :=
  0#16 ++ (group ++ (cause ++ (0#3 ++ (pc.extractLsb' 3 17 ++ (0#12 ++ (modu ++ name))))))

/-- CAUSE of an origin record. -/
def orgCause (o : Org) : BitVec 12 := o.extractLsb' 84 12
/-- GROUP of an origin record. -/
def orgGroup (o : Org) : BitVec 16 := o.extractLsb' 96 16
/-- PC [19:3] of an origin record. -/
def orgPc (o : Org) : BitVec 17 := o.extractLsb' 64 17
/-- MOD of an origin record. -/
def orgMod (o : Org) : BitVec 20 := o.extractLsb' 32 20
/-- NAME of an origin record. -/
def orgName (o : Org) : BitVec 32 := o.extractLsb' 0 32

/-- The record with its reserved bits zero (R64). -/
def orgClean (o : Org) : Org :=
  0#16 ++ (orgGroup o ++ (orgCause o ++ (0#3 ++ (orgPc o ++ (0#12 ++ (orgMod o ++ orgName o))))))

/-- The record with another cause. -/
def orgWithCause (o : Org) (c : BitVec 12) : Org :=
  0#16 ++ (orgGroup o ++ (c ++ (0#3 ++ (orgPc o ++ (0#12 ++ (orgMod o ++ orgName o))))))

/-- The keys of R65 as one number, the first key the most significant. -/
def orgKey (o : Org) : Nat :=
  ((orgName o).extractLsb' 24 8 ++ (orgMod o ++ ((orgName o).extractLsb' 0 24 ++ (orgPc o ++ (orgCause o ++ orgGroup o))))).toNat

/-- The winner of two origins (R65). -/
def orgMin (a b : Org) : Org := if orgKey b < orgKey a then b else a

/-- The winner of several origins, none of an empty list (R65). -/
def orgWinner : List Org → Option Org
  | [] => none
  | o :: os =>
    match orgWinner os with
    | none => some o
    | some w => some (orgMin o w)

/-- Merge an origin into a record whose CAUSE 0 means none (R64, R65, R68). DEDUCED (log 35): a new record with CAUSE 0 names no origin and changes nothing. -/
def orgMerge (held new : Org) : Org := if orgCause new = 0 then held else if orgCause held = 0 then new else orgMin held new

end Sys2Proof
end

