-- ==== Sys2Proof/Machine/Special.lean ====
section
/-! DEFINITION. Sums with one rounding (R62, R135), the fused step of FP32 mode (R61) and the special functions (R63). -/
namespace Sys2Proof

/-- The exact product of two values as a term of a sum, with IOE for infinity times zero and for a signalling NaN (R48, R62). -/
def mulTerm (a b : FVal) : FVal × Flags :=
  match a, b with
  | .nan s, b => (.nan false, if s || b.isSnan then fIOE else 0)
  | _, .nan s => (.nan false, if s then fIOE else 0)
  | .inf x, .inf y => (.inf (x != y), 0)
  | .inf x, .fin y m _ => if m = 0 then (.nan false, fIOE) else (.inf (x != y), 0)
  | .fin x m _, .inf y => if m = 0 then (.nan false, fIOE) else (.inf (x != y), 0)
  | .fin x m e, .fin y n f => (.fin (x != y) (m * n) (e + f), 0)

/-- The exact value of a finite term. -/
def FVal.dy : FVal → Int × Int
  | .fin n m e => (sgn n m, e)
  | _ => (0, 0)

/-- A zero of negative sign. -/
def FVal.isNegZero : FVal → Bool
  | .fin n m _ => n && m == 0
  | _ => false

/-- The exact sum of terms rounded once (R62, R135): infinities of both signs set IOE whether a NaN stands beside them or not. -/
def exactSum (ty : Ty) (rm : RMode) (ts : List FVal) : FRes :=
  let pos := ts.any fun t => t == .inf false
  let neg := ts.any fun t => t == .inf true
  if ts.any FVal.isNan then ty.nan (ts.any FVal.isSnan || (pos && neg))
  else
    if pos && neg then ty.nan true
    else if pos then ⟨ty.inf false, 0⟩
    else if neg then ⟨ty.inf true, 0⟩
    else
      let s := ts.foldl (fun acc t => dyAdd acc t.dy) (0, 0)
      ty.round rm (!ts.isEmpty && ts.all FVal.isNegZero) s.1 s.2

/-- VDOT of one lane: the FP32 addend and the products of pairs of half values (R62, R130). -/
def vdotLane (ty : Ty) (c : BitVec 64) (ps : List (BitVec 64 × BitVec 64)) : FRes :=
  let ts := ps.map fun p => mulTerm (ty.unpack p.1) (ty.unpack p.2)
  let r := exactSum .f32 .rne (Ty.f32.unpack c :: ts.map Prod.fst)
  ⟨r.bits, ts.foldl (fun fl t => fl ||| t.2) r.flags⟩

/-- One step of an FP32-mode MMA: acc + a * b, or acc - a * b, with one rounding (R61, R155). -/
def fp32Step (ty : Ty) (neg : Bool) (acc : FRes) (a b : BitVec 64) : FRes :=
  let t := mulTerm (ty.unpack a) (ty.unpack b)
  let p := if neg then t.1.neg else t.1
  let r := Ty.f32.fadd .rne (Ty.f32.unpack acc.bits) p
  ⟨r.bits, acc.flags ||| t.2 ||| r.flags⟩

/-- The fraction bits that the special functions carry. -/
def specPrec : Nat := 320

/-- The product of 2^(2^-j) over the set bits of a fraction, most significant first. `c` is 2^(2^-j) and `acc` the product so far, both with `specPrec` fraction bits; `fuel` is the number of bits left. -/
def exp2Go (fr : Nat) : Nat → Nat → Nat → Nat
  | 0, _, acc => acc
  | k + 1, c, acc =>
    let acc := if fr.testBit k then acc * c / 2 ^ specPrec else acc
    exp2Go fr k (isqrt (c * 2 ^ specPrec)) acc

/-- 2^x of a finite value, correctly rounded (R63). -/
def exp2Fin (m e : Int) : FRes :=
  if dyGe m e 128 then ⟨Ty.f32.inf false, fOVF ||| fINX⟩
  else if dyGe (-m) e 150 then ⟨0, fUNF ||| fINX⟩
  else
    let n := roundInt m e .rz
    let n := if m < 0 && !isWhole m e then n - 1 else n
    if isWhole m e then Ty.f32.round .rne false 1 n
    else
      let k := (-e).toNat
      let fr := (m - n * 2 ^ k).toNat
      let acc := exp2Go fr k (isqrt (2 * 2 ^ (2 * specPrec))) (2 ^ specPrec)
      Ty.f32.round .rne false (2 * acc + 1) (n - specPrec - 1)

/-- The first `fuel` bits of the logarithm of `y`, which lies in [1, 2) with `specPrec` fraction bits. -/
def log2Go : Nat → Nat → Nat → Nat
  | 0, _, l => l
  | k + 1, y, l =>
    let q := y * y / 2 ^ specPrec
    if q ≥ 2 ^ (specPrec + 1) then log2Go k (q / 2) (2 * l + 1) else log2Go k q (2 * l)

/-- log2 of a positive finite value, correctly rounded (R63). -/
def log2Fin (m : Nat) (e : Int) : FRes :=
  let top := ilog2 m
  if m = 2 ^ top.toNat then Ty.f32.round .rne false (top + e) 0
  else
    let l := log2Go 128 (m * 2 ^ (specPrec - top.toNat)) 0
    Ty.f32.round .rne false (2 * ((top + e) * 2 ^ 128 + l) + 1) (-129)

/-- 1/√(m * 2^e) for m > 0, correctly rounded (R63). -/
def rsqFin (m : Nat) (e : Int) : FRes :=
  let m2 := if e % 2 = 0 then m else 2 * m
  let e2 := if e % 2 = 0 then e else e - 1
  let q := isqrt (2 ^ 160 / m2)
  let sticky := if q * q * m2 = 2 ^ 160 then 0 else 1
  Ty.f32.round .rne false (2 * q + sticky) (-80 - e2 / 2 - 1)

/-- VRCP (R63). -/
def vrcp (x : BitVec 64) : FRes :=
  match Ty.f32.unpack x with
  | .nan s => Ty.f32.nan s
  | .inf n => ⟨Ty.f32.zero n, 0⟩
  | .fin n m e => if m = 0 then ⟨Ty.f32.inf n, 0⟩ else Ty.f32.round .rne n (sgn n (stickyDiv 1 m)) (-e - 65)

/-- VRSQ (R63). -/
def vrsq (x : BitVec 64) : FRes :=
  match Ty.f32.unpack x with
  | .nan s => Ty.f32.nan s
  | .inf n => if n then Ty.f32.nan true else ⟨0, 0⟩
  | .fin n m e => if m = 0 then ⟨Ty.f32.inf n, 0⟩ else if n then Ty.f32.nan true else rsqFin m e

/-- VEXP2 (R63). -/
def vexp2 (x : BitVec 64) : FRes :=
  match Ty.f32.unpack x with
  | .nan s => Ty.f32.nan s
  | .inf n => if n then ⟨0, 0⟩ else ⟨Ty.f32.inf false, 0⟩
  | .fin n m e => exp2Fin (sgn n m) e

/-- VLOG2 (R63). -/
def vlog2 (x : BitVec 64) : FRes :=
  match Ty.f32.unpack x with
  | .nan s => Ty.f32.nan s
  | .inf n => if n then Ty.f32.nan true else ⟨Ty.f32.inf false, 0⟩
  | .fin n m e => if m = 0 then ⟨Ty.f32.inf true, 0⟩ else if n then Ty.f32.nan true else log2Fin m e

end Sys2Proof
end

