-- ==== Sys2Proof/Machine/BlockNum.lean ====
section
/-! DEFINITION. Shared-exponent blocks and accumulator tiles as numbers: headers and mantissas (R53 to R55), ToBlock (R56), block dot products (R59) and the tile update (R60). -/
namespace Sys2Proof

/-- The data bits of one block: 32 mantissas (R55). -/
def Ty.blockBits (ty : Ty) : Nat := 32 * ty.width

/-- FMT of a block format (R53). -/
def Ty.fmt : Ty → BitVec 4
  | .vb4 => 1 | .vb8 => 2 | .vb16 => 3 | _ => 0

/-- E of a header (R53). -/
def hdrE (h : BitVec 32) : BitVec 8 := h.extractLsb' 24 8
/-- MU of a header (R53). -/
def hdrMu (h : BitVec 32) : BitVec 16 := h.extractLsb' 8 16
/-- FMT of a header (R53). -/
def hdrFmt (h : BitVec 32) : BitVec 4 := h.extractLsb' 4 4

/-- A header (R53). -/
def mkHdr (e : BitVec 8) (mu : BitVec 16) (fmt : BitVec 4) (s x : Bool) : BitVec 32 :=
  e ++ (mu ++ (fmt ++ (bit1 s ++ (bit1 x ++ 0#2))))

/-- One block: its data bits, from bit 0, and its header. -/
structure Blk where
  data : VData
  hdr : BitVec 32
  deriving DecidableEq, Repr

/-- The poison block of an origin (R64). -/
def poisonBlk (ty : Ty) (o : Org) : Blk := ⟨(orgClean o).setWidth 512, mkHdr 255 0 ty.fmt false false⟩

/-- The zero block of a format, as ToBlock writes it (R56). -/
def zeroBlk (ty : Ty) (x : Bool) : Blk := ⟨0, mkHdr 0 0 ty.fmt false x⟩

/-- Mantissa j of a block, two's complement (R54, R55). -/
def Blk.mant (b : Blk) (ty : Ty) (j : Nat) : Int := (b.data.extractLsb' (ty.width * j) ty.width).toInt

/-- μ of element j (R53). -/
def Blk.mu (b : Blk) (j : Nat) : Nat := if (hdrMu b.hdr).getLsbD (j / 2) then 1 else 0

/-- What a block holds when it is read in a format (R54). -/
inductive BRead where
  /-- E = 255: poison with its origin -/
  | poison (o : Org)
  /-- another format: poison of the reading core, cause FMT -/
  | mismatch
  /-- E = 0: every element zero -/
  | zero
  /-- an ordinary block -/
  | ordinary
  deriving DecidableEq, Repr

/-- Read a block's class in a format (R54). -/
def Blk.read (b : Blk) (ty : Ty) : BRead :=
  if hdrE b.hdr = 255#8 then .poison (orgClean (b.data.extractLsb' 0 128))
  else if hdrE b.hdr = 0#8 then .zero
  else if hdrFmt b.hdr ≠ ty.fmt ∧ hdrFmt b.hdr ≠ 0#4 then .mismatch
  else .ordinary

/-- An exact input of ToBlock (R56): NaN, infinity, or m * 2^e. -/
inductive XVal where
  | nan
  | inf (neg : Bool)
  | dy (m e : Int)
  deriving DecidableEq, Repr

/-- The value of element j of a block that is zero or ordinary (R54). -/
def Blk.elem (b : Blk) (ty : Ty) (j : Nat) : XVal :=
  if hdrE b.hdr = 0#8 then .dy 0 0
  else .dy (b.mant ty j) ((hdrE b.hdr).toNat - 127 - b.mu j - (ty.width - 1 : Nat))

/-- The value of an IEEE lane as an input of ToBlock. -/
def FVal.toX : FVal → XVal
  | .nan _ => .nan
  | .inf n => .inf n
  | .fin n m e => .dy (sgn n m) e

/-- mag of R56. -/
def XVal.mag : XVal → Int × Int
  | .nan => (0, 0)
  | .inf _ => (1, 128)
  | .dy m e => ((m.natAbs : Int), e)

/-- The larger of two magnitudes. -/
def dyMax (a b : Int × Int) : Int × Int := if dyLt a.1 a.2 b.1 b.2 then b else a

/-- A NaN among the inputs of ToBlock. -/
def XVal.isNan : XVal → Bool
  | .nan => true
  | _ => false

/-- Signed saturation value. -/
def satMant (w : Nat) (neg : Bool) : Int := if neg then -(2 ^ (w - 1) - 1) else 2 ^ (w - 1) - 1

/-- E of R56 for the largest magnitude A = m * 2^a > 0. -/
def blockE (w : Nat) (m a : Int) : Int :=
  let e := ilog2 m.natAbs + a
  let en := e + 128
  let en := if dyGe (2 * m) (a + (w : Int) - 2 - e) (2 ^ w - 1) then en + 1 else en
  if en > 254 then 254 else if en < 1 then 1 else en

/-- μ of a pair whose larger magnitude is p (R56). -/
def blockMu (w : Nat) (en : Int) (p : Int × Int) : Bool :=
  !dyGe (4 * p.1) (p.2 + ((w : Int) - 1 - (en - 127))) (2 ^ w - 1)

/-- One mantissa with its saturation and inexact marks (R56). -/
def blockMant (w : Nat) (en : Int) (mu : Bool) (rm : RMode) (x : XVal) : Int × Bool × Bool :=
  match x with
  | .nan => (0, false, false)
  | .inf n => (satMant w n, true, true)
  | .dy m e =>
    let ex := e + ((w : Int) - 1 + (if mu then 1 else 0) - (en - 127))
    let r := roundInt m ex rm
    let inx := !isWhole m ex
    if r.natAbs > 2 ^ (w - 1) - 1 then (satMant w (decide (r < 0)), true, inx) else (r, false, inx)

/-- Mantissas packed from element 0 upward (R55). -/
def packMants (w : Nat) (ms : List Int) : VData :=
  ms.foldr (fun m acc => (acc <<< w) ||| BitVec.ofNat 512 (m % 2 ^ w).toNat) 0

/-- A bit vector whose bit k is `f k`, for k below n. -/
def bitsOf (n : Nat) (f : Nat → Bool) : BitVec n :=
  (List.range n).foldr (fun k acc => (acc <<< 1) ||| BitVec.ofNat n (if f k then 1 else 0)) 0

/-- ToBlock of R56 with the flags it sets in ASTAT; `none` where an input is NaN. `mode i` is the rounding of element i with its random word. -/
def toBlock (ty : Ty) (mode : Nat → RMode) (xs : List XVal) : Option (Blk × Flags) :=
  if xs.any XVal.isNan then none
  else
    let w := ty.width
    let a := xs.foldl (fun acc x => dyMax acc x.mag) (0, 0)
    if a.1 = 0 then some (zeroBlk ty false, 0)
    else
      let en := blockE w a.1 a.2
      let mu := bitsOf 16 fun k => blockMu w en (dyMax (xs.getD (2 * k) (.dy 0 0)).mag (xs.getD (2 * k + 1) (.dy 0 0)).mag)
      let rs := (List.range 32).map fun i => blockMant w en (mu.getLsbD (i / 2)) (mode i) (xs.getD i (.dy 0 0))
      let sat := rs.any fun r => r.2.1
      let inx := rs.any fun r => r.2.2
      let fl : Flags := (if sat then fSAT else 0) ||| (if inx then fINX else 0)
      if rs.all fun r => r.1 == 0 then some (⟨0, mkHdr 0 0 ty.fmt sat inx⟩, fl)
      else some (⟨packMants w (rs.map Prod.fst), mkHdr (BitVec.ofNat 8 en.toNat) mu ty.fmt sat inx⟩, fl)

/-- BlockDot of R59 on elements lo to lo + n - 1 of an ordinary pair. -/
def blockDot (ty : Ty) (a b : Blk) (lo n : Nat) : Int × Int :=
  (((List.range n).map fun i =>
      let j := lo + i
      a.mant ty j * b.mant ty j * 2 ^ (2 - a.mu j - b.mu j)).foldl (· + ·) 0,
    ((hdrE a.hdr).toNat : Int) + (hdrE b.hdr).toNat - 254 - 2 * (ty.width - 1 : Nat) - 2)

/-- The contribution of a pair of blocks: zero where either is zero or poison (R59). -/
def blockPair (ty : Ty) (a b : Blk) (lo n : Nat) : Option (Int × Int) :=
  match a.read ty, b.read ty with
  | .ordinary, .ordinary => some (blockDot ty a b lo n)
  | _, _ => none

/-- Sum contributions exactly at the smallest exponent (R59). -/
def sumContribs (cs : List (Int × Int)) : Int × Int := cs.foldl dyAdd (0, 0)

/-- The least and greatest accumulator integers (R58). -/
def accMin : Int := -(2 ^ 47)
/-- The greatest accumulator integer (R58). -/
def accMax : Int := 2 ^ 47 - 1

/-- Align old contents and contributions at scale Tn (R60): the sums and whether any rounding was inexact. -/
def tileAlign (n : List Int) (t : Int) (s : List (Int × Int)) (tn : Int) : List Int × Bool :=
  let rs := List.zipWith (fun x (c : Int × Int) =>
    (roundInt x (t - tn) .rne + (if c.1 = 0 then 0 else roundInt c.1 (c.2 - tn) .rne),
      !isWhole x (t - tn) || (c.1 != 0 && !isWhole c.1 (c.2 - tn)))) n s
  (rs.map Prod.fst, rs.any Prod.snd)

/-- Every sum fits in 48 bits. -/
def tileFits (t : List Int) : Bool := t.all fun x => decide (accMin ≤ x) && decide (x ≤ accMax)

/-- A tile after an update: contents, scale, flags (R60). -/
structure TileRes where
  n : List Int
  t : Int
  flags : Flags
  deriving DecidableEq, Repr

/-- TileUpdate of R60 from candidate scale `tn`, with `fuel` candidates left after it. -/
def tileGo (n : List Int) (t : Int) (s : List (Int × Int)) : Nat → Int → TileRes
  | 0, tn =>
    let a := tileAlign n t s tn
    let done (xs : List Int) (sat : Bool) : TileRes :=
      ⟨xs, tn, (if tn > t then fRNM else 0) ||| (if a.2 then fINX else 0) ||| (if sat then fSAT else 0)⟩
    if tileFits a.1 then done a.1 false else done (a.1.map fun x => clampInt x (-accMax) accMax) true
  | fuel + 1, tn =>
    let a := tileAlign n t s tn
    if tileFits a.1 then ⟨a.1, tn, (if tn > t then fRNM else 0) ||| (if a.2 then fINX else 0)⟩
    else tileGo n t s fuel (tn + 1)

/-- A scale below which no element can fit: each aligned sum lies within one of its exact value, so one of magnitude 2^(48 + Tn) or more exceeds 48 bits. -/
def tileStart (n : List Int) (t : Int) (s : List (Int × Int)) : Int :=
  (List.zipWith (fun x c => dyAdd (x, t) c) n s).foldl
    (fun acc v => if v.1 = 0 then acc else max acc (ilog2 v.1.natAbs + v.2 - 49)) t

/-- TileUpdate of R60. The search starts at the first scale that can fit. -/
def tileUpdate (n : List Int) (t : Int) (s : List (Int × Int)) : TileRes :=
  let st := min (tileStart n t s) 32767
  tileGo n t s (32767 - st).toNat st

end Sys2Proof
end

