-- ==== Sys2Proof/Machine/Maps.lean ====
section
/-! DEFINITION. Finite maps with natural keys, held as lists in rising key order, and byte memories in canonical form: no listed byte is zero (see notes/assumptions/3.md). -/
namespace Sys2Proof

/-- A finite map with natural keys. -/
abbrev NMap (α : Type) := List (Nat × α)

/-- The value at a key. -/
def NMap.get? {α : Type} : NMap α → Nat → Option α
  | [], _ => none
  | (j, v) :: t, k => if j = k then some v else NMap.get? t k

/-- Set the value at a key, keeping the order. -/
def NMap.set {α : Type} : NMap α → Nat → α → NMap α
  | [], k, x => [(k, x)]
  | (j, v) :: t, k, x =>
    if k < j then (k, x) :: (j, v) :: t
    else if k = j then (k, x) :: t
    else (j, v) :: NMap.set t k x

/-- Remove a key. -/
def NMap.del {α : Type} : NMap α → Nat → NMap α
  | [], _ => []
  | (j, v) :: t, k => if j = k then NMap.del t k else (j, v) :: NMap.del t k

/-- Keys strictly rise. -/
def NMap.sorted {α : Type} : NMap α → Bool
  | [] => true
  | [_] => true
  | (j, _) :: (k, w) :: t => decide (j < k) && NMap.sorted ((k, w) :: t)

/-- A byte memory: the bytes that are not zero. -/
abbrev Mem := List Host.Cell

/-- What an address that the list does not name reads as. -/
def Mem.default : Byte := 0#8

/-- Read one byte. -/
def Mem.byte (m : Mem) (a : Nat) : Byte := (NMap.get? m a).getD Mem.default

/-- Write one byte, in canonical form. -/
def Mem.put (m : Mem) (a : Nat) (b : Byte) : Mem := if b = Mem.default then NMap.del m a else NMap.set m a b

/-- Read `n` bytes upward from an address. -/
def Mem.bytes (m : Mem) (a : Nat) : Nat → List Byte
  | 0 => []
  | n + 1 => m.byte a :: Mem.bytes m (a + 1) n

/-- Write bytes upward from an address. -/
def Mem.putBytes (m : Mem) (a : Nat) : List Byte → Mem
  | [] => m
  | b :: bs => Mem.putBytes (m.put a b) (a + 1) bs

/-- The canonical form: addresses strictly rise and no listed byte is what an unlisted one reads as. -/
def Mem.wf (m : Mem) : Bool := NMap.sorted m && m.all fun c => c.2 != Mem.default

/-- The little-endian number of some bytes (R5). -/
def leNat : List Byte → Nat
  | [] => 0
  | b :: bs => b.toNat + 256 * leNat bs

/-- The low `n` bytes of a number, little-endian (R5). -/
def natBytes (x : Nat) : Nat → List Byte
  | 0 => []
  | n + 1 => BitVec.ofNat 8 x :: natBytes (x / 256) n

/-- A set of naturals in rising order: insert. -/
def nsInsert (k : Nat) : List Nat → List Nat
  | [] => [k]
  | j :: t => if k < j then k :: j :: t else if k = j then j :: t else j :: nsInsert k t

/-- A set of naturals: remove. -/
def nsErase (k : Nat) (s : List Nat) : List Nat := s.filter fun j => j != k

end Sys2Proof
end

