-- ==== Sys2Proof/Machine/CoreState.lean ====
section
/-! DEFINITION. The state of a context (R12), of a core (R21) and of its units, as plain data. -/
namespace Sys2Proof.Machine

/-- A feed-queue entry (R15). -/
structure FqEntry where
  data : VData
  side : Side
  marks : BitVec 9
  /-- the stream command of this core that appended it, for a rollback that cancels the command (R331) -/
  cmd : Option Nat
  deriving DecidableEq, Repr

/-- A feed queue: the entries not yet consumed, and the consumed ones that keep their slots until the window commits (R125, R230). `head` is the slot of the oldest of both. -/
structure FeedQ where
  live : List FqEntry
  kept : List FqEntry
  head : BitVec 4
  deriving DecidableEq, Repr

/-- The wait condition of R180. -/
inductive Wait where
  | none
  | ctr (k : BitVec 4) (v : BitVec 32)
  | batch (n : BitVec 16)
  | lic
  | tkt (t : BitVec 16)
  | chan (ch : BitVec 6)
  deriving DecidableEq, Repr

/-- The context states of R19. -/
inductive CtxSt where
  | free | running | parked | ready
  deriving DecidableEq, Repr

/-- What a register checkpoint holds of a context (R12, R329), beside the feed queues. Bit 0 of `sp`, word 0 of `s`, bit 0 of `g` and mask 0 of `m` are never read. -/
structure Regs where
  s : Vector Word 32
  sp : BitVec 32
  v : Vector VData 32
  side : Vector Side 32
  g : BitVec 8
  m : Vector Word 8
  pc : LAddr
  astat : Flags
  openBatch : BitVec 16
  /-- the open batch holds a command (R182, R190) -/
  batchUsed : Bool
  handler : Bool
  deriving DecidableEq, Repr

/-- The earlier work that later outbound operations of a context wait for (R172, R197): stream commands that must have finished, operations that must have left the core, and operations that must have been acknowledged. -/
structure Prereq where
  streams : List Nat
  left : List Nat
  acked : List Nat
  deriving DecidableEq, Repr

/-- A context (R12, R19, R26). -/
structure Ctx where
  regs : Regs
  fq0 : FeedQ
  fq1 : FeedQ
  st : CtxSt
  wait : Wait
  /-- watchdog count and the limit in force, 2^32 when the limit is 0 (R213) -/
  wd : Nat
  wdLimit : Nat
  /-- priority at selection (CTXID.PRIO), base priority, and the cycle it became READY (R280, R281) -/
  prio : BitVec 3
  base : BitVec 3
  since : Nat
  prv : Bool
  /-- the payload copy that loads may read (R109): address and length -/
  copyAddr : LAddr
  copyLen : BitVec 12
  trapRec : Vector Word 8
  fence : Prereq
  /-- the return stack, newest first, at most 4 entries (R97) -/
  rstack : List Word
  deriving DecidableEq, Repr

/-- An accumulator tile with its ACCST state and origin record (R21, R31, R58). -/
structure Acc where
  n : Vector (BitVec 48) 1024
  t : BitVec 16
  fp32 : Bool
  flags : Flags
  ptl : Bool
  org : Org
  deriving DecidableEq, Repr

/-- A B latch (R23, R150): tag, 2,048 data bytes, 512 header bytes. -/
structure Latch where
  tag : BitVec 4
  data : BitVec 16384
  hdr : BitVec 4096
  deriving DecidableEq, Repr

/-- An MMA in flight (R153): the operands as read at issue, with each poisoned unit of A or block of B held as a poison block (R156). -/
structure MmaJob where
  ctx : BitVec 2
  acc : BitVec 2
  neg : Bool
  ty : Ty
  half : Bool
  units : List Blk
  cols : List Blk
  /-- the instruction's address and word, for the report of R339 -/
  pc : LAddr
  word : Word
  /-- an uncorrectable error in the operand stage, with its origin (R156) -/
  hit : Option Org
  deriving DecidableEq, Repr

/-- A commit-journal record (R224): old bytes of local store with the marks of the words they cover, or the old value of a core-scope control register. -/
inductive JRec where
  | mem (addr : Nat) (old : List Byte) (marks : List (Nat × Bool))
  | cr (idx : BitVec 12) (old : Word)
  deriving DecidableEq, Repr

/-- A ticket slot of the remote-operation unit (R193). -/
structure Slot where
  tkt : BitVec 16
  kind : BitVec 4
  done : Bool
  cause : BitVec 12
  psn : Bool
  deriving DecidableEq, Repr

/-- An input that an uncommitted window has consumed (R229); `slot` is the number of its record. -/
structure Retained where
  slot : Nat
  kind : BitVec 2
  ch : BitVec 6
  ctx : BitVec 2
  pos : LAddr
  /-- granules of the copy (R226) -/
  size : Nat
  deriving DecidableEq, Repr

/-- The open commit window of the running context (R329 to R332). -/
structure Window where
  /-- the register checkpoint, whose pc is the replay point -/
  ckpt : Regs
  att : BitVec 2
  journal : List JRec
  accOld : List (BitVec 2 × Acc)
  latchOld : List (BitVec 1 × Latch)
  /-- the watchdog count at the checkpoint (R12, R329) -/
  wdOld : Nat
  /-- old contents of the ticket slots allocated in the window with their value words, newest first, and the next ticket before it -/
  slotOld : List (Nat × Option Slot × Word)
  tktOld : BitVec 16
  /-- ids from which the window's operations and stream commands count -/
  opFrom : Nat
  streamFrom : Nat
  holdFrom : Nat
  /-- accumulators hit by an uncorrectable error in the window, with the origin (R168) -/
  hit : List (BitVec 2 × Org)
  deriving DecidableEq, Repr

/-- A pending activation, or a pending message of a WAKE channel (R173, R226, R280). -/
structure Pend where
  mode : BitVec 2
  ch : BitVec 6
  sender : Word
  addr : LAddr
  len : BitVec 12
  word : Word
  psn : Bool
  anyPsn : Bool
  set : BitVec 4
  psnMask : BitVec 8
  size : Nat
  since : Nat
  deriving DecidableEq, Repr

/-- A token of a join member (R173). -/
structure Token where
  ch : BitVec 6
  data : Word
  psn : Bool
  sender : Word
  /-- slot of the member's token ring (R226) -/
  pos : Nat
  deriving DecidableEq, Repr

/-- Where a held or sent operation stands (R169, R225, R254). -/
inductive OpSt where
  /-- held in the send hold buffer -/
  | held
  /-- in flight -/
  | sent
  /-- refused; offered again from the hold buffer -/
  | refused
  /-- stale; waits for its page-map entry to change -/
  | stale
  deriving DecidableEq, Repr

/-- A byte with the mark of its word. -/
abbrev MByte := Byte × Bool

/-- The instruction that an asynchronous report names (R324). -/
structure Site where
  ctx : BitVec 2
  prv : Bool
  pc : LAddr
  word : Word
  deriving DecidableEq, Repr

/-- The instruction as two words. -/
def Site.words (x : Site) : List Word := [BitVec.ofNat 64 (x.ctx.toNat + (if x.prv then 4 else 0) + 2 ^ 32 * x.pc.toNat), x.word]

/-- The instruction in two words; none gives zeros. -/
def Site.ofWords (ws : List Word) : Site :=
  let w := ws.getD 0 0
  ⟨w.extractLsb' 0 2, w.getLsbD 2, w.extractLsb' 32 20, ws.getD 1 0⟩

/-- No instruction. -/
def Site.none : Site := ⟨0, false, 0, 0⟩

/-- An outbound operation (R169, R225). -/
structure Op where
  id : Nat
  ctx : BitVec 2
  op : BitVec 8
  fn : BitVec 6
  tkt : Option (BitVec 16)
  cls : BitVec 2
  kind : BitVec 6
  ch : BitVec 6
  /-- destination in the named form of R170 -/
  dst : Word
  /-- the relative address it was translated from -/
  rel : Option (BitVec 32)
  laddr : LAddr
  opa : Word
  opb : Word
  opc : Word
  /-- an operand of an RA is poisoned (R191); F of a RESUME (R201) -/
  psn : Bool
  ty : Ty
  payload : List MByte
  prv : Bool
  /-- the address and the word of its instruction (R324) -/
  pc : LAddr
  word : Word
  committed : Bool
  st : OpSt
  /-- it has left the core before: a stale operation that is sent again -/
  resend : Bool
  /-- module cycle of the last refusal or stale report -/
  since : Nat
  after : Prereq
  /-- absolute position and size in the hold buffer; size 0 once the record is freed -/
  off : Nat
  size : Nat
  /-- the stream command whose store this is, recorded as a token and on its way again after a resume (R351, R356) -/
  owes : Option Nat
  deriving DecidableEq, Repr

/-- The stream commands of R184 to R188. -/
inductive StKind where
  | scpy | sgth | sfq | sbar
  deriving DecidableEq, Repr

/-- Bytes read and not yet written, at their position in the stream, with the origin cause of their marks (R187, R382). -/
structure Piece where
  pos : Nat
  bytes : List MByte
  cause : BitVec 12
  deriving DecidableEq, Repr

/-- A refused or stale access of a stream command: offered again from this module cycle, and a stale one only once the page-map entry has another generation (R173, R254). -/
structure Retry where
  at' : Nat
  gen : Option (BitVec 8)
  deriving DecidableEq, Repr

/-- A stream command or SBAR entry of the stream unit (R231, R235). -/
structure Stream where
  id : Nat
  ctx : BitVec 2
  /-- PRV of its context, and the address and the word of its instruction (R324) -/
  prv : Bool
  pc : LAddr
  word : Word
  batch : BitVec 16
  sn : BitVec 3
  kind : StKind
  /-- SBAR: the mask; SFQ: bit 0 is the queue -/
  mask : BitVec 8
  srcSp : BitVec 2
  dstSp : BitVec 2
  src : Word
  dst : Word
  srcPat : VData
  dstPat : Option VData
  total : Nat
  /-- SGTH: index list, count and row bytes (R185) -/
  list : LAddr
  count : Nat
  row : Nat
  idx : NMap (BitVec 32)
  /-- rows whose index word was marked: their bytes arrive marked (log 15) -/
  badIdx : List Nat
  /-- SFQ: end-of-stream word, close level, remote mode (R186) -/
  eos : Word
  eosPsn : Bool
  cl : BitVec 3
  remote : Bool
  /-- held until the window commits (R169); its operation's id -/
  held : Option Nat
  /-- it has issued its first access (R231) -/
  started : Bool
  rpos : Nat
  wpos : Nat
  pieces : List Piece
  /-- reads off the core in flight: position and length -/
  rdOut : List (Nat × Nat)
  /-- stores off the core not yet acknowledged: request number, position, length -/
  wrOut : List (Nat × Nat × Nat)
  /-- stores that captured members recorded as tokens: acknowledged after the resume (R351) -/
  owed : Nat
  nextReq : Nat
  /-- the bytes of the store in flight to another core, kept to offer it again (R225) -/
  sentBytes : List MByte
  /-- that store was refused or stale -/
  again : Option Retry
  /-- refused or stale reads, to be sent again: position and length -/
  redo : List (Nat × Nat × Retry)
  eosDone : Bool
  /-- cause of its last store that failed for good -/
  failed : Option (BitVec 12)
  deriving DecidableEq, Repr

/-- The instruction of an operation. -/
def Op.site (o : Op) : Site := ⟨o.ctx, o.prv, o.pc, o.word⟩

/-- The instruction of a stream command. -/
def Stream.site (x : Stream) : Site := ⟨x.ctx, x.prv, x.pc, x.word⟩

/-- A timed message in the landing buffer or on the timed lane (R215, R286). -/
structure Landing where
  val : BitVec 48
  src : BitVec 32
  target : BitVec 2
  col : BitVec 5
  tw : BitVec 3
  ty : Ty
  data : VData
  side : Side
  /-- the links that its header has still to cross, as router, port and cycles, and the island cycle from which it may start on the next -/
  path : List (Nat × Nat × Nat)
  ready : Nat
  /-- the link that it started on last -/
  on : Option (Nat × Nat)
  /-- its last flit is in the landing buffer -/
  arrived : Bool
  deriving DecidableEq, Repr

/-- A step of a tree that is open at a member (R195). -/
structure OpenStep where
  step : Nat
  addr : LAddr
  ip : Bool
  tkt : BitVec 16
  op : Nat
  deriving DecidableEq, Repr

/-- A member's state of a tree (R195, R196). -/
structure TreeMem where
  issued : Nat
  done : Nat
  cause : BitVec 12
  abt : Bool
  bitmap : BitVec 32
  quorum : BitVec 20
  /-- the step that the bitmap describes -/
  bitStep : Nat
  opens : List OpenStep
  /-- its last CTRB asked for the result in place -/
  inPlace : Bool
  deriving DecidableEq, Repr

/-- A member's state of a tree whose next step has number n. -/
def TreeMem.new (n : Nat) : TreeMem := ⟨n, n, 0, false, 0, 0, 0, [], false⟩

/-- A report on its way to a fault channel or log: the group it names, the words of the record, and the named address that s2 will hold (R326). -/
structure Report where
  gid : BitVec 16
  words : List Word
  src : Word
  /-- refusals so far, and the cycle of the next offer after one (R173) -/
  tries : Nat
  again : Nat
  deriving DecidableEq, Repr

/-- A line access that a unit wrote beside the running context, with what the bytes and their marks held before (R22, R361). -/
structure BesideWrite where
  addr : Nat
  old : List MByte
  deriving DecidableEq, Repr

/-- A store access of the last instruction that another unit of the core may still come before (R22, R144, R145): the aligned range of its journal record, and its bytes with their poison. -/
structure LateStore where
  ja : Nat
  jn : Nat
  addr : Nat
  bytes : List Byte
  p : Bool
  deriving DecidableEq, Repr

/-- A core (R21, R25). GEN is NAME [31:24] (R28); PMAPC.VLD, FQST and most of LICST are computed. -/
structure Core where
  ctxs : Vector Ctx 4
  run : BitVec 2
  last : BitVec 2
  win : Window
  acc : Vector Acc 4
  mma : Option MmaJob
  latch : Vector Latch 2
  ctr : Vector (BitVec 32) 16
  /-- the core's place: tier * 65536 + row * 256 + column of its named position -/
  pos : Nat
  grpid : Word
  name : Word
  relpos : Word
  trapvec : Word
  twc : Bool
  islBnd : Bool
  islIid : BitVec 16
  islPad : BitVec 8
  scnt : BitVec 48
  /-- the timed route list of R284: for each other member, the links to it with their cycles -/
  routes : NMap (List (Nat × Nat × Nat))
  pmMiss : BitVec 32
  pmCache : List (BitVec 10 × BitVec 32)
  cycle : Word
  wdogLim : BitVec 32
  ls : Mem
  marks : List Nat
  /-- the line accesses that units wrote since the running context last issued, oldest first: an instruction of several accesses may fall between them (R22, R144, R145, R153) -/
  beside : List BesideWrite
  /-- the store accesses of the last instruction that no unit has yet seen performed, in the order in which they are made: an access of a unit may fall before them (R22, R144, R145) -/
  late : List LateStore
  slots : NMap Slot
  nextTkt : BitVec 16
  ops : List Op
  nextOp : Nat
  holdTail : Nat
  streams : List Stream
  nextStream : Nat
  /-- the stream command that the unit served last, and its line accesses since it was its turn (R232) -/
  served : Nat × Nat
  pend : List Pend
  tokens : List Token
  retained : List Retained
  trees : NMap TreeMem
  landing : List Landing
  clean : Bool
  imgLen : Nat
  /-- fills that met an open choice, the model's own counter -/
  free : Nat
  seq : BitVec 32
  /-- reports that the module has not yet taken over -/
  reports : List Report
  /-- the first cycle in which the next instruction may issue -/
  issueAt : Nat
  sent : Nat
  accepted : Nat
  /-- uncorrectable errors, as hours of R340 at which they occurred -/
  ueHours : List Nat
  /-- the droop sensor has tripped, since this module cycle (R288) -/
  droop : Option Nat
  /-- an ISSYNC waits for this schedule value (R215) -/
  sync : Option (BitVec 48)
  /-- the running context's instruction stalled when it was last tried (R219) -/
  stalled : Bool
  /-- the context that ran when an island's halt captured the core -/
  frozen : Option (BitVec 2)
  /-- the schedule value at which its registers in flight are readable and its next instruction may issue (R291) -/
  readyAt : BitVec 48
  /-- failed checks of the operation that its remote-operation unit, and of the line access that its stream unit is performing (R333) -/
  remFails : Nat
  strFails : Nat
  /-- the core is being retired, for this trigger of R340 (R341) -/
  retiring : Option (BitVec 2)
  /-- the marker of R350 has reached the core; and the core has captured -/
  stopping : Bool
  captured : Bool
  deriving DecidableEq, Repr

end Sys2Proof.Machine
end

