-- ==== Sys2Proof/Machine/FabricState.lean ====
section
/-! DEFINITION. The state of querns, fields, routers and trees: licences (R24, R311 to R319), the message header (R243), repair and generation tables (R248, R252, R255), tree entries and combine units (R294 to R308). -/
namespace Sys2Proof.Machine

/-- The key of a named position: tier * 65536 + y * 256 + x. -/
def keyOf (tier y x : Nat) : Nat := tier * 65536 + y * 256 + x

/-- The field that holds a named position (R249, R315). -/
def fieldOf (k : Nat) : Nat := k / 256 % 256 / 32 * 8 + k % 256 / 32

/-- The page that holds a named position: 32 * py + px (R38). -/
def pageOf (k : Nat) : Nat := k / 256 % 256 / 8 * 32 + k % 256 / 8

/-- The router of edge block and Yunavy port p, bedstone tier (R375, R390). -/
def portKey (p : Nat) : Nat :=
  let v := 16 + 21 * (p % 12)
  match p / 12 with
  | 0 => keyOf 0 0 v
  | 1 => keyOf 0 v 255
  | 2 => keyOf 0 255 v
  | _ => keyOf 0 v 0

/-- The ports on the perimeter bus of a field, in ascending order (R318, R375). -/
def fieldPorts (f : Nat) : List Nat := (List.range 48).filter fun p => fieldOf (portKey p) == f

/-- The default budget: 1,280 quanta, and in an edge field the cost of its ports at full width (R316, R318). -/
def fbudDefault (f : Nat) : Nat := 1280 + 8 * (fieldPorts f).length

/-- A licence hand-over in progress (R164): to the runner or to the bedstone core, with the accumulators of a migrating tile, source and destination. -/
structure Handover where
  toRunner : Bool
  src : BitVec 2
  dst : BitVec 2
  deriving DecidableEq, Repr

/-- A twin-window register before the current cycle's writes, with the core that wrote it, bedstone false (R24). -/
structure TwLog where
  reg : BitVec 3
  runner : Bool
  old : VData
  oldPsn : Bool
  deriving DecidableEq, Repr

/-- The licence state of a quern as it stood before a cycle's changes: holder, hand-over, queued requests and release request (R33, R311). -/
structure LicWas where
  holder : Option Bool
  hand : Option Handover
  reqBed : Option Nat
  reqRun : Option Nat
  rreq : Option (Word × Nat)
  deriving DecidableEq, Repr

/-- A quern (R24, R167, R311, R313, R317). Holder and requesters are named by tier: false bedstone, true runner. -/
structure Quern where
  tw : Vector VData 8
  twp : BitVec 8
  twCycle : Nat
  twLog : List TwLog
  holder : Option Bool
  hand : Option Handover
  /-- cycle of each core's queued request -/
  reqBed : Option Nat
  reqRun : Option Nat
  /-- a release was asked: the holder's CYCLE then, and the deadline in module cycles -/
  rreq : Option (Word × Nat)
  grant : Nat
  /-- the cycle of the last change, and the licence state as it stood before it -/
  was : Option (Nat × LicWas)
  deriving DecidableEq, Repr

/-- A row word of a repair table (R248). -/
structure RepRow where
  cskip : BitVec 6
  flt : Bool
  mult : Bool
  deriving DecidableEq, Repr

/-- A field: governor state (R314 to R319), repair table (R248), rotation (R259). -/
structure Field where
  budget : Int
  pool : Int
  gate : Nat
  /-- GATE from the next cycle on -/
  gateNew : Nat
  lnk : BitVec 2
  /-- width states of the field's Yunavy and CXL ports, by port (R318) -/
  yun : NMap (BitVec 2)
  cxl : NMap (BitVec 2)
  epoch : Nat
  /-- cycle 0 of the next epoch; Held and Requested as sampled at cycle 0 of this one; the cycle in which it is decided -/
  epochAt : Nat
  sample : Option (Nat × Nat)
  decideAt : Option Nat
  fbud : Nat
  limit : Nat
  /-- management's values, which take effect at the next epoch (R404) -/
  fbudNew : Nat
  limitNew : Nat
  /-- cycles in which the field's clock has run -/
  ran : Nat
  rot : BitVec 8
  nflt : BitVec 7
  rskip : BitVec 6
  /-- row words that differ from a faultless row's -/
  rows : NMap RepRow
  /-- faulty physical querns, as 33 * pr + pc (R257) -/
  faulty : List Nat
  /-- positions whose repair waits for an advance of the field's pages to end -/
  repairs : List (Nat × Nat)
  hours : Nat
  /-- hour at which the next rotation falls due, and whether it is due -/
  rotAt : Nat
  due : Bool
  deriving DecidableEq, Repr

/-- A generation-table entry (R252). -/
structure GenEntry where
  ret : Bool
  opn : Bool
  gen : BitVec 8
  deriving DecidableEq, Repr

/-- What the unit that sent a message needs to know of its answer: the stream, position and request number of a stream's access, or the operation's number. -/
inductive Purpose where
  /-- an outbound operation of a core, by its number -/
  | op (id : Nat)
  /-- a store of a stream command: stream, request -/
  | store (id req : Nat)
  /-- a read of a stream command: stream, position in the stream -/
  | read (id pos : Nat)
  /-- a message of the launch sequencer, an event arm or the governor -/
  | system
  deriving DecidableEq, Repr

/-- How far a message or a remote operation has been performed at its destination (R361): the payload bytes written, and for a ring the offset where it began. -/
structure Progress where
  done : Nat
  off : Nat
  deriving DecidableEq, Repr

/-- A data-plane message (R243, R244) with its payload and marks. -/
structure Msg where
  kind : BitVec 6
  cls : BitVec 2
  smod : BitVec 20
  src : BitVec 32
  dmod : BitVec 20
  dst : BitVec 32
  grp : BitVec 16
  tkt : BitVec 16
  len : BitVec 12
  ch : BitVec 6
  laddr : LAddr
  aux : BitVec 12
  payload : List MByte
  why : Purpose
  /-- local address for the answer: a GET's destination, a read's destination -/
  back : LAddr
  /-- the sending core of a message that a response answers, as its key, or none for the sequencer -/
  home : Option Nat
  /-- its lines are being written, one at a time (R361) -/
  prog : Option Progress := none
  /-- it was re-injected at a resume: the records of a core are offered to it in order (R356) -/
  replay : Bool := false
  /-- refusals so far of a message of the launch sequencer, and the cycle of its next offer (R173) -/
  tries : Nat := 0
  again : Nat := 0
  deriving DecidableEq, Repr

/-- A generation advance in progress (R255). -/
structure Advance where
  id : Nat
  pages : List Nat
  /-- the field whose repair table changes, with the new rows -/
  table : Option (Nat × Field)
  /-- routers that have received ADV, and the markers each has received -/
  closed : List Nat
  markers : List (Nat × BitVec 3 × BitVec 2)
  drained : Bool
  opened : List Nat
  /-- the pages are retired by it -/
  retire : Bool
  /-- step 1 has begun -/
  begun : Bool
  deriving DecidableEq, Repr

/-- The body of a combine unit (R298, R301): raw bytes with marks, fixed-scale integers, or a poison origin. -/
inductive CBody where
  | raw (bs : List MByte)
  | fixed (n : List Int) (inx sat : Bool)
  | poison (o : Org)
  deriving DecidableEq, Repr

/-- A combine unit or notice in flight toward a router or member (R300 to R308). `port`: 0 N, 1 E, 2 S, 3 W, 4 Z, 5 L, 8 + i a joined module. -/
structure CUnit where
  gid : BitVec 16
  tid : BitVec 12
  step : Nat
  pos : Nat
  router : Nat
  port : Nat
  stamp : BitVec 8
  body : CBody
  count : Nat
  ranks : List Nat
  /-- the attempt at the step that it belongs to: the RNM of the step that its sender had taken (R303) -/
  att : Nat
  deriving DecidableEq, Repr

/-- What a member's router does with the result of a step (R306, R308): write it in place, gather it for one message, or drop it. -/
inductive Handing where
  | place | message | drop
  deriving DecidableEq, Repr

/-- A tree entry of a router (R295) with what the router holds of the current step (R300). -/
structure Entry where
  router : Nat
  slot : Nat
  par : BitVec 3
  chm : BitVec 6
  step : Nat
  bufb : Nat
  nbuf : Nat
  sc : List (BitVec 8)
  held : List CUnit
  /-- cycle of the oldest quorum input waiting, by position -/
  since : NMap Nat
  /-- the RNM of the step that it has taken (R303) -/
  att : Nat
  /-- the step whose result its member is taking, how, and the bytes of the message so far (R306) -/
  hand : Option (Nat × Handing)
  got : List MByte
  /-- how far the member's delivery port has written a message result (R361) -/
  prog : Option Progress
  deriving DecidableEq, Repr

/-- A released result unit or notice in the downward buffer of a router (R297, R304, R306). -/
structure CDown where
  gid : BitVec 16
  tid : BitVec 12
  step : Nat
  pos : Nat
  /-- the router that holds it -/
  router : Nat
  /-- the bytes of the position's units, none for a done notice -/
  bytes : Option (List MByte)
  /-- the next scales that it carries, by position (R304) -/
  scs : List (Nat × BitVec 8)
  /-- the contributions in the result: how many, and the ranks (R307, R308) -/
  count : Nat
  ranks : List Nat
  /-- the ports that it has not gone to yet: child ports, and 5 for the router's own member -/
  todo : List Nat
  /-- members that took it before their capture (R351) -/
  served : List Nat
  /-- the cycle of the next offer after a refusal (R306) -/
  again : Nat
  deriving DecidableEq, Repr

/-- A renormalise request or commit in flight (R303). -/
structure CRnm where
  gid : BitVec 16
  tid : BitVec 12
  step : Nat
  pos : Nat
  scale : BitVec 8
  /-- the router it is going to -/
  router : Nat
  deriving DecidableEq, Repr

/-- The messages that the parts of a spanning tree exchange over the combine and control lanes (R400 to R403). -/
inductive LaneKind where
  /-- a join request, its answer (cause in `count`), a partial, a renormalise request or commit, a result position, an aborted step (R309), the end of a part, a RESUME for another module (R209) and its answer -/
  | join | joined | part | rnq | rnm | result | abort | leave | resume | resumed
  deriving DecidableEq, Repr

/-- A message of a spanning tree, from or to module `peer`. -/
structure LaneMsg where
  peer : BitVec 20
  kind : LaneKind
  tid : BitVec 12
  step : Nat
  pos : Nat
  stamp : BitVec 8
  body : CBody
  count : Nat
  ranks : List Nat
  desc : List Word
  tkt : BitVec 16
  core : Nat
  /-- the attempt of a partial (R303) -/
  att : Nat
  /-- the root's scales by position, with a reduce's result or an aborted step (R304, R309) -/
  scales : List (BitVec 8)
  deriving DecidableEq, Repr

/-- A tree (R194, R294). `root` is the root core's key. -/
structure Tree where
  gid : BitVec 16
  tid : BitVec 12
  desc : List Word
  members : List Nat
  root : Nat
  entries : List Entry
  step : Nat
  /-- positions summed at the root: position and sum -/
  sums : List CUnit
  /-- quorum: the cycle of the first partial -/
  qsince : Option Nat
  /-- the step had an RNM, by position -/
  rnm : List Nat
  /-- joined modules in ascending order with their member counts (R400) -/
  joins : List (BitVec 20 × Nat)
  /-- the joined modules that have been detached; their ranks stay theirs (R403) -/
  gone : List (BitVec 20)
  /-- what the root has released and not yet put into its downward buffer (R296) -/
  rel : List CDown
  deriving DecidableEq, Repr

end Sys2Proof.Machine
end

