-- ==== Sys2Proof/Machine/SeqState.lean ====
section
/-! DEFINITION. The state of the launch sequencer: queues (R260, R261), groups (R262 to R275), event table and arms (R216, R265), islands (R214, R283 to R293), suspensions (R350) and the requests that reach it (R436). -/
namespace Sys2Proof.Machine

/-- An island as the group's image records it (R267, R283). -/
structure IslandDesc where
  iid : BitVec 16
  col : Nat
  row : Nat
  w : Nat
  h : Nat
  pad : BitVec 8
  deriving DecidableEq, Repr

/-- A bound island (R214, R286, R288, R291, R293): its members, those that have released, the cycles that its clock has run, the timed links in use with the cycle from which each is free, whether it has halted, and whether it may not be bound again at resume. -/
structure Island where
  gid : BitVec 16
  iid : BitVec 16
  pad : BitVec 8
  members : List Nat
  released : List Nat
  now : Nat
  busy : List (Nat × Nat × Nat)
  halted : Bool
  unbound : Bool
  deriving DecidableEq, Repr

/-- A waiting ISBIND request (R214). -/
structure BindReq where
  gid : BitVec 16
  iid : BitVec 16
  core : Nat
  tkt : BitVec 16
  /-- the request belongs to an id still bound and is held until its last release -/
  held : Bool
  /-- cycle from which the limit of ISTO counts -/
  since : Nat
  deriving DecidableEq, Repr

/-- A region of an image (R267): base, size, and kind 0 keep, 1 discard, 2 scratch. -/
structure Region where
  base : Nat
  size : Nat
  kind : Nat
  deriving DecidableEq, Repr

/-- The operations that reach the launch sequencer. -/
inductive SeqOp where
  | launch | evsig | evarm | evrd | isbind | tbuild | tfree | suspend | resume | copy | discard
  deriving DecidableEq, Repr

/-- A request on its way to the launch sequencer (R436): the issuing core, the group, the ticket, three operands and the words that go with it. -/
structure SeqReq where
  op : SeqOp
  core : Nat
  gid : BitVec 16
  tkt : BitVec 16
  a : Word
  b : Word
  c : Word
  words : List Word
  prv : Bool
  /-- the instruction that made it (R324) -/
  site : Site
  /-- the .ST form of R210, or F of RESUME in `force` -/
  quiet : Bool
  force : Bool
  /-- the module that the request came from, where it is not this one -/
  peer : Option (BitVec 20)
  deriving DecidableEq, Repr

/-- A queued launch record (R260). -/
structure QRec where
  words : List Word
  /-- the container, once the record has passed its checks at the head of its queue (R264) -/
  image : Option (List Byte)
  /-- its dependence, once it has checked: met, or failed -/
  dep : Option Bool
  /-- since when the head has waited for pages (R277) -/
  placeSince : Option Nat
  deriving DecidableEq, Repr

/-- A launch queue with its status counts and its fault log (R260, R261, R326, R386). -/
structure LQueue where
  recs : List QRec
  ovf : BitVec 16
  why : BitVec 3
  starts : BitVec 16
  /-- the words of the record slot (R387) -/
  slot : List Word
  /-- records of the fault log, oldest first, and the number written since reset -/
  log : List (List Word)
  logNext : Nat
  lost : Nat
  deriving DecidableEq, Repr

/-- An event counter with its FAIL bit (R265). -/
structure Event where
  count : BitVec 32
  fail : Bool
  deriving DecidableEq, Repr

/-- An unfired arm (R216). -/
structure Arm where
  core : Nat
  gid : BitVec 16
  ch : BitVec 6
  ev : BitVec 16
  thr : BitVec 32
  deriving DecidableEq, Repr

/-- Why a suspension was made: by SUSPEND, by a compaction or a pre-emption for the head of a queue, to clear a field, for a retirement, or by an island's halt (R277, R278, R350). -/
inductive SuspWhy where
  | program
  | compaction (q : BitVec 4)
  | preemption (q : BitVec 4)
  | sequencer
  | retire
  | halt
  deriving DecidableEq, Repr

/-- A token record of a suspension (R348, R351): the core that recorded it, its port, and the message. -/
structure TokRec where
  core : Nat
  port : Nat
  order : Nat
  msg : Msg
  deriving DecidableEq, Repr

/-- A debt of a sprig (R349): where the sprig and the record stand, and the stream store that it stands for. -/
structure Debt where
  gid : BitVec 16
  asid : BitVec 16
  phys : Bool
  base : Nat
  recAddr : Nat
  core : Nat
  stream : Nat
  req : Nat
  deriving DecidableEq, Repr

/-- An operation on a sprig that has passed its checks and waits for its indivisible step (R208): the request, the ASID and domain of its group, and the pages reserved for a RESUME. -/
structure SprigJob where
  req : SeqReq
  asid : BitVec 16
  dom : BitVec 16
  pages : List Nat
  /-- trees reserved with the pages (R356) -/
  trees : List (BitVec 12)
  deriving DecidableEq, Repr

/-- A suspension in progress (R350). -/
structure Susp where
  why : SuspWhy
  /-- where the sprig goes: a virtual address of the group, or with `phys` a system physical address in the compaction area -/
  addr : Nat
  phys : Bool
  rights : BitVec 6
  event : Option (BitVec 16)
  /-- deadline in cycles after the last capture, and the cycle of the last capture -/
  limit : Nat
  lastCap : Option Nat
  stamp : Word
  /-- members whose capture is complete -/
  recorded : List Nat
  tokens : List TokRec
  /-- licences found at capture: quern, and whether the runner held it -/
  lmap : List (Nat × Bool)
  /-- bytes set aside in the compaction area -/
  room : Nat
  /-- sealed: its pages are released once no debt is left (stage 6) -/
  isSealed : Bool
  deriving DecidableEq, Repr

/-- A running group (R44, R262, R266, R274). -/
structure Group where
  gid : BitVec 16
  asid : BitVec 16
  dom : BitVec 16
  pages : List Nat
  sct : Bool
  wid : Nat
  hgt : Nat
  words : List Word
  queue : BitVec 4
  imgLen : Nat
  enda : Nat
  regions : List Region
  isls : List IslandDesc
  cdig : BitVec 256
  container : List Byte
  nfail : BitVec 32
  faddr : Word
  tstart : Option Nat
  /-- stores of the group not yet acknowledged or failed -/
  stores : Nat
  /-- totals of the first probe wave, while a probe runs (R274) -/
  probe : Option (Nat × Nat)
  /-- both waves agreed, or the group was ended otherwise: cause of the completion -/
  ended : Option (BitVec 12)
  /-- cycle of the end (TEND) -/
  endAt : Nat
  susp : Option Susp
  /-- requests for a suspension on the sequencer's behalf that wait for a probe (R279) -/
  wantSusp : Option SuspWhy
  /-- an island of the group halted and was captured exactly (R291) -/
  halted : Bool
  deriving DecidableEq, Repr

/-- A container in the sequencer's cache (R271). -/
structure Cached where
  asid : BitVec 16
  img : BitVec 48
  dig : BitVec 256
  bytes : List Byte
  deriving DecidableEq, Repr

/-- An entry of the resume list (R278, R359): where the sprig is in the compaction area, its bytes there, and the group it came from. -/
structure ResumeEnt where
  gid : BitVec 16
  addr : Nat
  room : Nat
  queue : BitVec 4
  words : List Word
  nfail : BitVec 32
  faddr : Word
  tstart : Option Nat
  /-- the pages that it had -/
  pages : List Nat
  retired : Bool
  /-- the queue whose head a compaction moved it for: that head is placed first (R277) -/
  moved : Option (BitVec 4)
  deriving DecidableEq, Repr

/-- A page: the digest it last held, retired, scrubbing, its last generation advance (R255, R258, R269, R271, R276). -/
structure Page where
  digest : Option (BitVec 256)
  retired : Bool
  scrubbing : Bool
  scrubAt : Nat
  lastAdv : Option Nat
  deriving DecidableEq, Repr

/-- The launch sequencer. -/
structure Seq where
  queues : NMap LQueue
  events : NMap Event
  arms : List Arm
  groups : List Group
  lastGid : BitVec 16
  pages : NMap Page
  cache : List Cached
  resumes : List ResumeEnt
  debts : List Debt
  jobs : List SprigJob
  binds : List BindReq
  islands : List Island
  serial : BitVec 24
  /-- records made by the sequencer -/
  seq : BitVec 32
  /-- the head that a compaction or a pre-emption serves: its queue, and the rectangle of a compaction, no pages for a pre-emption -/
  making : Option (BitVec 4 × List Nat)
  /-- resumed groups whose records are still to be offered, and the request that each resume serves (R356) -/
  resuming : List (BitVec 16 × Option SeqReq)
  deriving DecidableEq, Repr

/-- An empty launch queue (R261). -/
def LQueue.empty : LQueue := ⟨[], 0, 0, 0, List.replicate 8 0, [], 0, 0⟩

/-- The sequencer after reset (R261, R265, R269). -/
def Seq.reset : Seq :=
  { queues := [], events := [], arms := [], groups := [], lastGid := 0, pages := [], cache := [], resumes := [], debts := [], jobs := [],
    binds := [], islands := [], serial := 0, seq := 0, making := none, resuming := [] }

end Sys2Proof.Machine
end

