-- ==== Sys2Proof/Machine/EdgeState.lean ====
section
/-! DEFINITION. The state of the edge: CXL ports, system memory and translation (R375 to R389), Yunavy ports and sessions (R390 to R399), the security core (R404 to R410), and the moves of the step. -/
namespace Sys2Proof.Machine

/-- Where a CXL line access stands: at its home, waiting for a walk there, at its owner with the address it translated to, or issued at the owner's port (R371, R381, R382). -/
inductive XStage where
  | home
  | walk
  | owner (spa : Nat)
  | port (spa : Nat)
  deriving DecidableEq, Repr

/-- A CXL line access of a stream command (R381): the core, the command in `why`, and the bytes of a write. -/
structure XAcc where
  core : Nat
  why : Purpose
  gid : BitVec 16
  asid : BitVec 16
  va : Nat
  len : Nat
  write : Bool
  data : List MByte
  stage : XStage
  /-- attempts made, and the cycle of the last (R335) -/
  attempts : Nat
  since : Nat
  /-- translated through an entry that an invalidation has dropped since (R383) -/
  stale : Bool
  deriving DecidableEq, Repr

/-- A translation-cache entry (R381): leaf level 1 to 3, the page's number at that level, its SPA, and W. -/
structure XEnt where
  asid : BitVec 16
  lvl : Nat
  page : Nat
  spa : Nat
  w : Bool
  deriving DecidableEq, Repr

/-- An upper-level table pointer (R381): the table of level `lvl` under the VA bits above it. -/
structure XPtr where
  asid : BitVec 16
  lvl : Nat
  pfx : Nat
  table : Nat
  deriving DecidableEq, Repr

/-- A walk in progress at a home (R382) for a 4 KiB page: the next level to read, 5 for the ASID entry, and the table it reads. -/
structure Walk where
  home : Nat
  asid : BitVec 16
  page : Nat
  lvl : Nat
  table : Nat
  /-- table pointers read so far -/
  path : List XPtr
  deriving DecidableEq, Repr

/-- A back-invalidation that waits for its BIRsp (R385): host port, line, and BISnpInv or BISnpData. -/
structure Snoop where
  host : Nat
  line : Nat
  inv : Bool
  deriving DecidableEq, Repr

/-- A filter entry (R385): hosts that may hold the line, and those that may hold it modified. -/
structure Filt where
  held : BitVec 4
  dirty : BitVec 4
  deriving DecidableEq, Repr

/-- The edge. System memory is kept by port and device address (R379), device address a of port p at p times 2^48 + a; a line with CXL poison is listed by that place / 64. -/
structure Edge where
  mem : Mem
  poison : List Nat
  /-- port roles: 0 disabled, 1 host, 2 memory (R376) -/
  roles : NMap (BitVec 2)
  /-- words 0 to 2 of the interleave sets (R378) -/
  sets : NMap (Word × Word × Word)
  asidTab : Word
  accs : List XAcc
  xlat : NMap (List XEnt)
  ptrs : NMap (List XPtr)
  walks : List Walk
  filt : NMap Filt
  snoops : List Snoop
  /-- scope and ASID as XINV was last written, and the next word (R386) -/
  xinv : Word
  xrange : Word
  msix : NMap Word
  /-- interrupts sent: host port, vector and arm number, oldest first (R389) -/
  irqs : List (Nat × BitVec 10 × Nat)
  /-- XLAT reports made: group, core, command, page (R382) -/
  told : List (BitVec 16 × Nat × Nat × Nat)
  /-- records made, by edge block (R324) -/
  seqs : NMap (BitVec 32)
  /-- lines, by SPA / 64, at which the table reads of walks and the accesses of the sequencer fail all their attempts (R335) -/
  lost : List Nat
  fills : Nat
  /-- a move of the sequencer met a line that a host holds: its effects wait for the host's answer -/
  blocked : Bool
  deriving DecidableEq, Repr

/-- A link record (R394). -/
structure Rec where
  data : BitVec 256
  marks : BitVec 4
  lane : BitVec 2
  deriving DecidableEq, Repr

/-- A frame, or in local mode a link flit, that has been sent and not acknowledged (R395, R397), with the bytes that went out and the cycle of the last sending. -/
structure Frame where
  seq : Nat
  recs : List Rec
  at' : Nat
  bytes : List Byte
  deriving DecidableEq, Repr

/-- The states of a session (R398). -/
inductive SessSt where
  | closed | opening | opened | closing | barred
  deriving DecidableEq, Repr

/-- What a port has put on its wire: a wide-area frame, a link flit, an acknowledgement of link flits by the next number expected, and a request to send again from a number. -/
inductive Wire where
  | frame (bs : List Byte)
  | flit (bs : List Byte)
  | ack (seq : BitVec 8)
  | retry (seq : BitVec 8)
  deriving DecidableEq, Repr

/-- Our handshake that waits for its answer (R399): the bytes of the message, the step at which its key was made, the resume position that it states, what went out, and the cycle of the last sending. -/
structure OpenHs where
  script : List Byte
  made : Nat
  stated : Nat
  wire : Wire
  sentAt : Nat
  deriving DecidableEq, Repr

/-- A session (R397 to R399). A closed session keeps its positions and the records that its peer has not acknowledged. -/
structure Session where
  peer : BitVec 20
  st : SessSt
  sidx : BitVec 8
  peerIdx : BitVec 8
  txKey : BitVec 256
  rxKey : BitVec 256
  txSalt : BitVec 32
  rxSalt : BitVec 32
  txSeq : Nat
  rxSeq : Nat
  unacked : List Frame
  /-- records that wait to be framed -/
  txq : List Rec
  /-- records received in all, the position that a handshake carries (R398) -/
  rxPos : Nat
  /-- records framed in all -/
  txPos : Nat
  /-- records that the peer sends again and that have been received already -/
  skip : Nat
  credit : Vector Nat 4
  owed : Vector Nat 4
  /-- flits of a message that has not come whole, by lane -/
  part : Vector (List Rec) 4
  /-- the cycle of the last frame that carried an ACK -/
  ackAt : Nat
  lastRx : Nat
  lastUse : Nat
  openedAt : Nat
  rtt : Nat
  hs : Option OpenHs
  deriving DecidableEq, Repr

/-- A Yunavy port (R390, R395): its configuration words, its sessions, the retry state of local mode, and what it has sent, oldest first. -/
structure YPort where
  w : Vector Word 4
  sessions : List Session
  /-- failures in a row of one link flit that this port sent, and which flit; and of the one that it expects -/
  fails : Nat
  failSeq : BitVec 8
  rxFails : Nat
  /-- retraining since this cycle -/
  retrain : Option Nat
  down : Bool
  out : List Wire
  deriving DecidableEq, Repr

/-- A firmware slot (R406). -/
structure FwSlot where
  ver : BitVec 16
  valid : Bool
  deriving DecidableEq, Repr

/-- The security core and the management window (R404 to R410). Counters saturate and outlast a reset (R409). -/
structure Boot where
  bootCnt : BitVec 32
  fwVer : BitVec 16
  fail : BitVec 4
  phase : BitVec 4
  /-- the module has power -/
  power : Bool
  /-- the cycle in which GO was last written (BOOTCTL, R404) -/
  goAt : Option Nat
  /-- the cycle after an RST, in which BOOTCTL bit 1 still reads 1 (R404) -/
  rstAt : Option Nat
  /-- the slot that ROM boots, or the FAIL it ends with, as the slots stood at the reset (R405, R406) -/
  picked : Option Bool
  pickFail : BitVec 4
  slot0 : FwSlot
  slot1 : FwSlot
  /-- slot 1 was booted -/
  active1 : Bool
  fusedMin : BitVec 16
  modidReg : BitVec 20
  compAddr : Word
  compSize : Word
  trust : Word
  /-- region entries, then near entries from 4,096 (R391) -/
  routes : NMap (BitVec 16)
  treeSel : Word
  correctable : Word
  transients : Word
  uncorrectable : Word
  retirements : Word
  rotations : Word
  advances : Word
  badKinds : Word
  frames : Word
  cfgDrop : Word
  /-- memory ports that link training disabled (R376) -/
  untrained : Word
  nonce : Vector Word 4
  /-- a report is being made, and the last one's words -/
  making : Bool
  reportWords : List Word
  /-- one-time signature indices used, and the number of the operational key (R407) -/
  otsUsed : Nat
  opKey : Nat
  /-- the operational key and the index stored for the report that is being made -/
  attest : Nat × Nat
  log : List (List Word)
  logNext : Nat
  lost : Nat
  seq : BitVec 32
  deriving DecidableEq, Repr

/-- The moves of the module: an instruction of a core, a module operation, an operation that leaves its core, a join set that fires, a stream command's next access, a CXL access at its home, a walk's next table read, an off-module message, a session's next frame, a combine message of a spanning tree that goes to its port, the next boot step (R406), and the next input of the outside world. -/
inductive Move where
  | issue (k : Nat)
  | input
  | event (i : Instr)
  | inject (k id : Nat)
  | join (k : Nat) (set : BitVec 4)
  | streamRead (k id : Nat)
  | streamWrite (k id : Nat)
  | edge (n : Nat)
  | home (n : Nat)
  | walkRead (n : Nat)
  | egress (n : Nat)
  | frame (p : Nat) (m : BitVec 20)
  | lane (n : Nat)
  | hop (n port : Nat)
  | clearField (f : Nat)
  | boot
  deriving DecidableEq, Repr

/-- The edge after reset (R376, R378, R380: zero). Ports have no role until system software sets one. -/
def Edge.reset : Edge :=
  { mem := [], poison := [], roles := [], sets := [], asidTab := 0, accs := [], xlat := [], ptrs := [], walks := [], filt := [], snoops := [],
    xinv := 0, xrange := 0, msix := [], irqs := [], told := [], seqs := [], lost := [], fills := 0, blocked := false }

/-- A Yunavy port after reset (R390): ENC = 1, UDP 0xC738, TOUT 2,000. -/
def YPort.reset : YPort :=
  { w := #v[0x10000000C73807D0, 0, 0, 0], sessions := [], fails := 0, failSeq := 0, rxFails := 0, retrain := none, down := false, out := [] }

/-- The security core after a first reset: ROM has raised the boot count and nothing else (R405, R406). -/
def Boot.reset : Boot :=
  { bootCnt := 1, fwVer := 0, fail := 0, phase := 0, power := true, goAt := none, rstAt := none, picked := some false, pickFail := 0, slot0 := ⟨0, true⟩, slot1 := ⟨0, false⟩, active1 := false, fusedMin := 0, modidReg := 0, compAddr := 0,
    compSize := 0, trust := 0, routes := [], treeSel := 0, correctable := 0, transients := 0, uncorrectable := 0, retirements := 0,
    rotations := 0, advances := 0, badKinds := 0, frames := 0, cfgDrop := 0, untrained := 0, nonce := Vector.replicate 4 0, making := false,
    reportWords := [], otsUsed := 0, opKey := 0, attest := (0, 0), log := [], logNext := 0, lost := 0, seq := 0 }

end Sys2Proof.Machine
end

