-- ==== Sys2Proof/Machine/Flags.lean ====
section
/-! DEFINITION. The sticky flags of ASTAT and ACCST: setting, and clearing by W1C writes (R30, R31, R69). -/
namespace Sys2Proof.Machine

/-- Set flags in ASTAT (R69). -/
def Regs.flag (r : Regs) (f : Flags) : Regs := { r with astat := r.astat ||| f }

/-- ASTAT after a W1C write (R7, R30). -/
def Regs.unflag (r : Regs) (f : Flags) : Regs := { r with astat := r.astat &&& ~~~f }

/-- Set flags in an accumulator's ACCST (R69). -/
def Acc.flag (a : Acc) (f : Flags) : Acc := { a with flags := a.flags ||| f }

/-- The flags of several lane results together. -/
def orFlags (fs : List FRes) : Flags := fs.foldl (fun a r => a ||| r.flags) 0

/-- PSN when a poisoned value was consumed or produced. -/
def psnFlag (p : Bool) : Flags := if p then fPSN else 0

/-- The control register ASTAT (R30). -/
def Regs.astatWord (r : Regs) : Word := r.astat.setWidth 64

/-- The control register ACCSTn (R31). -/
def Acc.stWord (a : Acc) : Word :=
  a.t ++ (0#14 ++ (0#1 ++ (bit1 a.fp32 ++ (0#23 ++ (bit1 a.ptl ++ (0#1 ++ a.flags))))))

end Sys2Proof.Machine
end

