-- ==== Sys2Proof/Machine/MatrixUnit.lean ====
section
/-! DEFINITION. What an MMA in flight writes when it completes: the tile, T, flags and origin (R59 to R61, R68, R155, R156). -/
namespace Sys2Proof.Machine

/-- The units of a row, or the blocks of a column (R149, R150). -/
def nbk (ty : Ty) : Nat := if ty.isBlock then ty.blocks else 1

/-- The bytes of a unit (R149). -/
def unitBytes (ty : Ty) : Nat := if ty.isBlock then 4 * ty.width else 32

/-- A block that has been captured as poison (R156). -/
def blkBad (b : Blk) : Bool := hdrE b.hdr == 255#8

/-- The default block of a list lookup. -/
def noBlk : Blk := ⟨0, 0⟩

/-- S of element (i, j) of an integer-and-scale MMA (R59, R155). -/
def MmaJob.contribution (m : MmaJob) (i j : Nat) : Int × Int :=
  let n := nbk m.ty
  let lo := if m.ty = .vb16 ∧ m.half then 16 else 0
  let cnt := if m.ty = .vb16 then 16 else 32
  let s := sumContribs ((List.range n).filterMap fun kb =>
    blockPair m.ty (m.units.getD (i * n + kb) noBlk) (m.cols.getD (j * n + kb) noBlk) lo cnt)
  if m.neg then (-s.1, s.2) else s

/-- Element (i, j) of an FP32-mode MMA, in K order (R61, R155); a poisoned product is +0 (R156). -/
def MmaJob.fp32 (m : MmaJob) (old : BitVec 48) (i j : Nat) : FRes :=
  let a := m.units.getD i noBlk
  let b := m.cols.getD j noBlk
  let bad := blkBad a || blkBad b
  (List.range 16).foldl (fun acc k =>
    if bad then
      let r := Ty.f32.fadd .rne (Ty.f32.unpack acc.bits) (.fin false 0 0)
      ⟨r.bits, acc.flags ||| r.flags⟩
    else fp32Step m.ty m.neg acc ((a.data.extractLsb' (16 * k) 16).setWidth 64) ((b.data.extractLsb' (16 * k) 16).setWidth 64))
    ⟨(old.extractLsb' 0 32).setWidth 64, 0⟩

/-- The origins of the poison among the operands (R156). -/
def MmaJob.orgs (m : MmaJob) : List Org :=
  ((m.units ++ m.cols).filter blkBad).map fun b => orgClean (b.data.extractLsb' 0 128)

/-- A tile of 1,024 elements from a list. -/
def tileOf (xs : List (BitVec 48)) : Vector (BitVec 48) 1024 := Vector.ofFn fun i => xs.getD i.val 0

/-- The elements of an accumulator as integers. -/
def Acc.ints (a : Acc) : List Int := a.n.toList.map BitVec.toInt

/-- The tile after the update, before poison is merged: an accumulator and the flags set. -/
def MmaJob.update (m : MmaJob) (a : Acc) : Acc × Flags :=
  if m.ty.isBlock then
    let s := (List.range 1024).map fun k => m.contribution (k / 32) (k % 32)
    let r := tileUpdate a.ints a.t.toInt s
    ({ a with n := tileOf (r.n.map (BitVec.ofInt 48)), t := BitVec.ofInt 16 r.t }, r.flags)
  else
    let rs := (List.range 1024).map fun k => m.fp32 (a.n.toList.getD k 0) (k / 32) (k % 32)
    ({ a with n := tileOf (rs.map fun r => (r.bits.extractLsb' 0 32).setWidth 48) }, orFlags rs)

/-- The tile that an uncorrectable error leaves: open values within the bounds of R156. `n` is the count of open values. -/
def MmaJob.corrupt (a : Acc) (n : Nat) : Acc :=
  if a.fp32 then
    { a with n := tileOf ((List.range 1024).map fun i => ((Config.ueElement n i).extractLsb' 0 32).setWidth 48) }
  else
    { a with
      n := tileOf ((List.range 1024).map (Config.ueElement n))
      t := BitVec.ofInt 16 (a.t.toInt + (Config.ueScale n % (32768 - a.t.toInt).toNat : Nat)) }

/-- Merge origins into a tile and set its flags (R65, R68, R69). -/
def Acc.poison (a : Acc) (orgs : List Org) (fl : Flags) : Acc :=
  let fl := if orgs.isEmpty then fl else fl ||| fPSN
  { orgs.foldl (fun a o => { a with org := orgMerge a.org o }) a with flags := a.flags ||| fl }

/-- Write the tile of the MMA in flight, with the flags in ACCST and in ASTAT of the issuing context (R153, R155, R156). One that an uncorrectable error hit sets PTL and PSN and no other flag (DEDUCED from R156, log 35). -/
def Core.writeTile (c : Core) (m : MmaJob) : Core :=
  let a := c.acc[m.acc.toNat]'(m.acc.isLt)
  let r : Acc × Flags :=
    match m.hit with
    | none => m.update a
    | some _ => ({ MmaJob.corrupt a c.free with ptl := true }, 0)
  let orgs := m.orgs ++ m.hit.toList
  let fl := if orgs.isEmpty then r.2 else r.2 ||| fPSN
  let x := c.ctxs[m.ctx.toNat]'(m.ctx.isLt)
  { c with
    acc := c.acc.set m.acc.toNat (r.1.poison orgs r.2) m.acc.isLt
    ctxs := c.ctxs.set m.ctx.toNat { x with regs := x.regs.flag fl } m.ctx.isLt
    free := if m.hit.isSome then c.free + 1 else c.free
    mma := none }

end Sys2Proof.Machine
end

