-- ==== Sys2Proof/Machine/Ops.lean ====
section
/-! DEFINITION. The named operations over a core: registers, local store and its checks, marks, the commit journal, windows, tickets, poison origins, rollback, taking a trap and returning from one. -/
namespace Sys2Proof.Machine

/-! ### Registers (R12, R16) -/

/-- Read a scalar register; s0 reads as zero. -/
def Regs.rdS (r : Regs) (i : Reg) : Word := if i = 0#5 then 0 else r.s[i.toNat]'(i.isLt)

/-- The poison bit of a scalar register; clear for s0. -/
def Regs.psn (r : Regs) (i : Reg) : Bool := i != 0#5 && r.sp.getLsbD i.toNat

/-- One bit of a bit vector set to a value. -/
def setBit {n : Nat} (x : BitVec n) (i : Nat) (b : Bool) : BitVec n :=
  if b then x ||| BitVec.twoPow n i else x &&& ~~~(BitVec.twoPow n i)

/-- Write a scalar register with its poison bit; a write to s0 is discarded. -/
def Regs.wrS (r : Regs) (i : Reg) (x : Word) (p : Bool) : Regs :=
  if i = 0#5 then r else { r with s := r.s.set i.toNat x i.isLt, sp := setBit r.sp i.toNat p }

/-- Read a vector register's data. -/
def Regs.rdV (r : Regs) (i : Reg) : VData := r.v[i.toNat]'(i.isLt)

/-- Read a vector register's side word. -/
def Regs.rdSide (r : Regs) (i : Reg) : Side := r.side[i.toNat]'(i.isLt)

/-- Write a vector register. -/
def Regs.wrV (r : Regs) (i : Reg) (x : VData) (sd : Side) : Regs :=
  { r with v := r.v.set i.toNat x i.isLt, side := r.side.set i.toNat sd i.isLt }

/-- Read a guard; g0 reads as true. -/
def Regs.rdG (r : Regs) (i : BitVec 3) : Bool := i == 0#3 || r.g.getLsbD i.toNat

/-- Write a guard; a write to g0 is discarded. -/
def Regs.wrG (r : Regs) (i : BitVec 3) (b : Bool) : Regs := if i = 0#3 then r else { r with g := setBit r.g i.toNat b }

/-- Read a mask; m0 reads as all ones. -/
def Regs.rdM (r : Regs) (i : BitVec 3) : Word := if i = 0#3 then BitVec.allOnes 64 else r.m[i.toNat]'(i.isLt)

/-- Write a mask; a write to m0 is discarded. -/
def Regs.wrM (r : Regs) (i : BitVec 3) (x : Word) : Regs :=
  if i = 0#3 then r else { r with m := r.m.set i.toNat x i.isLt }

/-- Advance the program counter past one word (R70). -/
def Regs.adv (r : Regs) : Regs := { r with pc := r.pc + 8#20 }

/-- Write a scalar result under R92: a poisoned result is the value 0 with the poison bit, and sets PSN and no other flag. -/
def Regs.result (r : Regs) (d : Reg) (p : Bool) (x : Word) (f : Flags) : Regs :=
  if p then (r.wrS d 0 true).flag fPSN else (r.wrS d x false).flag f

/-- The condition c into two guards under CMB (R76). -/
def Regs.setGuards (r : Regs) (gd : GDst) (c : Bool) : Regs :=
  let x := r.rdG gd.pd1
  let y := r.rdG gd.pd2
  let a : Bool := match gd.cmb with
    | .plain => c | .and => x && c | .or => x || c | .andor => x && c
  let b : Bool := match gd.cmb with
    | .plain => !c | .and => y && !c | .or => y || !c | .andor => y || !c
  (r.wrG gd.pd1 a).wrG gd.pd2 b

/-- The instruction executes (R75). -/
def Regs.guard (r : Regs) (p : Pred) : Bool := r.rdG p.g != p.n

/-! ### The running context of a core -/

/-- Context k. -/
def Core.ctxAt (c : Core) (k : BitVec 2) : Ctx := c.ctxs[k.toNat]'(k.isLt)

/-- Replace context k. -/
def Core.setCtxAt (c : Core) (k : BitVec 2) (x : Ctx) : Core := { c with ctxs := c.ctxs.set k.toNat x k.isLt }

/-- The running context. -/
def Core.ctx (c : Core) : Ctx := c.ctxAt c.run

/-- Replace the running context. -/
def Core.setCtx (c : Core) (x : Ctx) : Core := c.setCtxAt c.run x

/-- The registers of the running context. -/
def Core.regs (c : Core) : Regs := c.ctx.regs

/-- Replace the registers of the running context. -/
def Core.setRegs (c : Core) (r : Regs) : Core := c.setCtx { c.ctx with regs := r }

/-- Update the registers of the running context. -/
def Core.modRegs (c : Core) (f : Regs → Regs) : Core := c.setRegs (f c.regs)

/-- Advance the running context's pc. -/
def Core.adv (c : Core) : Core := c.modRegs Regs.adv

/-- The privilege of the running context (CTXID.PRV). -/
def Core.prv (c : Core) : Bool := c.ctx.prv

/-- A trap with its cause and INFO (R323, R325). -/
structure Trap where
  cause : Cause
  info : Word
  deriving DecidableEq, Repr

/-- A trap without INFO. -/
def trap0 (c : Cause) : Trap := ⟨c, 0⟩

/-- PSNUSE with the first poisoned register among those given (R325). -/
def psnUse (r : Regs) (is : List Reg) : Except Trap Unit :=
  match is.find? fun i => r.psn i with
  | some i => .error ⟨.psnuse, i.setWidth 64⟩
  | none => .ok ()

/-- Continue when a condition holds, otherwise trap. -/
def require (b : Bool) (t : Trap) : Except Trap Unit := if b then .ok () else .error t

/-- A wide address as the 64 bits of INFO. -/
def infoAddr (ea : Int) : Word := BitVec.ofInt 64 ea

/-- One more of a saturating counter (R409). -/
def satInc (w : Word) : Word := if w = BitVec.allOnes 64 then w else w + 1

/-! ### Local store (R42, R43, R109, R112) -/

/-- The row of R42 that holds an address below 2^20. -/
def lsRow (a : Nat) : Nat :=
  if a < 0xF0000 then 0 else if a < 0xF2000 then 1 else if a < 0xF4000 then 2 else if a < 0xFC000 then 3
  else if a < 0xFD000 then 4 else if a < 0xFD800 then 5 else if a < 0xFE000 then 6 else if a < 0xFF000 then 7 else 8

/-- All `n` bytes from `ea` lie in local store and in one row of R42. -/
def inOneRow (ea : Int) (n : Nat) : Bool :=
  decide (0 ≤ ea) && decide (ea + n ≤ 2 ^ 20) && (n == 0 || lsRow ea.toNat == lsRow (ea.toNat + n - 1))

/-- All `n` bytes from `ea` lie in the program range. -/
def inProgram (ea : Int) (n : Nat) : Bool := decide (0 ≤ ea) && decide (ea + n ≤ 0xF0000)

/-- The running context may read `n` bytes at `ea` (R42, R109). -/
def Core.mayRead (c : Core) (ea : Int) (n : Nat) : Bool :=
  inOneRow ea n &&
    (c.prv || (match lsRow ea.toNat with
      | 0 => true
      | 3 => decide (c.ctx.copyAddr.toNat ≤ ea.toNat)
              && decide (ea.toNat + n ≤ c.ctx.copyAddr.toNat + c.ctx.copyLen.toNat)
      | 4 => true
      | _ => false))

/-- The running context may write `n` bytes at `ea` (R42, R109). -/
def Core.mayWrite (c : Core) (ea : Int) (n : Nat) : Bool := inOneRow ea n && (c.prv || lsRow ea.toNat == 0)

/-- R42 discards writes to the row of an address. -/
def discards (a : Nat) : Bool := lsRow a == 1 || lsRow a == 2 || lsRow a == 7

/-- The mark of the word that holds an address (R112). -/
def Core.marked (c : Core) (a : Nat) : Bool := c.marks.contains (a / 8)

/-- Set or clear the mark of a word. -/
def Core.setMark (c : Core) (w : Nat) (b : Bool) : Core :=
  { c with marks := if b then nsInsert w c.marks else nsErase w c.marks }

/-- A byte of a range lies in a marked word. -/
def Core.anyMarked (c : Core) (a n : Nat) : Bool := c.marks.any fun w => decide (a < 8 * w + 8) && decide (8 * w < a + n)

/-- The bytes of local store at an address. -/
def Core.rdBytes (c : Core) (a n : Nat) : List Byte := c.ls.bytes a n

/-- A little-endian number from local store (R5). -/
def Core.rdNat (c : Core) (a n : Nat) : Nat := leNat (c.ls.bytes a n)

/-- A 64-bit word of local store. -/
def Core.rdWord (c : Core) (a : Nat) : Word := BitVec.ofNat 64 (c.rdNat a 8)

/-- Drop cached page-map entries whose bytes a write touches (R40). -/
def Core.pmSnoop (c : Core) (a n : Nat) : Core :=
  if a + n ≤ 0xFC000 ∨ 0xFD000 ≤ a then c
  else
    let keep (e : BitVec 10 × BitVec 32) : Bool :=
      decide (0xFC000 + 4 * e.1.toNat + 4 ≤ a) || decide (a + n ≤ 0xFC000 + 4 * e.1.toNat)
    { c with pmCache := c.pmCache.filter keep }

/-- Write bytes into local store, with no check; a write below the image's end clears the image-clean bit (R271). -/
def Core.wrBytes (c : Core) (a : Nat) (bs : List Byte) : Core :=
  let c := c.pmSnoop a bs.length
  { c with ls := c.ls.putBytes a bs, clean := c.clean && (bs.isEmpty || decide (c.imgLen ≤ a)) }

/-- Write a 64-bit word into local store. -/
def Core.wrWord (c : Core) (a : Nat) (x : Word) : Core := c.wrBytes a (natBytes x.toNat 8)

/-- Marks after `n` bytes at `a` were written by instructions: poisoned data marks every word touched, clean data clears the words written whole (R112). -/
def Core.markWrite (c : Core) (a n : Nat) (p : Bool) : Core :=
  (List.range ((a + n + 7) / 8 - a / 8)).foldl (fun c i =>
    let w := a / 8 + i
    if p then c.setMark w true
    else if a ≤ 8 * w ∧ 8 * w + 8 ≤ a + n then c.setMark w false else c) c

/-- The bytes of a range with their marks. -/
def Core.rdMarked (c : Core) (a n : Nat) : List MByte :=
  (List.range n).map fun i => (c.ls.byte (a + i), c.marked (a + i))

/-- A unit is about to write a range: the running context's next instruction may still see each line of it as it was (R22, R361). -/
def Core.noteWrite (c : Core) (a : Nat) (bs : List MByte) : Core :=
  let n := bs.length
  if c.ctx.st = .running then
    let line (i : Nat) : BesideWrite :=
      let lo := max a (64 * (a / 64 + i))
      let hi := min (a + n) (64 * (a / 64 + i) + 64)
      ⟨lo, c.rdMarked lo (hi - lo)⟩
    { c with beside := c.beside ++ (List.range ((a + n + 63) / 64 - a / 64)).map line }
  else { c with beside := [] }

/-- Write bytes with the marks they carry, as deliveries, streams and remote operations do: a marked byte marks its word, and a word written whole with clean bytes is cleared (R112, R174, R187). -/
def Core.wrMarked (c : Core) (a : Nat) (bs : List MByte) : Core :=
  let c := (c.noteWrite a bs).wrBytes a (bs.map Prod.fst)
  (List.range ((a + bs.length + 7) / 8 - a / 8)).foldl (fun c i =>
    let w := a / 8 + i
    let lo := 8 * w - a
    let part := (bs.drop lo).take (8 * w + 8 - a - lo)
    if part.any Prod.snd then c.setMark w true
    else if a ≤ 8 * w ∧ 8 * w + 8 ≤ a + bs.length then c.setMark w false else c) c

/-! ### Accesses that fall between unit writes (R22, R144, R145, R153)

An instruction of several accesses is not indivisible: a line that a unit wrote since the context last issued may have been written before one access of the instruction and after another. Access `i` sees the local store as it was before the last `lag i` of those writes. -/

/-- How many of the last unit writes access `i` of the instruction precedes: the spec leaves it open, and no other than `Config.lag` decides it. -/
def Core.lag (c : Core) (i : Nat) : Nat := Config.lag c.pos c.issueAt i % (c.beside.length + 1)

/-- The unit writes that an access precedes. -/
def Core.after (c : Core) (lag : Nat) : List BesideWrite := c.beside.drop (c.beside.length - lag)

/-- A unit write holds the byte at an address. -/
def BesideWrite.covers (w : BesideWrite) (a : Nat) : Bool := decide (w.addr ≤ a) && decide (a < w.addr + w.old.length)

/-- The byte at an address, with its mark, as an access before these writes sees it. -/
def Core.before (c : Core) (ws : List BesideWrite) (a : Nat) : MByte :=
  match ws.find? fun w => w.covers a with
  | some w => w.old.getD (a - w.addr) (0, false)
  | none => (c.ls.byte a, c.marked a)

/-- A little-endian number as access `i` of the instruction sees it (R5, R22). -/
def Core.seenNat (c : Core) (i a n : Nat) : Nat := leNat ((List.range n).map fun j => (c.before (c.after (c.lag i)) (a + j)).1)

/-- A byte of a range lies in a word that is marked when access `i` of the instruction reads it. -/
def Core.seenMark (c : Core) (i a n : Nat) : Bool := (List.range n).any fun j => (c.before (c.after (c.lag i)) (a + j)).2

/-- The bytes of a range with their marks, each line of them as one access of the instruction sees it (R22, R362). -/
def Core.seenMarked (c : Core) (a n : Nat) : List MByte :=
  (List.range n).map fun j => c.before (c.after (c.lag ((a + j) / 64 - a / 64))) (a + j)

/-- A little-endian number of several lines, each seen whole: line i of them by access `i` of the instruction. -/
def Core.seenLines (c : Core) (i a n : Nat) : Nat := leNat ((List.range n).map fun j => (c.before (c.after (c.lag (i + j / 64))) (a + j)).1)

/-! ### System ranges as instructions write them (R7, R8, R39, R223, R226, R227, R324) -/

/-- Word `w` of the binding record of a channel. -/
def Core.bindWord (c : Core) (ch w : Nat) : Word := c.rdWord (0xFD800 + 32 * ch + 8 * w)

/-- The channel is bound. -/
def Core.bound (c : Core) (ch : Nat) : Bool := (c.bindWord ch 0).getLsbD 0

/-- MODE of a channel: 0 WAKE, 1 JOIN, 2 LAND, 3 FEED. -/
def Core.chMode (c : Core) (ch : Nat) : BitVec 2 := (c.bindWord ch 0).extractLsb' 4 2

/-- JSI of a channel. -/
def Core.chSet (c : Core) (ch : Nat) : BitVec 4 := (c.bindWord ch 0).extractLsb' 16 4

/-- The 64 channels. -/
def channels : List Nat := List.range 64

/-- The channels of a join set. -/
def Core.setMembers (c : Core) (j : BitVec 4) : List Nat :=
  channels.filter fun ch => c.bound ch && c.chMode ch == 1#2 && c.chSet ch == j

/-- The layout of a channel's 512 bytes under its binding names the byte at an address (R226). -/
def Core.chNamed (c : Core) (a : Nat) : Bool :=
  let ch := (a - 0xF4000) / 512
  let o := a % 512
  c.bound ch && (match (c.chMode ch).toNat with
    | 0 => true
    | 1 => decide (o < 128) || (c.setMembers (c.chSet ch)).head? == some ch
    | 2 => decide (o < 256)
    | _ => decide (o < 8))

/-- The RW bits of byte i of a page-map entry (R39). -/
def mapBits (i : Nat) : Byte := if i = 0 ∨ i = 3 then 0xFF else if i = 1 then 0x07 else 0

/-- The RW bits of byte i of a binding record (R227). -/
def bindBits (i : Nat) : Byte :=
  if i = 0 then 0x31 else if i = 1 then 0xF7 else if i ≤ 3 then 0xFF else if i = 4 then 0x1F else if i < 8 then 0 else if i < 24 then 0xFF else 0

/-- The bits that a store can set in a byte of local store: not those of an RO or reserved field (R7, R8), of a trap record (R324), or of a byte of a channel that its layout does not name (R223). -/
def Core.rwBits (c : Core) (a : Nat) : Byte :=
  match lsRow a with
  | 3 => if c.chNamed a then 0xFF else 0
  | 4 => mapBits (a % 4)
  | 5 => 0
  | 6 => bindBits (a % 32)
  | _ => 0xFF

/-- What a store of a byte leaves at an address. -/
def Core.blend (c : Core) (a : Nat) (b : Byte) : Byte := (c.ls.byte a &&& ~~~c.rwBits a) ||| (b &&& c.rwBits a)

/-- What a store of bytes from an address leaves there. -/
def Core.merge (c : Core) (a : Nat) : List Byte → List Byte
  | [] => []
  | b :: bs => c.blend a b :: Core.merge c (a + 1) bs

/-- A byte belongs to a payload copy that a pending activation, an open window or a context still names. -/
def Core.inCopy (c : Core) (a : Nat) : Bool :=
  let covers (lo n : Nat) : Bool := decide (lo ≤ a) && decide (a < lo + n)
  c.pend.any (fun x => covers x.addr.toNat (max x.len.toNat (64 * x.size)))
    || c.retained.any (fun x => covers x.pos.toNat (64 * x.size))
    || c.ctxs.toList.any fun x => covers x.copyAddr.toNat x.copyLen.toNat

/-- A byte of the channel queues that no layout names, and that lies in no payload copy in use. -/
def Core.unnamed (c : Core) (a : Nat) : Bool := lsRow a == 3 && !c.chNamed a && !c.inCopy a

/-- Bytes of the channel queues that no layout names any longer become zero (R223); payload copies in use stay. -/
def Core.tidy (c : Core) : Core := { c with ls := c.ls.filter fun e => !c.unnamed e.1 }

/-- Write the bytes of a store, as far as the range takes them; a binding record that changes also changes which bytes its channel names. -/
def Core.putLs (c : Core) (a : Nat) (bs : List Byte) : Core :=
  let c := c.wrBytes a (c.merge a bs)
  if lsRow a = 6 then c.tidy else c

/-! ### Poison origins (R64) -/

/-- GID of GRPID (R27). -/
def Core.gid (c : Core) : BitVec 16 := c.grpid.extractLsb' 0 16

/-- The origin of a poison that the running instruction creates (R64). -/
def Core.ownOrigin (c : Core) (cause : Cause) : Org :=
  mkOrigin c.gid cause.code c.regs.pc (c.name.extractLsb' 32 20) (c.name.extractLsb' 0 32)

/-- The origin of a poison that a unit of the core creates for the instruction at `pc` (R64). Where no instruction makes it, as for a unit that a router converts, the model puts pc 0 (DESIGN CHOICE, log 35). -/
def Core.unitOrigin (c : Core) (cause : Cause) (pc : LAddr) : Org :=
  mkOrigin c.gid cause.code pc (c.name.extractLsb' 32 20) (c.name.extractLsb' 0 32)

/-! ### Commit windows (R169, R224, R329, R331) -/

/-- The old bytes that the journal holds. -/
def JRec.size : JRec → Nat
  | .mem _ old _ => old.length
  | .cr _ _ => 8

/-- Bytes of old contents held in the journal. -/
def Window.jbytes (w : Window) : Nat := w.journal.foldl (fun n r => n + r.size) 0

/-- The journal has room for these records: at most 256 records and 8 KiB (R224). -/
def Window.fits (w : Window) (records bytes : Nat) : Bool :=
  decide (w.journal.length + records ≤ 256) && decide (w.jbytes + bytes ≤ 8192)

/-- A fresh window that begins at the given registers (R329). -/
def Core.newWindow (c : Core) (r : Regs) : Window :=
  { ckpt := r, att := 0, journal := [], accOld := [], latchOld := [], wdOld := c.ctx.wd, slotOld := [], tktOld := c.nextTkt,
    opFrom := c.nextOp, streamFrom := c.nextStream, holdFrom := c.holdTail, hit := [] }

/-- Free the retained inputs of the running context's window: their records become zero (R226, R229, R230). -/
def Core.freeRetained (c : Core) : Core :=
  let mine := c.retained.filter fun x => x.ctx == c.run
  let c := mine.foldl (fun c x => c.wrWord (0xFE800 + 8 * x.slot) 0) c
  let drop (q : FeedQ) : FeedQ := { live := q.live, kept := [], head := q.head + BitVec.ofNat 4 q.kept.length }
  let c := { c with retained := c.retained.filter fun x => x.ctx != c.run }
  c.setCtx { c.ctx with fq0 := drop c.ctx.fq0, fq1 := drop c.ctx.fq1 }

/-- The header of a held operation's record, updated in the hold buffer (R225). -/
def Op.header (o : Op) : List Byte :=
  let w0 : Word := (o.tkt.getD 0) ++ (0#4 ++ (BitVec.ofNat 12 o.payload.length ++ (o.ch ++ (o.cls ++ (0#2 ++
    (bit1 o.committed ++ (bit1 (o.st == .refused) ++ (0#6 ++ (o.fn ++ o.op)))))))))
  natBytes w0.toNat 8 ++ natBytes o.dst.toNat 8 ++ natBytes o.opa.toNat 8 ++ natBytes o.opb.toNat 8

/-- Write bytes into the hold-buffer ring at an absolute position (R225). -/
def Core.wrHold (c : Core) (off : Nat) (bs : List Byte) : Core :=
  let o := off % 8192
  let c := c.wrBytes (0xF2000 + o) (bs.take (8192 - o))
  c.wrBytes 0xF2000 (bs.drop (8192 - o))

/-- Write an operation's header into its record, when it has one. -/
def Core.wrHeader (c : Core) (o : Op) : Core := if o.size = 0 then c else c.wrHold o.off o.header

/-- A trap record (R324). -/
def mkRecord (cause : BitVec 12) (kind ctx att : BitVec 2) (ha prv : Bool) (pc : LAddr) (word info : Word) (name : Word)
    (gid tkt : BitVec 16) (wher cyc : Word) (seq : BitVec 32) : List Word :=
  [cause ++ (kind ++ (ctx ++ (att ++ (bit1 ha ++ (bit1 prv ++ (0#24 ++ pc)))))), word, info,
    0#12 ++ name.extractLsb' 0 52, gid ++ (tkt ++ 0#32), wher, cyc, 0#32 ++ seq]

/-- The record of a trap of the running context. -/
def Core.trapRecord (c : Core) (t : Trap) (kind : BitVec 2) (word : Word) : List Word :=
  mkRecord t.cause.code kind c.run c.win.att c.regs.handler c.prv c.regs.pc word t.info c.name c.gid 0 0 c.cycle c.seq

/-- Queue a report for the group's fault channel (R326, R328). -/
def Core.report (c : Core) (ws : List Word) : Core :=
  { c with reports := c.reports ++ [⟨c.gid, ws, c.name, 0, 0⟩], seq := c.seq + 1 }

/-- The report of an MMA that an uncorrectable error hit (R339). -/
def Core.mmaueReport (c : Core) (m : MmaJob) : Core :=
  c.report (mkRecord (Cause.code .mmaue) 2 m.ctx c.win.att (c.ctxAt m.ctx).regs.handler (c.ctxAt m.ctx).prv m.pc m.word
    (m.acc.setWidth 64) c.name c.gid 0 0 c.cycle c.seq)

/-- The open window commits: its operations may leave, its journal empties, its inputs are freed, and the next window begins at the registers as they stand (R169, R224, R329). -/
def Core.closeWindow (c : Core) : Core :=
  let mark (o : Op) : Op := if o.ctx = c.run then { o with committed := true } else o
  let c : Core := { c with ops := c.ops.map mark }
  let c := c.ops.foldl (fun c o => if o.id ≥ c.win.opFrom then c.wrHeader o else c) c
  let c := c.freeRetained
  { c with win := c.newWindow c.regs, late := [] }

/-- Wait for an MMA in flight: its tile is written, and one that an error hit closes the window and is reported (R153, R156, R339). -/
def Core.drainMma (c : Core) : Core :=
  match c.mma with
  | none => c
  | some m => if m.hit.isSome then ((c.writeTile m).closeWindow).mmaueReport m else c.writeTile m

/-- Commit the open window, once an MMA in flight has passed its check (R329). -/
def Core.commit (c : Core) : Core := c.drainMma.closeWindow

/-- Restore one journal record (R224, R331). -/
def Core.undo (c : Core) : JRec → Core
  | .mem a old ms => ms.foldl (fun c m => c.setMark m.1 m.2) (c.wrBytes a old)
  | .cr idx old =>
    match idx.toNat with
    | 0x001 => { c with grpid := old }
    | 0x002 => { c with name := old }
    | 0x003 => { c with name := c.name.extractLsb' 32 32 ++ (old.extractLsb' 0 8 ++ c.name.extractLsb' 0 24) }
    | 0x004 => { c with relpos := old }
    | 0x020 => { c with trapvec := old }
    | 0x030 => { c with twc := c.twc || old.getLsbD 7 }
    | 0x031 => { c with islBnd := old.getLsbD 0, islIid := old.extractLsb' 32 16, islPad := old.extractLsb' 8 8 }
    | 0x061 => { c with wdogLim := old.extractLsb' 0 32 }
    | _ => c

/-- Put the consumed entries of a queue back at its head (R125). -/
def FeedQ.unread (q : FeedQ) : FeedQ := { live := q.kept ++ q.live, kept := [], head := q.head }

/-- Take out the entries that stream commands from an id on appended (R331). -/
def FeedQ.without (q : FeedQ) (id : Nat) : FeedQ := { q with live := q.live.filter fun e => !e.cmd.any fun i => decide (id ≤ i) }

/-- Roll back the open window of the running context (R331). Retained messages stay with the activation, which starts the window again. -/
def Core.rollback (c : Core) : Core :=
  let w := c.win
  let c := w.journal.foldl Core.undo c
  let slotBack (m : NMap Slot) (e : Nat × Option Slot × Word) : NMap Slot :=
    match e.2.1 with
    | some v => NMap.set m e.1 v
    | none => NMap.del m e.1
  let c : Core := { c with
    ops := c.ops.filter (fun o => decide (o.id < w.opFrom))
    streams := c.streams.filter (fun x => decide (x.id < w.streamFrom))
    holdTail := w.holdFrom
    mma := none
    trees := c.trees.map (fun e =>
      let kept := e.2.opens.filter fun o => decide (o.op < w.opFrom)
      (e.1, { e.2 with opens := kept, issued := e.2.issued - (e.2.opens.length - kept.length) }))
    slots := w.slotOld.foldl slotBack c.slots
    nextTkt := w.tktOld
    latch := w.latchOld.foldl (fun l e => l.set e.1.toNat e.2 e.1.isLt) c.latch }
  let acc := w.accOld.foldl (fun a e => a.set e.1.toNat e.2 e.1.isLt) c.acc
  let acc := w.hit.foldl (fun a e =>
    let t := a[e.1.toNat]'(e.1.isLt)
    a.set e.1.toNat { t with org := orgMerge t.org e.2, ptl := true, flags := t.flags ||| fPSN } e.1.isLt) acc
  let feeds := c.retained.filter fun x => x.ctx == c.run && x.kind == 3#2
  let c := feeds.foldl (fun c x => c.wrWord (0xFE800 + 8 * x.slot) 0) { c with acc := acc }
  let c := { c with retained := c.retained.filter fun x => !(x.ctx == c.run && x.kind == 3#2) }
  let c := w.slotOld.foldl (fun c e => c.wrWord (0xFE000 + 8 * e.1) e.2.2) c
  let c := c.setCtx { c.ctx with
    regs := { w.ckpt with handler := false }, fq0 := c.ctx.fq0.unread.without w.streamFrom, fq1 := c.ctx.fq1.unread.without w.streamFrom
    wd := w.wdOld }
  { c with win := { c.newWindow w.ckpt with att := w.att }, late := [] }

/-- Record the old bytes of an aligned range in the journal, and in the range of R224 at 0xF_0000. -/
def Core.journal (c : Core) (a n : Nat) : Core :=
  let old := c.rdBytes a n
  let ms := (List.range (n / 8)).map fun i => (a / 8 + i, c.marks.contains (a / 8 + i))
  let c := c.wrBytes (0xF0000 + c.win.jbytes) old
  { c with win := { c.win with journal := .mem a old ms :: c.win.journal }, late := [] }

/-- Close the window at the instruction when the journal cannot take its records (R111). -/
def Core.roomForJournal (c : Core) (records bytes : Nat) : Core :=
  if c.win.fits records bytes then c else c.commit

/-- Record the old value of a core-scope control register (R224). -/
def Core.journalCr (c : Core) (idx : BitVec 12) (old : Word) : Core :=
  let c := c.roomForJournal 1 8
  let c := c.wrBytes (0xF0000 + c.win.jbytes) (natBytes old.toNat 8)
  { c with win := { c.win with journal := .cr idx old :: c.win.journal }, late := [] }

/-- Keep an accumulator's contents before the window first changes it (R168). -/
def Core.keepAcc (c : Core) (k : BitVec 2) : Core :=
  if c.win.accOld.any fun e => e.1 == k then c
  else { c with win := { c.win with accOld := (k, c.acc[k.toNat]'(k.isLt)) :: c.win.accOld } }

/-- Keep a latch's contents before the window first changes it (R168). -/
def Core.keepLatch (c : Core) (k : BitVec 1) : Core :=
  if c.win.latchOld.any fun e => e.1 == k then c
  else { c with win := { c.win with latchOld := (k, c.latch[k.toNat]'(k.isLt)) :: c.win.latchOld } }

/-- A store of an instruction to a checked address: `a` aligned to `n`, which divides 8 (R108, R111, R112). -/
def Core.store (c : Core) (a n : Nat) (bs : List Byte) (p : Bool) : Core :=
  if discards a then c
  else (((c.roomForJournal 1 8).journal (a / 8 * 8) 8).putLs a bs).markWrite a n p

/-! ### Accesses of units that fall between the stores of an instruction (R22, R144, R145, R362)

VSTX and BST make several store accesses, and the instruction as a whole is not indivisible. Its meaning makes them all; `late` lists those that a unit may still come before. When a unit makes an access, a free number of the last ones counts as not yet made: they are taken back, the unit acts, and they are made again. -/

/-- One of several store accesses of an instruction, with a journal record of its own (R111, R224). -/
def Core.access (c : Core) (x : LateStore) : Core :=
  let d := ((c.journal x.ja x.jn).putLs x.addr x.bytes).markWrite x.addr x.bytes.length x.p
  { d with late := c.late ++ [x] }

/-- The last `n` store accesses of the instruction are taken back, with their journal records. The earlier ones are made, whatever follows. -/
def Core.hide (c : Core) (n : Nat) : Core × List LateStore :=
  let d := (c.win.journal.take n).foldl Core.undo c
  ({ d with win := { d.win with journal := d.win.journal.drop n }, late := [] }, c.late.drop (c.late.length - n))

/-- The accesses that were taken back are made again. An access of a later instruction comes after them. -/
def Core.unhide (c : Core) (xs : List LateStore) : Core :=
  let c := xs.foldl Core.access c
  let mine (a : Nat) : Bool := xs.any fun x => decide (x.addr ≤ a) && decide (a < x.addr + x.bytes.length)
  { c with beside := c.beside.map fun w =>
      { w with old := w.old.mapIdx fun j b => if mine (w.addr + j) then (c.ls.byte (w.addr + j), c.marked (w.addr + j)) else b } }

/-! ### Traps (R211, R324, R327) -/

/-- Eight words as a vector. -/
def words8 (ws : List Word) : Vector Word 8 := Vector.ofFn fun i => ws.getD i.val 0

/-- Write a record into TRAPREC and the trap-record area; the older records move up one slot (R228). -/
def Core.putRecord (c : Core) (ws : List Word) : Core :=
  let base := 0xFD000 + 512 * c.run.toNat
  let c := c.wrBytes (base + 64) (c.rdBytes base 448)
  let c := c.wrBytes base (ws.flatMap fun w => natBytes w.toNat 8)
  { c.setCtx { c.ctx with trapRec := words8 ws } with seq := c.seq + 1 }

/-- Seal the open batch: the next number opens (R190). -/
def Regs.seal (r : Regs) : Regs := { r with openBatch := r.openBatch + 1, batchUsed := false }

/-- END of the running context: the open batch is sealed if it holds a command, the window commits, and the context becomes FREE (R182). Its payload copy is given up (R223, R226). -/
def Core.endCtx (c : Core) : Core :=
  let c := if c.regs.batchUsed then c.modRegs Regs.seal else c
  let c := c.modRegs fun r => { r with handler := false }
  let c := c.commit
  Core.tidy { c.setCtx { c.ctx with st := .free, wait := .none, copyLen := 0 } with last := c.run }

/-- Delivery without a handler (R327): the consumed inputs are freed, the window is rolled back, a record of KIND 1 is written and posted, and the context ends. -/
def Core.deliver (c : Core) (t : Trap) (word : Word) : Core :=
  let ws := c.trapRecord t 1 word
  let c := c.freeRetained.rollback.putRecord ws
  Core.endCtx { c with reports := c.reports ++ [⟨c.gid, ws, c.name, 0, 0⟩] }

/-- Taking a trap (R211): earlier work completes (R94), TRAPREC and the record area are written, HandlerActive is set, the watchdog count restarts, and the pc goes to the handler; with no handler, or inside one, the trap is delivered. -/
def Core.takeTrap (c : Core) (t : Trap) (word : Word) : Core :=
  let c := c.drainMma
  if c.trapvec.getLsbD 0 && !c.regs.handler then
    let c := c.putRecord (c.trapRecord t 0 word)
    let c := c.modRegs fun r => { r with handler := true, pc := c.trapvec.extractLsb' 3 17 ++ 0#3 }
    c.setCtx { c.ctx with wd := 0 }
  else c.deliver t word

/-- A target of a control transfer is an aligned program address (R115). -/
def goodTarget (t : Int) : Bool := decide (0 ≤ t) && decide (t ≤ 0xEFFF8) && decide (t % 8 = 0)

/-- Transfer control to a checked target (R115). -/
def Core.jumpTo (c : Core) (t : Int) : Except Trap Core :=
  if goodTarget t then .ok (c.modRegs fun r => { r with pc := BitVec.ofInt 20 t }) else .error ⟨.badaddr, infoAddr t⟩

/-- Return from a handler to a target (R212): HandlerActive is cleared. -/
def Core.trapReturn (c : Core) (t : Int) : Except Trap Core :=
  (c.modRegs fun r => { r with handler := false }).jumpTo t

/-! ### Tickets (R193, R229) -/

/-- The slot number of a ticket. -/
def slotOf (t : BitVec 16) : Nat := (t.extractLsb' 0 8).toNat

/-- The next slot is still outstanding, so an operation that needs a ticket stalls (R193). -/
def Core.ticketBusy (c : Core) : Bool :=
  match NMap.get? c.slots (slotOf c.nextTkt) with
  | some s => !s.done
  | none => false

/-- Allocate the next ticket for an operation of a kind. Its value word reads zero until the operation is done (DESIGN CHOICE: R229 gives it only then, log 16). -/
def Core.allocTicket (c : Core) (kind : BitVec 4) : Core × BitVec 16 :=
  let t := c.nextTkt
  let k := slotOf t
  let c := { c with
    win := { c.win with slotOld := (k, NMap.get? c.slots k, c.rdWord (0xFE000 + 8 * k)) :: c.win.slotOld }
    slots := NMap.set c.slots k ⟨t, kind, false, 0, false⟩
    nextTkt := t + 1 }
  (c.wrWord (0xFE000 + 8 * k) 0, t)

/-- The slot that holds exactly this ticket (R193). -/
def Core.heldTicket (c : Core) (t : BitVec 16) : Option Slot :=
  match NMap.get? c.slots (slotOf t) with
  | some s => if s.tkt = t then some s else none
  | none => none

/-- Complete a ticket with a cause, a PSN bit and a value word. -/
def Core.completeTicket (c : Core) (t : BitVec 16) (cause : BitVec 12) (psn : Bool) (value : Word) : Core :=
  match c.heldTicket t with
  | some s =>
    let c := { c with slots := NMap.set c.slots (slotOf t) { s with done := true, cause := cause, psn := psn } }
    c.wrWord (0xFE000 + 8 * slotOf t) value
  | none => c

end Sys2Proof.Machine
end

