-- ==== Sys2Proof/Machine/State.lean ====
section
/-! DEFINITION. The state of the module, and the state after reset. -/
namespace Sys2Proof.Machine

/-- The module. -/
structure State where
  modId : BitVec 20
  cores : NMap Core
  cur : Nat
  querns : NMap Quern
  fields : NMap Field
  seq : Seq
  seqIn : List SeqReq
  flight : List Msg
  /-- messages for other modules that wait at a Yunavy port -/
  outbox : List Msg
  gens : NMap GenEntry
  advances : List Advance
  trees : List Tree
  cunits : List CUnit
  rnqs : List CRnm
  rnms : List CRnm
  downs : List CDown
  /-- consecutive failures of the flit that failed last on a link, by 8 * router + port (R334) -/
  linkFails : NMap Nat
  laneIn : List LaneMsg
  laneOut : List LaneMsg
  cycle : Nat
  /-- the stage of the cycle that has been reached -/
  stage : Nat
  tick : Nat
  posts : List Report
  edge : Edge
  yun : NMap YPort
  boot : Boot
  /-- what the outside world will do next, oldest first -/
  inputs : List Instr
  /-- the next move, when something fixes it -/
  turn : Option Move
  deriving DecidableEq, Repr

/-- The quern after reset. -/
def Quern.reset : Quern :=
  { tw := Vector.replicate 8 0, twp := 0, twCycle := 0, twLog := [], holder := none, hand := none, reqBed := none, reqRun := none, rreq := none, grant := 0, was := none }

/-- Registers after reset; the values that the spec does not give are zero (log 2). -/
def Regs.reset : Regs :=
  { s := Vector.replicate 32 0, sp := 0, v := Vector.replicate 32 0, side := Vector.replicate 32 0, g := 0,
    m := Vector.replicate 8 0, pc := 0, astat := 0, openBatch := 0, batchUsed := false, handler := false }

/-- An empty feed queue. -/
def FeedQ.empty : FeedQ := ⟨[], [], 0⟩

/-- No earlier work to wait for. -/
def Prereq.none : Prereq := ⟨[], [], []⟩

/-- A context after reset (R406: FREE). -/
def Ctx.reset : Ctx :=
  { regs := Regs.reset, fq0 := FeedQ.empty, fq1 := FeedQ.empty, st := .free, wait := .none, wd := 0, wdLimit := 0x400000,
    prio := 0, base := 0, since := 0, prv := false, copyAddr := 0, copyLen := 0, trapRec := Vector.replicate 8 0,
    fence := Prereq.none, rstack := [] }

/-- A zeroed accumulator in integer-and-scale mode (R159). -/
def Acc.zero : Acc := ⟨Vector.replicate 1024 0, 0, false, 0, false, 0⟩

/-- An empty latch (R23). -/
def Latch.empty : Latch := ⟨0, 0, 0⟩

/-- A core after reset, at its named position (R25 to R36, R406); the rotation of its contexts starts after context 3, so that context 0 comes first (log 21). -/
def Core.reset (modId : BitVec 20) (pos : Nat) : Core :=
  { ctxs := Vector.replicate 4 Ctx.reset, run := 0, last := 3,
    win := { ckpt := Regs.reset, att := 0, journal := [], accOld := [], latchOld := [], wdOld := 0, slotOld := [], tktOld := 0,
             opFrom := 0, streamFrom := 0, holdFrom := 0, hit := [] },
    acc := Vector.replicate 4 Acc.zero, mma := none, latch := Vector.replicate 2 Latch.empty, ctr := Vector.replicate 16 0,
    pos := pos, grpid := 0, name := 0#12 ++ (modId ++ (0#8 ++ BitVec.ofNat 24 pos)), relpos := 0, trapvec := 0,
    twc := false, islBnd := false, islIid := 0, islPad := 0, scnt := 0, routes := [], pmMiss := 0, pmCache := [], cycle := 0,
    wdogLim := 0x00400000, ls := [], marks := [], beside := [], late := [], slots := [], nextTkt := 0, ops := [], nextOp := 0, holdTail := 0,
    streams := [], nextStream := 0, served := (0, 0), pend := [], tokens := [], retained := [], trees := [], landing := [], clean := false,
    imgLen := 0, free := 0, seq := 0, reports := [], issueAt := 0, sent := 0, accepted := 0, ueHours := [], droop := none, sync := none, stalled := false, frozen := none, readyAt := 0, remFails := 0, strFails := 0, retiring := none, stopping := false, captured := false }

/-- A field after reset (R248, R315, R319): a faultless repair table, FBUD of an inner field plus, in an edge field, the cost of its ports at full width. -/
def Field.reset (f : Nat) : Field :=
  { budget := fbudDefault f, pool := 0, gate := 0, gateNew := 0, lnk := 0, yun := [], cxl := [], epoch := 0, epochAt := 0, sample := none, decideAt := none, fbud := fbudDefault f,
    limit := 0, fbudNew := fbudDefault f, limitNew := 0, ran := 0, rot := 0, nflt := 0, rskip := 32, rows := [], faulty := [], repairs := [],
    hours := 0, rotAt := 1000 + 15 * f, due := false }

/-- The module after reset. -/
def State.reset : State :=
  { modId := 0, cores := [], cur := 0, querns := [], fields := [], seq := Seq.reset, seqIn := [], flight := [], outbox := [], gens := [],
    advances := [], trees := [], cunits := [], rnqs := [], rnms := [], downs := [], linkFails := [], laneIn := [], laneOut := [], cycle := 0, stage := 0, tick := 0, posts := [],
    edge := Edge.reset, yun := [], boot := Boot.reset, inputs := [], turn := none }

/-- Why the machine stops. No operation of the table stops the machine. -/
inductive Fault where
  /-- Raised by the step alone when the module is without power or halted (BOOTST.PHASE 0 or 5) and the outside world sends nothing more: the module waits for ever. Safe. -/
  | idle
  deriving DecidableEq, Repr

/-- Why an operation has no meaning here. -/
inductive Refusal where
  /-- Raised by a dispatch arm that has no meaning yet. Safe: nothing is claimed of the instruction. -/
  | notModelled (mnemonic : String)
  /-- Raised by a meaning of a module operation that cannot take place in this state, such as the arrival of a message that no list holds. The step makes only moves that can take place. Safe. -/
  | notEnabled (name : String)
  deriving DecidableEq, Repr

end Sys2Proof.Machine
end

