-- ==== Sys2Proof/Machine/Issue.lean ====
section
/-! DEFINITION. Issuing an instruction in the core in focus: the guard (R75), the effect, and the trap it may take (R94, R211). -/
namespace Sys2Proof.Machine

/-- The outcome of a step. -/
abbrev Out := Host.Outcome State Fault Refusal

/-- The cycles that a field's clock has run (R36). -/
def State.ranOf (s : State) (f : Nat) : Nat := ((NMap.get? s.fields f).map Field.ran).getD 0

/-- The core at a named position. One that nothing has touched is as reset left it, but for its cycle count, which its field's clock gives. -/
def State.coreAt (s : State) (k : Nat) : Core :=
  (NMap.get? s.cores k).getD { Core.reset s.modId k with cycle := BitVec.ofNat 64 (s.ranOf (fieldOf k)) }

/-- Replace the core at a named position. -/
def State.setCoreAt (s : State) (k : Nat) (c : Core) : State := { s with cores := NMap.set s.cores k c }

/-- The core in focus. -/
def State.core (s : State) : Core := s.coreAt s.cur

/-- Replace the core in focus. -/
def State.setCore (s : State) (c : Core) : State := s.setCoreAt s.cur c

/-- The key of the quern that holds a core: its row and column (R24). -/
def quernOf (k : Nat) : Nat := k % 65536

/-- The core is the runner of its quern (R38). -/
def isRunner (k : Nat) : Bool := k / 65536 == 1

/-- The key of the twin core. -/
def twinOf (k : Nat) : Nat := if isRunner k then k % 65536 else k + 65536

/-- A quern by its key. -/
def State.quernAt (s : State) (q : Nat) : Quern := (NMap.get? s.querns q).getD Quern.reset

/-- Replace a quern. -/
def State.setQuernAt (s : State) (q : Nat) (x : Quern) : State := { s with querns := NMap.set s.querns q x }

/-- The quern of the core in focus. -/
def State.quern (s : State) : Quern := s.quernAt (quernOf s.cur)

/-- Replace the quern of the core in focus. -/
def State.setQuern (s : State) (x : Quern) : State := s.setQuernAt (quernOf s.cur) x

/-- The word at the running context's pc. -/
def Core.fetchWord (c : Core) : Word := c.rdWord c.regs.pc.toNat

/-! ### Licence hand-overs (R164, R311) -/

/-- The quern's licence is with the core of this tier, and no hand-over is in progress. -/
def Quern.held (q : Quern) (runner : Bool) : Bool := q.holder == some runner && q.hand.isNone

/-- Neither core holds the licence and no hand-over is in progress (R311). -/
def Quern.isFree (q : Quern) : Bool := q.holder.isNone && q.hand.isNone

/-- The cycle of a core's queued request. -/
def Quern.req (q : Quern) (runner : Bool) : Option Nat := if runner then q.reqRun else q.reqBed

/-- Set or remove a core's queued request. -/
def Quern.setReq (q : Quern) (runner : Bool) (r : Option Nat) : Quern :=
  if runner then { q with reqRun := r } else { q with reqBed := r }

/-- A core becomes holder in cycle `n`; its queued request is removed (R164, R311). -/
def Quern.give (q : Quern) (runner : Bool) (n : Nat) : Quern :=
  { q.setReq runner none with holder := some runner, hand := none, grant := n }

/-- The quern with its licence state as it stood before this cycle (R33, R311). -/
def Quern.view (q : Quern) (now : Nat) : Quern :=
  match q.was with
  | some (n, w) =>
    if n = now then { q with holder := w.holder, hand := w.hand, reqBed := w.reqBed, reqRun := w.reqRun, rreq := w.rreq } else q
  | none => q

/-- The quern about to change in this cycle: what reads see until the cycle ends is kept. -/
def Quern.stamp (q : Quern) (now : Nat) : Quern :=
  if q.was.any fun e => e.1 == now then q else { q with was := some (now, ⟨q.holder, q.hand, q.reqBed, q.reqRun, q.rreq⟩) }

/-- Replace an accumulator. -/
def Core.setAcc (c : Core) (k : BitVec 2) (a : Acc) : Core := { c with acc := c.acc.set k.toNat a k.isLt }

/-- An accumulator. -/
def Core.accAt (c : Core) (k : BitVec 2) : Acc := c.acc[k.toNat]'(k.isLt)

/-- A tile as ACCZ leaves it (R159). -/
def Acc.cleared (a : Acc) (t : BitVec 16) : Acc :=
  ⟨Vector.replicate 1024 0, if a.fp32 then 0 else t, a.fp32, 0, false, 0⟩

/-- A hand-over with a tile completes: the twin's accumulator takes all that the source holds, the source is cleared, and the twin holds the licence (R164). -/
def State.migrate (s : State) (q : Nat) : State :=
  match (s.quernAt q).hand with
  | none => s
  | some h =>
    let from' := if h.toRunner then q else q + 65536
    let to' := if h.toRunner then q + 65536 else q
    let a := s.coreAt from'
    let b := s.coreAt to'
    let s := s.setCoreAt to' (b.setAcc h.dst (a.accAt h.src))
    let s := s.setCoreAt from' (a.setAcc h.src ((a.accAt h.src).cleared 0))
    s.setQuernAt q (((s.quernAt q).stamp s.cycle).give h.toRunner s.cycle)

/-- A tile that migrates from this core. -/
def Quern.sends (q : Quern) (runner : Bool) : Bool := q.hand.any fun h => h.toRunner != runner

/-- A migrating MXFR of a core completes: before another context of it issues, and before a handler's first instruction (R20, R94, R168, R203). -/
def State.migrateFrom (s : State) (k : Nat) : State :=
  if (s.quernAt (quernOf k)).sends (isRunner k) then s.migrate (quernOf k) else s

/-- Take a trap in a core: a migrating MXFR completes first (R94, R203, R211). -/
def State.takeAt (s : State) (k : Nat) (t : Trap) (word : Word) : State :=
  let s := s.migrateFrom k
  s.setCoreAt k ((s.coreAt k).takeTrap t word)

/-- Take a trap in the core in focus, at the instruction that it runs (R211). -/
def State.take (s : State) (t : Trap) : State := s.takeAt s.cur t s.core.fetchWord

/-- Issue an instruction whose effect lies in its core. False-guarded, it only passes (R75); a trap is taken with nothing written (R94). -/
def issue (p : Pred) (f : Core → Except Trap Core) (s : State) : Out :=
  if s.core.regs.guard p then
    match f s.core with
    | .ok c => .next (s.setCore c)
    | .error t => .next (s.take t)
  else .next (s.setCore s.core.adv)

/-- Issue an instruction whose effect reaches beyond its core. -/
def issueS (p : Pred) (f : State → Except Trap State) (s : State) : Out :=
  if s.core.regs.guard p then
    match f s with
    | .ok t => .next t
    | .error t => .next (s.take t)
  else .next (s.setCore s.core.adv)

end Sys2Proof.Machine
end

