-- ==== Sys2Proof/Machine/Scalar.lean ====
section
/-! DEFINITION. Scalar arithmetic, moves, compares, guard logic and scalar floating point: OP 0x01 to 0x09 (R91 to R93, R98 to R107). -/
namespace Sys2Proof.Machine

/-! ### Shapes -/

/-- A scalar result of two registers, poisoned when either is (R92, R98). -/
def Core.alu2 (d a b : Reg) (f : Word → Word → Word) (c : Core) : Except Trap Core :=
  let r := c.regs
  .ok (c.setRegs ((r.result d (r.psn a || r.psn b) (f (r.rdS a) (r.rdS b)) 0).adv))

/-- A scalar result of one register, poisoned when it is. -/
def Core.alu1 (d a : Reg) (f : Word → Word) (c : Core) : Except Trap Core :=
  let r := c.regs
  .ok (c.setRegs ((r.result d (r.psn a) (f (r.rdS a)) 0).adv))

/-- A scalar written with value and poison bit as given; PSN is set when a poisoned value was read (R92). -/
def Core.copyS (d : Reg) (x : Word) (p : Bool) (c : Core) : Except Trap Core :=
  .ok (c.setRegs (((c.regs.wrS d x p).flag (psnFlag p)).adv))

/-- A compare of two scalars into guards; a poisoned source traps (R93, R103). -/
def Core.compare (gd : GDst) (srcs : List Reg) (f : Regs → Bool) (c : Core) : Except Trap Core :=
  match psnUse c.regs srcs with
  | .error t => .error t
  | .ok () => .ok (c.setRegs ((c.regs.setGuards gd (f c.regs)).adv))

/-- A floating-point result of scalar sources, with its flags (R92, R106). -/
def Core.fpResult (d : Reg) (srcs : List Reg) (f : Regs → FRes) (c : Core) : Except Trap Core :=
  let r := c.regs
  let x := f r
  .ok (c.setRegs ((r.result d (srcs.any fun i => r.psn i) x.bits x.flags).adv))

/-- The value of a scalar operand of a floating-point type (R91). -/
def Regs.rdF (r : Regs) (ty : Ty) (i : Reg) : FVal := ty.unpack (r.rdS i)

/-- A floating-point compare into guards with its IOE rule (R104). -/
def Core.fcompare (gd : GDst) (a b : Reg) (ty : Ty) (f : FVal → FVal → Bool) (anyNan : Bool) (c : Core) : Except Trap Core :=
  match psnUse c.regs [a, b] with
  | .error t => .error t
  | .ok () =>
    let x := c.regs.rdF ty a
    let y := c.regs.rdF ty b
    let bad := if anyNan then x.isNan || y.isNan else x.isSnan || y.isSnan
    .ok (c.setRegs (((c.regs.setGuards gd (f x y)).flag (if bad then fIOE else 0)).adv))

/-- Guard logic: a condition of the guards into two guards (R105). -/
def Core.guards (gd : GDst) (f : Regs → Bool) (c : Core) : Except Trap Core :=
  .ok (c.setRegs ((c.regs.setGuards gd (f c.regs)).adv))

/-- SignExt(IMM32, 32) (R99). -/
def sext32 (im : BitVec 32) : Word := im.signExtend 64

/-- The shift count of a register form: b[5:0] (R98). -/
def shiftCount (b : Word) : Nat := (b.extractLsb' 0 6).toNat

/-! ### Values -/

/-- The smaller, signed (R98). -/
def minS (a b : Word) : Word := if b.slt a then b else a
/-- The larger, signed (R98). -/
def maxS (a b : Word) : Word := if a.slt b then b else a
/-- The smaller, unsigned (R98). -/
def minU (a b : Word) : Word := if b.ult a then b else a
/-- The larger, unsigned (R98). -/
def maxU (a b : Word) : Word := if a.ult b then b else a

/-- High half of the signed product (R100). -/
def mulHi (a b : Word) : Word := BitVec.ofInt 64 (a.toInt * b.toInt / 2 ^ 64)
/-- High half of the unsigned product (R100). -/
def mulHiU (a b : Word) : Word := BitVec.ofNat 64 (a.toNat * b.toNat / 2 ^ 64)

/-- Signed quotient with the edge cases of R100. -/
def divS (a b : Word) : Word := if b = 0 then BitVec.allOnes 64 else BitVec.ofInt 64 (a.toInt.tdiv b.toInt)
/-- Unsigned quotient with the edge case of R100. -/
def divU (a b : Word) : Word := if b = 0 then BitVec.allOnes 64 else a.udiv b
/-- Signed remainder with the edge cases of R100. -/
def remS (a b : Word) : Word := if b = 0 then a else BitVec.ofInt 64 (a.toInt.tmod b.toInt)
/-- Unsigned remainder with the edge case of R100. -/
def remU (a b : Word) : Word := if b = 0 then a else a.umod b

/-- Leading zeros among the low `n` bits (R101). -/
def clzGo (a : Word) : Nat → Nat
  | 0 => 0
  | n + 1 => if a.getLsbD n then 0 else clzGo a n + 1

/-- CLZ (R101). -/
def clz (a : Word) : Word := BitVec.ofNat 64 (clzGo a 64)

/-- Trailing zeros from bit `64 - n` upward (R101). -/
def ctzGo (a : Word) : Nat → Nat
  | 0 => 0
  | n + 1 => if a.getLsbD (63 - n) then 0 else ctzGo a n + 1

/-- CTZ (R101). -/
def ctz (a : Word) : Word := BitVec.ofNat 64 (ctzGo a 64)

/-- Ones among the low `n` bits (R101). -/
def popGo (a : Word) : Nat → Nat
  | 0 => 0
  | n + 1 => (if a.getLsbD n then 1 else 0) + popGo a n

/-- POPC (R101). -/
def popc (a : Word) : Word := BitVec.ofNat 64 (popGo a 64)

/-- The position and width fields of BEXT and BINS (R101). -/
def fieldPos (b : Word) : Nat := (b.extractLsb' 0 6).toNat
/-- The width field of BEXT and BINS (R101). -/
def fieldWidth (b : Word) : Nat := (b.extractLsb' 8 7).toNat

/-- BEXT (R101). -/
def bext (a b : Word) : Word := BitVec.ofNat 64 (a.toNat / 2 ^ fieldPos b % 2 ^ fieldWidth b)

/-- A mask of the bits p to min(p + w, 64) - 1. -/
def fieldMask (p w : Nat) : Word := BitVec.ofNat 64 ((2 ^ w - 1) * 2 ^ p)

/-- BINS (R101). -/
def bins (old a b : Word) : Word :=
  let m := fieldMask (fieldPos b) (fieldWidth b)
  (old &&& ~~~m) ||| ((a <<< fieldPos b) &&& m)

/-! ### Meanings -/

/-- ADD (R98). -/
def execAdd (p : Pred) (d a b : Reg) (s : State) : Out :=
  issue p (Core.alu2 d a b (fun x y => x + y)) s

/-- SUB (R98). -/
def execSub (p : Pred) (d a b : Reg) (s : State) : Out :=
  issue p (Core.alu2 d a b (fun x y => x - y)) s

/-- AND (R98). -/
def execAnd (p : Pred) (d a b : Reg) (s : State) : Out :=
  issue p (Core.alu2 d a b (fun x y => x &&& y)) s

/-- OR (R98). -/
def execOr (p : Pred) (d a b : Reg) (s : State) : Out :=
  issue p (Core.alu2 d a b (fun x y => x ||| y)) s

/-- XOR (R98). -/
def execXor (p : Pred) (d a b : Reg) (s : State) : Out :=
  issue p (Core.alu2 d a b (fun x y => x ^^^ y)) s

/-- ANDN (R98). -/
def execAndn (p : Pred) (d a b : Reg) (s : State) : Out :=
  issue p (Core.alu2 d a b (fun x y => x &&& ~~~y)) s

/-- SHL (R98). -/
def execShl (p : Pred) (d a b : Reg) (s : State) : Out :=
  issue p (Core.alu2 d a b (fun x y => x <<< shiftCount y)) s

/-- SHR (R98). -/
def execShr (p : Pred) (d a b : Reg) (s : State) : Out :=
  issue p (Core.alu2 d a b (fun x y => x >>> shiftCount y)) s

/-- SRA (R98). -/
def execSra (p : Pred) (d a b : Reg) (s : State) : Out :=
  issue p (Core.alu2 d a b (fun x y => x.sshiftRight (shiftCount y))) s

/-- ROR (R98). -/
def execRor (p : Pred) (d a b : Reg) (s : State) : Out :=
  issue p (Core.alu2 d a b (fun x y => x.rotateRight (shiftCount y))) s

/-- MIN (R98). -/
def execMin (p : Pred) (d a b : Reg) (s : State) : Out :=
  issue p (Core.alu2 d a b minS) s

/-- MAX (R98). -/
def execMax (p : Pred) (d a b : Reg) (s : State) : Out :=
  issue p (Core.alu2 d a b maxS) s

/-- MINN (R98). -/
def execMinn (p : Pred) (d a b : Reg) (s : State) : Out :=
  issue p (Core.alu2 d a b minU) s

/-- MAXN (R98). -/
def execMaxn (p : Pred) (d a b : Reg) (s : State) : Out :=
  issue p (Core.alu2 d a b maxU) s

/-- ADDI (R99). -/
def execAddi (p : Pred) (d a : Reg) (im : BitVec 32) (s : State) : Out :=
  issue p (Core.alu1 d a fun x => x + sext32 im) s

/-- ANDI (R99). -/
def execAndi (p : Pred) (d a : Reg) (im : BitVec 32) (s : State) : Out :=
  issue p (Core.alu1 d a fun x => x &&& sext32 im) s

/-- ORI (R99). -/
def execOri (p : Pred) (d a : Reg) (im : BitVec 32) (s : State) : Out :=
  issue p (Core.alu1 d a fun x => x ||| sext32 im) s

/-- XORI (R99). -/
def execXori (p : Pred) (d a : Reg) (im : BitVec 32) (s : State) : Out :=
  issue p (Core.alu1 d a fun x => x ^^^ sext32 im) s

/-- SHLI (R99). -/
def execShli (p : Pred) (d a : Reg) (k : BitVec 6) (s : State) : Out :=
  issue p (Core.alu1 d a fun x => x <<< k.toNat) s

/-- SHRI (R99). -/
def execShri (p : Pred) (d a : Reg) (k : BitVec 6) (s : State) : Out :=
  issue p (Core.alu1 d a fun x => x >>> k.toNat) s

/-- SRAI (R99). -/
def execSrai (p : Pred) (d a : Reg) (k : BitVec 6) (s : State) : Out :=
  issue p (Core.alu1 d a fun x => x.sshiftRight k.toNat) s

/-- MUL (R100). -/
def execMul (p : Pred) (d a b : Reg) (s : State) : Out :=
  issue p (Core.alu2 d a b (fun x y => x * y)) s

/-- MULH (R100). -/
def execMulh (p : Pred) (d a b : Reg) (s : State) : Out :=
  issue p (Core.alu2 d a b mulHi) s

/-- MULHN (R100). -/
def execMulhn (p : Pred) (d a b : Reg) (s : State) : Out :=
  issue p (Core.alu2 d a b mulHiU) s

/-- DIV (R100). -/
def execDiv (p : Pred) (d a b : Reg) (s : State) : Out :=
  issue p (Core.alu2 d a b divS) s

/-- DIVN (R100). -/
def execDivn (p : Pred) (d a b : Reg) (s : State) : Out :=
  issue p (Core.alu2 d a b divU) s

/-- REM (R100). -/
def execRem (p : Pred) (d a b : Reg) (s : State) : Out :=
  issue p (Core.alu2 d a b remS) s

/-- REMN (R100). -/
def execRemn (p : Pred) (d a b : Reg) (s : State) : Out :=
  issue p (Core.alu2 d a b remU) s

/-- CMP.EQ (R103). -/
def execCmpEq (p : Pred) (gd : GDst) (a b : Reg) (s : State) : Out :=
  issue p (Core.compare gd [a, b] fun r => (r.rdS a) == (r.rdS b)) s

/-- CMP.NE (R103). -/
def execCmpNe (p : Pred) (gd : GDst) (a b : Reg) (s : State) : Out :=
  issue p (Core.compare gd [a, b] fun r => (r.rdS a) != (r.rdS b)) s

/-- CMP.LT (R103). -/
def execCmpLt (p : Pred) (gd : GDst) (a b : Reg) (s : State) : Out :=
  issue p (Core.compare gd [a, b] fun r => (r.rdS a).slt (r.rdS b)) s

/-- CMP.GE (R103). -/
def execCmpGe (p : Pred) (gd : GDst) (a b : Reg) (s : State) : Out :=
  issue p (Core.compare gd [a, b] fun r => !(r.rdS a).slt (r.rdS b)) s

/-- CMP.LO (R103). -/
def execCmpLo (p : Pred) (gd : GDst) (a b : Reg) (s : State) : Out :=
  issue p (Core.compare gd [a, b] fun r => (r.rdS a).ult (r.rdS b)) s

/-- CMP.HS (R103). -/
def execCmpHs (p : Pred) (gd : GDst) (a b : Reg) (s : State) : Out :=
  issue p (Core.compare gd [a, b] fun r => !(r.rdS a).ult (r.rdS b)) s

/-- CMPI.EQ (R103). -/
def execCmpiEq (p : Pred) (gd : GDst) (a : Reg) (im : BitVec 32) (s : State) : Out :=
  issue p (Core.compare gd [a] fun r => (r.rdS a) == (sext32 im)) s

/-- CMPI.NE (R103). -/
def execCmpiNe (p : Pred) (gd : GDst) (a : Reg) (im : BitVec 32) (s : State) : Out :=
  issue p (Core.compare gd [a] fun r => (r.rdS a) != (sext32 im)) s

/-- CMPI.LT (R103). -/
def execCmpiLt (p : Pred) (gd : GDst) (a : Reg) (im : BitVec 32) (s : State) : Out :=
  issue p (Core.compare gd [a] fun r => (r.rdS a).slt (sext32 im)) s

/-- CMPI.GE (R103). -/
def execCmpiGe (p : Pred) (gd : GDst) (a : Reg) (im : BitVec 32) (s : State) : Out :=
  issue p (Core.compare gd [a] fun r => !(r.rdS a).slt (sext32 im)) s

/-- CMPI.LO (R103). -/
def execCmpiLo (p : Pred) (gd : GDst) (a : Reg) (im : BitVec 32) (s : State) : Out :=
  issue p (Core.compare gd [a] fun r => (r.rdS a).ult (sext32 im)) s

/-- CMPI.HS (R103). -/
def execCmpiHs (p : Pred) (gd : GDst) (a : Reg) (im : BitVec 32) (s : State) : Out :=
  issue p (Core.compare gd [a] fun r => !(r.rdS a).ult (sext32 im)) s

/-- FCMP.EQ (R104). -/
def execFcmpEq (p : Pred) (gd : GDst) (a b : Reg) (ty : Ty) (s : State) : Out :=
  issue p (Core.fcompare gd a b ty FVal.eq false) s

/-- FCMP.LT (R104). -/
def execFcmpLt (p : Pred) (gd : GDst) (a b : Reg) (ty : Ty) (s : State) : Out :=
  issue p (Core.fcompare gd a b ty FVal.lt true) s

/-- FCMP.LE (R104). -/
def execFcmpLe (p : Pred) (gd : GDst) (a b : Reg) (ty : Ty) (s : State) : Out :=
  issue p (Core.fcompare gd a b ty (fun x y => x.lt y || x.eq y) true) s

/-- FCMP.UN (R104). -/
def execFcmpUn (p : Pred) (gd : GDst) (a b : Reg) (ty : Ty) (s : State) : Out :=
  issue p (Core.fcompare gd a b ty (fun x y => x.isNan || y.isNan) false) s

/-- GAND (R105). -/
def execGand (p : Pred) (gd : GDst) (a b : BitVec 3) (s : State) : Out :=
  issue p (Core.guards gd fun r => r.rdG a && r.rdG b) s

/-- GOR (R105). -/
def execGor (p : Pred) (gd : GDst) (a b : BitVec 3) (s : State) : Out :=
  issue p (Core.guards gd fun r => r.rdG a || r.rdG b) s

/-- GXOR (R105). -/
def execGxor (p : Pred) (gd : GDst) (a b : BitVec 3) (s : State) : Out :=
  issue p (Core.guards gd fun r => r.rdG a != r.rdG b) s

/-- GANDN (R105). -/
def execGandn (p : Pred) (gd : GDst) (a b : BitVec 3) (s : State) : Out :=
  issue p (Core.guards gd fun r => r.rdG a && !r.rdG b) s

/-- GSET (R105). -/
def execGset (p : Pred) (gd : GDst) (v : BitVec 1) (s : State) : Out :=
  issue p (Core.guards gd fun _ => v == 1#1) s

/-- GRD (R105). -/
def execGrd (p : Pred) (d : Reg) (s : State) : Out :=
  issue p (fun c => Core.copyS d ((setBit c.regs.g 0 true).setWidth 64) false c) s

/-- FADD (R106). -/
def execFadd (p : Pred) (d a b : Reg) (ty : Ty) (rm : Rz) (s : State) : Out :=
  issue p (Core.fpResult d [a, b] fun r => ty.fadd rm.mode (r.rdF ty a) (r.rdF ty b)) s

/-- FSUB (R106). -/
def execFsub (p : Pred) (d a b : Reg) (ty : Ty) (rm : Rz) (s : State) : Out :=
  issue p (Core.fpResult d [a, b] fun r => ty.fadd rm.mode (r.rdF ty a) (r.rdF ty b).neg) s

/-- FMUL (R106). -/
def execFmul (p : Pred) (d a b : Reg) (ty : Ty) (rm : Rz) (s : State) : Out :=
  issue p (Core.fpResult d [a, b] fun r => ty.fmul rm.mode (r.rdF ty a) (r.rdF ty b)) s

/-- FDIV (R106). -/
def execFdiv (p : Pred) (d a b : Reg) (ty : Ty) (rm : Rz) (s : State) : Out :=
  issue p (Core.fpResult d [a, b] fun r => ty.fdiv rm.mode (r.rdF ty a) (r.rdF ty b)) s

/-- FSQRT (R106). -/
def execFsqrt (p : Pred) (d a : Reg) (ty : Ty) (rm : Rz) (s : State) : Out :=
  issue p (Core.fpResult d [a] fun r => ty.fsqrt rm.mode (r.rdF ty a)) s

/-- FMA (R106). -/
def execFma (p : Pred) (d a b x : Reg) (ty : Ty) (rm : Rz) (s : State) : Out :=
  issue p (Core.fpResult d [a, b, x] fun r => ty.fma rm.mode (r.rdF ty a) (r.rdF ty b) (r.rdF ty x)) s

/-- FMIN. The result is one of the operands, so RM has no effect (R106). -/
def execFmin (p : Pred) (d a b : Reg) (ty : Ty) (_rm : Rz) (s : State) : Out :=
  issue p (Core.fpResult d [a, b] fun r => ty.fminmax false (ty.low (r.rdS a)) (ty.low (r.rdS b))) s

/-- FMAX. The result is one of the operands, so RM has no effect (R106). -/
def execFmax (p : Pred) (d a b : Reg) (ty : Ty) (_rm : Rz) (s : State) : Out :=
  issue p (Core.fpResult d [a, b] fun r => ty.fminmax true (ty.low (r.rdS a)) (ty.low (r.rdS b))) s

/-- CVT (R107). -/
def execCvt (p : Pred) (d a : Reg) (ty ty2 : Ty) (rnd : Rnd) (s : State) : Out :=
  issue p (Core.fpResult d (a :: rnd.srcs) fun r =>
    let x := convLane ty ty2 (rnd.mode (r.rdS rnd.seed) 0) (ty2.low (r.rdS a))
    ⟨ty.extend x.bits, x.flags⟩) s

/-- CLZ (R101). -/
def execClz (p : Pred) (d a : Reg) (s : State) : Out :=
  issue p (Core.alu1 d a clz) s

/-- CTZ (R101). -/
def execCtz (p : Pred) (d a : Reg) (s : State) : Out :=
  issue p (Core.alu1 d a ctz) s

/-- POPC (R101). -/
def execPopc (p : Pred) (d a : Reg) (s : State) : Out :=
  issue p (Core.alu1 d a popc) s

/-- BEXT (R101). -/
def execBext (p : Pred) (d a b : Reg) (s : State) : Out :=
  issue p (Core.alu2 d a b bext) s

/-- BINS, which also reads D (R101). -/
def execBins (p : Pred) (d a b : Reg) (s : State) : Out :=
  issue p (fun c =>
    let r := c.regs
    .ok (c.setRegs ((r.result d (r.psn d || r.psn a || r.psn b) (bins (r.rdS d) (r.rdS a) (r.rdS b)) 0).adv))) s

/-- MOV (R102). -/
def execMov (p : Pred) (d a : Reg) (s : State) : Out :=
  issue p (fun c => Core.copyS d (c.regs.rdS a) (c.regs.psn a) c) s

/-- SEL, which counts only the source it selects (R92, R102). -/
def execSel (p : Pred) (d a b : Reg) (k : BitVec 3) (s : State) : Out :=
  issue p (fun c =>
    let i := if c.regs.rdG k then a else b
    Core.copyS d (c.regs.rdS i) (c.regs.psn i) c) s

/-- MOVI (R102). -/
def execMovi (p : Pred) (d : Reg) (im : BitVec 32) (s : State) : Out :=
  issue p (Core.copyS d (sext32 im) false) s

/-- MOVIH (R102). -/
def execMovih (p : Pred) (d : Reg) (im : BitVec 32) (s : State) : Out :=
  issue p (fun c => Core.copyS d (im ++ (c.regs.rdS d).extractLsb' 0 32) (c.regs.psn d) c) s

/-- ADR (R102). -/
def execAdr (p : Pred) (d : Reg) (im : BitVec 32) (s : State) : Out :=
  issue p (fun c => Core.copyS d (c.regs.pc.setWidth 64 + sext32 im) false c) s

end Sys2Proof.Machine
end

