-- ==== Sys2Proof/Machine/LocalMem.lean ====
section
/-! DEFINITION. Loads, stores and atomics of local store, branches, jumps, calls and the counted loop: OP 0x10 to 0x12, 0x18 and 0x19 (R108 to R116). -/
namespace Sys2Proof.Machine

/-- ea = s[A] + SignExt(IMM32, 32), an unbounded sum (R108). -/
def Regs.ea (r : Regs) (a : Reg) (im : BitVec 32) : Int := (r.rdS a).toNat + im.toInt

/-- The checks of a scalar read of `n` bytes, in the order of R108. -/
def Core.checkRead (c : Core) (ea : Int) (n : Nat) : Except Trap Unit :=
  if !c.mayRead ea n then .error ⟨.badaddr, infoAddr ea⟩
  else if ea % n ≠ 0 then .error ⟨.misaln, infoAddr ea⟩
  else .ok ()

/-- The checks of a scalar write of `n` bytes, in the order of R108. -/
def Core.checkWrite (c : Core) (ea : Int) (n : Nat) : Except Trap Unit :=
  if !c.mayWrite ea n then .error ⟨.badaddr, infoAddr ea⟩
  else if ea % n ≠ 0 then .error ⟨.misaln, infoAddr ea⟩
  else .ok ()

/-- The value a load of a type gives: sign- or zero-extended (R108). -/
def Core.loadVal (c : Core) (ea n : Nat) (sx : Bool) : Word :=
  let x := c.rdNat ea n
  if sx && decide (x ≥ 2 ^ (8 * n - 1)) then BitVec.ofInt 64 ((x : Int) - 2 ^ (8 * n)) else BitVec.ofNat 64 x

/-- A load of `n` bytes (R108, R110, R112): a marked word gives the bytes as read with the poison bit. -/
def Core.load (d a : Reg) (im : BitVec 32) (n : Nat) (sx : Bool) (c : Core) : Except Trap Core :=
  match psnUse c.regs [a] with
  | .error t => .error t
  | .ok () =>
    let ea := c.regs.ea a im
    match c.checkRead ea n with
    | .error t => .error t
    | .ok () => c.copyS d (c.loadVal ea.toNat n sx) (c.anyMarked ea.toNat n)

/-- A store of the low `n` bytes of s[D] (R108, R111, R112). -/
def Core.storeS (d a : Reg) (im : BitVec 32) (n : Nat) (c : Core) : Except Trap Core :=
  match psnUse c.regs [a] with
  | .error t => .error t
  | .ok () =>
    let ea := c.regs.ea a im
    match c.checkWrite ea n with
    | .error t => .error t
    | .ok () =>
      let p := c.regs.psn d
      .ok ((c.store ea.toNat n (natBytes (c.regs.rdS d).toNat n) p).modRegs fun r => (r.flag (psnFlag p)).adv)

/-- The new value of the atomic step of R113 on operands of a type; `k` is FN[2:0]. -/
def amNew (k : BitVec 3) (ty : Ty) (old b cmp : BitVec 64) : BitVec 64 :=
  match k.toNat with
  | 0 => ty.low (old + b)
  | 1 => old &&& b
  | 2 => old ||| b
  | 3 => old ^^^ b
  | 4 => if ty.value b < ty.value old then b else old
  | 5 => if ty.value old < ty.value b then b else old
  | 6 => b
  | _ => if old = cmp then b else old

/-- The atomic step on the bytes of local store at a checked address, by an instruction of the core; `p` says that an operand is poisoned (R113). -/
def Core.amWrite (c : Core) (ea n : Nat) (old new : BitVec 64) (p : Bool) : Core :=
  if p then c.store ea n (natBytes 0 n) true
  else if new ≠ old ∨ n = 8 then c.store ea n (natBytes new.toNat n) false
  else c

/-- A local atomic (R113). `cs` is the compare register of CAS. -/
def Core.atomic (k : BitVec 3) (d a b : Reg) (cs : List Reg) (ty : Ty) (c : Core) : Except Trap Core :=
  match psnUse c.regs [a] with
  | .error t => .error t
  | .ok () =>
    let n := ty.width / 8
    let ea : Int := (c.regs.rdS a).toNat
    match c.checkWrite ea n with
    | .error t => .error t
    | .ok () =>
      let r := c.regs
      let old := BitVec.ofNat 64 (c.rdNat ea.toNat n)
      let cmp := match cs with
        | x :: _ => ty.low (r.rdS x)
        | [] => 0
      let p := (b :: cs).any fun i => r.psn i
      let dp := c.anyMarked ea.toNat n
      let c := c.amWrite ea.toNat n old (amNew k ty old (ty.low (r.rdS b)) cmp) p
      .ok (c.modRegs fun r => ((r.wrS d (ty.extend old) dp).flag (psnFlag (dp || p))).adv)

/-- PC + 8 * SignExt(IMM32, 32) (R114). -/
def Core.branchTarget (c : Core) (im : BitVec 32) : Int := c.regs.pc.toNat + 8 * im.toInt

/-- PC + 8, as a link value. -/
def Core.linkVal (c : Core) : Word := c.regs.pc.setWidth 64 + 8#64

/-- CALL and CALLR push the return address; of 4 entries the oldest is lost (R97). -/
def Core.pushRet (c : Core) (x : Word) : Core := c.setCtx { c.ctx with rstack := (x :: c.ctx.rstack).take 4 }

/-- RET pops the top entry of the return stack (R97). -/
def Core.popRet (c : Core) : Core := c.setCtx { c.ctx with rstack := c.ctx.rstack.drop 1 }

/-- Transfer control and, for a call, write s31 with the return address (R114, R115). -/
def Core.transfer (t : Int) (link : Bool) (c : Core) : Except Trap Core :=
  match c.jumpTo t with
  | .error e => .error e
  | .ok c' => .ok (if link then (c'.modRegs fun r => r.wrS 31 c.linkVal false).pushRet c.linkVal else c')

/-- A transfer to the address in a register; a poisoned one traps (R115). -/
def Core.transferReg (a : Reg) (link : Bool) (c : Core) : Except Trap Core :=
  match psnUse c.regs [a] with
  | .error t => .error t
  | .ok () => c.transfer (c.regs.rdS a).toNat link

/-- LOOP (R116): the transfer is checked before the count is written. -/
def Core.loopS (a : Reg) (im : BitVec 32) (c : Core) : Except Trap Core :=
  if a = 0#5 then .ok c.adv
  else
    match psnUse c.regs [a] with
    | .error t => .error t
    | .ok () =>
      let t := c.regs.rdS a - 1#64
      if t = 0#64 then .ok (c.modRegs fun r => (r.wrS a t false).adv)
      else
        match c.transfer (c.branchTarget im) false with
        | .error e => .error e
        | .ok c' => .ok (c'.modRegs fun r => r.wrS a t false)

/-- LD.I8 (R108). -/
def execLdI8 (p : Pred) (d a : Reg) (im : BitVec 32) (s : State) : Out :=
  issue p (Core.load d a im 1 true) s

/-- LD.I16 (R108). -/
def execLdI16 (p : Pred) (d a : Reg) (im : BitVec 32) (s : State) : Out :=
  issue p (Core.load d a im 2 true) s

/-- LD.I32 (R108). -/
def execLdI32 (p : Pred) (d a : Reg) (im : BitVec 32) (s : State) : Out :=
  issue p (Core.load d a im 4 true) s

/-- LD.I64 (R108). -/
def execLdI64 (p : Pred) (d a : Reg) (im : BitVec 32) (s : State) : Out :=
  issue p (Core.load d a im 8 false) s

/-- LD.N8 (R108). -/
def execLdN8 (p : Pred) (d a : Reg) (im : BitVec 32) (s : State) : Out :=
  issue p (Core.load d a im 1 false) s

/-- LD.N16 (R108). -/
def execLdN16 (p : Pred) (d a : Reg) (im : BitVec 32) (s : State) : Out :=
  issue p (Core.load d a im 2 false) s

/-- LD.N32 (R108). -/
def execLdN32 (p : Pred) (d a : Reg) (im : BitVec 32) (s : State) : Out :=
  issue p (Core.load d a im 4 false) s

/-- ST.I8 (R108). -/
def execStI8 (p : Pred) (d a : Reg) (im : BitVec 32) (s : State) : Out :=
  issue p (Core.storeS d a im 1) s

/-- ST.I16 (R108). -/
def execStI16 (p : Pred) (d a : Reg) (im : BitVec 32) (s : State) : Out :=
  issue p (Core.storeS d a im 2) s

/-- ST.I32 (R108). -/
def execStI32 (p : Pred) (d a : Reg) (im : BitVec 32) (s : State) : Out :=
  issue p (Core.storeS d a im 4) s

/-- ST.I64 (R108). -/
def execStI64 (p : Pred) (d a : Reg) (im : BitVec 32) (s : State) : Out :=
  issue p (Core.storeS d a im 8) s

/-- AM.ADD (R113). -/
def execAmAdd (p : Pred) (d a b : Reg) (ty : Ty) (s : State) : Out :=
  issue p (Core.atomic 0 d a b [] ty) s

/-- AM.AND (R113). -/
def execAmAnd (p : Pred) (d a b : Reg) (ty : Ty) (s : State) : Out :=
  issue p (Core.atomic 1 d a b [] ty) s

/-- AM.OR (R113). -/
def execAmOr (p : Pred) (d a b : Reg) (ty : Ty) (s : State) : Out :=
  issue p (Core.atomic 2 d a b [] ty) s

/-- AM.XOR (R113). -/
def execAmXor (p : Pred) (d a b : Reg) (ty : Ty) (s : State) : Out :=
  issue p (Core.atomic 3 d a b [] ty) s

/-- AM.MIN (R113). -/
def execAmMin (p : Pred) (d a b : Reg) (ty : Ty) (s : State) : Out :=
  issue p (Core.atomic 4 d a b [] ty) s

/-- AM.MAX (R113). -/
def execAmMax (p : Pred) (d a b : Reg) (ty : Ty) (s : State) : Out :=
  issue p (Core.atomic 5 d a b [] ty) s

/-- AM.SWP (R113). -/
def execAmSwp (p : Pred) (d a b : Reg) (ty : Ty) (s : State) : Out :=
  issue p (Core.atomic 6 d a b [] ty) s

/-- AM.CAS (R113). -/
def execAmCas (p : Pred) (d a b x : Reg) (ty : Ty) (s : State) : Out :=
  issue p (Core.atomic 7 d a b [x] ty) s

/-- BR (R114). -/
def execBr (p : Pred) (im : BitVec 32) (s : State) : Out :=
  issue p (fun c => c.transfer (c.branchTarget im) false) s

/-- CALL (R114). -/
def execCall (p : Pred) (im : BitVec 32) (s : State) : Out :=
  issue p (fun c => c.transfer (c.branchTarget im) true) s

/-- JMP (R114). -/
def execJmp (p : Pred) (a : Reg) (s : State) : Out :=
  issue p (Core.transferReg a false) s

/-- CALLR (R114). -/
def execCallr (p : Pred) (a : Reg) (s : State) : Out :=
  issue p (Core.transferReg a true) s

/-- RET, which differs from JMP only in timing (R114). -/
def execRet (p : Pred) (a : Reg) (s : State) : Out :=
  issue p (fun c => (Core.transferReg a false c).map Core.popRet) s

/-- LOOP (R116). -/
def execLoop (p : Pred) (a : Reg) (im : BitVec 32) (s : State) : Out :=
  issue p (Core.loopS a im) s

end Sys2Proof.Machine
end

