-- ==== Sys2Proof/Machine/Operands.lean ====
section
/-! DEFINITION. The vector operands: lanes, blocks and their poison (R120 to R123), lane masks (R122), feed-queue operands (R124, R125) and the channel-binding records (R227). -/
namespace Sys2Proof.Machine

/-! ### Channel bindings (R227) -/

/-- PRIO of a channel. -/
def Core.chPrio (c : Core) (ch : Nat) : BitVec 3 := (c.bindWord ch 0).extractLsb' 8 3

/-- The pinned context of a channel. -/
def Core.chCtx (c : Core) (ch : Nat) : BitVec 2 := (c.bindWord ch 0).extractLsb' 12 2

/-- PIN of a channel. -/
def Core.chPin (c : Core) (ch : Nat) : Bool := (c.bindWord ch 0).getLsbD 14

/-- X of a channel. -/
def Core.chX (c : Core) (ch : Nat) : Bool := (c.bindWord ch 0).getLsbD 15

/-- The task entry of a channel. -/
def Core.chEntry (c : Core) (ch : Nat) : LAddr := (c.bindWord ch 0).extractLsb' 20 17 ++ 0#3

/-- DESC of a channel. -/
def Core.chDesc (c : Core) (ch : Nat) : Word := c.bindWord ch 1

/-- The FEED channel that fills a queue of a context, if any. -/
def Core.feedChannel (c : Core) (ctx : BitVec 2) (q : BitVec 1) : Option Nat :=
  channels.find? fun ch => c.bound ch && c.chMode ch == 3#2 && c.chCtx ch == ctx && (c.chDesc ch).extractLsb' 0 1 == q

/-! ### Vector values and their poison (R123) -/

/-- The contents of a vector register or of a feed-queue entry. -/
structure VVal where
  data : VData
  side : Side
  deriving DecidableEq, Repr

/-- Header k of a side word (R14). -/
def sideHdr (s : Side) (k : Nat) : BitVec 32 := s.extractLsb' (32 * k) 32

/-- Header k replaced in a side word. -/
def setHdr (s : Side) (k : Nat) (h : BitVec 32) : Side :=
  (s &&& ~~~((0xFFFFFFFF : Side) <<< (32 * k))) ||| ((h.setWidth 128) <<< (32 * k))

/-- `n` bits of the data at a bit position, replaced. -/
def setBits (x : VData) (lo n : Nat) (y : VData) : VData :=
  let msk : VData := BitVec.ofNat 512 (2 ^ n - 1)
  (x &&& ~~~(msk <<< lo)) ||| ((y &&& msk) <<< lo)

/-- The bits that a block of an FMT code occupies; 0 for a code that is no format (R53). -/
def fmtBits (f : BitVec 4) : Nat := if f = 1#4 then 128 else if f = 2#4 then 256 else if f = 3#4 then 512 else 0

/-- Header k marks poison. -/
def VVal.bad (x : VVal) (k : Nat) : Bool := hdrE (sideHdr x.side k) == 255#8

/-- The four header positions. -/
def hdrSlots : List Nat := [0, 1, 2, 3]

/-- Some header marks poison (R123). -/
def VVal.poisoned (x : VVal) : Bool := hdrSlots.any x.bad

/-- The register is poisoned in whole (R123). -/
def VVal.whole (x : VVal) : Bool := hdrSlots.any fun k => x.bad k && fmtBits (hdrFmt (sideHdr x.side k)) == 0

/-- The origin record in data bits [lo + 127 : lo] (R64). -/
def VVal.orgAt (x : VVal) (lo : Nat) : Org := orgClean (x.data.extractLsb' lo 128)

/-- The origins of the whole register: data bits [128k + 127 : 128k] of every header k with E = 255 (R123). -/
def VVal.wholeOrgs (x : VVal) : List Org := (hdrSlots.filter x.bad).map fun k => x.orgAt (128 * k)

/-- The origins of the poison that meets data bits [lo, lo + n) (R123). -/
def VVal.poisonAt (x : VVal) (lo n : Nat) : List Org :=
  if x.whole then x.wholeOrgs
  else
    hdrSlots.filterMap fun k =>
      let w := fmtBits (hdrFmt (sideHdr x.side k))
      if x.bad k && decide (w * k < lo + n) && decide (lo < w * k + w) && decide (w * k < 512) then some (x.orgAt (w * k)) else none

/-- The origins of all poison in the register. -/
def VVal.poisonAll (x : VVal) : List Org := x.poisonAt 0 512

/-- Lane i of a width (R13). -/
def VVal.lane (x : VVal) (w i : Nat) : BitVec 64 := (x.data.extractLsb' (w * i) w).setWidth 64

/-- Block k in a format (R14). -/
def VVal.blk (x : VVal) (ty : Ty) (k : Nat) : Blk :=
  ⟨(x.data.extractLsb' (ty.blockBits * k) ty.blockBits).setWidth 512, sideHdr x.side k⟩

/-- The origins of the poison that reading block k in a format meets, a format mismatch giving `own` (R54); a register poisoned in whole gives the origins of R123 alone. -/
def VVal.blkPoison (x : VVal) (ty : Ty) (own : Org) (k : Nat) : List Org :=
  let here := x.poisonAt (ty.blockBits * k) ty.blockBits
  match (x.blk ty k).read ty with
  | .poison o => if x.whole then here else o :: here
  | .mismatch => own :: here
  | _ => here

/-- Register-wide poison (R66). -/
def poisonReg (o : Org) : VVal := ⟨(orgClean o).setWidth 512, (mkHdr 255 0 15 false false).setWidth 128⟩

/-- Data bits whose lane i of a width is `f i` (R13). -/
def ofLanes (w n : Nat) (f : Nat → BitVec 64) : VData :=
  (List.range n).foldr (fun i acc => (acc <<< w) ||| ((f i).setWidth 512 &&& BitVec.ofNat 512 (2 ^ w - 1))) 0

/-- A register of blocks of a format; the headers that the format does not use are zero (R14). -/
def ofBlks (ty : Ty) (bs : List Blk) : VVal :=
  ⟨bs.foldr (fun b (acc : VData) => (acc <<< ty.blockBits) ||| b.data) 0,
    bs.foldr (fun b (acc : Side) => (acc <<< 32) ||| b.hdr.setWidth 128) 0⟩

/-- A vector register. -/
def Regs.rdVV (r : Regs) (i : Reg) : VVal := ⟨r.rdV i, r.rdSide i⟩

/-- Write a vector register. -/
def Regs.wrVV (r : Regs) (i : Reg) (x : VVal) : Regs := r.wrV i x.data x.side

/-- Bit i of the mask of MK (R122). -/
def Regs.active (r : Regs) (l : Lane) (i : Nat) : Bool := (r.rdM l.mask).getLsbD i

/-- The origins that poisoned scalar sources contribute (R66, R123). -/
def Core.spsn (c : Core) (is : List Reg) : List Org :=
  if is.any fun i => c.regs.psn i then [c.ownOrigin .spsn] else []

/-! ### Feed queues (R124, R125, R229, R230) -/

/-- A queue of a context. -/
def Ctx.feed (x : Ctx) (q : BitVec 1) : FeedQ := if q = 0#1 then x.fq0 else x.fq1

/-- Replace a queue of a context. -/
def Ctx.setFeed (x : Ctx) (q : BitVec 1) (f : FeedQ) : Ctx := if q = 0#1 then { x with fq0 := f } else { x with fq1 := f }

/-- The lowest free number of the 256 retained-input records, if any (R229; DESIGN CHOICE: the spec names none of the free ones, log 16). -/
def Core.freeRecord (c : Core) : Option Nat :=
  (List.range 256).find? fun k => !(c.retained.any fun x => x.slot == k)

/-- A retained-input record (R229). -/
def Retained.word (x : Retained) : Word := 0#32 ++ (x.kind ++ (x.ch ++ (x.ctx ++ (0#2 ++ x.pos))))

/-- Keep a retained-input record, and write its word. -/
def Core.retain (c : Core) (x : Retained) : Core :=
  { c with retained := c.retained ++ [x] }.wrWord (0xFE800 + 8 * x.slot) x.word

/-- Take the head entry of a queue, which keeps its slot and gets a retained-input record until the window commits (R125, R229, R230). With no record free, the window closes first. -/
def Core.consume (c : Core) (q : BitVec 1) : Core :=
  let c := if c.freeRecord.isSome then c else c.commit
  let f := c.ctx.feed q
  match f.live with
  | [] => c
  | e :: es =>
    let slot := f.head + BitVec.ofNat 4 f.kept.length
    let c := match c.freeRecord with
      | some k => c.retain ⟨k, 3, BitVec.ofNat 6 ((c.feedChannel c.run q).getD 0), c.run, 0#15 ++ (slot ++ q), 0⟩
      | none => c
    c.setCtx (c.ctx.setFeed q { f with live := es, kept := (c.ctx.feed q).kept ++ [e] })

/-- The stall on an empty queue (R124): the instruction waits; a window that retains entries of the queue closes at it (R230). -/
def Core.feedStall (c : Core) (q : BitVec 1) : Core := if (c.ctx.feed q).kept.isEmpty then c else c.commit

/-- Run an instruction on its A operand: a register, or the head of a queue, which is then consumed (R124). -/
def Core.withA (c : Core) (a : VSrc) (f : VVal → Core → Except Trap Core) : Except Trap Core :=
  match a with
  | .reg i => f (c.regs.rdVV i) c
  | .fq q =>
    match (c.ctx.feed q).live with
    | [] => .ok (c.feedStall q)
    | e :: _ => f ⟨e.data, e.side⟩ (c.consume q)

/-! ### Destinations (R122, R123) -/

/-- The origins among the kept lanes of the old destination (R123). -/
def keptPoison (old : VVal) (w n : Nat) (kept : Nat → Bool) : List Org :=
  (List.range n).flatMap fun i => if kept i then old.poisonAt (w * i) w else []

/-- Write a register with a result, or with register-wide poison when an origin was met; then advance (R66, R67, R122). -/
def Core.putV (c : Core) (d : Reg) (orgs : List Org) (x : VVal) (fl : Flags) : Core :=
  match orgWinner orgs with
  | some o => c.modRegs fun r => ((r.wrVV d (poisonReg o)).flag fPSN).adv
  | none => c.modRegs fun r => ((r.wrVV d x).flag fl).adv

/-- Lane results under the mask: active lane i takes `f i`, another keeps its old data or becomes zero (R122). `orgs` holds the poison of the sources, which R67 lets through whatever the mask for a scalar, and `keep i` says that lane i keeps its old data whatever MA says. -/
def Core.putLanes (c : Core) (d : Reg) (l : Lane) (w n : Nat) (keep : Nat → Bool) (orgs : List Org) (f : Nat → FRes) : Core :=
  let r := c.regs
  let old := r.rdVV d
  let act (i : Nat) : Bool := r.active l i && !keep i
  let kept (i : Nat) : Bool := keep i || (!r.active l i && !l.ag)
  let rs := (List.range n).map fun i => if act i then f i else ⟨if kept i then old.lane w i else 0, 0⟩
  let data : VData := rs.foldr (fun x acc => (acc <<< w) ||| (x.bits.setWidth 512 &&& BitVec.ofNat 512 (2 ^ w - 1))) 0
  c.putV d (orgs ++ keptPoison old w n kept) ⟨data, 0⟩ (orFlags rs)

/-- The poison of sources that are poisoned in whole: it has no masked-off lanes (R67, R123). -/
def wholePoison (xs : List VVal) : List Org := xs.flatMap fun x => if x.whole then x.wholeOrgs else []

/-- The poison that the active lanes of several sources meet, and that of a source poisoned in whole whatever the mask (R67). -/
def lanesPoison (xs : List VVal) (w : Nat) (act : List Nat) : List Org :=
  wholePoison xs ++ act.flatMap fun i => xs.flatMap fun x => x.poisonAt (w * i) w

/-- The active lanes below n. -/
def Regs.activeLanes (r : Regs) (l : Lane) (n : Nat) : List Nat := (List.range n).filter fun i => r.active l i

/-- An element-wise instruction on lanes of one type: lane i of the result comes from lane i of the sources (R122, R123). -/
def Core.elementwise (d : Reg) (ty : Ty) (l : Lane) (xs : List VVal) (f : Nat → FRes) (c : Core) : Except Trap Core :=
  let n := ty.lanes
  .ok (c.putLanes d l ty.width n (fun _ => false) (lanesPoison xs ty.width (c.regs.activeLanes l n)) f)

/-- One block result: written poison, or ToBlock of its values, NaN giving a poison block of cause NAN (R56). -/
def Core.blockResult (c : Core) (ty : Ty) (mode : Nat → RMode) (xs : List XVal) : Blk × Flags :=
  match toBlock ty mode xs with
  | some r => r
  | none => (poisonBlk ty (c.ownOrigin .nan), fIOE ||| fPSN)

/-- Block results under the mask (R122, R123, R137). `fix` is the poison that is met whatever the mask (a scalar seed, R82; a source poisoned in whole, R67), `inp k` what active block k meets, `keep k` keeps a block whatever MA says, and `f k` gives the values of block k. With any poison met, every block that the instruction computes is a poison block (DEDUCED, log 11: a kept block is not one of them, but for those of an old destination poisoned in whole, each of which takes the winning origin). -/
def Core.putBlocks (c : Core) (d : Reg) (l : Lane) (ty : Ty) (keep : Nat → Bool) (fix : List Org) (inp : Nat → List Org)
    (mode : Nat → RMode) (f : Nat → List XVal) : Core :=
  let r := c.regs
  let old := r.rdVV d
  let ks := List.range ty.blocks
  let act (k : Nat) : Bool := r.active l k && !keep k
  let kept (k : Nat) : Bool := keep k || (!r.active l k && !l.ag)
  let orgs := fix ++
    ks.flatMap fun k =>
      if act k then inp k
      else if kept k then old.poisonAt (ty.blockBits * k) ty.blockBits
      else []
  match orgWinner orgs with
  | some o =>
    c.modRegs fun r => ((r.wrVV d (ofBlks ty (ks.map fun k =>
      if act k || (kept k && old.whole) then poisonBlk ty o else if kept k then old.blk ty k else ⟨0, 0⟩))).flag fPSN).adv
  | none =>
    let rs := ks.map fun k =>
      if act k then c.blockResult ty (fun i => mode (32 * k + i)) (f k) else (if kept k then old.blk ty k else ⟨0, 0⟩, 0)
    let fl := rs.foldl (fun a x => a ||| x.2) 0
    c.modRegs fun r => ((r.wrVV d (ofBlks ty (rs.map Prod.fst))).flag fl).adv

end Sys2Proof.Machine
end

