-- ==== Sys2Proof/Machine/Vector.lean ====
section
/-! DEFINITION. Vector lanes: integer and floating-point arithmetic, compares, masks, permutes, reductions, conversions and special functions: OP 0x40 to 0x47 and 0x4A (R127 to R136, R142). -/
namespace Sys2Proof.Machine

/-! ### Values of one lane -/

/-- A lane value without flags. -/
def plain (x : BitVec 64) : FRes := ⟨x, 0⟩

/-- Bits [2w-1:w] of the product (R127). -/
def mulHigh (ty : Ty) (a b : BitVec 64) : BitVec 64 := ty.wrap (ty.value a * ty.value b / 2 ^ ty.width)

/-- The smaller by the signedness of the type (R127). -/
def laneMin (ty : Ty) (a b : BitVec 64) : BitVec 64 := if ty.value b < ty.value a then b else a

/-- The larger by the signedness of the type (R127). -/
def laneMax (ty : Ty) (a b : BitVec 64) : BitVec 64 := if ty.value a < ty.value b then b else a

/-- The lane read as signed, whatever the type's signedness. -/
def laneInt (ty : Ty) (a : BitVec 64) : Int := (a.setWidth ty.width).toInt

/-- A left shift within the lane (R127). -/
def laneShl (ty : Ty) (a : BitVec 64) (k : Nat) : BitVec 64 := ty.low (a <<< k)

/-- A right shift with sign fill within the lane (R127). -/
def laneSra (ty : Ty) (a : BitVec 64) (k : Nat) : BitVec 64 := ty.wrap (laneInt ty a / 2 ^ k)

/-- The absolute value (R127). -/
def laneAbs (ty : Ty) (a : BitVec 64) : BitVec 64 := ty.wrap ((ty.value a).natAbs : Int)

/-- A number with its sign replaced; a NaN becomes the canonical NaN (R128). -/
def signLane (ty : Ty) (f : Bool → Bool) (a : BitVec 64) : FRes :=
  match ty.unpack a with
  | .nan s => ty.nan s
  | _ =>
    let neg := decide (a.toNat ≥ 2 ^ (ty.width - 1))
    ⟨BitVec.ofNat 64 (a.toNat % 2 ^ (ty.width - 1) + ty.signBits (f neg)), 0⟩

/-! ### Shapes -/

/-- Lanes of two vector sources (R127, R128). -/
def Core.vec2 (d : Reg) (a : VSrc) (b : Reg) (ty : Ty) (l : Lane) (f : BitVec 64 → BitVec 64 → FRes) (c : Core) :
    Except Trap Core :=
  c.withA a fun x c =>
    let y := c.regs.rdVV b
    c.elementwise d ty l [x, y] fun i => f (x.lane ty.width i) (y.lane ty.width i)

/-- Lanes of one vector source. -/
def Core.vec1 (d : Reg) (a : VSrc) (ty : Ty) (l : Lane) (f : BitVec 64 → FRes) (c : Core) : Except Trap Core :=
  c.withA a fun x c => c.elementwise d ty l [x] fun i => f (x.lane ty.width i)

/-- Lanes of two floating-point sources. -/
def Core.vecF2 (d : Reg) (a : VSrc) (b : Reg) (ty : Ty) (l : Lane) (f : FVal → FVal → FRes) (c : Core) : Except Trap Core :=
  c.vec2 d a b ty l fun x y => f (ty.unpack x) (ty.unpack y)

/-- Lanes of three floating-point sources (R129). -/
def Core.vecF3 (d : Reg) (a : VSrc) (b e : Reg) (ty : Ty) (l : Lane) (f : FVal → FVal → FVal → FRes) (c : Core) :
    Except Trap Core :=
  c.withA a fun x c =>
    let y := c.regs.rdVV b
    let z := c.regs.rdVV e
    c.elementwise d ty l [x, y, z] fun i =>
      f (ty.unpack (x.lane ty.width i)) (ty.unpack (y.lane ty.width i)) (ty.unpack (z.lane ty.width i))

/-- A vector shift, whose count is a lane of B modulo the lane width, or the immediate (R127). -/
def Core.vshift (d : Reg) (a : VSrc) (sh : ShSrc) (ty : Ty) (l : Lane) (f : BitVec 64 → Nat → BitVec 64) (c : Core) :
    Except Trap Core :=
  match sh with
  | .imm k => c.vec1 d a ty l fun x => plain (f x k.toNat)
  | .reg b => c.vec2 d a b ty l fun x y => plain (f x (y.toNat % ty.width))

/-- VDOT (R130): lane i of 32 bits covers the two source lanes that feed it. -/
def Core.vdotV (d : Reg) (a : VSrc) (b e : Reg) (ty : Ty) (l : Lane) (c : Core) : Except Trap Core :=
  c.withA a fun x c =>
    let y := c.regs.rdVV b
    let z := c.regs.rdVV e
    c.elementwise d .f32 l [x, y, z] fun i =>
      vdotLane ty (z.lane 32 i) [(x.lane 16 (2 * i), y.lane 16 (2 * i)), (x.lane 16 (2 * i + 1), y.lane 16 (2 * i + 1))]

/-- The index that INFO gives for a poisoned A operand: a register, or 0 for a queue (R325). -/
def srcIndex : VSrc → Reg
  | .reg i => i
  | .fq _ => 0

/-- A vector compare into a mask (R131): poison in an active lane traps. -/
def Core.vcmpV (d : BitVec 3) (a : VSrc) (b : Reg) (ty : Ty) (l : Lane) (f : BitVec 64 → BitVec 64 → Bool × Flags) (c : Core) :
    Except Trap Core :=
  c.withA a fun x c =>
    let y := c.regs.rdVV b
    let n := ty.lanes
    let act := c.regs.activeLanes l n
    if !(lanesPoison [x] ty.width act).isEmpty then .error ⟨.psnuse, (srcIndex a).setWidth 64⟩
    else if !(lanesPoison [y] ty.width act).isEmpty then .error ⟨.psnuse, b.setWidth 64⟩
    else
      let old := c.regs.rdM d
      let rs := (List.range n).map fun i =>
        if c.regs.active l i then f (x.lane ty.width i) (y.lane ty.width i) else (!l.ag && old.getLsbD i, 0)
      let m : Word := rs.foldr (fun r (acc : Word) => (acc <<< 1) ||| (if r.1 then 1 else 0)) 0
      let fl := rs.foldl (fun acc r => acc ||| r.2) 0
      .ok (c.modRegs fun r => ((r.wrM d m).flag fl).adv)

/-- An integer condition of R131. -/
def Core.vcmpI (d : BitVec 3) (a : VSrc) (b : Reg) (ty : Ty) (l : Lane) (f : BitVec 64 → BitVec 64 → Bool) (c : Core) :
    Except Trap Core :=
  c.vcmpV d a b ty l fun x y => (f x y, 0)

/-- An IEEE condition of R131 with the IOE rules of R104. -/
def Core.vcmpF (d : BitVec 3) (a : VSrc) (b : Reg) (ty : Ty) (l : Lane) (f : FVal → FVal → Bool) (anyNan : Bool) (c : Core) :
    Except Trap Core :=
  c.vcmpV d a b ty l fun x y =>
    let u := ty.unpack x
    let v := ty.unpack y
    (f u v, if (if anyNan then u.isNan || v.isNan else u.isSnan || v.isSnan) then fIOE else 0)

/-- Mask logic into a mask (R132). -/
def Core.maskOp (d : BitVec 3) (x : Word) (c : Core) : Except Trap Core := .ok (c.modRegs fun r => (r.wrM d x).adv)

/-- The lane that lane i of a permute takes: lane j of A, lane j of B, or zero (R133). -/
inductive PermSrc where
  | ofA (j : Nat)
  | ofB (j : Nat)
  | zero
  deriving DecidableEq, Repr

/-- The value of a pick. -/
def PermSrc.value (x y : VVal) (w : Nat) : PermSrc → BitVec 64
  | .ofA j => x.lane w j
  | .ofB j => y.lane w j
  | .zero => 0

/-- The pick reads a lane of A. -/
def PermSrc.readsA : PermSrc → Bool
  | .ofA _ => true
  | _ => false

/-- The pick reads a lane of B. -/
def PermSrc.readsB : PermSrc → Bool
  | .ofB _ => true
  | _ => false

/-- The poison of a source that a permute reads in full when it reads any lane of it: `reads i` says that destination lane i reads one (R133). A source poisoned in whole has no masked-off lanes (R67). -/
def Core.fullPoison (c : Core) (l : Lane) (n : Nat) (x : VVal) (reads : Nat → Bool) : List Org :=
  if (List.range n).any fun i => (x.whole || c.regs.active l i) && reads i then x.poisonAll else []

/-- A permute of two sources: lane i of the result is the lane that `f` picks, which VPERM finds by reading lane i of B (`ix`) (R133). -/
def Core.permute2 (d : Reg) (a : VSrc) (b : Reg) (ty : Ty) (l : Lane) (ix : Bool) (f : VVal → Nat → PermSrc) (c : Core) :
    Except Trap Core :=
  c.withA a fun x c =>
    let y := c.regs.rdVV b
    .ok (c.putLanes d l ty.width ty.lanes (fun _ => false)
      (c.fullPoison l ty.lanes x (fun i => (f y i).readsA) ++ c.fullPoison l ty.lanes y (fun i => ix || (f y i).readsB))
      fun i => plain ((f y i).value x y ty.width))

/-- The number of one bits of a mask below a position. -/
def rankBelow (m : Word) (i : Nat) : Nat := ((List.range i).filter fun j => m.getLsbD j).length

/-- VCOMP and VEXPD (R134). `src i` names the lane of A that destination lane i receives, if any. -/
def Core.selectLanes (d : Reg) (a : VSrc) (ty : Ty) (l : Lane) (src : Word → Nat → Option Nat) (c : Core) : Except Trap Core :=
  c.withA a fun x c =>
    let w := ty.width
    let n := ty.lanes
    let m := c.regs.rdM l.mask
    let old := c.regs.rdVV d
    let kept (i : Nat) : Bool := (src m i).isNone && !l.ag
    let v (i : Nat) : BitVec 64 :=
      match src m i with
      | some j => x.lane w j
      | none => if l.ag then 0 else old.lane w i
    .ok (c.putV d (x.poisonAll ++ keptPoison old w n kept) ⟨ofLanes w n v, 0⟩ 0)

/-- The lane of A whose mask bit is the i-th one bit below n (R134). -/
def nthSet (n : Nat) (m : Word) (i : Nat) : Option Nat :=
  (List.range n).find? fun j => m.getLsbD j && rankBelow m j == i

/-- A reduction of the active lanes (R135): poison in one poisons the scalar. -/
def Core.reduce (d : Reg) (a : VSrc) (ty : Ty) (mk : BitVec 3) (f : List (BitVec 64) → FRes) (c : Core) : Except Trap Core :=
  c.withA a fun x c =>
    let w := ty.width
    let act := c.regs.activeLanes ⟨mk, false⟩ ty.lanes
    let v := f (act.map (x.lane w))
    .ok (c.modRegs fun r => (r.result d (!(lanesPoison [x] w act).isEmpty) v.bits v.flags).adv)

/-- An integer reduction from the value of an empty one (R135). -/
def redInt (ty : Ty) (e : BitVec 64) (f : BitVec 64 → BitVec 64 → BitVec 64) (xs : List (BitVec 64)) : FRes :=
  plain (ty.extend (xs.foldl f e))

/-- VRED.MIN and VRED.MAX of IEEE lanes (R135): a single NaN becomes canonical. -/
def redF (ty : Ty) (isMax : Bool) (xs : List (BitVec 64)) : FRes :=
  match xs with
  | [] => plain (ty.inf isMax)
  | x :: xs =>
    xs.foldl (fun acc y => let r := ty.fminmax isMax acc.bits y
                           ⟨r.bits, acc.flags ||| r.flags⟩)
      (match ty.unpack x with | .nan s => ty.nan s | _ => plain x)

/-- The destination lane of part `p` that source lane i of a narrowing goes to, and back (R136). -/
def inPart (m p j : Nat) : Bool := decide (p * m ≤ j) && decide (j < p * m + m)

/-- VCVT (R136). -/
def Core.vcvtV (d : Reg) (a : VSrc) (ty ty2 : Ty) (rnd : Rnd) (part : BitVec 3) (l : Lane) (c : Core) : Except Trap Core :=
  c.withA a fun x c =>
    let ns := ty2.lanes
    let nd := ty.lanes
    let m := min ns nd
    let p := part.toNat
    let keep (j : Nat) : Bool := decide (ns < nd) && !inPart m p j
    let src (j : Nat) : Nat := if ns > nd then p * m + j else if ns < nd then j - p * m else j
    let act := (c.regs.activeLanes l nd).filter fun j => !keep j
    let seed := c.regs.rdS rnd.seed
    .ok (c.putLanes d l ty.width nd keep (c.spsn rnd.srcs ++ lanesPoison [x] ty2.width (act.map src))
      fun j => convLane ty ty2 (rnd.mode seed j) (x.lane ty2.width (src j)))


/-- VADD on integers (R127). -/
def execVaddI (p : Pred) (d : Reg) (a : VSrc) (b : Reg) (ty : Ty) (l : Lane) (s : State) : Out :=
  issue p (Core.vec2 d a b ty l fun x y => plain (ty.low (x + y))) s

/-- VSUB on integers (R127). -/
def execVsubI (p : Pred) (d : Reg) (a : VSrc) (b : Reg) (ty : Ty) (l : Lane) (s : State) : Out :=
  issue p (Core.vec2 d a b ty l fun x y => plain (ty.low (x - y))) s

/-- VMUL on integers (R127). -/
def execVmulI (p : Pred) (d : Reg) (a : VSrc) (b : Reg) (ty : Ty) (l : Lane) (s : State) : Out :=
  issue p (Core.vec2 d a b ty l fun x y => plain (ty.low (x * y))) s

/-- VMULH (R127). -/
def execVmulh (p : Pred) (d : Reg) (a : VSrc) (b : Reg) (ty : Ty) (l : Lane) (s : State) : Out :=
  issue p (Core.vec2 d a b ty l fun x y => plain (mulHigh ty x y)) s

/-- VMIN on integers (R127). -/
def execVminI (p : Pred) (d : Reg) (a : VSrc) (b : Reg) (ty : Ty) (l : Lane) (s : State) : Out :=
  issue p (Core.vec2 d a b ty l fun x y => plain (laneMin ty x y)) s

/-- VMAX on integers (R127). -/
def execVmaxI (p : Pred) (d : Reg) (a : VSrc) (b : Reg) (ty : Ty) (l : Lane) (s : State) : Out :=
  issue p (Core.vec2 d a b ty l fun x y => plain (laneMax ty x y)) s

/-- VAND (R127). -/
def execVand (p : Pred) (d : Reg) (a : VSrc) (b : Reg) (ty : Ty) (l : Lane) (s : State) : Out :=
  issue p (Core.vec2 d a b ty l fun x y => plain (x &&& y)) s

/-- VOR (R127). -/
def execVor (p : Pred) (d : Reg) (a : VSrc) (b : Reg) (ty : Ty) (l : Lane) (s : State) : Out :=
  issue p (Core.vec2 d a b ty l fun x y => plain (x ||| y)) s

/-- VXOR (R127). -/
def execVxor (p : Pred) (d : Reg) (a : VSrc) (b : Reg) (ty : Ty) (l : Lane) (s : State) : Out :=
  issue p (Core.vec2 d a b ty l fun x y => plain (x ^^^ y)) s

/-- VSHL (R127). -/
def execVshl (p : Pred) (d : Reg) (a : VSrc) (sh : ShSrc) (ty : Ty) (l : Lane) (s : State) : Out :=
  issue p (Core.vshift d a sh ty l (laneShl ty)) s

/-- VSHR (R127). -/
def execVshr (p : Pred) (d : Reg) (a : VSrc) (sh : ShSrc) (ty : Ty) (l : Lane) (s : State) : Out :=
  issue p (Core.vshift d a sh ty l fun x k => x >>> k) s

/-- VSRA (R127). -/
def execVsra (p : Pred) (d : Reg) (a : VSrc) (sh : ShSrc) (ty : Ty) (l : Lane) (s : State) : Out :=
  issue p (Core.vshift d a sh ty l (laneSra ty)) s

/-- VABS on integers (R127). -/
def execVabsI (p : Pred) (d : Reg) (a : VSrc) (ty : Ty) (l : Lane) (s : State) : Out :=
  issue p (Core.vec1 d a ty l fun x => plain (laneAbs ty x)) s

/-- VNEG on integers (R127). -/
def execVnegI (p : Pred) (d : Reg) (a : VSrc) (ty : Ty) (l : Lane) (s : State) : Out :=
  issue p (Core.vec1 d a ty l fun x => plain (ty.low (-x))) s

/-- VADDS (R127). -/
def execVadds (p : Pred) (d : Reg) (a : VSrc) (b : Reg) (ty : Ty) (l : Lane) (s : State) : Out :=
  issue p (Core.vec2 d a b ty l fun x y => satInt ty (ty.value x + ty.value y)) s

/-- VSUBS (R127). -/
def execVsubs (p : Pred) (d : Reg) (a : VSrc) (b : Reg) (ty : Ty) (l : Lane) (s : State) : Out :=
  issue p (Core.vec2 d a b ty l fun x y => satInt ty (ty.value x - ty.value y)) s

/-- VADD on IEEE lanes (R128). -/
def execVaddF (p : Pred) (d : Reg) (a : VSrc) (b : Reg) (ty : Ty) (rm : Rz) (l : Lane) (s : State) : Out :=
  issue p (Core.vecF2 d a b ty l (ty.fadd rm.mode)) s

/-- VSUB on IEEE lanes (R128). -/
def execVsubF (p : Pred) (d : Reg) (a : VSrc) (b : Reg) (ty : Ty) (rm : Rz) (l : Lane) (s : State) : Out :=
  issue p (Core.vecF2 d a b ty l fun x y => ty.fadd rm.mode x y.neg) s

/-- VMUL on IEEE lanes (R128). -/
def execVmulF (p : Pred) (d : Reg) (a : VSrc) (b : Reg) (ty : Ty) (rm : Rz) (l : Lane) (s : State) : Out :=
  issue p (Core.vecF2 d a b ty l (ty.fmul rm.mode)) s

/-- VMIN on IEEE lanes (R128). -/
def execVminF (p : Pred) (d : Reg) (a : VSrc) (b : Reg) (ty : Ty) (l : Lane) (s : State) : Out :=
  issue p (Core.vec2 d a b ty l (ty.fminmax false)) s

/-- VMAX on IEEE lanes (R128). -/
def execVmaxF (p : Pred) (d : Reg) (a : VSrc) (b : Reg) (ty : Ty) (l : Lane) (s : State) : Out :=
  issue p (Core.vec2 d a b ty l (ty.fminmax true)) s

/-- VABS on IEEE lanes (R128). -/
def execVabsF (p : Pred) (d : Reg) (a : VSrc) (ty : Ty) (l : Lane) (s : State) : Out :=
  issue p (Core.vec1 d a ty l (signLane ty fun _ => false)) s

/-- VNEG on IEEE lanes (R128). -/
def execVnegF (p : Pred) (d : Reg) (a : VSrc) (ty : Ty) (l : Lane) (s : State) : Out :=
  issue p (Core.vec1 d a ty l (signLane ty fun n => !n)) s

/-- VFMA (R129). -/
def execVfma (p : Pred) (d : Reg) (a : VSrc) (b c : Reg) (ty : Ty) (rm : Rz) (l : Lane) (s : State) : Out :=
  issue p (Core.vecF3 d a b c ty l (ty.fma rm.mode)) s

/-- VFMS (R129). -/
def execVfms (p : Pred) (d : Reg) (a : VSrc) (b c : Reg) (ty : Ty) (rm : Rz) (l : Lane) (s : State) : Out :=
  issue p (Core.vecF3 d a b c ty l fun x y z => ty.fma rm.mode x y z.neg) s

/-- VFNMA (R129). -/
def execVfnma (p : Pred) (d : Reg) (a : VSrc) (b c : Reg) (ty : Ty) (rm : Rz) (l : Lane) (s : State) : Out :=
  issue p (Core.vecF3 d a b c ty l fun x y z => ty.fma rm.mode x.neg y z) s

/-- VDOT (R130). -/
def execVdot (p : Pred) (d : Reg) (a : VSrc) (b c : Reg) (ty : Ty) (l : Lane) (s : State) : Out :=
  issue p (Core.vdotV d a b c ty l) s

/-- VCMP.EQ on integers (R131). -/
def execVcmpEq (p : Pred) (d : BitVec 3) (a : VSrc) (b : Reg) (ty : Ty) (l : Lane) (s : State) : Out :=
  issue p (Core.vcmpI d a b ty l fun x y => x == y) s

/-- VCMP.NE on integers (R131). -/
def execVcmpNe (p : Pred) (d : BitVec 3) (a : VSrc) (b : Reg) (ty : Ty) (l : Lane) (s : State) : Out :=
  issue p (Core.vcmpI d a b ty l fun x y => x != y) s

/-- VCMP.LT on integers (R131). -/
def execVcmpLt (p : Pred) (d : BitVec 3) (a : VSrc) (b : Reg) (ty : Ty) (l : Lane) (s : State) : Out :=
  issue p (Core.vcmpI d a b ty l fun x y => decide (laneInt ty x < laneInt ty y)) s

/-- VCMP.GE on integers (R131). -/
def execVcmpGe (p : Pred) (d : BitVec 3) (a : VSrc) (b : Reg) (ty : Ty) (l : Lane) (s : State) : Out :=
  issue p (Core.vcmpI d a b ty l fun x y => decide (laneInt ty y ≤ laneInt ty x)) s

/-- VCMP.LO on integers (R131). -/
def execVcmpLo (p : Pred) (d : BitVec 3) (a : VSrc) (b : Reg) (ty : Ty) (l : Lane) (s : State) : Out :=
  issue p (Core.vcmpI d a b ty l fun x y => decide (x.toNat < y.toNat)) s

/-- VCMP.HS on integers (R131). -/
def execVcmpHs (p : Pred) (d : BitVec 3) (a : VSrc) (b : Reg) (ty : Ty) (l : Lane) (s : State) : Out :=
  issue p (Core.vcmpI d a b ty l fun x y => decide (y.toNat ≤ x.toNat)) s

/-- VCMP.EQ on IEEE lanes (R131). -/
def execVcmpEqF (p : Pred) (d : BitVec 3) (a : VSrc) (b : Reg) (ty : Ty) (l : Lane) (s : State) : Out :=
  issue p (Core.vcmpF d a b ty l FVal.eq false) s

/-- VCMP.LT on IEEE lanes (R131). -/
def execVcmpLtF (p : Pred) (d : BitVec 3) (a : VSrc) (b : Reg) (ty : Ty) (l : Lane) (s : State) : Out :=
  issue p (Core.vcmpF d a b ty l FVal.lt true) s

/-- VCMP.LE on IEEE lanes (R131). -/
def execVcmpLeF (p : Pred) (d : BitVec 3) (a : VSrc) (b : Reg) (ty : Ty) (l : Lane) (s : State) : Out :=
  issue p (Core.vcmpF d a b ty l (fun x y => FVal.lt x y || FVal.eq x y) true) s

/-- VCMP.UN on IEEE lanes (R131). -/
def execVcmpUnF (p : Pred) (d : BitVec 3) (a : VSrc) (b : Reg) (ty : Ty) (l : Lane) (s : State) : Out :=
  issue p (Core.vcmpF d a b ty l (fun x y => x.isNan || y.isNan) false) s

/-- MAND (R132). -/
def execMand (p : Pred) (d a b : BitVec 3) (s : State) : Out :=
  issue p (fun c => Core.maskOp d (c.regs.rdM a &&& c.regs.rdM b) c) s

/-- MOR (R132). -/
def execMor (p : Pred) (d a b : BitVec 3) (s : State) : Out :=
  issue p (fun c => Core.maskOp d (c.regs.rdM a ||| c.regs.rdM b) c) s

/-- MXOR (R132). -/
def execMxor (p : Pred) (d a b : BitVec 3) (s : State) : Out :=
  issue p (fun c => Core.maskOp d (c.regs.rdM a ^^^ c.regs.rdM b) c) s

/-- MANDN (R132). -/
def execMandn (p : Pred) (d a b : BitVec 3) (s : State) : Out :=
  issue p (fun c => Core.maskOp d (c.regs.rdM a &&& ~~~(c.regs.rdM b)) c) s

/-- MPOPC (R132). -/
def execMpopc (p : Pred) (d : Reg) (a : BitVec 3) (s : State) : Out :=
  issue p (fun c => Core.copyS d (BitVec.ofNat 64 (rankBelow (c.regs.rdM a) 64)) false c) s

/-- MFIRST (R132). -/
def execMfirst (p : Pred) (d : Reg) (a : BitVec 3) (s : State) : Out :=
  issue p (fun c =>
    Core.copyS d (BitVec.ofNat 64 (((List.range 64).find? fun j => (c.regs.rdM a).getLsbD j).getD 64)) false c) s

/-- MTOS (R132). -/
def execMtos (p : Pred) (d : Reg) (a : BitVec 3) (s : State) : Out :=
  issue p (fun c => Core.copyS d (c.regs.rdM a) false c) s

/-- MFROMS (R132). -/
def execMfroms (p : Pred) (d : BitVec 3) (a : Reg) (s : State) : Out :=
  issue p (fun c =>
    match psnUse c.regs [a] with
    | .error t => .error t
    | .ok () => Core.maskOp d (c.regs.rdS a) c) s

/-- VPERM (R133). -/
def execVperm (p : Pred) (d : Reg) (a : VSrc) (b : Reg) (ty : Ty) (l : Lane) (s : State) : Out :=
  issue p (Core.permute2 d a b ty l true fun y i =>
    let j := (y.lane ty.width i).toNat
    if j < ty.lanes then .ofA j else .zero) s

/-- VBCAST (R133). -/
def execVbcast (p : Pred) (d a : Reg) (ty : Ty) (l : Lane) (s : State) : Out :=
  issue p (fun c =>
    .ok (c.putLanes d l ty.width ty.lanes (fun _ => false) (c.spsn [a]) fun _ => plain (ty.low (c.regs.rdS a)))) s

/-- VINS (R133). -/
def execVins (p : Pred) (d a : Reg) (k : BitVec 10) (ty : Ty) (l : Lane) (s : State) : Out :=
  issue p (fun c =>
    .ok (c.putLanes d l ty.width ty.lanes (fun i => i != k.toNat) (c.spsn [a]) fun _ => plain (ty.low (c.regs.rdS a)))) s

/-- VEXT (R133). -/
def execVext (p : Pred) (d : Reg) (a : VSrc) (k : BitVec 10) (ty : Ty) (s : State) : Out :=
  issue p (Core.withA · a fun x c =>
    .ok (c.modRegs fun r => (r.result d (!x.poisonAll.isEmpty) (ty.extend (x.lane ty.width k.toNat)) 0).adv)) s

/-- VSLIDE (R133). -/
def execVslide (p : Pred) (d : Reg) (a : VSrc) (b : Reg) (k : BitVec 10) (ty : Ty) (l : Lane) (s : State) : Out :=
  issue p (Core.permute2 d a b ty l false fun _ i =>
    if i + k.toNat < ty.lanes then .ofA (i + k.toNat) else .ofB (i + k.toNat - ty.lanes)) s

/-- VSLIDED (R133). -/
def execVslided (p : Pred) (d : Reg) (a : VSrc) (b : Reg) (k : BitVec 10) (ty : Ty) (l : Lane) (s : State) : Out :=
  issue p (Core.permute2 d a b ty l false fun _ i =>
    if k.toNat ≤ i then .ofA (i - k.toNat) else .ofB (ty.lanes - k.toNat + i)) s

/-- VCOMP (R134). -/
def execVcomp (p : Pred) (d : Reg) (a : VSrc) (ty : Ty) (l : Lane) (s : State) : Out :=
  issue p (Core.selectLanes d a ty l (nthSet ty.lanes)) s

/-- VEXPD (R134). -/
def execVexpd (p : Pred) (d : Reg) (a : VSrc) (ty : Ty) (l : Lane) (s : State) : Out :=
  issue p (Core.selectLanes d a ty l fun m i => if m.getLsbD i then some (rankBelow m i) else none) s

/-- VZIP (R133). -/
def execVzip (p : Pred) (d : Reg) (a : VSrc) (b : Reg) (h : BitVec 1) (ty : Ty) (l : Lane) (s : State) : Out :=
  issue p (Core.permute2 d a b ty l false fun _ i =>
    let j := i / 2 + h.toNat * (ty.lanes / 2)
    if i % 2 = 0 then .ofA j else .ofB j) s

/-- VUNZIP (R133). -/
def execVunzip (p : Pred) (d : Reg) (a : VSrc) (b : Reg) (o : BitVec 1) (ty : Ty) (l : Lane) (s : State) : Out :=
  issue p (Core.permute2 d a b ty l false fun _ i =>
    if i < ty.lanes / 2 then .ofA (2 * i + o.toNat) else .ofB (2 * (i - ty.lanes / 2) + o.toNat)) s

/-- VRED.ADD (R135). -/
def execVredAdd (p : Pred) (d : Reg) (a : VSrc) (ty : Ty) (rm : Rz) (mk : BitVec 3) (s : State) : Out :=
  issue p (Core.reduce d a ty mk fun xs =>
    if ty.isInt then redInt ty 0 (fun x y => ty.low (x + y)) xs else exactSum ty rm.mode (xs.map ty.unpack)) s

/-- VRED.MIN (R135). -/
def execVredMin (p : Pred) (d : Reg) (a : VSrc) (ty : Ty) (mk : BitVec 3) (s : State) : Out :=
  issue p (Core.reduce d a ty mk fun xs =>
    if ty.isInt then redInt ty (ty.wrap ty.maxVal) (laneMin ty) xs else redF ty false xs) s

/-- VRED.MAX (R135). -/
def execVredMax (p : Pred) (d : Reg) (a : VSrc) (ty : Ty) (mk : BitVec 3) (s : State) : Out :=
  issue p (Core.reduce d a ty mk fun xs =>
    if ty.isInt then redInt ty (ty.wrap ty.minVal) (laneMax ty) xs else redF ty true xs) s

/-- VRED.AND (R135). -/
def execVredAnd (p : Pred) (d : Reg) (a : VSrc) (ty : Ty) (mk : BitVec 3) (s : State) : Out :=
  issue p (Core.reduce d a ty mk (redInt ty (ty.wrap (-1)) fun x y => x &&& y)) s

/-- VRED.OR (R135). -/
def execVredOr (p : Pred) (d : Reg) (a : VSrc) (ty : Ty) (mk : BitVec 3) (s : State) : Out :=
  issue p (Core.reduce d a ty mk (redInt ty 0 fun x y => x ||| y)) s

/-- VRED.XOR (R135). -/
def execVredXor (p : Pred) (d : Reg) (a : VSrc) (ty : Ty) (mk : BitVec 3) (s : State) : Out :=
  issue p (Core.reduce d a ty mk (redInt ty 0 fun x y => x ^^^ y)) s

/-- VCVT (R136). -/
def execVcvt (p : Pred) (d : Reg) (a : VSrc) (ty ty2 : Ty) (rnd : Rnd) (part : BitVec 3) (l : Lane) (s : State) : Out :=
  issue p (Core.vcvtV d a ty ty2 rnd part l) s

/-- VRCP (R142). -/
def execVrcp (p : Pred) (d : Reg) (a : VSrc) (l : Lane) (s : State) : Out :=
  issue p (Core.vec1 d a .f32 l vrcp) s

/-- VRSQ (R142). -/
def execVrsq (p : Pred) (d : Reg) (a : VSrc) (l : Lane) (s : State) : Out :=
  issue p (Core.vec1 d a .f32 l vrsq) s

/-- VEXP2 (R142). -/
def execVexp2 (p : Pred) (d : Reg) (a : VSrc) (l : Lane) (s : State) : Out :=
  issue p (Core.vec1 d a .f32 l vexp2) s

/-- VLOG2 (R142). -/
def execVlog2 (p : Pred) (d : Reg) (a : VSrc) (l : Lane) (s : State) : Out :=
  issue p (Core.vec1 d a .f32 l vlog2) s

end Sys2Proof.Machine
end

