-- ==== Sys2Proof/Machine/Block.lean ====
section
/-! DEFINITION. Blocks: arithmetic, normalisation and conversion (R137 to R141), vector and block loads and stores (R143 to R146) and the feed-queue instructions (R147): OP 0x48, 0x49, 0x4B and 0x4C. -/
namespace Sys2Proof.Machine

/-! ### Exact element operations -/

/-- A value of a block element as m * 2^e. -/
def dyOf : XVal → Int × Int
  | .dy m e => (m, e)
  | _ => (0, 0)

/-- An element value from m * 2^e. -/
def dyX (a : Int × Int) : XVal := .dy a.1 a.2

/-- a + b (R137). -/
def xAdd (a b : Int × Int) : Int × Int := dyAdd a b

/-- -a (R137). -/
def xNeg (a : Int × Int) : Int × Int := (-a.1, a.2)

/-- a * b (R137). -/
def xMul (a b : Int × Int) : Int × Int := (a.1 * b.1, a.2 + b.2)

/-- The smaller, a when they are equal (R137). -/
def xMin (a b : Int × Int) : Int × Int := if dyLt b.1 b.2 a.1 a.2 then b else a

/-- The larger, a when they are equal (R137). -/
def xMax (a b : Int × Int) : Int × Int := if dyLt a.1 a.2 b.1 b.2 then b else a

/-- The 32 values of block k read in a format (R54). -/
def VVal.vals (x : VVal) (ty : Ty) (k : Nat) : List (Int × Int) :=
  (List.range 32).map fun j => dyOf ((x.blk ty k).elem ty j)

/-! ### Shapes -/

/-- Block arithmetic on two sources (R137). -/
def Core.block2 (d : Reg) (a : VSrc) (b : Reg) (ty : Ty) (rnd : Rnd) (l : Lane) (f : Int × Int → Int × Int → Int × Int) (c : Core) :
    Except Trap Core :=
  c.withA a fun x c =>
    let y := c.regs.rdVV b
    let own := c.ownOrigin .fmt
    .ok (c.putBlocks d l ty (fun _ => false) (c.spsn rnd.srcs ++ wholePoison [x, y]) (fun k => x.blkPoison ty own k ++ y.blkPoison ty own k)
      (rnd.mode (c.regs.rdS rnd.seed)) fun k => List.zipWith (fun u v => dyX (f u v)) (x.vals ty k) (y.vals ty k))

/-- Block arithmetic on one source (R137 to R139). -/
def Core.block1 (d : Reg) (a : VSrc) (ty : Ty) (rnd : Rnd) (l : Lane) (f : Int × Int → Int × Int) (c : Core) :
    Except Trap Core :=
  c.withA a fun x c =>
    .ok (c.putBlocks d l ty (fun _ => false) (c.spsn rnd.srcs ++ wholePoison [x]) (x.blkPoison ty (c.ownOrigin .fmt))
      (rnd.mode (c.regs.rdS rnd.seed)) fun k => (x.vals ty k).map fun u => dyX (f u))

/-- BREFMT: blocks of format TY2 into blocks of format TY, placed as R136 places lanes (R139). -/
def Core.brefmtB (d : Reg) (a : VSrc) (ty ty2 : Ty) (rnd : Rnd) (part : BitVec 3) (l : Lane) (c : Core) : Except Trap Core :=
  c.withA a fun x c =>
    let ns := ty2.blocks
    let nd := ty.blocks
    let m := min ns nd
    let p := part.toNat
    let keep (j : Nat) : Bool := decide (ns < nd) && !(decide (p * m ≤ j) && decide (j < p * m + m))
    let src (j : Nat) : Nat := if ns > nd then p * m + j else if ns < nd then j - p * m else j
    .ok (c.putBlocks d l ty keep (c.spsn rnd.srcs ++ wholePoison [x]) (fun k => x.blkPoison ty2 (c.ownOrigin .fmt) (src k))
      (rnd.mode (c.regs.rdS rnd.seed)) fun k => (x.vals ty2 (src k)).map dyX)

/-- BTOF: elements of blocks into IEEE lanes (R57, R140). -/
def Core.btofB (d : Reg) (a : VSrc) (ty ty2 : Ty) (rnd : Rnd) (part : BitVec 3) (l : Lane) (c : Core) : Except Trap Core :=
  c.withA a fun x c =>
    let n := ty.lanes
    let e := 32 * ty2.blocks
    let base := part.toNat * n
    let act := (c.regs.activeLanes l n).filter fun j => decide (base + j < e)
    let own := c.ownOrigin .fmt
    let ks := (List.range ty2.blocks).filter fun k => act.any fun j => (base + j) / 32 == k
    let seed := c.regs.rdS rnd.seed
    .ok (c.putLanes d l ty.width n (fun _ => false) (c.spsn rnd.srcs ++ wholePoison [x] ++ ks.flatMap (x.blkPoison ty2 own)) fun j =>
      if base + j < e then
        let v := dyOf ((x.blk ty2 ((base + j) / 32)).elem ty2 ((base + j) % 32))
        ty.round (rnd.mode seed j) false v.1 v.2
      else plain 0)

/-- BFROMF: 32 IEEE values into one block slot (R140). -/
def Core.bfromfB (d a b : Reg) (ty ty2 : Ty) (rnd : Rnd) (k : Nat) (c : Core) : Except Trap Core :=
  let r := c.regs
  let x := r.rdVV a
  let y := r.rdVV b
  let old := r.rdVV d
  let xs : List VVal := if ty2 = .f32 then [x, y] else [x]
  let v (j : Nat) : BitVec 64 := if ty2 = .f32 then (if j < 16 then x.lane 32 j else y.lane 32 (j - 16)) else x.lane 16 j
  let res : Blk × Flags :=
    match orgWinner (c.spsn rnd.srcs ++ xs.flatMap VVal.poisonAll) with
    | some o => (poisonBlk ty o, fPSN)
    | none =>
      c.blockResult ty (fun i => rnd.mode (r.rdS rnd.seed) (32 * k + i)) ((List.range 32).map fun j => (ty2.unpack (v j)).toX)
  let z : VVal := ⟨setBits old.data (ty.blockBits * k) ty.blockBits res.1.data, setHdr old.side k res.1.hdr⟩
  .ok (c.modRegs fun r => ((r.wrVV d z).flag res.2).adv)

/-! ### Loads and stores -/

/-- ea = s[A] + size * SignExt(IMM10, 10) (R143, R145). -/
def Regs.ea10 (r : Regs) (a : Reg) (size : Nat) (k : BitVec 10) : Int := (r.rdS a).toNat + size * k.toInt

/-- VLD (R143, R146). -/
def Core.vldV (d a : Reg) (k : BitVec 10) (l : Lane) (c : Core) : Except Trap Core :=
  match psnUse c.regs [a] with
  | .error t => .error t
  | .ok () =>
    let ea := c.regs.ea10 a 64 k
    match c.checkRead ea 64 with
    | .error t => .error t
    | .ok () =>
      let e := ea.toNat
      let orgs := if (c.regs.activeLanes l 64).any fun i => c.marked (e + i) then [c.ownOrigin .lspsn] else []
      .ok (c.putLanes d l 8 64 (fun _ => false) orgs fun i => plain ((c.ls.byte (e + i)).setWidth 64))

/-- Lanes of one masked store: lane i writes `n` bytes at `ea i`, as far as the range takes them, and poisoned data marks the words (R112, R143). -/
def Core.storeLanes (c : Core) (w n : Nat) (p : Bool) (ea : Nat → Nat) (x : VVal) (act : List Nat) : Core :=
  let c := act.foldl (fun c i => c.wrBytes (ea i) (c.merge (ea i) (natBytes (x.lane w i).toNat n))) c
  let c := if act.any fun i => lsRow (ea i) == 6 then c.tidy else c
  act.foldl (fun c i => if p then c.markWrite (ea i) n true else c) c

/-- The words of a line that a clean masked store writes whole lose their marks (R112). -/
def Core.clearWhole (c : Core) (e : Nat) (act : List Nat) : Core :=
  (List.range 8).foldl (fun c j =>
    if (List.range 8).all fun b => act.contains (8 * j + b) then c.setMark (e / 8 + j) false else c) c

/-- VST (R143, R146). -/
def Core.vstV (d a : Reg) (k : BitVec 10) (mk : BitVec 3) (c : Core) : Except Trap Core :=
  match psnUse c.regs [a] with
  | .error t => .error t
  | .ok () =>
    let ea := c.regs.ea10 a 64 k
    match c.checkWrite ea 64 with
    | .error t => .error t
    | .ok () =>
      let e := ea.toNat
      let x := c.regs.rdVV d
      let act := c.regs.activeLanes ⟨mk, false⟩ 64
      let p := !(lanesPoison [x] 8 act).isEmpty
      let c :=
        if discards e || act.isEmpty then c
        else
          let c := ((c.roomForJournal 1 64).journal e 64).storeLanes 8 1 p (fun i => e + i) x act
          if p then c else c.clearWhole e act
      .ok (c.modRegs fun r => (r.flag (psnFlag p)).adv)

/-- The address of lane i of a gather or scatter (R144). -/
def laneEa (c : Core) (a b : Reg) (i : Nat) : Int := (c.regs.rdS a).toNat + ((c.regs.rdVV b).lane 32 i).toNat

/-- The checks of a gather or scatter in the order of R144: poison, range, alignment. -/
def Core.checkLanes (c : Core) (a b : Reg) (act : List Nat) (may : Int → Bool) : Except Trap Unit :=
  match psnUse c.regs [a] with
  | .error t => .error t
  | .ok () =>
    if !(lanesPoison [c.regs.rdVV b] 32 act).isEmpty then .error ⟨.psnuse, b.setWidth 64⟩
    else
      match act.find? fun i => !may (laneEa c a b i) with
      | some i => .error ⟨.badaddr, infoAddr (laneEa c a b i)⟩
      | none =>
        match act.find? fun i => laneEa c a b i % 4 ≠ 0 with
        | some i => .error ⟨.misaln, infoAddr (laneEa c a b i)⟩
        | none => .ok ()

/-- VLDX (R144, R146): each lane is an access of its own. -/
def Core.vldxV (d a b : Reg) (l : Lane) (c : Core) : Except Trap Core :=
  let act := c.regs.activeLanes l 16
  match c.checkLanes a b act fun ea => c.mayRead ea 4 with
  | .error t => .error t
  | .ok () =>
    let pos (i : Nat) : Nat := (laneEa c a b i).toNat
    let orgs := if act.any fun i => c.seenMark i (pos i) 4 then [c.ownOrigin .lspsn] else []
    .ok (c.putLanes d l 32 16 (fun _ => false) orgs fun i => plain (BitVec.ofNat 64 (c.seenNat i (pos i) 4)))

/-- The store accesses of an instruction, where other units may come between them: all of them lie in the program range. -/
def Core.accesses (c : Core) (xs : List LateStore) : Core :=
  let d := xs.foldl Core.access { c with late := [] }
  if xs.all fun x => inProgram x.addr x.bytes.length then d else { d with late := [] }

/-- VSTX (R144, R146): lanes in ascending order, one journal record each (R224). -/
def Core.vstxV (d a b : Reg) (mk : BitVec 3) (c : Core) : Except Trap Core :=
  let act := c.regs.activeLanes ⟨mk, false⟩ 16
  match c.checkLanes a b act fun ea => c.mayWrite ea 4 with
  | .error t => .error t
  | .ok () =>
    let pos (i : Nat) : Nat := (laneEa c a b i).toNat
    let x := c.regs.rdVV d
    let p := !(lanesPoison [x] 32 act).isEmpty
    let live := act.filter fun i => !discards (pos i)
    let lane (i : Nat) : LateStore := ⟨pos i / 8 * 8, 8, pos i, natBytes (x.lane 32 i).toNat 4, p⟩
    let c' := (c.roomForJournal live.length (8 * live.length)).accesses (live.map lane)
    .ok (c'.modRegs fun r => (r.flag (psnFlag p)).adv)

/-- The checks of BLD and BST on the mantissa and header addresses, in the order of R94 (R145). -/
def Core.checkBlocks (c : Core) (a b : Reg) (ma ha : Int) (nb : Nat) (may : Int → Nat → Bool) : Except Trap Unit :=
  match psnUse c.regs [a, b] with
  | .error t => .error t
  | .ok () =>
    if !may ma 64 then .error ⟨.badaddr, infoAddr ma⟩
    else if !may ha (4 * nb) then .error ⟨.badaddr, infoAddr ha⟩
    else if ma % 64 ≠ 0 then .error ⟨.misaln, infoAddr ma⟩
    else if ha % (4 * nb) ≠ 0 then .error ⟨.misaln, infoAddr ha⟩
    else .ok ()

/-- The bits of four headers that have a field: bits [1:0] of each are reserved and read as zero (R8, R53). -/
def hdrBits : Side := 0xFFFFFFFCFFFFFFFCFFFFFFFCFFFFFFFC

/-- BLD (R145, R146). A block whose header reads E = 255 is loaded as it stands, and only a marked word sets ASTAT.PSN (DEDUCED from R30 and R146: BLD only copies the header, log 11). -/
def Core.bldV (d a b : Reg) (ty : Ty) (k : BitVec 10) (c : Core) : Except Trap Core :=
  let nb := ty.blocks
  let ma := c.regs.ea10 a 64 k
  let ha := c.regs.ea10 b (4 * nb) k
  match c.checkBlocks a b ma ha nb c.mayRead with
  | .error t => .error t
  | .ok () =>
    let m := ma.toNat
    let h := ha.toNat
    let x : VVal := ⟨BitVec.ofNat 512 (c.seenNat 0 m 64), BitVec.ofNat 128 (c.seenNat 1 h (4 * nb)) &&& hdrBits⟩
    let size := ty.blockBits / 8
    let hit (j : Nat) : Bool := c.seenMark 0 (m + size * j) size || c.seenMark 1 (h + 4 * j) 4
    let blk (j : Nat) : Blk :=
      if hit j then
        poisonBlk ty (match (x.blk ty j).read ty with
          | .poison o => orgMin (c.ownOrigin .lspsn) o
          | _ => c.ownOrigin .lspsn)
      else x.blk ty j
    let js := List.range nb
    .ok (c.modRegs fun r => ((r.wrVV d (ofBlks ty (js.map blk))).flag (psnFlag (js.any hit))).adv)

/-- BST (R145, R146): data and headers as they stand. The mantissa line is stored before the headers (DESIGN CHOICE: R145 and R22 give no order of the two accesses, log 6). -/
def Core.bstV (d a b : Reg) (ty : Ty) (k : BitVec 10) (c : Core) : Except Trap Core :=
  let nb := ty.blocks
  let ma := c.regs.ea10 a 64 k
  let ha := c.regs.ea10 b (4 * nb) k
  match c.checkBlocks a b ma ha nb c.mayWrite with
  | .error t => .error t
  | .ok () =>
    let m := ma.toNat
    let h := ha.toNat
    let x := c.regs.rdVV d
    let h0 := h / 8 * 8
    let hn := (h + 4 * nb + 7) / 8 * 8 - h0
    let keepM := !discards m
    let keepH := !discards h
    let c := c.roomForJournal ((if keepM then 1 else 0) + (if keepH then 1 else 0)) ((if keepM then 64 else 0) + (if keepH then hn else 0))
    let c := c.accesses ((if keepM then [⟨m, 64, m, natBytes x.data.toNat 64, false⟩] else [])
      ++ if keepH then [⟨h0, hn, h, natBytes x.side.toNat (4 * nb), false⟩] else [])
    .ok (c.modRegs fun r => (r.flag (psnFlag x.poisoned)).adv)

/-! ### The instructions -/


/-- BADD (R137). -/
def execBadd (p : Pred) (d : Reg) (a : VSrc) (b : Reg) (ty : Ty) (rnd : Rnd) (l : Lane) (s : State) : Out :=
  issue p (Core.block2 d a b ty rnd l xAdd) s

/-- BSUB (R137). -/
def execBsub (p : Pred) (d : Reg) (a : VSrc) (b : Reg) (ty : Ty) (rnd : Rnd) (l : Lane) (s : State) : Out :=
  issue p (Core.block2 d a b ty rnd l fun x y => xAdd x (xNeg y)) s

/-- BMUL (R137). -/
def execBmul (p : Pred) (d : Reg) (a : VSrc) (b : Reg) (ty : Ty) (rnd : Rnd) (l : Lane) (s : State) : Out :=
  issue p (Core.block2 d a b ty rnd l xMul) s

/-- BMIN (R137). -/
def execBmin (p : Pred) (d : Reg) (a : VSrc) (b : Reg) (ty : Ty) (rnd : Rnd) (l : Lane) (s : State) : Out :=
  issue p (Core.block2 d a b ty rnd l xMin) s

/-- BMAX (R137). -/
def execBmax (p : Pred) (d : Reg) (a : VSrc) (b : Reg) (ty : Ty) (rnd : Rnd) (l : Lane) (s : State) : Out :=
  issue p (Core.block2 d a b ty rnd l xMax) s

/-- BNEG (R137). -/
def execBneg (p : Pred) (d : Reg) (a : VSrc) (ty : Ty) (rnd : Rnd) (l : Lane) (s : State) : Out :=
  issue p (Core.block1 d a ty rnd l xNeg) s

/-- BSCALE (R138). -/
def execBscale (p : Pred) (d : Reg) (a : VSrc) (k : BitVec 10) (ty : Ty) (rnd : Rnd) (l : Lane) (s : State) : Out :=
  issue p (Core.block1 d a ty rnd l fun x => (x.1, x.2 + k.toInt)) s

/-- BNORM (R139). -/
def execBnorm (p : Pred) (d : Reg) (a : VSrc) (ty : Ty) (rnd : Rnd) (l : Lane) (s : State) : Out :=
  issue p (Core.block1 d a ty rnd l id) s

/-- BTOF (R140). -/
def execBtof (p : Pred) (d : Reg) (a : VSrc) (ty ty2 : Ty) (rnd : Rnd) (part : BitVec 3) (l : Lane) (s : State) : Out :=
  issue p (Core.btofB d a ty ty2 rnd part l) s

/-- BFROMF (R140). -/
def execBfromf (p : Pred) (d a b : Reg) (ty ty2 : Ty) (rnd : Rnd) (k : BitVec 2) (s : State) : Out :=
  issue p (Core.bfromfB d a b ty ty2 rnd k.toNat) s

/-- BREFMT (R139). -/
def execBrefmt (p : Pred) (d : Reg) (a : VSrc) (ty ty2 : Ty) (rnd : Rnd) (part : BitVec 3) (l : Lane) (s : State) : Out :=
  issue p (Core.brefmtB d a ty ty2 rnd part l) s

/-- BGETH: the header as it stands; reading a poisoned register sets PSN (R112, R141). -/
def execBgeth (p : Pred) (d : Reg) (a : VSrc) (k : BitVec 2) (s : State) : Out :=
  issue p (fun c =>
    c.withA a fun x c =>
      .ok (c.modRegs fun r => ((r.wrS d ((sideHdr x.side k.toNat).setWidth 64) false).flag (psnFlag x.poisoned)).adv)) s

/-- BSETH (R141). -/
def execBseth (p : Pred) (d a : Reg) (k : BitVec 2) (s : State) : Out :=
  issue p (fun c =>
    let r := c.regs
    let old := r.rdVV d
    let h : BitVec 32 := (r.rdS a).extractLsb' 2 30 ++ 0#2
    let new : VVal := if r.psn a then poisonReg (c.ownOrigin .spsn) else ⟨old.data, setHdr old.side k.toNat h⟩
    .ok (c.setRegs (((r.wrVV d new).flag (psnFlag (old.poisoned || new.poisoned))).adv))) s

/-- VLD (R143). -/
def execVld (p : Pred) (d a : Reg) (k : BitVec 10) (l : Lane) (s : State) : Out :=
  issue p (Core.vldV d a k l) s

/-- VST (R143). -/
def execVst (p : Pred) (d a : Reg) (k : BitVec 10) (mk : BitVec 3) (s : State) : Out :=
  issue p (Core.vstV d a k mk) s

/-- VLDX (R144). -/
def execVldx (p : Pred) (d a b : Reg) (l : Lane) (s : State) : Out :=
  issue p (Core.vldxV d a b l) s

/-- VSTX (R144). -/
def execVstx (p : Pred) (d a b : Reg) (mk : BitVec 3) (s : State) : Out :=
  issue p (Core.vstxV d a b mk) s

/-- BLD (R145). -/
def execBld (p : Pred) (d a b : Reg) (ty : Ty) (k : BitVec 10) (s : State) : Out :=
  issue p (Core.bldV d a b ty k) s

/-- BST (R145). -/
def execBst (p : Pred) (d a b : Reg) (ty : Ty) (k : BitVec 10) (s : State) : Out :=
  issue p (Core.bstV d a b ty k) s

/-- FQPOP: the entry as it stands (R67, R147). -/
def execFqpop (p : Pred) (d : Reg) (q : BitVec 1) (s : State) : Out :=
  issue p (fun c =>
    c.withA (.fq q) fun x c => .ok (c.modRegs fun r => ((r.wrVV d x).flag (psnFlag x.poisoned)).adv)) s

/-- FQDROP (R147). -/
def execFqdrop (p : Pred) (q : BitVec 1) (s : State) : Out :=
  issue p (fun c => c.withA (.fq q) fun _ c => .ok c.adv) s

/-- FQMARK (R147). -/
def execFqmark (p : Pred) (gd : GDst) (q : BitVec 1) (msk : BitVec 9) (s : State) : Out :=
  issue p (fun c =>
    match (c.ctx.feed q).live with
    | [] => .ok (c.feedStall q)
    | e :: _ => .ok (c.modRegs fun r => (r.setGuards gd ((e.marks &&& msk) != 0)).adv)) s

end Sys2Proof.Machine
end

