-- ==== Sys2Proof/Machine/Licence.lean ====
section
/-! DEFINITION. The matrix licence: the arbiter's moves (R164, R311 to R313), LICST as read (R33), and hand-overs with a migrating tile. -/
namespace Sys2Proof.Machine

/-- A field by its number. -/
def State.fieldAt (s : State) (f : Nat) : Field := (NMap.get? s.fields f).getD (Field.reset f)

/-- Replace a field. -/
def State.setFieldAt (s : State) (f : Nat) (x : Field) : State := { s with fields := NMap.set s.fields f x }

/-- The twin's request stands before the core's own: it is older, or as old and the bedstone's (R311, R315). -/
def Quern.twinAhead (q : Quern) (runner : Bool) : Bool :=
  match q.req (!runner), q.req runner with
  | none, _ => false
  | some _, none => true
  | some t, some m => decide (t < m) || (decide (t = m) && runner)

/-- A request is queued, unless one is already (R164). -/
def Quern.ask (q : Quern) (runner : Bool) (n : Nat) : Quern :=
  if (q.req runner).isSome then q else q.setReq runner (some n)

/-- Add quanta to the pool of a field. -/
def State.addPool (s : State) (f : Nat) (n : Int) : State :=
  let x := s.fieldAt f
  s.setFieldAt f { x with pool := x.pool + n }

/-- The holder gives up its licence: to a queued twin, with a release request and its original deadline, or back to the pool (R311 to R313). -/
def State.release (s : State) (k : Nat) : State :=
  let q := (s.quernAt (quernOf k)).stamp s.cycle
  let me := isRunner k
  if (q.req (!me)).isSome then s.setQuernAt (quernOf k) (q.give (!me) s.cycle)
  else (s.setQuernAt (quernOf k) { q with holder := none, rreq := none }).addPool (fieldOf k) 1

/-- MACQ of a core: the condition, and the state after it (R164, R311, R315). It sees the licence as it stood before this cycle: one that the twin has given up in this very cycle passes to the core, with a release request and its deadline, and a core that the twin has made holder in this very cycle asks for nothing. -/
def State.acquire (s : State) (k : Nat) : Bool × State :=
  let q := (s.quernAt (quernOf k)).stamp s.cycle
  let v := q.view s.cycle
  let me := isRunner k
  if v.held me then (true, s)
  else if q.held me then (false, s)
  else if v.isFree && q.isFree && !v.twinAhead me && decide (0 < (s.fieldAt (fieldOf k)).pool) then
    (true, (s.setQuernAt (quernOf k) (q.give me s.cycle)).addPool (fieldOf k) (-1))
  else if !v.isFree && q.isFree then
    (false, (s.setQuernAt (quernOf k) { q.give me s.cycle with rreq := v.rreq }).addPool (fieldOf k) (-1))
  else (false, s.setQuernAt (quernOf k) (q.ask me s.cycle))

/-- The core in focus held the licence before this cycle. -/
def State.holds (s : State) : Bool := (s.quern.view s.cycle).held (isRunner s.cur)

/-- The deadline of a release request has passed (R165). -/
def State.overdue (s : State) (k : Nat) : Bool :=
  match (s.quernAt (quernOf k)).rreq with
  | some r => decide (r.2 < s.cycle)
  | none => false

/-- A hand-over in progress uses this accumulator of a core. -/
def Quern.moving (q : Quern) (runner : Bool) (k : BitVec 2) : Bool :=
  match q.hand with
  | some h => if h.toRunner = runner then h.dst == k else h.src == k
  | none => false

/-- An instruction that names an accumulator of a hand-over in progress waits for it (R164). -/
def State.settle (s : State) (ks : List (BitVec 2)) : State :=
  if ks.any fun k => s.quern.moving (isRunner s.cur) k then s.migrate (quernOf s.cur) else s

/-- LICST (R33), with the licence as it stood before this cycle. While a hand-over is in progress both cores read HLD = 0 and TWH = 1 (R164). -/
def State.licst (s : State) (k : Nat) : Word :=
  let q := (s.quernAt (quernOf k)).view s.cycle
  let me := isRunner k
  let hold := q.held me
  let twin := q.hand.isSome || q.holder == some (!me)
  0#56 ++ (bit1 (s.coreAt k).twc ++ (0#2 ++ (bit1 (q.rreq.isSome && hold) ++ (bit1 (q.req me).isSome ++
    (bit1 twin ++ (bit1 hold ++ 0#1))))))

/-- MACQ (R164). -/
def execMacq (p : Pred) (gd : GDst) (s : State) : Out :=
  issueS p (fun s =>
    let r := s.acquire s.cur
    .ok (r.2.setCore (r.2.core.modRegs fun x => (x.setGuards gd r.1).adv))) s

/-- MREL (R164, R168). -/
def execMrel (p : Pred) (s : State) : Out :=
  issueS p (fun s =>
    let me := isRunner s.cur
    let s := s.setCore s.core.drainMma
    let s :=
      if s.holds then s.release s.cur
      else s.setQuern ((s.quern.stamp s.cycle).setReq me none)
    .ok (s.setCore s.core.adv.commit)) s

/-- MXFR (R164, R168). -/
def execMxfr (p : Pred) (s : State) : Out :=
  issueS p (fun s =>
    let me := isRunner s.cur
    if s.holds then
      let s := s.setCore s.core.adv.commit
      .ok (s.setQuern ((s.quern.stamp s.cycle).give (!me) s.cycle))
    else .error (trap0 .nolic)) s

/-- MXFR with a migrating tile (R164, R168). A request of the twin stays queued until the twin is holder. -/
def execMxfrMigrate (p : Pred) (a b : BitVec 2) (s : State) : Out :=
  issueS p (fun s =>
    let me := isRunner s.cur
    if s.holds then
      let s := s.setCore s.core.adv.commit
      .ok (s.setQuern { s.quern.stamp s.cycle with holder := none, hand := some ⟨!me, a, b⟩ })
    else .error (trap0 .nolic)) s

/-- The tile of a migrating MXFR lands (R164). -/
def execMigrationDone (q : Nat) (s : State) : Out :=
  if (s.quernAt q).hand.isSome then .next (s.migrate q) else .refused (.notEnabled "MIGRATION_DONE")

end Sys2Proof.Machine
end

