-- ==== Sys2Proof/Machine/ControlRegs.lean ====
section
/-! DEFINITION. The control registers: their readings (R25 to R36), and CRR, CRW, CRS and CRC with the write codes of R7 (OP 0x1A, R117, R118). -/
namespace Sys2Proof.Machine

/-! ### Release of an island (R214, R293) -/

/-- A bind request is held: its id is still bound, or its core is still under the gate of another island (R214, R293; log 31). -/
def BindReq.barred (b : BindReq) (isls : List Island) : Bool := isls.any fun i => i.gid == b.gid && (i.iid == b.iid || i.members.contains b.core)

/-- A member releases its island. After the last release the island's binding ends, what has been sent to its members still lands at its value (R214; log 31), and requests held for it count as arriving now. -/
def State.islandRelease (s : State) (k : Nat) : State :=
  let c := s.coreAt k
  if c.islBnd then
    let s := s.setCoreAt k { c with islBnd := false }
    let upd (i : Island) : Island := if i.members.contains k && !i.released.contains k then { i with released := i.released ++ [k] } else i
    let isls := s.seq.islands.map upd
    let gone := isls.filter fun i => i.members.all fun m => i.released.contains m
    let left := isls.filter fun i => !(i.members.all fun m => i.released.contains m)
    let wake (b : BindReq) : BindReq := if b.held && !b.barred left then { b with held := false, since := s.cycle } else b
    let land (c : Core) : Core := { c with landing := c.landing.map fun x => { x with path := [], on := none, arrived := true } }
    let s := (gone.flatMap Island.members).foldl (fun s m => s.setCoreAt m (land (s.coreAt m))) s
    { s with seq := { s.seq with islands := left, binds := s.seq.binds.map wake } }
  else s

/-! ### Readings -/

/-- CTXID (R26). -/
def Core.ctxid (c : Core) : Word := 0#53 ++ (c.ctx.prio ++ (0#5 ++ (bit1 c.prv ++ c.run)))

/-- ISLCFG (R34). -/
def Core.islcfg (c : Core) : Word :=
  c.scnt.extractLsb' 0 16 ++ (c.islIid ++ (0#16 ++ (c.islPad ++ (0#7 ++ bit1 c.islBnd))))

/-- PMAPC (R35). -/
def Core.pmapc (c : Core) : Word := c.pmMiss ++ (0#11 ++ (BitVec.ofNat 5 c.pmCache.length ++ 0#16))

/-- FQSTn (R36, R230). -/
def FeedQ.status (q : FeedQ) : Word :=
  0#55 ++ (bit1 (q.live.any fun e => e.marks.getLsbD 8) ++ (0#3 ++ BitVec.ofNat 5 q.live.length))

/-- The value of a control register (R25). -/
def State.crRead (s : State) (idx : BitVec 12) : Word :=
  let c := s.core
  match idx.toNat with
  | 0x000 => c.ctxid
  | 0x001 => c.grpid
  | 0x002 => c.name
  | 0x003 => (c.name.extractLsb' 24 8).setWidth 64
  | 0x004 => c.relpos
  | 0x010 => c.regs.astatWord
  | 0x020 => c.trapvec
  | 0x030 => s.licst s.cur
  | 0x031 => c.islcfg
  | 0x040 => c.pmapc
  | 0x060 => c.cycle
  | 0x061 => c.wdogLim.setWidth 64
  | 0x070 => c.ctx.fq0.status
  | 0x071 => c.ctx.fq1.status
  | n =>
    if 0x028 ≤ n ∧ n < 0x030 then c.ctx.trapRec.toList.getD (n - 0x028) 0
    else (c.accAt (BitVec.ofNat 2 n)).stWord

/-! ### Writes -/

/-- The RW fields of a control register (R26 to R36). -/
def crRw (idx : BitVec 12) : Word :=
  match idx.toNat with
  | 0x001 => 0x00001F1F07FFFFFF
  | 0x002 => 0x000FFFFFFF01FFFF
  | 0x003 => 0x00000000000000FF
  | 0x004 => 0x0000000003FF007F
  | 0x020 => 0x00000000000FFFF9
  | 0x031 => 0x0000FFFF0000FF01
  | 0x040 => 0x0000000000000001
  | 0x061 => 0x00000000FFFFFFFF
  | _ => 0

/-- The W1C fields of a control register (R30, R31, R33). -/
def crW1c (idx : BitVec 12) : Word :=
  match idx.toNat with
  | 0x010 => 0x7F
  | 0x030 => 0x80
  | 0x050 | 0x051 | 0x052 | 0x053 => 0x7F
  | _ => 0

/-- A write of the register takes privilege (R25). -/
def crPriv (idx : BitVec 12) : Bool :=
  let n := idx.toNat
  (decide (1 ≤ n) && decide (n ≤ 4)) || (decide (0x028 ≤ n) && decide (n < 0x030)) || n == 0x031 || n == 0x060 || n == 0x061

/-- The register has core scope (R25). -/
def crCore (idx : BitVec 12) : Bool :=
  !(idx == 0#12 || idx == 0x010#12 || idx == 0x070#12 || idx == 0x071#12 || (decide (0x028 ≤ idx.toNat) && decide (idx.toNat < 0x030)))

/-- Store new values of the RW fields and clear W1C bits. A core-scope register's old value goes into the journal (R224). -/
def State.crStore (s : State) (idx : BitVec 12) (rw w1c : Word) : State :=
  let old := s.crRead idx
  let c := if crCore idx then s.core.journalCr idx old else s.core
  match idx.toNat with
  | 0x001 => s.setCore { c with grpid := rw }
  | 0x002 => s.setCore { c with name := rw }
  | 0x003 => s.setCore { c with name := c.name.extractLsb' 32 32 ++ (rw.extractLsb' 0 8 ++ c.name.extractLsb' 0 24) }
  | 0x004 => s.setCore { c with relpos := rw }
  | 0x010 => s.setCore (c.modRegs fun r => r.unflag (w1c.extractLsb' 0 7))
  | 0x020 => s.setCore { c with trapvec := rw }
  | 0x030 => s.setCore { c with twc := c.twc && !w1c.getLsbD 7 }
  | 0x031 =>
    if c.islBnd then
      if rw.getLsbD 0 then s.setCore c else (s.setCore c).islandRelease s.cur
    else s.setCore { c with islIid := rw.extractLsb' 32 16, islPad := rw.extractLsb' 8 8 }
  | 0x040 => s.setCore (if rw.getLsbD 0 then { c with pmCache := [] } else c)
  | 0x061 => s.setCore { c with wdogLim := rw.extractLsb' 0 32 }
  | n =>
    if 0x050 ≤ n ∧ n < 0x054 then
      let k := BitVec.ofNat 2 n
      let a := c.accAt k
      s.setCore ((c.keepAcc k).setAcc k { a with flags := a.flags &&& ~~~(w1c.extractLsb' 0 7) })
    else s.setCore c

/-- An access to a status register waits for the instructions that set its flags (R118, R153, R164). -/
def State.crSync (s : State) (idx : BitVec 12) : State :=
  if idx = 0x010#12 then s.setCore s.core.drainMma
  else if 0x050 ≤ idx.toNat ∧ idx.toNat < 0x054 then
    let k := BitVec.ofNat 2 idx.toNat
    let s := s.settle [k]
    if s.core.mma.any fun m => m.acc == k then s.setCore s.core.drainMma else s
  else s

/-- Advance the pc of the core in focus. -/
def State.adv (s : State) : State := s.setCore s.core.adv

/-- The checks of a control-register write: privilege, then poison (R25, R93, R205). -/
def State.crCheck (s : State) (idx : BitVec 12) (a : Reg) : Except Trap Unit :=
  if crPriv idx && !s.core.prv then .error (trap0 .priv) else psnUse s.core.regs [a]

/-- A control-register read into d. -/
def State.crInto (s : State) (d : Reg) (x : Word) : State := s.setCore (s.core.modRegs fun r => r.wrS d x false)

/-- CRW of a register (R117). -/
def State.crw (idx : BitVec 12) (a : Reg) (s : State) : Except Trap State :=
  match s.crCheck idx a with
  | .error t => .error t
  | .ok () =>
    let s := s.crSync idx
    let v := s.core.regs.rdS a
    .ok ((s.crStore idx ((s.crRead idx &&& ~~~crRw idx) ||| (v &&& crRw idx)) (v &&& crW1c idx)).adv)

/-- CRS and CRC: the RW fields take a value computed from the old value and s[A] (R117). -/
def State.crMod (d : Reg) (idx : BitVec 12) (a : Reg) (f : Word → Word → Word) (s : State) : Except Trap State :=
  match s.crCheck idx a with
  | .error t => .error t
  | .ok () =>
    let s := s.crSync idx
    let v := s.core.regs.rdS a
    let old := s.crRead idx
    .ok (((s.crStore idx ((old &&& ~~~crRw idx) ||| (f old v &&& crRw idx)) 0).crInto d old).adv)

/-- CRR (R117). -/
def execCrr (p : Pred) (d : Reg) (idx : BitVec 12) (s : State) : Out :=
  issueS p (fun s =>
    let s := s.crSync idx
    .ok ((s.crInto d (s.crRead idx)).adv)) s

/-- CRW (R117). -/
def execCrw (p : Pred) (idx : BitVec 12) (a : Reg) (s : State) : Out :=
  issueS p (State.crw idx a) s

/-- CRS (R117). -/
def execCrs (p : Pred) (d : Reg) (idx : BitVec 12) (a : Reg) (s : State) : Out :=
  issueS p (State.crMod d idx a fun c v => c ||| v) s

/-- CRC (R117). -/
def execCrc (p : Pred) (d : Reg) (idx : BitVec 12) (a : Reg) (s : State) : Out :=
  issueS p (State.crMod d idx a fun c v => c &&& ~~~v) s

/-- CRW of PMAPC: a 1 in INV invalidates every entry (R35). -/
def execPmapcInv (p : Pred) (a : Reg) (s : State) : Out :=
  issueS p (State.crw 0x040 a) s

/-- CRW of ISLCFG: a 0 in BND releases the island (R34). -/
def execIslcfgUnbind (p : Pred) (a : Reg) (s : State) : Out :=
  issueS p (State.crw 0x031 a) s

end Sys2Proof.Machine
end

