-- ==== Sys2Proof/Machine/Outbound.lean ====
section
/-! DEFINITION. Outbound operations: relative names (R37, R40, R170), the send hold buffer (R169, R225), sends (R172), remote operations (R191), tickets (R193), fences (R197), and the operations that go to the launch sequencer (R194, R196, R206, R208, R214, R216): OP 0xA0, 0xA5 to 0xA7, 0xC0, 0xC2 and 0xC3. -/
namespace Sys2Proof.Machine

/-! ### Names (R37 to R40, R170) -/

/-- MOD of NAME (R28). -/
def Core.modu (c : Core) : BitVec 20 := c.name.extractLsb' 32 20

/-- ADDR of NAME (R28). -/
def Core.addr (c : Core) : BitVec 32 := c.name.extractLsb' 0 32

/-- NPG of GRPID (R27). -/
def Core.npg (c : Core) : Nat := (c.grpid.extractLsb' 16 10).toNat

/-- A page-map entry as the map holds it (R39). -/
def Core.pageEntry (c : Core) (pg : Nat) : BitVec 32 := BitVec.ofNat 32 (c.rdNat (0xFC000 + 4 * pg) 4)

/-- PageMapLookup: a miss is counted and fills the 16-entry cache (R35, R40). -/
def Core.pageLookup (c : Core) (pg : BitVec 10) : Core × BitVec 32 :=
  match c.pmCache.find? fun e => e.1 == pg with
  | some e => (c, e.2)
  | none =>
    let e := c.pageEntry pg.toNat
    let kept := if c.pmCache.length < 16 then c.pmCache else c.pmCache.eraseIdx (Config.victim c.free % 16)
    ({ c with
      pmCache := kept ++ [(pg, e)]
      pmMiss := if c.pmMiss = BitVec.allOnes 32 then c.pmMiss else c.pmMiss + 1
      free := c.free + 1 }, e)

/-- The named address of a relative one under a page-map entry (R40). -/
def namedOf (rel e : BitVec 32) : BitVec 32 :=
  e.extractLsb' 24 8 ++ (0#7 ++ (rel.extractLsb' 6 1 ++ ((e.extractLsb' 5 5 ++ rel.extractLsb' 3 3) ++ (e.extractLsb' 0 5 ++ rel.extractLsb' 0 3))))

/-- RelToNamed (R40): none where it traps. -/
def Core.relToNamed (c : Core) (rel : BitVec 32) : Option (Core × BitVec 32) :=
  if rel.extractLsb' 26 6 ≠ 0 ∨ rel.extractLsb' 7 9 ≠ 0 then none
  else
    let pg := rel.extractLsb' 16 10
    if pg.toNat > c.npg then none
    else
      let r := c.pageLookup pg
      if r.2.getLsbD 10 then some (r.1, namedOf rel r.2) else none

/-- A destination in the named form of R170. -/
def namedWord (m : BitVec 20) (a : BitVec 32) : Word := 0#12 ++ (m ++ a)

/-- The module of a named word. -/
def wordMod (w : Word) : BitVec 20 := w.extractLsb' 32 20

/-- The named address of a named word. -/
def wordAddr (w : Word) : BitVec 32 := w.extractLsb' 0 32

/-- The key of a named address: its tier, row and column (R38). -/
def keyOfAddr (a : BitVec 32) : Nat := (a.extractLsb' 0 17).toNat

/-- Translate a relative destination of an instruction: a failure traps BADREL with the operand (R170, R325). -/
def Core.translate (c : Core) (rel : BitVec 32) (info : Word) : Except Trap (Core × Word) :=
  match c.relToNamed rel with
  | some r => .ok (r.1, namedWord c.modu r.2)
  | none => .error ⟨.badrel, info⟩

/-- A relative destination operand (R170). -/
def Core.relOperand (c : Core) (w : Word) : Except Trap (Core × Word) :=
  if w.extractLsb' 32 32 ≠ 0 then .error ⟨.badrel, w⟩ else c.translate (w.extractLsb' 0 32) w

/-- A named destination operand (R170). -/
def namedOperand (w : Word) : Except Trap Word :=
  if w.extractLsb' 52 12 ≠ 0 ∨ w.extractLsb' 17 7 ≠ 0 then .error ⟨.badrel, w⟩ else .ok w

/-- The relative core address of a remote endpoint word (R170). -/
def endRel (w : Word) : BitVec 32 := 0#6 ++ w.extractLsb' 32 26
/-- The local address of a remote endpoint word. -/
def endAddr (w : Word) : LAddr := w.extractLsb' 0 20
/-- The channel of a remote endpoint word. -/
def endCh (w : Word) : BitVec 6 := w.extractLsb' 20 6

/-- A remote endpoint word (R170). -/
def Core.endOperand (c : Core) (w : Word) : Except Trap (Core × Word) :=
  if w.extractLsb' 26 6 ≠ 0 ∨ w.extractLsb' 58 6 ≠ 0 then .error ⟨.badrel, w⟩ else c.translate (endRel w) w

/-! ### The hold buffer (R169, R225) -/

/-- Bytes of a record: 32 and the payload rounded up to 8. -/
def recordSize (len : Nat) : Nat := 32 + (len + 7) / 8 * 8

/-- The position of the oldest record in use. The room of a record freed out of order is usable once every older record is freed, and a record may lie across the end of the ring at 0xF_3FFF (DESIGN CHOICE, log 16). -/
def Core.holdHead (c : Core) : Nat := (c.ops.filter fun o => o.size != 0).foldl (fun m o => min m o.off) c.holdTail

/-- A record of this size fits (R169). -/
def Core.holdRoom (c : Core) (size : Nat) : Bool := decide (c.holdTail + size - c.holdHead ≤ 8192)

/-- An operation of the running context with nothing filled in. -/
def Core.newOp (c : Core) (op : BitVec 8) (fn : BitVec 6) : Op :=
  { id := c.nextOp, ctx := c.run, op := op, fn := fn, tkt := none, cls := 0, kind := 0, ch := 0, dst := 0, rel := none, laddr := 0,
    opa := 0, opb := 0, opc := 0, psn := false, ty := .none, payload := [], prv := c.prv, pc := c.regs.pc, word := c.rdWord c.regs.pc.toNat, committed := false, st := .held, resend := false, since := 0,
    after := c.ctx.fence, off := 0, size := 0, owes := none }

/-- Enter an operation into the hold buffer. -/
def Core.pushOp (c : Core) (o : Op) : Core :=
  let o := { o with id := c.nextOp, off := c.holdTail, size := recordSize o.payload.length }
  let pad : List Byte := List.replicate (o.size - 32 - o.payload.length) 0
  let c := c.wrHold o.off (o.header ++ o.payload.map Prod.fst ++ pad)
  { c with ops := c.ops ++ [o], nextOp := c.nextOp + 1, holdTail := c.holdTail + o.size }

/-- A ticket as a scalar value (R193). -/
def tktWord (t : BitVec 16) : Word := t.setWidth 64

/-- Issue an outbound operation with a ticket of a kind, or without one. Where it does not fit or the ticket's slot is still outstanding, the window closes at it, and it stalls while nothing is freed (R169, R193). -/
def Core.issueOp (c : Core) (d : Option (Reg × BitVec 4)) (mk : Core → Op) : Except Trap Core :=
  let ready (c : Core) : Bool := c.holdRoom (recordSize (mk c).payload.length) && (d.isNone || !c.ticketBusy)
  let c := if ready c then c else c.commit
  if ready c then
    match d with
    | none => .ok (c.pushOp (mk c)).adv
    | some (r, kind) =>
      let x := c.allocTicket kind
      .ok ((x.1.pushOp { mk x.1 with tkt := some x.2 }).modRegs fun g => (g.wrS r (tktWord x.2) false).adv)
  else .ok c

/-! ### Sends (R172) -/

/-- Checks 2 and 3 of R172 and the like: the registers whose poison traps, B only when a length is not 0 or C is itself poisoned. -/
def lenRegs (r : Regs) (a b cr : Reg) : List Reg := if r.psn cr || r.rdS cr != 0 then [a, b, cr] else [a, cr]

/-- The payload's checks: length, range, alignment, in the order of R94 (R172, R191). -/
def Core.payload (c : Core) (b cr : Reg) : Except Trap (List MByte) :=
  let a := c.regs.rdS b
  let n := c.regs.rdS cr
  if 2048 < n.toNat then .error ⟨.msglen, n⟩
  else if n = 0 then .ok []
  else if !c.mayRead a.toNat n.toNat then .error ⟨.badaddr, a⟩
  else if a.toNat % 8 ≠ 0 then .error ⟨.misaln, a⟩
  else .ok (c.seenMarked a.toNat n.toNat)

/-- SEND and XSEND with a destination already in named form. -/
def Core.sendTo (c : Core) (fn : BitVec 6) (rel : Option (BitVec 32)) (dst : Word) (b cr : Reg) (ch : BitVec 6) (wait : Bool) : Except Trap Core :=
  match c.payload b cr with
  | .error t => .error t
  | .ok bs =>
    if wordMod dst ≠ c.modu ∧ bs.any Prod.snd then .error (trap0 .psnsink)
    else
      let waits (c : Core) : Prereq :=
        if wait then
          { c.ctx.fence with streams := c.ctx.fence.streams ++ (c.streams.filter fun x => x.ctx == c.run && x.kind != .sbar).map Stream.id }
        else c.ctx.fence
      c.issueOp none fun c => { c.newOp 0xA0 fn with
        kind := 1, ch := ch, dst := dst, rel := rel, opa := c.regs.rdS b, opb := c.regs.rdS cr, payload := bs, after := waits c }

/-- SEND (R172): a relative destination. -/
def Core.send (a b cr : Reg) (ch : BitVec 6) (rel : Bool) (c : Core) : Except Trap Core :=
  if 56 ≤ ch.toNat ∧ !c.prv then .error (trap0 .priv)
  else
    match psnUse c.regs (lenRegs c.regs a b cr) with
    | .error t => .error t
    | .ok () =>
      match c.relOperand (c.regs.rdS a) with
      | .error t => .error t
      | .ok r => r.1.sendTo (if rel then 1 else 0) (some ((c.regs.rdS a).extractLsb' 0 32)) r.2 b cr ch rel

/-- XSEND (R172): a named destination. -/
def Core.xsend (a b cr : Reg) (ch : BitVec 6) (rel : Bool) (c : Core) : Except Trap Core :=
  if 56 ≤ ch.toNat ∧ !c.prv then .error (trap0 .priv)
  else
    match psnUse c.regs (lenRegs c.regs a b cr) with
    | .error t => .error t
    | .ok () =>
      match namedOperand (c.regs.rdS a) with
      | .error t => .error t
      | .ok w => c.sendTo (if rel then 3 else 2) none w b cr ch rel

/-- SEND (R172). -/
def execSend (p : Pred) (a b c : Reg) (ch : BitVec 6) (s : State) : Out := issue p (Core.send a b c ch false) s

/-- SEND.REL (R172). -/
def execSendRel (p : Pred) (a b c : Reg) (ch : BitVec 6) (s : State) : Out := issue p (Core.send a b c ch true) s

/-- XSEND (R172). -/
def execXsend (p : Pred) (a b c : Reg) (ch : BitVec 6) (s : State) : Out := issue p (Core.xsend a b c ch false) s

/-- XSEND.REL (R172). -/
def execXsendRel (p : Pred) (a b c : Reg) (ch : BitVec 6) (s : State) : Out := issue p (Core.xsend a b c ch true) s

/-! ### Remote operations (R191) -/

/-- PUT (R191). -/
def Core.put (d a b cr : Reg) (c : Core) : Except Trap Core :=
  let w := c.regs.rdS a
  match psnUse c.regs (lenRegs c.regs a b cr) with
  | .error t => .error t
  | .ok () =>
    match c.endOperand w with
    | .error t => .error t
    | .ok r =>
      let n := (c.regs.rdS cr).toNat
      if 2048 < n then .error ⟨.msglen, c.regs.rdS cr⟩
      else if n ≠ 0 ∧ !inProgram (endAddr w).toNat n then .error ⟨.badaddr, (endAddr w).setWidth 64⟩
      else if n ≠ 0 ∧ !c.mayRead (c.regs.rdS b).toNat n then .error ⟨.badaddr, c.regs.rdS b⟩
      else if n ≠ 0 ∧ (endAddr w).toNat % 8 ≠ 0 then .error ⟨.misaln, (endAddr w).setWidth 64⟩
      else if n ≠ 0 ∧ (c.regs.rdS b).toNat % 8 ≠ 0 then .error ⟨.misaln, c.regs.rdS b⟩
      else
        let bs := if n = 0 then [] else c.seenMarked (c.regs.rdS b).toNat n
        r.1.issueOp (some (d, 1)) fun c => { c.newOp 0xA5 0 with
          kind := 2, dst := r.2, rel := some (endRel w), laddr := endAddr w, opa := c.regs.rdS b, opb := c.regs.rdS cr, payload := bs }

/-- GET (R191). -/
def Core.get (d a b cr : Reg) (c : Core) : Except Trap Core :=
  let w := c.regs.rdS a
  match psnUse c.regs (lenRegs c.regs a b cr) with
  | .error t => .error t
  | .ok () =>
    match c.endOperand w with
    | .error t => .error t
    | .ok r =>
      let n := (c.regs.rdS cr).toNat
      if 2048 < n then .error ⟨.msglen, c.regs.rdS cr⟩
      else if n ≠ 0 ∧ !inProgram (endAddr w).toNat n then .error ⟨.badaddr, (endAddr w).setWidth 64⟩
      else if n ≠ 0 ∧ !inProgram (c.regs.rdS b).toNat n then .error ⟨.badaddr, c.regs.rdS b⟩
      else if n ≠ 0 ∧ (endAddr w).toNat % 8 ≠ 0 then .error ⟨.misaln, (endAddr w).setWidth 64⟩
      else if n ≠ 0 ∧ (c.regs.rdS b).toNat % 8 ≠ 0 then .error ⟨.misaln, c.regs.rdS b⟩
      else
        r.1.issueOp (some (d, 2)) fun c => { c.newOp 0xA5 1 with
          kind := 3, dst := r.2, rel := some (endRel w), laddr := endAddr w, opa := c.regs.rdS b, opb := c.regs.rdS cr }

/-- A remote atomic (R191): `k` is FN[2:0], and `cs` the compare register of CAS. -/
def Core.ra (k : BitVec 3) (d a b : Reg) (cs : List Reg) (ty : Ty) (c : Core) : Except Trap Core :=
  let w := c.regs.rdS a
  let n := ty.width / 8
  match psnUse c.regs [a] with
  | .error t => .error t
  | .ok () =>
    match c.endOperand w with
    | .error t => .error t
    | .ok r =>
      if !inProgram (endAddr w).toNat n then .error ⟨.badaddr, (endAddr w).setWidth 64⟩
      else if (endAddr w).toNat % n ≠ 0 then .error ⟨.misaln, (endAddr w).setWidth 64⟩
      else
        let bad := (b :: cs).any fun i => c.regs.psn i
        match r.1.issueOp (some (d, 3)) fun c => { c.newOp 0xA5 (0#2 ++ (1#1 ++ k)) with
          kind := 4, dst := r.2, rel := some (endRel w), laddr := endAddr w, opa := c.regs.rdS b
          opb := (cs.map c.regs.rdS).headD 0, psn := bad, ty := ty } with
        | .error t => .error t
        | .ok c' => .ok (if c'.regs.pc = c.regs.pc then c' else c'.modRegs fun g => g.flag (psnFlag bad))

/-- PUT (R191). -/
def execPut (p : Pred) (d a b c : Reg) (s : State) : Out := issue p (Core.put d a b c) s

/-- GET (R191). -/
def execGet (p : Pred) (d a b c : Reg) (s : State) : Out := issue p (Core.get d a b c) s

/-- RA.ADD (R191). -/
def execRaAdd (p : Pred) (d a b : Reg) (ty : Ty) (s : State) : Out := issue p (Core.ra 0 d a b [] ty) s

/-- RA.AND (R191). -/
def execRaAnd (p : Pred) (d a b : Reg) (ty : Ty) (s : State) : Out := issue p (Core.ra 1 d a b [] ty) s

/-- RA.OR (R191). -/
def execRaOr (p : Pred) (d a b : Reg) (ty : Ty) (s : State) : Out := issue p (Core.ra 2 d a b [] ty) s

/-- RA.XOR (R191). -/
def execRaXor (p : Pred) (d a b : Reg) (ty : Ty) (s : State) : Out := issue p (Core.ra 3 d a b [] ty) s

/-- RA.MIN (R191). -/
def execRaMin (p : Pred) (d a b : Reg) (ty : Ty) (s : State) : Out := issue p (Core.ra 4 d a b [] ty) s

/-- RA.MAX (R191). -/
def execRaMax (p : Pred) (d a b : Reg) (ty : Ty) (s : State) : Out := issue p (Core.ra 5 d a b [] ty) s

/-- RA.SWP (R191). -/
def execRaSwp (p : Pred) (d a b : Reg) (ty : Ty) (s : State) : Out := issue p (Core.ra 6 d a b [] ty) s

/-- RA.CAS (R191). -/
def execRaCas (p : Pred) (d a b c : Reg) (ty : Ty) (s : State) : Out := issue p (Core.ra 7 d a b [c] ty) s

/-! ### Reading tickets (R193) -/

/-- The bits [63:16] of a scalar are zero, or BADARG; poison first (R193, R216). -/
def Core.small16 (c : Core) (a : Reg) : Except Trap (BitVec 16) :=
  match psnUse c.regs [a] with
  | .error t => .error t
  | .ok () => if (c.regs.rdS a).extractLsb' 16 48 ≠ 0 then .error (trap0 .badarg) else .ok ((c.regs.rdS a).extractLsb' 0 16)

/-- The status word of a ticket (R193). -/
def Core.ticketWord (c : Core) (t : BitVec 16) : Word :=
  match c.heldTicket t with
  | some x => 0#36 ++ (x.cause ++ (0#4 ++ (x.kind ++ (0#5 ++ (bit1 x.psn ++ (0#1 ++ bit1 x.done))))))
  | none => 2

/-- TKST (R193). -/
def execTkst (p : Pred) (d a : Reg) (s : State) : Out :=
  issue p (fun c =>
    match c.small16 a with
    | .error t => .error t
    | .ok t => .ok (c.modRegs fun r => (r.wrS d (c.ticketWord t) false).adv)) s

/-- TKST with w = 1: the old value of an RA, 0 for another kind (R193, R229). -/
def execTkstValue (p : Pred) (d a : Reg) (s : State) : Out :=
  issue p (fun c =>
    match c.small16 a with
    | .error t => .error t
    | .ok t =>
      match c.heldTicket t with
      | some x =>
        if x.kind = 3#4 then
          .ok (c.modRegs fun r => ((r.wrS d (c.rdWord (0xFE000 + 8 * slotOf t)) x.psn).flag (psnFlag x.psn)).adv)
        else .ok (c.modRegs fun r => (r.wrS d 0 false).adv)
      | none => .ok (c.modRegs fun r => (r.wrS d 0 false).adv)) s

/-! ### Fences (R197) -/

/-- A named word names a core of the group: its page stands in the page map (R39). -/
def Core.inGroup (c : Core) (w : Word) : Bool :=
  wordMod w == c.modu && (List.range (c.npg + 1)).any fun pg =>
    let e := c.pageEntry pg
    e.getLsbD 10 && e.extractLsb' 5 5 == w.extractLsb' 11 5 && e.extractLsb' 0 5 == w.extractLsb' 3 5

/-- A named word names the twin core. -/
def Core.isTwin (c : Core) (w : Word) : Bool :=
  wordMod w == c.modu && w.extractLsb' 0 16 == c.name.extractLsb' 0 16 && w.extractLsb' 16 1 != c.name.extractLsb' 16 1

/-- The destination of a stream command with a remote destination, as a named word. -/
def Core.streamCore (c : Core) (x : Stream) : Word :=
  let e := c.pageEntry ((endRel x.dst).extractLsb' 16 10).toNat
  namedWord c.modu (namedOf (endRel x.dst) e)

/-- Later outbound operations of the context wait for earlier operations that have not left, for chosen stream commands, and for chosen operations not yet acknowledged (R197). No scope waits for a combine step: a CTRB has only to leave. -/
def Core.fence (c : Core) (streams : Stream → Bool) (ops : Op → Bool) : Core :=
  let f := c.ctx.fence
  let mine (o : Op) : Bool := o.ctx == c.run
  (c.setCtx { c.ctx with fence :=
    { streams := f.streams ++ (c.streams.filter fun x => x.ctx == c.run && x.kind != .sbar && streams x).map Stream.id
      left := f.left ++ (c.ops.filter mine).map Op.id
      acked := f.acked ++ (c.ops.filter fun o => mine o && o.kind != 0x35#6 && ops o).map Op.id } }).adv

/-- The stream command writes local store or an own feed queue. -/
def Stream.isLocal (x : Stream) : Bool := x.dstSp == 0#2 && !x.remote

/-- The stream command writes another core. -/
def Stream.toCore (x : Stream) : Bool := x.dstSp == 2#2 || x.remote

/-- FENCE.CTX (R197). -/
def execFenceCtx (p : Pred) (s : State) : Out := issue p (fun c => .ok (c.fence (fun _ => false) fun _ => false)) s

/-- FENCE.CORE (R197). -/
def execFenceCore (p : Pred) (s : State) : Out := issue p (fun c => .ok (c.fence Stream.isLocal fun _ => false)) s

/-- FENCE.PAIR (R197). -/
def execFencePair (p : Pred) (s : State) : Out :=
  issue p (fun c => .ok (c.fence (fun x => x.isLocal || (x.toCore && c.isTwin (c.streamCore x))) fun o => c.isTwin o.dst)) s

/-- FENCE.GRP (R197). -/
def execFenceGrp (p : Pred) (s : State) : Out :=
  issue p (fun c => .ok (c.fence (fun x => x.isLocal || x.toCore) fun o => o.rel.isSome || c.inGroup o.dst)) s

/-- FENCE.MOD (R197). -/
def execFenceMod (p : Pred) (s : State) : Out :=
  issue p (fun c => .ok (c.fence (fun x => x.isLocal || x.toCore) fun o => wordMod o.dst == c.modu)) s

/-- FENCE.SYS (R197). -/
def execFenceSys (p : Pred) (s : State) : Out := issue p (fun c => .ok (c.fence (fun _ => true) fun _ => true)) s

/-! ### Operations that go to the launch sequencer -/

/-- The words of local store at an address. -/
def Core.words (c : Core) (a n : Nat) : List Word := (List.range n).map fun i => c.rdWord (a + 8 * i)

/-- A 64-byte operand at s[A] in the program range (R194, R216). -/
def Core.line64 (c : Core) (a : Reg) : Except Trap (List MByte) :=
  let x := c.regs.rdS a
  if !inProgram x.toNat 64 then .error ⟨.badaddr, x⟩
  else if x.toNat % 64 ≠ 0 then .error ⟨.misaln, x⟩
  else .ok (c.seenMarked x.toNat 64)

/-- TBUILD (R194). -/
def execTbuild (p : Pred) (d a : Reg) (s : State) : Out :=
  issue p (fun c =>
    match psnUse c.regs [a] with
    | .error t => .error t
    | .ok () =>
      match c.line64 a with
      | .error t => .error t
      | .ok bs => c.issueOp (some (d, 4)) fun c => { c.newOp 0xA6 1 with cls := 2, kind := 0x34, opa := c.regs.rdS a, payload := bs }) s

/-- TFREE (R196). -/
def execTfree (p : Pred) (d a : Reg) (s : State) : Out :=
  issue p (fun c =>
    match psnUse c.regs [a] with
    | .error t => .error t
    | .ok () => c.issueOp (some (d, 5)) fun c => { c.newOp 0xA6 2 with cls := 2, kind := 0x34, opa := c.regs.rdS a }) s

/-- ISBIND (R214). -/
def execIsbind (p : Pred) (d a : Reg) (s : State) : Out :=
  issue p (fun c =>
    match c.small16 a with
    | .error t => .error t
    | .ok _ => c.issueOp (some (d, 10)) fun c => { c.newOp 0xC2 0 with cls := 2, kind := 0x34, opa := c.regs.rdS a }) s

/-- LAUNCH (R216). -/
def execLaunch (p : Pred) (d a b : Reg) (s : State) : Out :=
  issue p (fun c =>
    match psnUse c.regs [a, b] with
    | .error t => .error t
    | .ok () =>
      if !inProgram (c.regs.rdS a).toNat 64 then .error ⟨.badaddr, c.regs.rdS a⟩
      else if (c.regs.rdS b).extractLsb' 4 60 ≠ 0 then .error (trap0 .badarg)
      else
        match c.line64 a with
        | .error t => .error t
        | .ok bs => c.issueOp (some (d, 11)) fun c => { c.newOp 0xC3 0 with
          cls := 2, kind := 0x34, opa := c.regs.rdS a, opb := c.regs.rdS b, payload := bs }) s

/-- Events 0xFF00 to 0xFFFF take privilege (R205). -/
def sysEvent (x : Word) : Bool := decide (0xFF00 ≤ (x.extractLsb' 0 16).toNat)

/-- The checks of EVSIG, EVARM and EVRD on the event operand: poison, privilege, BADARG (R205, R216). -/
def Core.checkEvent (c : Core) (a b : Reg) : Except Trap Unit :=
  match psnUse c.regs [a] with
  | .error t => .error t
  | .ok () =>
    if sysEvent (c.regs.rdS a) && !c.prv then .error (trap0 .priv)
    else
      match psnUse c.regs [b] with
      | .error t => .error t
      | .ok () => if (c.regs.rdS a).extractLsb' 16 48 ≠ 0 then .error (trap0 .badarg) else .ok ()

/-- EVSIG (R216). -/
def execEvsig (p : Pred) (a b : Reg) (s : State) : Out :=
  issue p (fun c =>
    match c.checkEvent a b with
    | .error t => .error t
    | .ok () => c.issueOp none fun c => { c.newOp 0xC3 1 with cls := 2, kind := 0x34, opa := c.regs.rdS a, opb := c.regs.rdS b }) s

/-- EVARM (R216). -/
def execEvarm (p : Pred) (a b : Reg) (ch : BitVec 6) (s : State) : Out :=
  issue p (fun c =>
    if 56 ≤ ch.toNat ∧ !c.prv then .error (trap0 .priv)
    else
      match c.checkEvent a b with
      | .error t => .error t
      | .ok () => c.issueOp none fun c => { c.newOp 0xC3 2 with
        cls := 2, kind := 0x34, ch := ch, opa := c.regs.rdS a, opb := c.regs.rdS b }) s

/-- EVRD (R216). -/
def execEvrd (p : Pred) (d a b : Reg) (s : State) : Out :=
  issue p (fun c =>
    match psnUse c.regs [a] with
    | .error t => .error t
    | .ok () =>
      if sysEvent (c.regs.rdS a) && !c.prv then .error (trap0 .priv)
      else
        match psnUse c.regs [b] with
        | .error t => .error t
        | .ok () =>
          if !inProgram (c.regs.rdS b).toNat 8 then .error ⟨.badaddr, c.regs.rdS b⟩
          else if (c.regs.rdS a).extractLsb' 16 48 ≠ 0 then .error (trap0 .badarg)
          else if (c.regs.rdS b).toNat % 8 ≠ 0 then .error ⟨.misaln, c.regs.rdS b⟩
          else c.issueOp (some (d, 12)) fun c => { c.newOp 0xC3 3 with
            cls := 2, kind := 0x34, opa := c.regs.rdS a, opb := c.regs.rdS b }) s

/-- A 48-bit, 4,096-aligned sprig address (R206, R208): BADADDR of any address before MISALN of any. -/
def checkSprig (as : List Word) : Except Trap Unit :=
  match as.find? fun x => x.extractLsb' 48 16 != 0 with
  | some x => .error ⟨.badaddr, x⟩
  | none =>
    match as.find? fun x => x.extractLsb' 0 12 != 0 with
    | some x => .error ⟨.misaln, x⟩
    | none => .ok ()

/-- RESUME, COPY and DISCARD (R208 to R210): `fn` is the function code, `srcs` the operand registers in order and `addrs` the sprig addresses among them. -/
def Core.sprigOp (fn : BitVec 6) (kind : BitVec 4) (d : Reg) (srcs addrs : List Reg) (f : BitVec 1) (c : Core) : Except Trap Core :=
  match psnUse c.regs srcs with
  | .error t => .error t
  | .ok () =>
    match checkSprig (addrs.map c.regs.rdS) with
    | .error t => .error t
    | .ok () => c.issueOp (some (d, kind)) fun c => { c.newOp 0xC0 fn with
      cls := 2, kind := 0x34, opa := c.regs.rdS (srcs.getD 0 0), opb := c.regs.rdS (srcs.getD 1 0), opc := c.regs.rdS (srcs.getD 2 0)
      psn := f == 1#1 }

/-- RESUME (R208 to R210). -/
def execResume (p : Pred) (d a b c : Reg) (f : BitVec 1) (s : State) : Out := issue p (Core.sprigOp 1 7 d [a, b, c] [a] f) s

/-- RESUME.ST (R210). -/
def execResumeSt (p : Pred) (d a b c : Reg) (f : BitVec 1) (s : State) : Out := issue p (Core.sprigOp 2 7 d [a, b, c] [a] f) s

/-- COPY (R208 to R210). -/
def execCopy (p : Pred) (d a b c : Reg) (s : State) : Out := issue p (Core.sprigOp 3 8 d [a, b, c] [a, c] 0) s

/-- COPY.ST (R210). -/
def execCopySt (p : Pred) (d a b c : Reg) (s : State) : Out := issue p (Core.sprigOp 4 8 d [a, b, c] [a, c] 0) s

/-- DISCARD (R208 to R210). -/
def execDiscard (p : Pred) (d a b : Reg) (s : State) : Out := issue p (Core.sprigOp 5 9 d [a, b] [a] 0) s

/-- DISCARD.ST (R210). -/
def execDiscardSt (p : Pred) (d a b : Reg) (s : State) : Out := issue p (Core.sprigOp 6 9 d [a, b] [a] 0) s

end Sys2Proof.Machine
end

