-- ==== Sys2Proof/Machine/Channels.lean ====
section
/-! DEFINITION. Channels (R175 to R179), activation boundaries (R180 to R182), batches (R190) and arrival counters (R198): OP 0xA1, 0xA2, 0xA4 and 0xA8. -/
namespace Sys2Proof.Machine

/-! ### Binding records (R227) -/

/-- Word 0 of a binding record. -/
def bindWord0 (ent : Word) (jsi : BitVec 4) (x pin : Bool) (ctx : BitVec 2) (prio : BitVec 3) (mode : BitVec 2) : Word :=
  0#27 ++ (ent.extractLsb' 3 17 ++ (jsi ++ (bit1 x ++ (bit1 pin ++ (ctx ++ (0#1 ++ (prio ++ (0#2 ++ (mode ++ (0#3 ++ 1#1))))))))))

/-- Write a binding record. -/
def Core.putBinding (c : Core) (ch : Nat) (w0 w1 w2 : Word) : Core :=
  (c.wrBytes (0xFD800 + 32 * ch) (natBytes w0.toNat 8 ++ natBytes w1.toNat 8 ++ natBytes w2.toNat 8 ++ natBytes 0 8)).tidy

/-- A task entry that a binding may name (R175). -/
def goodEntry (x : Word) : Bool := goodTarget x.toNat

/-- A bound channel of mode FEED names this queue of this context. -/
def Core.feedTaken (c : Core) (ctx : BitVec 2) (q : BitVec 1) : Bool := (c.feedChannel ctx q).isSome

/-- CHBIND in a mode (R175). `act` says that the binding starts activations, `desc` is DESC, `ring` the checks of a ring, `ok` the form of the descriptor. -/
def Core.chbind (ci : ChImm) (a : Reg) (ds : List Reg) (mode : BitVec 2) (act : Bool) (desc : Word) (ring : Except Trap Unit)
    (busy ok : Bool) (pin : Bool) (ctx : BitVec 2) (c : Core) : Except Trap Core :=
  let ch := ci.ch.toNat
  if 56 ≤ ch ∧ !c.prv then .error (trap0 .priv)
  else
    match psnUse c.regs ((if act then [a] else []) ++ ds) with
    | .error t => .error t
    | .ok () =>
      if act && !goodEntry (c.regs.rdS a) then .error ⟨.badaddr, c.regs.rdS a⟩
      else
        match ring with
        | .error t => .error t
        | .ok () =>
          if c.bound ch || busy then .error ⟨.chbusy, ci.ch.setWidth 64⟩
          else if !ok then .error (trap0 .badarg)
          else
            let ent := if act then c.regs.rdS a else 0
            .ok ((c.putBinding ch (bindWord0 ent 0 ci.x pin ctx ci.prio mode) desc 0).adv.commit)

/-- CHBIND.WAKE (R175). -/
def execChbindWake (p : Pred) (a : Reg) (ci : ChImm) (s : State) : Out :=
  issue p (fun c => c.chbind ci a [] 0 true 0 (.ok ()) false true ci.pin (if ci.pin then ci.ctx else 0)) s

/-- The ring of a LAND descriptor: base and size in bytes (R176). -/
def landBase (w : Word) : Nat := (w.extractLsb' 0 20).toNat
/-- The ring size in bytes (R176). -/
def landSize (w : Word) : Nat := 64 * 2 ^ (w.extractLsb' 20 4).toNat
/-- CTR of a LAND descriptor (R176). -/
def landCtr (w : Word) : BitVec 4 := w.extractLsb' 24 4
/-- ACT of a LAND descriptor (R176). -/
def landAct (w : Word) : Bool := w.getLsbD 28

/-- The checks of a ring (R175). -/
def checkRing (w : Word) : Except Trap Unit :=
  if !inProgram (landBase w) (landSize w) then .error ⟨.badaddr, BitVec.ofNat 64 (landBase w)⟩
  else if landBase w % 64 ≠ 0 then .error ⟨.misaln, BitVec.ofNat 64 (landBase w)⟩
  else .ok ()

/-- CHBIND.LAND (R175, R176). -/
def execChbindLand (p : Pred) (d a : Reg) (ci : ChImm) (s : State) : Out :=
  issue p (fun c =>
    let w := c.regs.rdS d
    c.chbind ci a [d] 2 (landAct w) w (checkRing w) false
      (w.extractLsb' 29 35 == 0 && decide ((w.extractLsb' 20 4).toNat ≤ 13)) ci.pin (if ci.pin then ci.ctx else 0)) s

/-- CHBIND.FEED (R175). -/
def execChbindFeed (p : Pred) (d a : Reg) (ci : ChImm) (s : State) : Out :=
  issue p (fun c =>
    let w := c.regs.rdS d
    let ctx := if ci.pin then ci.ctx else c.run
    c.chbind ci a [d] 3 true (w &&& 1) (.ok ()) (c.feedTaken ctx (w.extractLsb' 0 1)) (w.extractLsb' 1 63 == 0) true ctx) s

/-- The channels of a mask in ascending order. -/
def maskChannels (m : Word) : List Nat := channels.filter fun ch => m.getLsbD ch

/-- JSET (R177). -/
def Core.jset (a b : Reg) (set : BitVec 4) (prio : BitVec 3) (x : BitVec 1) (c : Core) : Except Trap Core :=
  match psnUse c.regs [a, b] with
  | .error t => .error t
  | .ok () =>
    let m := c.regs.rdS b
    let chs := maskChannels m
    if !goodEntry (c.regs.rdS a) then .error ⟨.badaddr, c.regs.rdS a⟩
    else
      match c.setMembers set, chs.find? c.bound with
      | ch :: _, _ => .error ⟨.chbusy, BitVec.ofNat 64 ch⟩
      | [], some ch => .error ⟨.chbusy, BitVec.ofNat 64 ch⟩
      | [], none =>
        if m.extractLsb' 56 8 ≠ 0 ∨ chs.length = 0 ∨ 8 < chs.length then .error (trap0 .badarg)
        else
          let w0 := bindWord0 (c.regs.rdS a) set (x == 1#1) false 0 prio 1
          let c := chs.foldl (fun c ch => c.putBinding ch w0 0 (if chs.head? = some ch then m else 0)) c
          .ok c.adv.commit

/-- JSET (R177). -/
def execJset (p : Pred) (a b : Reg) (set : BitVec 4) (prio : BitVec 3) (x : BitVec 1) (s : State) : Out :=
  issue p (Core.jset a b set prio x) s

/-- A parked context waits on the channel (R180, R181). One that is READY and has not yet taken its message does not count here, so CHUNB may discard that message and the context resumes with its registers as they were (DEDUCED, log 27). -/
def Core.awaited (c : Core) (ch : BitVec 6) : Bool := c.ctxs.toList.any fun x => x.st == .parked && x.wait == .chan ch

/-- Unbind channels: their records become zero, and their pending messages, tokens and activations are discarded (R178). -/
def Core.unbind (c : Core) (chs : List Nat) : Core :=
  let c := chs.foldl (fun c ch => c.putBinding ch 0 0 0) c
  Core.tidy { c with
    pend := c.pend.filter fun x => !chs.contains x.ch.toNat
    tokens := c.tokens.filter fun x => !chs.contains x.ch.toNat }

/-- CHUNB (R178). -/
def execChunb (p : Pred) (ch : BitVec 6) (s : State) : Out :=
  issue p (fun c =>
    if 56 ≤ ch.toNat ∧ !c.prv then .error (trap0 .priv)
    else if c.awaited ch then .error ⟨.chbusy, ch.setWidth 64⟩
    else
      let k := ch.toNat
      let c := if !c.bound k then c else if c.chMode k = 1#2 then c.unbind (c.setMembers (c.chSet k)) else c.unbind [k]
      .ok c.adv.commit) s

/-- Granules of the channel queue in use: pending messages and copies of open windows (R173, R226). -/
def Core.wakeGranules (c : Core) (ch : BitVec 6) : Nat :=
  ((c.pend.filter fun x => x.ch == ch).map Pend.size).sum
    + ((c.retained.filter fun x => x.kind == 0#2 && x.ch == ch).map Retained.size).sum

/-- The channel status word (R179). -/
def Core.chst (c : Core) (ch : BitVec 6) : Word :=
  let k := ch.toNat
  let mode := c.chMode k
  let mine := c.pend.filter fun x => x.ch == ch
  let toks := c.tokens.filter fun x => x.ch == ch
  let n : Nat :=
    if mode = 1#2 then toks.length
    else if mode = 3#2 then ((c.ctxAt (c.chCtx k)).feed ((c.chDesc k).extractLsb' 0 1)).live.length
    else mine.length
  let psn : Bool :=
    if mode = 1#2 then (toks.head?.map Token.psn).getD false else (mine.head?.map Pend.anyPsn).getD false
  if c.bound k then
    0#16 ++ (BitVec.ofNat 16 (if mode = 0#2 then 64 * c.wakeGranules ch else 0) ++ (BitVec.ofNat 8 n ++
      ((if mode = 1#2 then c.chSet k else 0#4) ++ (0#3 ++ (bit1 (c.awaited ch) ++ (bit1 psn ++ (bit1 (c.chX k) ++
        (bit1 (c.chPin k) ++ (c.chCtx k ++ (c.chPrio k ++ (0#2 ++ (mode ++ (0#3 ++ 1#1)))))))))))))
  else 0

/-- CHST (R179). -/
def execChst (p : Pred) (d : Reg) (ch : BitVec 6) (s : State) : Out :=
  issue p (fun c => .ok (c.modRegs fun r => (r.wrS d (c.chst ch) false).adv)) s

/-! ### Boundaries (R20, R180 to R182) -/

/-- The unfinished sealed batches of a context (R190, R235). -/
def Core.unfinished (c : Core) (k : BitVec 2) : List (BitVec 16) :=
  (((c.streams.filter fun x => x.ctx == k).map Stream.batch).filter fun b =>
    !(b == (c.ctxAt k).regs.openBatch && (c.ctxAt k).regs.batchUsed)).eraseDups

/-- A wait condition holds (R180). `lic` says that the core holds the licence. -/
def Core.met (c : Core) (k : BitVec 2) (lic : Bool) : Wait → Bool
  | .none => true
  | .ctr i v => decide (v.toNat ≤ (c.ctr[i.toNat]'(i.isLt)).toNat)
  | .batch n => decide ((c.unfinished k).length ≤ n.toNat)
  | .lic => lic
  | .tkt t => (c.heldTicket t).all Slot.done
  | .chan ch => c.pend.any fun x => x.ch == ch

/-- The running context ends its activation at the next instruction: READY where the condition holds, else PARKED (R180, R182). -/
def Core.park (c : Core) (w : Wait) (lic : Bool) : Core :=
  let c := (c.modRegs fun r => { r.adv with handler := false }).commit
  let ok := c.met c.run lic w
  { c.setCtx { c.ctx with st := if ok then .ready else .parked, wait := w, since := c.cycle.toNat } with last := c.run }

/-- AWAIT.CTR (R180). -/
def execAwaitCtr (p : Pred) (a : Reg) (k : BitVec 4) (s : State) : Out :=
  issue p (fun c =>
    match psnUse c.regs [a] with
    | .error t => .error t
    | .ok () => .ok (c.park (.ctr k ((c.regs.rdS a).extractLsb' 0 32)) false)) s

/-- AWAIT.BATCH (R180). -/
def execAwaitBatch (p : Pred) (a : Reg) (s : State) : Out :=
  issue p (fun c =>
    match c.small16 a with
    | .error t => .error t
    | .ok n => .ok (c.park (.batch n) false)) s

/-- AWAIT.LIC (R180): with the licence neither held nor requested, it first acts as MACQ does. -/
def execAwaitLic (p : Pred) (s : State) : Out :=
  issueS p (fun s =>
    let me := isRunner s.cur
    let r := if (s.quern.req me).isSome then (s.holds, s) else s.acquire s.cur
    .ok (r.2.setCore (r.2.core.park .lic r.1))) s

/-- AWAIT.TKT (R180). -/
def execAwaitTkt (p : Pred) (a : Reg) (s : State) : Out :=
  issue p (fun c =>
    match c.small16 a with
    | .error t => .error t
    | .ok t => .ok (c.park (.tkt t) false)) s

/-- AWAIT.CHAN (R180). Another context awaits the channel until it has taken its message, READY or parked (DEDUCED, log 27). -/
def execAwaitChan (p : Pred) (ch : BitVec 6) (s : State) : Out :=
  issue p (fun c =>
    if c.ctxs.toList.any fun x => (x.st == .parked || x.st == .ready) && x.wait == .chan ch then .error ⟨.chbusy, ch.setWidth 64⟩
    else if !(c.bound ch.toNat && c.chMode ch.toNat == 0#2) then .error (trap0 .badarg)
    else .ok (c.park (.chan ch) false)) s

/-- YIELD (R182). -/
def execYield (p : Pred) (s : State) : Out := issue p (fun c => .ok (c.park .none false)) s

/-- END (R182). -/
def execEndAct (p : Pred) (s : State) : Out := issue p (fun c => .ok c.endCtx) s

/-! ### Batches (R190) -/

/-- BSEAL (R190). -/
def execBseal (p : Pred) (d : Reg) (s : State) : Out :=
  issue p (fun c => .ok (c.modRegs fun r => (r.seal.wrS d (r.openBatch.setWidth 64) false).adv)) s

/-- WAITB (R190): AWAIT with the batch condition. -/
def execWaitb (p : Pred) (n : BitVec 16) (s : State) : Out := issue p (fun c => .ok (c.park (.batch n) false)) s

/-- BSTAT (R190). -/
def execBstat (p : Pred) (d a : Reg) (s : State) : Out :=
  issue p (fun c =>
    match psnUse c.regs [a] with
    | .error t => .error t
    | .ok () =>
      let b := (c.regs.rdS a).extractLsb' 0 16
      let un := c.unfinished c.run
      let fin := !(b == c.regs.openBatch || un.contains b)
      .ok (c.modRegs fun r =>
        (r.wrS d (0#16 ++ (r.openBatch ++ (BitVec.ofNat 16 un.length ++ (0#15 ++ bit1 fin)))) false).adv)) s

/-! ### Arrival counters (R198) -/

/-- Set an arrival counter. -/
def Core.setCtr (c : Core) (k : BitVec 4) (x : BitVec 32) : Core := { c with ctr := c.ctr.set k.toNat x k.isLt }

/-- Read an arrival counter. -/
def Core.rdCtr (c : Core) (k : BitVec 4) : BitVec 32 := c.ctr[k.toNat]'(k.isLt)

/-- ACSET (R198). -/
def execAcset (p : Pred) (a : Reg) (k : BitVec 4) (s : State) : Out :=
  issue p (fun c =>
    match psnUse c.regs [a] with
    | .error t => .error t
    | .ok () => .ok ((c.setCtr k ((c.regs.rdS a).extractLsb' 0 32)).adv.commit)) s

/-- ACADD (R198). -/
def execAcadd (p : Pred) (d a : Reg) (k : BitVec 4) (s : State) : Out :=
  issue p (fun c =>
    match psnUse c.regs [a] with
    | .error t => .error t
    | .ok () =>
      let x := BitVec.ofInt 32 (clampInt ((c.rdCtr k).toNat + ((c.regs.rdS a).extractLsb' 0 32).toInt) 0 0xFFFFFFFF)
      .ok (((c.setCtr k x).modRegs fun r => (r.wrS d (x.setWidth 64) false).adv).commit)) s

/-- ACRD (R198). -/
def execAcrd (p : Pred) (d : Reg) (k : BitVec 4) (s : State) : Out :=
  issue p (fun c => .ok (c.modRegs fun r => (r.wrS d ((c.rdCtr k).setWidth 64) false).adv)) s

end Sys2Proof.Machine
end

