-- ==== Sys2Proof/Machine/Streams.lean ====
section
/-! DEFINITION. Stream commands: access patterns (R183), the commands as issued (R184 to R189), and their place in a batch (R190): OP 0xA3. -/
namespace Sys2Proof.Machine

/-! ### Patterns (R183) -/

/-- Lane l of a pattern. -/
def patLane (p : VData) (l : Nat) : Word := p.extractLsb' (64 * l) 64

/-- L of a pattern. -/
def patLevels (p : VData) : Nat := ((patLane p 0).extractLsb' 24 3).toNat + 1

/-- c_l of a pattern; 1 for a level not in use. -/
def patCount (p : VData) (l : Nat) : Nat := if l < patLevels p then ((patLane p l).extractLsb' 0 24).toNat else 1

/-- d_l of a pattern. -/
def patStride (p : VData) (l : Nat) : Int := ((patLane p l).extractLsb' 24 40).toInt

/-- Bits of lane 0 that must be zero are zero. -/
def patOk (p : VData) : Bool := (patLane p 0).extractLsb' 27 37 == 0

/-- The levels above the run. -/
def upLevels : List Nat := [1, 2, 3, 4, 5, 6, 7]

/-- The bytes of a stream. -/
def patTotal (p : VData) : Nat := upLevels.foldl (fun n l => n * patCount p l) (patCount p 0)

/-- The bytes of one iteration of level l: the run and the levels below l. -/
def patSpan (p : VData) (l : Nat) : Nat := ((List.range l).filter fun i => decide (0 < i)).foldl (fun n i => n * patCount p i) (patCount p 0)

/-- The address offset of byte `n` of a stream, level 1 innermost (R183). -/
def patOffset (p : VData) (n : Nat) : Int :=
  (upLevels.foldl (fun (a : Int × Nat) l =>
    if l < patLevels p then (a.1 + (a.2 % patCount p l : Nat) * patStride p l, a.2 / patCount p l) else a)
    ((n % patCount p 0 : Nat), n / patCount p 0)).1

/-- The lowest offset of a stream, and the offset past its highest byte. -/
def patBounds (p : VData) : Int × Int :=
  upLevels.foldl (fun (b : Int × Int) l =>
    if l < patLevels p then
      let r := ((patCount p l : Int) - 1) * patStride p l
      (b.1 + min 0 r, b.2 + max 0 r)
    else b) (0, (patCount p 0 : Int))

/-- The bytes from `base` under a pattern lie in the program range (R184). An empty stream touches none. -/
def checkPattern (base : Nat) (p : VData) : Except Trap Unit :=
  if patTotal p = 0 then .ok ()
  else
    let b := patBounds p
    if inProgram (base + b.1) (b.2 - b.1).toNat then .ok () else .error ⟨.badaddr, infoAddr (base + b.1)⟩

/-- A contiguous range lies in the program range. -/
def checkRange (base n : Nat) : Except Trap Unit :=
  if n = 0 ∨ inProgram base n then .ok () else .error ⟨.badaddr, BitVec.ofNat 64 base⟩

/-- SLVL (R183). -/
def execSlvl (p : Pred) (d a b : Reg) (lv : BitVec 3) (s : State) : Out :=
  issue p (fun c =>
    let x : Word := (c.regs.rdS b).extractLsb' 0 40 ++ (c.regs.rdS a).extractLsb' 0 24
    .ok (c.putLanes d ⟨0, false⟩ 64 8 (fun i => i != lv.toNat) (c.spsn [a, b]) fun _ => plain x)) s

/-! ### Issue (R169, R184, R189) -/

/-- The stream commands of the running context that count against the 32 (R189). -/
def Core.streamRoom (c : Core) : Bool := decide ((c.streams.filter fun x => x.ctx == c.run && x.kind != .sbar).length < 32)

/-- The SBAR entries of the running context that count against the 8 (R231). -/
def Core.sbarRoom (c : Core) : Bool := decide ((c.streams.filter fun x => x.ctx == c.run && x.kind == .sbar).length < 8)

/-- A command of the running context with nothing filled in. -/
def Core.newStream (c : Core) (sn : BitVec 3) (kind : StKind) : Stream :=
  { id := c.nextStream, ctx := c.run, prv := c.prv, pc := c.regs.pc, word := c.rdWord c.regs.pc.toNat, batch := c.regs.openBatch, sn := sn, kind := kind, mask := 0, srcSp := 0, dstSp := 0, src := 0, dst := 0,
    srcPat := 0, dstPat := none, total := 0, list := 0, count := 0, row := 0, idx := [], badIdx := [], eos := 0, eosPsn := false, cl := 0,
    remote := false, held := none, started := false, rpos := 0, wpos := 0, pieces := [], rdOut := [], wrOut := [], owed := 0, nextReq := 0, sentBytes := [], again := none, redo := [], eosDone := false, failed := none }

/-- Enter a command, in the open batch; with a destination off the core it is held as an outbound operation (R169, R190). -/
def Core.pushStream (c : Core) (fn : BitVec 6) (x : Stream) : Core :=
  let off := !x.isLocal && x.kind != .sbar
  let x := { x with held := if off then some c.nextOp else none }
  let c := if off then c.pushOp { c.newOp 0xA3 fn with opa := x.src, opb := x.dst, dst := if x.toCore then c.streamCore x else x.dst } else c
  { c with streams := c.streams ++ [x], nextStream := c.nextStream + 1 }.modRegs fun r => { r.adv with batchUsed := true }

/-- Issue a command: with no slot or no room it closes the window at itself and then stalls (R169, R189, R231). -/
def Core.issueStream (c : Core) (fn : BitVec 6) (mk : Core → Stream) (fl : Flags) : Except Trap Core :=
  let ready (c : Core) : Bool :=
    if (mk c).kind = .sbar then c.sbarRoom else c.streamRoom && ((mk c).isLocal || c.holdRoom 32)
  let c := if ready c then c else c.commit
  .ok (if ready c then (c.pushStream fn (mk c)).modRegs fun r => r.flag fl else c)

/-- PSNUSE for bases and other scalars, then for pattern registers, in the register order A, B, C, D (R183, R184, R325). -/
def streamPoison (c : Core) (ops : List (Reg × Bool)) : Except Trap Unit :=
  match ops.find? fun o => if o.2 then (c.regs.rdVV o.1).poisoned else c.regs.psn o.1 with
  | some o => .error ⟨.psnuse, o.1.setWidth 64⟩
  | none => .ok ()

/-- The endpoint words of a command are well formed (R170): a remote one translates, and CXL and local ones need no check here. -/
def Core.checkEnd (c : Core) (sp : BitVec 2) (w : Word) : Except Trap Core :=
  if sp = 2#2 then (match c.endOperand w with
    | .error t => .error t
    | .ok r => .ok r.1) else .ok c

/-- The range of one endpoint under a pattern (R184); the local address of a remote endpoint word is itself in the program range, also where no byte moves (R170). CXL addresses are checked as the bytes flow (R382). -/
def checkEndRange (sp : BitVec 2) (w : Word) (chk : Nat → Except Trap Unit) : Except Trap Unit :=
  if sp = 1#2 then .ok ()
  else if sp = 2#2 then (if (endAddr w).toNat < 0xF0000 then chk (endAddr w).toNat else .error ⟨.badaddr, (endAddr w).setWidth 64⟩)
  else chk w.toNat

/-- SCPY (R184). The spec places no order between BADREL of an endpoint and BADPAT: BADREL comes first here (DESIGN CHOICE, log 33). -/
def Core.scpy (d : Option Reg) (a b cr : Reg) (sp dp : BitVec 2) (st : BitVec 3) (c : Core) : Except Trap Core :=
  let src := c.regs.rdS a
  let dst := c.regs.rdS b
  let ps := c.regs.rdV cr
  let pd := d.map c.regs.rdV
  match streamPoison c ([(a, false), (b, false), (cr, true)] ++ d.toList.map fun r => (r, true)) with
  | .error t => .error t
  | .ok () =>
    match c.checkEnd sp src with
    | .error t => .error t
    | .ok c =>
      match c.checkEnd dp dst with
      | .error t => .error t
      | .ok c =>
        let bad := !patOk ps || (match pd with
          | some q => !patOk q || patTotal q != patTotal ps
          | none => false)
        if bad then .error (trap0 .badpat)
        else
          match checkEndRange sp src fun n => checkPattern n ps with
          | .error t => .error t
          | .ok () =>
            match checkEndRange dp dst fun n => (match pd with
              | some q => checkPattern n q
              | none => checkRange n (patTotal ps)) with
            | .error t => .error t
            | .ok () => c.issueStream 1 (fun c => { c.newStream st .scpy with
                srcSp := sp, dstSp := dp, src := src, dst := dst, srcPat := ps, dstPat := pd, total := patTotal ps }) 0

/-- SCPY (R184). -/
def execScpy (p : Pred) (d : Option Reg) (a b c : Reg) (sp dp : BitVec 2) (st : BitVec 3) (s : State) : Out :=
  issue p (Core.scpy d a b c sp dp st) s

/-- SGTH (R185). The spec does not place BADARG of the row size among the checks: here BADADDR comes first, then BADARG, then MISALN (DESIGN CHOICE, log 33). -/
def Core.sgth (d a b cr : Reg) (sp : BitVec 2) (st : BitVec 3) (c : Core) : Except Trap Core :=
  let tab := c.regs.rdS a
  let dst := c.regs.rdS b
  let list := c.regs.rdS cr
  let cw := c.regs.rdS d
  let n := (cw.extractLsb' 0 24).toNat
  let rb := (cw.extractLsb' 24 20).toNat
  match psnUse c.regs [a, b, cr, d] with
  | .error t => .error t
  | .ok () =>
    match c.checkEnd sp tab with
    | .error t => .error t
    | .ok c =>
      match (if sp = 2#2 then checkEndRange sp tab fun _ => .ok () else .ok ()) with
      | .error t => .error t
      | .ok () =>
        match checkRange dst.toNat (n * rb) with
        | .error t => .error t
        | .ok () =>
          match checkRange list.toNat (4 * n) with
          | .error t => .error t
          | .ok () =>
            if cw.extractLsb' 44 20 ≠ 0 then .error (trap0 .badarg)
            else if list.toNat % 4 ≠ 0 then .error ⟨.misaln, list⟩
            else c.issueStream 2 (fun c => { c.newStream st .sgth with
              srcSp := sp, src := tab, dst := dst, total := n * rb, list := list.extractLsb' 0 20, count := n, row := rb }) 0

/-- SGTH (R185). -/
def execSgth (p : Pred) (d a b c : Reg) (sp : BitVec 2) (st : BitVec 3) (s : State) : Out :=
  issue p (Core.sgth d a b c sp st) s

/-- SFQ into an own feed queue (R186). -/
def Core.sfqOwn (d a cr : Reg) (sp : BitVec 2) (q : BitVec 1) (cl st : BitVec 3) (c : Core) : Except Trap Core :=
  let src := c.regs.rdS a
  let ps := c.regs.rdV cr
  match streamPoison c [(a, false), (cr, true)] with
  | .error t => .error t
  | .ok () =>
    match c.checkEnd sp src with
    | .error t => .error t
    | .ok c =>
      if !patOk ps then .error (trap0 .badpat)
      else
        match checkEndRange sp src fun n => checkPattern n ps with
        | .error t => .error t
        | .ok () => c.issueStream 3 (fun c => { c.newStream st .sfq with
            mask := q.setWidth 8, srcSp := sp, src := src, srcPat := ps, total := patTotal ps
            eos := c.regs.rdS d, eosPsn := c.regs.psn d, cl := cl }) (psnFlag (c.regs.psn d))

/-- SFQ into the feed channel of another core (R186). -/
def Core.sfqFar (d a b cr : Reg) (cl st : BitVec 3) (c : Core) : Except Trap Core :=
  let src := c.regs.rdS a
  let dst := c.regs.rdS b
  let ps := c.regs.rdV cr
  match streamPoison c [(a, false), (b, false), (cr, true)] with
  | .error t => .error t
  | .ok () =>
    match c.checkEnd 2 dst with
    | .error t => .error t
    | .ok c =>
      if endAddr dst ≠ 0 then .error ⟨.badrel, dst⟩
      else if !patOk ps then .error (trap0 .badpat)
      else
        match checkPattern src.toNat ps with
        | .error t => .error t
        | .ok () => c.issueStream 3 (fun c => { c.newStream st .sfq with
            src := src, dst := dst, srcPat := ps, total := patTotal ps, eos := c.regs.rdS d, eosPsn := c.regs.psn d
            cl := cl, remote := true }) (psnFlag (c.regs.psn d))

/-- SFQ (R186). -/
def execSfq (p : Pred) (d a c : Reg) (sp : BitVec 2) (q : BitVec 1) (cl st : BitVec 3) (s : State) : Out :=
  issue p (Core.sfqOwn d a c sp q cl st) s

/-- SFQ with a remote target (R186). -/
def execSfqRemote (p : Pred) (d a b c : Reg) (cl st : BitVec 3) (s : State) : Out :=
  issue p (Core.sfqFar d a b c cl st) s

/-- SBAR (R188). -/
def execSbar (p : Pred) (mask : BitVec 8) (s : State) : Out :=
  issue p (fun c => c.issueStream 4 (fun c => { c.newStream 0 .sbar with mask := mask }) 0) s

end Sys2Proof.Machine
end

