-- ==== Sys2Proof/Machine/Delivery.lean ====
section
/-! DEFINITION. Offering a message to a channel (R173, R174, R226, R237), firing a join set (R177), and choosing and starting the next activation (R17, R18, R181, R229, R280, R281), with the watchdog (R213). -/
namespace Sys2Proof.Machine

/-! ### Offers (R173) -/

/-- A message as a channel sees it: channel, sender in the form of s2, payload, sender outside the group, group of the sender. -/
structure Incoming where
  ch : BitVec 6
  sender : Word
  bytes : List MByte
  outside : Bool
  grp : BitVec 16
  prog : Option Progress := none
  deriving DecidableEq, Repr

/-- What becomes of an offer (R173). -/
inductive Offer where
  | took (c : Core)
  | refused
  | failed (cause : Cause)

/-- The first 8 bytes of a payload as a word, zero-extended, with the mark of those bytes. -/
def firstWord (bs : List MByte) : Word × Bool :=
  (BitVec.ofNat 64 (leNat ((bs.take 8).map Prod.fst)), (bs.take 8).any Prod.snd)

/-- A pending activation in 32 bytes (R226, R345). -/
def Pend.bytes (x : Pend) : List Byte :=
  let w0 : Word := x.len ++ (x.addr ++ (0#8 ++ (x.psnMask ++ (0#2 ++ (x.set ++ (x.mode ++ (0#2 ++ x.ch)))))))
  natBytes w0.toNat 8 ++ natBytes x.sender.toNat 8 ++ natBytes x.word.toNat 8 ++ natBytes (1 + (if x.psn then 2 else 0)) 8

/-- The base of a channel's queue (R226). -/
def chanBase (ch : Nat) : Nat := 0xF4000 + 512 * ch

/-- Granule g of a WAKE queue is in use. -/
def Core.granuleUsed (c : Core) (ch : BitVec 6) (g : Nat) : Bool :=
  let at' := chanBase ch.toNat + 64 * g
  (c.pend.any fun x => x.ch == ch && decide (x.addr.toNat ≤ at') && decide (at' < x.addr.toNat + 64 * x.size))
    || c.retained.any fun x => x.kind == 0#2 && x.ch == ch && decide (x.pos.toNat ≤ at') && decide (at' < x.pos.toNat + 64 * x.size)

/-- The lowest run of free granules that is long enough (R226). -/
def Core.freeRun (c : Core) (ch : BitVec 6) (n : Nat) : Option Nat :=
  (List.range (9 - n)).find? fun g => (List.range n).all fun i => !c.granuleUsed ch (g + i)

/-- The cycle that a core's waits are counted in. -/
def Core.now (c : Core) : Nat := c.cycle.toNat

/-- How far a WAKE message has been written, and the offset of its copy in the queue: where it is to begin, a pending activation and a run of granules must be free (R173, R226). -/
def Core.wakeProgress (c : Core) (m : Incoming) : Option Progress :=
  match m.prog with
  | some p => some p
  | none =>
    if 8 ≤ (c.pend.filter fun x => x.ch == m.ch).length then none
    else (c.freeRun m.ch ((m.bytes.length + 63) / 64)).map fun g => ⟨0, 64 * g⟩

/-- A line of a WAKE message that another line follows (R361). -/
def Core.wakeLine (c : Core) (m : Incoming) : Option (Core × Progress) :=
  match c.wakeProgress m with
  | none => none
  | some p =>
    if m.bytes.length ≤ p.done + 64 ∨ 512 < m.bytes.length then none
    else some (c.wrMarked (chanBase m.ch.toNat + p.off + p.done) ((m.bytes.drop p.done).take 64), { p with done := p.done + 64 })

/-- Offer to a WAKE channel: what is not in the copy yet is written, and the activation is pending. -/
def Core.offerWake (c : Core) (m : Incoming) : Offer :=
  let len := m.bytes.length
  if 512 < len then .failed .msglen
  else
    match c.wakeProgress m with
    | none => .refused
    | some p =>
      let a := chanBase m.ch.toNat + p.off
      let w := firstWord m.bytes
      .took { c.wrMarked (a + p.done) (m.bytes.drop p.done) with pend := c.pend ++
        [⟨0, m.ch, m.sender, BitVec.ofNat 20 a, BitVec.ofNat 12 len, w.1, w.2, m.bytes.any Prod.snd, 0, 0, (len + 63) / 64, c.now⟩] }

/-- The tokens of a member. -/
def Core.tokensOf (c : Core) (ch : Nat) : List Token := c.tokens.filter fun x => x.ch.toNat == ch

/-- A copy slot of a join set is in use: by a pending activation or by one whose window is open (R226). -/
def Core.copyUsed (c : Core) (a : Nat) : Bool :=
  (c.pend.any fun x => x.mode == 1#2 && x.addr.toNat == a) || c.retained.any fun x => x.kind == 1#2 && x.pos.toNat == a

/-- Remove the oldest token of each of these channels. -/
def dropOldest (chs : List Nat) : List Token → List Token
  | [] => []
  | t :: ts => if chs.contains t.ch.toNat then dropOldest (chs.erase t.ch.toNat) ts else t :: dropOldest chs ts

/-- A join set fires: the oldest token of each member becomes one pending activation (R177, R18). Its copy takes the lowest free one of the six slots (DESIGN CHOICE, log 16). -/
def Core.fireJoin (c : Core) (set : BitVec 4) : Option Core :=
  let chs := c.setMembers set
  let toks := chs.filterMap fun ch => (c.tokensOf ch).head?
  if chs.isEmpty || toks.length != chs.length then none
  else
    let lo := chs.headD 0
    match ([0, 1, 2, 3, 4, 5] : List Nat).find? fun j => !c.copyUsed (chanBase lo + 128 + 64 * j) with
    | none => none
    | some j =>
      let a := chanBase lo + 128 + 64 * j
      let bs : List MByte := toks.flatMap fun t => (natBytes t.data.toNat 8).map fun b => Prod.mk b t.psn
      let mask : BitVec 8 := bitsOf 8 fun i => ((toks[i]?).map Token.psn).getD false
      let w := firstWord bs
      some { c.wrMarked a bs with
        tokens := dropOldest chs c.tokens
        pend := c.pend ++ [⟨1, BitVec.ofNat 6 lo, (toks.head?.map Token.sender).getD 0, BitVec.ofNat 20 a,
          BitVec.ofNat 12 bs.length, w.1, w.2, bs.any Prod.snd, set, mask, 1, c.now⟩] }

/-- Offer to a JOIN member. The ring of a member that holds no token starts again at slot 0 (DESIGN CHOICE, log 16). -/
def Core.offerJoin (c : Core) (m : Incoming) : Offer :=
  let mine := c.tokensOf m.ch.toNat
  if 8 < m.bytes.length then .failed .msglen
  else if 16 ≤ mine.length then .refused
  else
    let w := firstWord m.bytes
    let pos := (mine.getLast?.map fun t => (t.pos + 1) % 16).getD 0
    let c := c.wrMarked (chanBase m.ch.toNat + 8 * pos) ((natBytes w.1.toNat 8).map fun b => Prod.mk b w.2)
    let c : Core := { c with tokens := c.tokens ++ [⟨m.ch, w.1, w.2, m.sender, pos⟩] }
    .took ((c.fireJoin (c.chSet m.ch.toNat)).getD c)

/-- Write into a ring, in ascending payload order, wrapping (R173, R237). -/
def Core.wrRing (c : Core) (base size : Nat) : Nat → Nat → List MByte → Core
  | 0, _, _ => c
  | fuel + 1, off, bs =>
    if bs.isEmpty then c
    else
      let n := min bs.length (size - off)
      Core.wrRing (c.wrMarked (base + off) (bs.take n)) base size fuel 0 (bs.drop n)

/-- Raise an arrival counter, saturating (R21, R239). -/
def Core.raiseCtr (c : Core) (k : BitVec 4) (n : Nat) : Core :=
  c.setCtr k (BitVec.ofNat 32 (min ((c.rdCtr k).toNat + n) 0xFFFFFFFF))

/-- The eight records of a LAND channel's pending activations, oldest first, and zero after them (R226; their layout and their order are DEDUCED from R345, log 16). -/
def Core.showLand (c : Core) (ch : BitVec 6) : Core :=
  let bs := ((c.pend.filter fun x => x.ch == ch).take 8).flatMap Pend.bytes
  c.wrBytes (chanBase ch.toNat) (bs ++ List.replicate (256 - bs.length) 0)

/-- How far a LAND message has been written; one that begins lies at the counter's value modulo the ring's size (R173). -/
def Core.landProgress (c : Core) (w : Word) (p : Option Progress) : Progress :=
  p.getD ⟨0, (c.rdCtr (landCtr w)).toNat % landSize w⟩

/-- The next line of a message that is written before it takes effect: into the ring of a LAND channel (R237), or into the copy of a WAKE channel (R361). -/
def Core.nextLine (c : Core) (m : Incoming) : Option (Core × Progress) :=
  let w := c.chDesc m.ch.toNat
  let p := c.landProgress w m.prog
  if c.chMode m.ch.toNat == 0#2 then c.wakeLine m
  else if c.chMode m.ch.toNat != 2#2 || decide (m.bytes.length ≤ p.done) then none
  else
    let at' := (p.off + p.done) % landSize w
    let a := landBase w + at'
    let n := min (min (m.bytes.length - p.done) (landSize w - at')) (64 - a % 64)
    some (c.wrMarked a ((m.bytes.drop p.done).take n), { p with done := p.done + n })

/-- Offer to a LAND channel: what is not in the ring yet is written, then the counter is raised. -/
def Core.offerLand (c : Core) (m : Incoming) : Offer :=
  let w := c.chDesc m.ch.toNat
  let size := landSize w
  let p := c.landProgress w m.prog
  let off := p.off
  if landAct w && decide (8 ≤ (c.pend.filter fun x => x.ch == m.ch).length) then .refused
  else
    let len := m.bytes.length
    let c := (c.wrRing (landBase w) size (len + 1) ((off + p.done) % size) (m.bytes.drop p.done)).raiseCtr (landCtr w) len
    if landAct w then
      .took (Core.showLand { c with pend := c.pend ++
        [⟨2, m.ch, m.sender, BitVec.ofNat 20 off, BitVec.ofNat 12 len, (c.rdCtr (landCtr w)).setWidth 64, false,
          m.bytes.any Prod.snd, 0, 0, 0, c.now⟩] } m.ch)
    else .took c

/-- The origin that a delivered entry with a marked word takes: the sending core, cause LSPSN (R174), with PC 0, since no instruction of the sender made it (DESIGN CHOICE, log 35). -/
def senderOrigin (m : Incoming) : Org := mkOrigin m.grp (Cause.code .lspsn) 0 (wordMod m.sender) (wordAddr m.sender)

/-- A feed entry of up to 64 bytes: register-wide poison when a word is marked (R173, R174). -/
def mkEntry (bs : List MByte) (o : Org) (marks : BitVec 9) : FqEntry :=
  if bs.any Prod.snd then ⟨(poisonReg o).data, (poisonReg o).side, marks, none⟩
  else ⟨BitVec.ofNat 512 (leNat (bs.map Prod.fst)), 0, marks, none⟩

/-- The 64-byte pieces of a payload. -/
def pieces64 : Nat → List MByte → List (List MByte)
  | 0, _ => []
  | n + 1, bs => bs.take 64 :: pieces64 n (bs.drop 64)

/-- Free slots of a queue (R230). -/
def FeedQ.room (q : FeedQ) : Nat := 16 - (q.live.length + q.kept.length)

/-- Append an entry to a queue. -/
def Core.pushFeed (c : Core) (k : BitVec 2) (q : BitVec 1) (es : List FqEntry) : Core :=
  let x := c.ctxAt k
  let f := x.feed q
  c.setCtxAt k (x.setFeed q { f with live := f.live ++ es })

/-- Offer to a FEED channel. More than 16 entries never fit the 16 slots, so they can never be accepted, and MSGLEN reports it (R173; DEDUCED, log 27). -/
def Core.offerFeed (c : Core) (m : Incoming) : Offer :=
  let ch := m.ch.toNat
  let k := c.chCtx ch
  let q := (c.chDesc ch).extractLsb' 0 1
  let room := ((c.ctxAt k).feed q).room
  let len := m.bytes.length
  if len = 8 then
    if room = 0 ∨ c.pend.any (fun x => x.ch == m.ch) then .refused
    else
      let w := firstWord m.bytes
      let c := c.wrMarked (chanBase ch) m.bytes
      let c := c.pushFeed k q [mkEntry m.bytes (senderOrigin m) 0x100]
      .took { c with pend := c.pend ++ [⟨3, m.ch, m.sender, 0, 8, w.1, w.2, w.2, 0, 0, 0, c.now⟩] }
  else if len = 0 ∨ len % 64 ≠ 0 ∨ 16 < len / 64 then .failed .msglen
  else if room < len / 64 then .refused
  else .took (c.pushFeed k q ((pieces64 (len / 64) m.bytes).map fun bs => mkEntry bs (senderOrigin m) 0))

/-- Offer a message to its channel (R173). -/
def Core.offer (c : Core) (m : Incoming) : Offer :=
  let ch := m.ch.toNat
  if !c.bound ch || (m.outside && !c.chX ch) then .failed .nochn
  else
    match (c.chMode ch).toNat with
    | 0 => c.offerWake m
    | 1 => c.offerJoin m
    | 2 => c.offerLand m
    | _ => c.offerFeed m

/-! ### Selection (R280, R281) -/

/-- The four contexts in context order after the last that ran. -/
def Core.ctxOrder (c : Core) : List (BitVec 2) := [c.last + 1, c.last + 2, c.last + 3, c.last]

/-- Priority after aging (R281). -/
def aged (base : BitVec 3) (since now : Nat) : Nat := min 7 (base.toNat + (now - since) / 4096)

/-- The oldest pending message of a channel belongs to a context that waits for it (R181). -/
def Core.reserved (c : Core) (x : Pend) : Bool :=
  (c.ctxs.toList.any fun k => (k.st == .parked || k.st == .ready) && k.wait == .chan x.ch)
    && (c.pend.find? fun y => y.ch == x.ch) == some x

/-- The context that a pending activation would take, if one is free (R280, R281). -/
def Core.seat (c : Core) (x : Pend) : Option (BitVec 2) :=
  let free (k : BitVec 2) : Bool := (c.ctxAt k).st == .free
  let ch := x.ch.toNat
  if c.chPin ch then (if free (c.chCtx ch) then some (c.chCtx ch) else none) else c.ctxOrder.find? free

/-- A pending activation keeps an input until its window commits: it needs a record (R229). -/
def needsRecord (x : Pend) : Bool := x.mode != 3#2

/-- What the scheduler selects: a READY context, or a pending activation by its index with the context it takes. -/
inductive Pick where
  | ready (k : BitVec 2)
  | start (i : Nat) (k : BitVec 2)
  deriving DecidableEq, Repr

/-- The wait is for a channel. -/
def Wait.isChan : Wait → Bool
  | .chan _ => true
  | _ => false

/-- The candidates with their priorities, in the order that settles ties (R280, R281): READY contexts in context order, then pending activations by since, channel and age. -/
def Core.candidates (c : Core) : List (Nat × Pick) :=
  let ready := c.ctxOrder.filterMap fun k =>
    let x := c.ctxAt k
    if x.st == .ready && (!x.wait.isChan || c.freeRecord.isSome) then
      some (aged x.base x.since c.now, Pick.ready k) else none
  let idx := (List.range c.pend.length).filterMap fun i =>
    match c.pend[i]? with
    | some x =>
      if c.reserved x || (needsRecord x && c.freeRecord.isNone) then none
      else (c.seat x).map fun k => (x.since, x.ch.toNat, i, k, aged (c.chPrio x.ch.toNat) x.since c.now)
    | none => none
  let better (a b : Nat × Nat × Nat × BitVec 2 × Nat) : Bool :=
    decide (a.1 < b.1) || (a.1 == b.1 && (decide (a.2.1 < b.2.1) || (a.2.1 == b.2.1 && decide (a.2.2.1 ≤ b.2.2.1))))
  ready ++ (idx.mergeSort better).map fun e => (e.2.2.2.2, Pick.start e.2.2.1 e.2.2.2.1)

/-- The scheduler's choice: the highest priority, the first of equals (R281). -/
def Core.choose (c : Core) : Option (Nat × Pick) :=
  c.candidates.foldl (fun b x => match b with
    | none => some x
    | some y => if y.1 < x.1 then some x else b) none

/-- The core has no running activation, and nothing keeps it from selecting one. -/
def Core.maySelect (c : Core) : Bool :=
  c.ctxs.toList.all (fun x => x.st != .running) && !c.stopping && !c.captured

/-- The group has been resumed and its records are still to be offered: no activation of it is selectable (R356). -/
def State.resuming (s : State) (gid : BitVec 16) : Bool := s.seq.resuming.any fun e => e.1 == gid

/-- The dispatch words s1 to s4 of an activation or of a resumed AWAIT.CHAN (R18). -/
def dispatchWords (x : Pend) (prio : Nat) : List (Word × Bool) :=
  let copy := x.mode == 0#2 || x.mode == 1#2 || x.mode == 2#2
  [(BitVec.ofNat 64 (x.ch.toNat + 256 * x.mode.toNat + 1024 * x.set.toNat + 65536 * x.psnMask.toNat + 2 ^ 32 * prio), false),
   (x.sender, false),
   (BitVec.ofNat 64 ((if copy then x.addr.toNat else 0) + 2 ^ 32 * x.len.toNat), false),
   (x.word, x.psn)]

/-- Write s1 to s4. -/
def Regs.dispatch (r : Regs) (x : Pend) (prio : Nat) : Regs :=
  ((dispatchWords x prio).zip [1, 2, 3, 4]).foldl (fun r e => r.wrS (BitVec.ofNat 5 e.2) e.1.1 e.1.2) r

/-- s5 (R18). -/
def Core.s5 (c : Core) : Word :=
  BitVec.ofNat 64 ((c.relpos.extractLsb' 0 7).toNat + 65536 * (c.relpos.extractLsb' 16 10).toNat + 2 ^ 32 * c.gid.toNat)

/-- The watchdog limit in force from a LIM (R36, R213). -/
def wdLimitOf (lim : BitVec 32) : Nat := if lim = 0 then 2 ^ 32 else lim.toNat

/-- Take a pending message out of the list and keep its input record for the window of context k (R226, R229). The records of a LAND channel follow, where it is still bound so; the end-of-stream word of a FEED channel stays in its bytes 0 to 7 (DEDUCED: R226 names the word of the pending activation only, log 16). -/
def Core.takePend (c : Core) (i : Nat) (x : Pend) (k : BitVec 2) : Core :=
  let c := { c with pend := c.pend.eraseIdx i }
  let c := if x.mode = 2#2 ∧ c.bound x.ch.toNat ∧ c.chMode x.ch.toNat = 2#2 then c.showLand x.ch else c
  match needsRecord x, c.freeRecord with
  | true, some n => c.retain ⟨n, x.mode, x.ch, k, if x.mode = 2#2 then 0 else x.addr, x.size⟩
  | _, _ => c

/-- A context runs from its registers, with a new window. -/
def Core.runCtx (c : Core) (k : BitVec 2) (x : Ctx) : Core :=
  let c := { (c.setCtxAt k { x with st := .running, wait := .none }) with run := k, stalled := false }
  { c with win := c.newWindow x.regs }

/-- Start a pending activation in context k (R17, R18). -/
def Core.startAct (c : Core) (i : Nat) (x : Pend) (k : BitVec 2) (prio : Nat) : Core :=
  let ch := x.ch.toNat
  let base := c.chPrio ch
  let pc := c.chEntry ch
  let c := c.takePend i x k
  let old := c.ctxAt k
  let zero : Regs := { Regs.reset with openBatch := old.regs.openBatch, batchUsed := old.regs.batchUsed, pc := pc }
  let copy := x.mode == 0#2 || x.mode == 1#2
  c.runCtx k { old with
    regs := (zero.dispatch x prio).wrS 5 c.s5 false
    wd := 0, wdLimit := wdLimitOf c.wdogLim, prio := BitVec.ofNat 3 prio, base := base, prv := decide (56 ≤ ch)
    copyAddr := if copy then x.addr else 0, copyLen := if copy then x.len else 0, rstack := [] }

/-- Run a READY context; one that waited for a channel takes its oldest pending message (R181). -/
def Core.runReady (c : Core) (k : BitVec 2) (prio : Nat) : Core :=
  let x := c.ctxAt k
  match x.wait with
  | .chan ch =>
    match (List.range c.pend.length).find? fun i => ((c.pend[i]?).map fun y => y.ch == ch).getD false with
    | some i =>
      match c.pend[i]? with
      | some y =>
        let c := c.takePend i y k
        (c.runCtx k { x with regs := x.regs.dispatch y prio, prio := BitVec.ofNat 3 prio, copyAddr := y.addr, copyLen := y.len }).tidy
      | none => c
    | none => c.runCtx k { x with prio := BitVec.ofNat 3 prio }
  | _ => c.runCtx k { x with prio := BitVec.ofNat 3 prio }

/-- SELECT_ACTIVATION of core k (R281). A migrating MXFR of the core completes first (R20, R168). -/
def execSelectActivation (k : Nat) (s : State) : Out :=
  let s := s.migrateFrom k
  let c := s.coreAt k
  match (if c.maySelect && !s.resuming c.gid then c.choose else none) with
  | some (prio, .ready x) => .next (s.setCoreAt k (c.runReady x prio))
  | some (prio, .start i x) =>
    match c.pend[i]? with
    | some y => .next (s.setCoreAt k (c.startAct i y x prio))
    | none => .refused (.notEnabled "SELECT_ACTIVATION")
  | none => .refused (.notEnabled "SELECT_ACTIVATION")

/-- CONDITION_MET of context x of core k: it becomes READY (R19, R180, R280). -/
def execConditionMet (k : Nat) (x : BitVec 2) (s : State) : Out :=
  let c := s.coreAt k
  let y := c.ctxAt x
  if y.st == .parked && !c.captured && c.met x (((s.quernAt (quernOf k)).view s.cycle).held (isRunner k)) y.wait then
    .next (s.setCoreAt k (c.setCtxAt x { y with st := .ready, since := c.now }))
  else .refused (.notEnabled "CONDITION_MET")

/-- WATCHDOG_EXPIRY of core k: WDOG before the next instruction would issue (R213). -/
def execWatchdogExpiry (k : Nat) (s : State) : Out :=
  let c := s.coreAt k
  if c.ctx.st == .running && decide (c.ctx.wdLimit ≤ c.ctx.wd) then
    .next ((s.setCoreAt k { c with sync := none, stalled := false }).takeAt k ⟨.wdog, BitVec.ofNat 64 c.ctx.wdLimit⟩ c.fetchWord)
  else .refused (.notEnabled "WATCHDOG_EXPIRY")

end Sys2Proof.Machine
end

