-- ==== Sys2Proof/Machine/Messages.lean ====
section
/-! DEFINITION. Messages between cores: leaving the hold buffer, the generation check at the first router (R253), arrival, and every answer (R171, R173, R192, R225, R243, R244, R254). -/
namespace Sys2Proof.Machine

/-! ### Generations (R252, R253, R255) -/

/-- The generation after another (R252). -/
def nextGen (g : BitVec 8) : BitVec 8 := if g = 0xFE#8 then 0 else g + 1

/-- A page's entry before any advance in progress. -/
def State.genBase (s : State) (p : Nat) : GenEntry := (NMap.get? s.gens p).getD ⟨false, true, 0⟩

/-- The entry that an advance writes for a page; a retired page stays retired (R252, R258). -/
def Advance.entry (a : Advance) (e : GenEntry) (opn : Bool) : GenEntry :=
  if a.retire || e.ret then ⟨true, opn, 0xFF⟩ else ⟨e.ret, opn, nextGen e.gen⟩

/-- The entry for page p in the table of router r (R252, R255). -/
def State.genAt (s : State) (r p : Nat) : GenEntry :=
  let e := s.genBase p
  match s.advances.find? fun a => a.begun && a.pages.contains p with
  | some a => if a.closed.contains r then a.entry e (a.opened.contains r) else e
  | none => e

/-- The current generation of a page, as names carry it: the new one once an advance has written names and page maps (R255, step 3). -/
def State.genOf (s : State) (p : Nat) : BitVec 8 :=
  match s.advances.find? fun a => a.drained && a.pages.contains p with
  | some a => (a.entry (s.genBase p) true).gen
  | none => (s.genBase p).gen

/-! ### Groups -/

/-- The group with this identifier. -/
def State.group? (s : State) (gid : BitVec 16) : Option Group := s.seq.groups.find? fun g => g.gid == gid

/-- The group that owns a page. -/
def State.owner? (s : State) (p : Nat) : Option Group := s.seq.groups.find? fun g => g.pages.contains p

/-- The group whose cores take messages on a page: once a group has ended, a message meets cores that no group owns (R274; log 20). -/
def State.serving? (s : State) (p : Nat) : Option Group := (s.owner? p).filter fun g => g.ended.isNone

/-- Change a group. -/
def State.modGroup (s : State) (gid : BitVec 16) (f : Group → Group) : State :=
  { s with seq := { s.seq with groups := s.seq.groups.map fun g => if g.gid = gid then f g else g } }

/-- A store of a group has failed (R266). -/
def Group.failStore (g : Group) (dest : Word) : Group :=
  { g with nfail := if g.nfail = BitVec.allOnes 32 then g.nfail else g.nfail + 1, faddr := if g.nfail = 0 then dest else g.faddr }

/-! ### Launch queues and fault logs (R326, R386, R404) -/

/-- A launch queue. -/
def State.queueAt (s : State) (q : BitVec 4) : LQueue := (NMap.get? s.seq.queues q.toNat).getD LQueue.empty

/-- Replace a launch queue. -/
def State.setQueue (s : State) (q : BitVec 4) (x : LQueue) : State := { s with seq := { s.seq with queues := NMap.set s.seq.queues q.toNat x } }

/-- Write a record into a queue's fault log (R326). -/
def State.logFault (s : State) (q : BitVec 4) (ws : List Word) : State :=
  let x := s.queueAt q
  let log := x.log ++ [ws]
  s.setQueue q { x with log := if 256 < log.length then log.drop 1 else log, lost := if 256 < log.length then x.lost + 1 else x.lost, logNext := x.logNext + 1 }

/-- Write a record into the management log (R404). -/
def State.logMgmt (s : State) (ws : List Word) : State :=
  let b := s.boot
  let log := b.log ++ [ws]
  { s with boot := { b with log := if 256 < log.length then log.drop 1 else log, lost := if 256 < log.length then b.lost + 1 else b.lost, logNext := b.logNext + 1 } }

/-- A record goes to its group's fault log, or for no group to the management log (R326). -/
def State.logRecord (s : State) (gid : BitVec 16) (ws : List Word) : State :=
  match s.group? gid with
  | some g => s.logFault g.queue ws
  | none => s.logMgmt ws

/-! ### Answers -/

/-- Both messages go to one core, or to one edge block, whose index KIND 0x07 has in DST (R375). -/
def Msg.sameDst (x m : Msg) : Bool := x.dmod == m.dmod && (x.kind == 7#6) == (m.kind == 7#6) && keyOfAddr x.dst == keyOfAddr m.dst

/-- Both messages come from one core and go to one core. -/
def Msg.samePair (x m : Msg) : Bool := x.smod == m.smod && keyOfAddr x.src == keyOfAddr m.src && x.sameDst m

/-- The unit of a core that performs a message: 0 the remote-operation unit, 1 the delivery port, 2 neither (R192, R220). -/
def Msg.unit (m : Msg) : Nat :=
  if m.kind = 2#6 ∨ m.kind = 3#6 ∨ m.kind = 4#6 ∨ m.kind = 5#6 then 0 else if m.kind = 1#6 ∨ m.kind = 0x34#6 ∨ m.kind = 0x11#6 then 1 else 2

/-- The message at an index, when it is its turn: no earlier one of its class is in flight from the same core to the same core, whatever the generations in their names (R247), none before it is re-injected to its core (R356), and its unit is not in the midst of another, or of a combine result (R220, R369). -/
def State.arrive (s : State) (n : Nat) : Option Msg :=
  match s.flight[n]? with
  | some m =>
    if (s.flight.take n).any (fun x => x.sameDst m && ((x.cls == m.cls && x.samePair m) || (x.replay && x.cls == m.cls)))
        || (m.prog.isNone && s.flight.any fun x => x.prog.isSome && x.unit == m.unit && x.sameDst m)
        || (m.unit == 1 && m.dmod == s.modId && s.trees.any fun t => t.entries.any fun e => e.router == keyOfAddr m.dst && e.prog.isSome) then none
    else some m
  | none => none

/-- Take a message out of flight. -/
def State.dropMsg (s : State) (n : Nat) : State := { s with flight := s.flight.eraseIdx n }

/-- Send a message on its way: to another module through a Yunavy port, else on the mesh. An answer that no unit of the module waits for ends here. -/
def State.post (s : State) (m : Msg) : State :=
  if m.dmod ≠ s.modId then { s with outbox := s.outbox ++ [m] }
  else if m.cls = 1#2 ∧ m.home.isNone then s
  else { s with flight := s.flight ++ [m] }

/-- The answer to a message, from its destination to its sender, with the responder's group and the fields that its kind does not use zero (R243, R244). -/
def Msg.answer (m : Msg) (grp : BitVec 16) (kind : BitVec 6) (aux : BitVec 12) (bs : List MByte) : Msg :=
  { m with kind := kind, cls := 1, smod := m.dmod, src := m.dst, dmod := m.smod, dst := m.src, grp := grp, len := BitVec.ofNat 12 bs.length
           ch := 0, laddr := 0, aux := aux, payload := bs, prog := none, replay := false }

/-- The header flit of a message. -/
def Msg.flit (m : Msg) : BitVec 256 :=
  m.smod ++ (m.src ++ (m.dmod ++ (m.dst ++ (m.grp ++ (m.tkt ++ (m.len ++ (m.ch ++ (m.kind ++ (m.cls ++ (0#6 ++ (m.laddr ++ (m.aux ++ 0#56))))))))))))

/-- The message of a header flit. -/
def Msg.ofFlit (f : BitVec 256) (bs : List MByte) : Msg :=
  { kind := f.extractLsb' 96 6, cls := f.extractLsb' 94 2, smod := f.extractLsb' 236 20, src := f.extractLsb' 204 32, dmod := f.extractLsb' 184 20
    dst := f.extractLsb' 152 32, grp := f.extractLsb' 136 16, tkt := f.extractLsb' 120 16, len := f.extractLsb' 108 12, ch := f.extractLsb' 102 6
    laddr := f.extractLsb' 68 20, aux := f.extractLsb' 56 12, payload := bs, why := .system, back := 0, home := none }

/-- The payload bytes that follow a message's header flit: none for a GET, two words for an RA. -/
def flitPayload (f : BitVec 256) : Nat :=
  match (f.extractLsb' 96 6).toNat with
  | 3 => 0
  | 4 => 16
  | _ => (f.extractLsb' 108 12).toNat

/-- A router's answer to a stale message: it carries the stale header, as its 32 payload bytes (R253; log 32). -/
def Msg.stale (m : Msg) : Msg := m.answer m.grp 0x14 0 ((natBytes m.flit.toNat 32).map fun b => (b, false))

/-- The sender's s2 form (R18). -/
def Msg.sender (m : Msg) : Word := namedWord m.smod m.src

/-- The message as its channel sees it. -/
def Msg.incoming (m : Msg) (c : Core) : Incoming :=
  ⟨m.ch, m.sender, m.payload, m.grp != c.gid || m.smod != c.modu, m.grp, m.prog⟩

/-- A group message of R274: a request whose sender and destination belong to one group. -/
def Msg.inGroup (m : Msg) (c : Core) : Bool :=
  decide (1 ≤ m.kind.toNat) && decide (m.kind.toNat ≤ 6) && m.grp == c.gid && m.smod == c.modu

/-- Count a group message as accepted (R274). -/
def Core.countIn (c : Core) (m : Msg) : Core :=
  { c with accepted := if m.inGroup c then c.accepted + 1 else c.accepted, remFails := if m.kind = 1 then c.remFails else 0 }

/-! ### Line accesses to system memory (R375, R381) -/

/-- The role of port p. -/
def Edge.role (e : Edge) (p : Nat) : Nat := ((NMap.get? e.roles p).getD 0).toNat

/-- The enabled edge blocks in port order. -/
def Edge.enabled (e : Edge) : List Nat := (List.range 48).filter fun p => e.role p != 0

/-- The home of a page of an address space. -/
def Edge.homeOf (e : Edge) (asid : BitVec 16) (va : Nat) : Option Nat :=
  let ps := e.enabled
  if ps.isEmpty then none else ps[(va / 4096 + asid.toNat) % ps.length]?

/-- The message that carries a line access to its home edge block (R244, R375): KIND 0x07, with the edge index in DST. The payload begins with the virtual address, AUX is 1 for a write and LEN the bytes accessed (DESIGN CHOICE, log 32). -/
def Core.cxlMsg (c : Core) (x : XAcc) (home : Nat) : Msg :=
  { kind := 7, cls := 0, smod := c.modu, src := c.addr, dmod := c.modu, dst := BitVec.ofNat 32 home, grp := x.gid, tkt := 0, len := BitVec.ofNat 12 x.len
    ch := 0, laddr := 0, aux := if x.write then 1 else 0, payload := ((natBytes x.va 8).map fun b => (b, false)) ++ x.data, why := x.why, back := 0, home := some x.core }

/-- The access that such a message carries, at its home. -/
def State.accOf (s : State) (m : Msg) : XAcc :=
  ⟨m.home.getD 0, m.why, m.grp, ((s.group? m.grp).map Group.asid).getD 0, leNat ((m.payload.take 8).map Prod.fst), m.len.toNat, m.aux == 1, m.payload.drop 8, .home, 0, s.cycle, false⟩

/-! ### Leaving the core -/

/-- The earlier work of a fence or of a .REL send is done (R172, R197). -/
def Core.prereqOk (c : Core) (p : Prereq) : Bool :=
  (p.streams.all fun i => c.streams.all fun x => x.id != i)
    && (p.left.all fun i => c.ops.all fun o => o.id != i || o.st != .held)
    && p.acked.all fun i => c.ops.all fun o => o.id != i

/-- Two named words name one core. -/
def sameCore (a b : Word) : Bool := a.extractLsb' 32 20 == b.extractLsb' 32 20 && a.extractLsb' 0 17 == b.extractLsb' 0 17

/-- Two operations go the same way, so the later waits for the earlier: a request until its destination has accepted or performed it, and an operation for the sequencer or the combine plane until it has left (R173, R247, R366). A stream command that has not started holds nothing back (R172). -/
def Op.samePath (a b : Op) : Bool :=
  a.cls == b.cls && (if a.cls = 0#2 then sameCore a.dst b.dst else a.st == .held)

/-- The core that a stream command reads, as a named word. -/
def Core.readCore (c : Core) (x : Stream) : Word :=
  namedWord c.modu (namedOf (endRel x.src) (c.pageEntry ((endRel x.src).extractLsb' 16 10).toNat))

/-- A store of a stream command toward this core is not yet performed, or a read of one waits to be offered again (R173, R367). -/
def Core.storing (c : Core) (dst : Word) : Bool :=
  c.streams.any fun x => (!x.wrOut.isEmpty && x.toCore && sameCore (c.streamCore x) dst)
    || (!x.redo.isEmpty && x.srcSp == 2#2 && sameCore (c.readCore x) dst)

/-- An earlier operation of the core has not left, so a later one waits: operations other than stream commands leave in issue order (R366). -/
def Core.behind (c : Core) (o : Op) : Bool :=
  c.ops.any fun x => decide (x.id < o.id) && x.op != 0xA3#8 && x.st == .held && !x.resend

/-- The operation may leave now (R169, R197, R247, R367). -/
def Core.mayLeave (c : Core) (o : Op) : Bool :=
  !c.captured && o.committed && o.st == .held && c.prereqOk o.after && o.op != 0xA3#8 && (o.resend || !c.behind o)
    && (c.ops.all fun x => decide (o.id ≤ x.id) || x.op == 0xA3#8 || !x.samePath o)
    && !(o.cls == 0#2 && c.storing o.dst)

/-- The message of an operation (R243). LEN of a GET, which carries no payload, is the length that it asks for, and AUX of an RA holds FN above the type code, with its two operands as the payload (DESIGN CHOICE, log 32). -/
def Core.opMsg (c : Core) (k : Nat) (o : Op) : Msg :=
  let word (w : Word) : List MByte := (natBytes w.toNat 8).map fun b => (b, o.psn)
  { kind := o.kind, cls := 0, smod := c.modu, src := c.addr, dmod := wordMod o.dst, dst := wordAddr o.dst, grp := c.gid,
    tkt := o.tkt.getD 0, len := if o.kind = 3#6 then o.opb.extractLsb' 0 12 else if o.kind = 4#6 then 16 else BitVec.ofNat 12 o.payload.length
    ch := if o.kind = 1#6 then o.ch else 0
    laddr := o.laddr, aux := if o.kind = 4#6 then 0#2 ++ (o.fn ++ o.ty.code) else 0
    payload := if o.kind = 4#6 then word o.opa ++ word o.opb else o.payload, why := .op o.id
    back := o.opa.extractLsb' 0 20, home := some k }

/-- Replace an operation. -/
def Core.setOp (c : Core) (id : Nat) (f : Op → Op) : Core := { c with ops := c.ops.map fun o => if o.id = id then f o else o }

/-- Replace an operation, and write its header into its record (R225). -/
def Core.modOp (c : Core) (id : Nat) (f : Op → Op) : Core :=
  let c := c.setOp id f
  c.ops.foldl (fun c o => if o.id = id then c.wrHeader o else c) c

/-- Free an operation's record (R225). One that carried a stream command's recorded store settles it (R351). -/
def Core.freeOp (c : Core) (id : Nat) : Core :=
  let settled := (c.ops.filter fun o => o.id == id).filterMap Op.owes
  { c with ops := c.ops.filter fun o => o.id != id
           streams := if settled.isEmpty then c.streams else c.streams.map fun x => { x with owed := x.owed - (settled.filter fun i => i == x.id).length } }

/-- The first router's check of a request to a core (R253, R375): 0 passes, 1 refused while the page is closed, 2 stale. -/
def State.firstRouter (s : State) (r : Nat) (m : Msg) : Nat :=
  if m.dmod ≠ s.modId ∨ m.cls ≠ 0 ∨ m.kind = 7 then 0
  else
    let e := s.genAt r (pageOf (keyOfAddr m.dst))
    if e.ret || e.gen != m.dst.extractLsb' 24 8 then 2 else if !e.opn then 1 else 0

/-- Put a request on the mesh at router r: routed, or answered by the router (R253). -/
def State.route (s : State) (r : Nat) (m : Msg) : State :=
  match s.firstRouter r m with
  | 0 => s.post m
  | 1 => s.post (m.answer m.grp 0x13 0 [])
  | _ => s.post m.stale

/-- A line access leaves its core for its home (R381). With no edge block enabled it has none, and faults (log 18). -/
def State.toEdge (s : State) (x : XAcc) : State :=
  match s.edge.homeOf x.asid x.va with
  | some h => s.route x.core ((s.coreAt x.core).cxlMsg x h)
  | none => { s with edge := { s.edge with accs := s.edge.accs ++ [x] } }

/-- Message n reaches the home of the line access that it carries (R375, R381). -/
def State.atEdge (s : State) (n : Nat) : Option State :=
  match s.arrive n with
  | some m => if m.kind = 7#6 ∧ m.dmod = s.modId then some { s.dropMsg n with edge := { s.edge with accs := s.edge.accs ++ [s.accOf m] } } else none
  | none => none

/-- The request to the launch sequencer that an operation makes. -/
def Core.seqReq (c : Core) (k : Nat) (o : Op) : Option SeqReq :=
  let mk (x : SeqOp) (quiet : Bool) : Option SeqReq :=
    some ⟨x, k, c.gid, o.tkt.getD 0, o.opa, if x = .evarm then (o.ch.setWidth 32 : BitVec 32) ++ o.opb.extractLsb' 0 32 else o.opb, o.opc,
      (List.range (o.payload.length / 8)).map (fun i => BitVec.ofNat 64 (leNat (((o.payload.drop (8 * i)).take 8).map Prod.fst))),
      o.prv, o.site, quiet, o.psn, none⟩
  match o.op.toNat, o.fn.toNat with
  | 0xA6, 1 => mk .tbuild false
  | 0xA6, 2 => mk .tfree false
  | 0xC0, 1 => mk .resume false
  | 0xC0, 2 => mk .resume true
  | 0xC0, 3 => mk .copy false
  | 0xC0, 4 => mk .copy true
  | 0xC0, 5 => mk .discard false
  | 0xC0, 6 => mk .discard true
  | 0xC2, 0 => mk .isbind false
  | 0xC3, 0 => mk .launch false
  | 0xC3, 1 => mk .evsig false
  | 0xC3, 2 => mk .evarm false
  | 0xC3, 3 => mk .evrd false
  | _, _ => none

/-- A request operation leaves core k (R169, R225, R274). -/
def State.sendOp (s : State) (k : Nat) (o : Op) (first : Bool) : State :=
  let c := s.coreAt k
  let m := c.opMsg k o
  let c := c.modOp o.id fun o => { o with st := .sent }
  let c := if first && c.inGroup o.dst then { c with sent := c.sent + 1 } else c
  (s.setCoreAt k c).route k m

/-! ### Reports (R171, R326, R328) -/

/-- A KIND 2 report of a core about an operation that failed after it left: it names the instruction that issued it (R324). -/
def Core.report2 (c : Core) (cause : BitVec 12) (at' : Site) (info dest : Word) (tkt : BitVec 16) : Core :=
  c.report (mkRecord cause 2 at'.ctx 0 false at'.prv at'.pc at'.word info c.name c.gid tkt dest c.cycle c.seq)

/-! ### Arrival at the destination core -/

/-- The input port by which a message entered its destination's router: 5 from the core itself or from an ingress router that is the same (R348). -/
def State.inPort (s : State) (m : Msg) : Nat :=
  let k := keyOfAddr m.dst
  let src := if m.smod = s.modId then keyOfAddr m.src else m.home.getD k
  if src % 65536 = k % 65536 then (if src = k then 5 else 4)
  else
    let x := k % 256
    let y := k / 256 % 256
    let sx := src % 256
    let sy := src / 256 % 256
    if sy < y then 0 else if y < sy then 2 else if sx < x then 3 else 1

/-- A message is recorded as a token while its destination has captured (R351). A stream store of the group counts as drained then, and is acknowledged after the resume. -/
def State.token (s : State) (g : Group) (k : Nat) (m : Msg) : State :=
  let s := s.modGroup g.gid fun g => { g with susp := g.susp.map fun x =>
    { x with tokens := x.tokens ++ [⟨k, s.inPort m, (x.tokens.filter fun t => t.core == k).length, m⟩] } }
  match m.home, m.why with
  | some j, .store id req =>
    if m.smod = s.modId ∧ m.grp = g.gid then
      let c := s.coreAt j
      s.setCoreAt j { c with streams := c.streams.map fun x =>
        if x.id = id then { x with wrOut := x.wrOut.filter fun w => w.1 != req, owed := x.owed + 1 } else x }
    else s
  | _, _ => s

/-- An arrival of a request at a core: what the page's owner and a suspension make of it, else `f` (R244, R351). What a sealed sprig can no longer record is refused until the pages are renamed (log 26). -/
def State.atCore (s : State) (n : Nat) (m : Msg) (f : Nat → Core → State → State) : State :=
  let k := keyOfAddr m.dst
  let s := s.dropMsg n
  match s.serving? (pageOf k) with
  | none => if m.home.isSome || m.smod != s.modId then s.post (m.answer 0 0x15 (Cause.code .nochn) []) else s
  | some g =>
    if (s.coreAt k).captured && m.prog.isNone then
      if g.susp.any Susp.isSealed then s.post (m.answer m.grp 0x13 0 []) else s.token g k m
    else f k (s.coreAt k) s

/-- A message stays in flight until its last line is performed. -/
def State.unfinished (s : State) (m : Msg) (p : Progress) : State := { s with flight := { m with prog := some p } :: s.flight }

/-- One line of a payload that begins at address a of core k (R361, R369): the bytes of the next line are written, and after the last line `fin` follows. -/
def State.writeLines (s : State) (k : Nat) (m : Msg) (a : Nat) (fin : Core → State → State) : State :=
  let d := (m.prog.map Progress.done).getD 0
  let n := min (m.payload.length - d) (64 - (a + d) % 64)
  let c := (s.coreAt k).wrMarked (a + d) ((m.payload.drop d).take n)
  if d + n < m.payload.length then (s.setCoreAt k c).unfinished m ⟨d + n, 0⟩ else fin c s

/-- The re-injected messages behind a refused one, from the same core to the same core, go back to the hold buffer and leave again after it (R173, R356). -/
def State.pullBack (s : State) (m : Msg) : State :=
  match m.home with
  | some j =>
    let behind (x : Msg) : Bool := m.replay && x.replay && x.home == some j && x.samePair m
    let ids := (s.flight.filter behind).filterMap fun x => match x.why with | .op id => some id | _ => none
    let c := ids.foldl (fun c id => c.modOp id fun o => { o with st := .held, resend := true }) (s.coreAt j)
    { (if ids.isEmpty then s else s.setCoreAt j c) with flight := s.flight.filter fun x => !behind x }
  | none => s

/-- A LAND or WAKE message that a channel accepts is written line by line, and takes its effect after the last; another takes it at once (R237, R361). Each line is offered under the binding that stands then (DEDUCED, log 27). -/
def State.landLine (s : State) (k : Nat) (c : Core) (m : Msg) (i : Incoming) (fin : State) : State :=
  match c.nextLine i with
  | some (c, p) => (s.setCoreAt k c).unfinished m p
  | none => fin

/-- The launch sequencer's message as its channel sees it: s2 is the sender that the header names, 0 for the sequencer (R216, R326). -/
def Msg.fromSeq (m : Msg) (c : Core) : Incoming := ⟨m.ch, if m.home.isNone then 0 else m.sender, m.payload, m.grp != c.gid, m.grp, m.prog⟩

/-- The fault record that a message of the launch sequencer carries: a record has 64 bytes and an event word 8 (R216, R326). -/
def Msg.record (m : Msg) : Option (List Word) :=
  if m.len = 64 then some ((List.range 8).map fun i => BitVec.ofNat 64 (leNat (((m.payload.drop (8 * i)).take 8).map Prod.fst))) else none

/-- A message of the launch sequencer that no channel takes (R171, R326): a fault record goes to its queue's fault log, and another is reported. -/
def State.failSeq (s : State) (m : Msg) (cause : Cause) : State :=
  match m.record with
  | some ws => s.logRecord m.grp ws
  | none =>
    { s with posts := s.posts ++ [⟨m.grp, mkRecord cause.code 2 0 0 false false 0 0 (if cause = .nochn then m.ch.setWidth 64 else BitVec.ofNat 64 m.payload.length)
        0 m.grp 0 (namedWord m.dmod m.dst) (BitVec.ofNat 64 s.cycle) s.seq.seq, 0, 0, 0⟩], seq := { s.seq with seq := s.seq.seq + 1 } }

/-- A refused message of the launch sequencer is offered again 64 cycles later (R173), a fault record up to 16 times (R326). -/
def State.refuseSeq (s : State) (n : Nat) (m : Msg) : State :=
  match (if 15 ≤ m.tries then m.record else none) with
  | some ws => (s.dropMsg n).logRecord m.grp ws
  | none => { s with flight := s.flight.set n { m with tries := m.tries + 1, again := s.cycle + 64 } }

/-- A message of the launch sequencer to a channel (R216, R326): it is offered again when refused, and where its group has gone an event word is dropped and a record logged. -/
def State.offerSeq (s : State) (n : Nat) (m : Msg) : State :=
  let k := keyOfAddr m.dst
  let t := s.dropMsg n
  match (s.serving? (pageOf k)).filter fun g => g.gid == m.grp with
  | none => (m.record.map fun ws => t.logRecord m.grp ws).getD t
  | some g =>
    let c := s.coreAt k
    if c.captured && m.prog.isNone then (if g.susp.any Susp.isSealed then s else t.token g k m)
    else
      match c.offer (m.fromSeq c) with
      | .took c' => t.landLine k c m (m.fromSeq c) (t.setCoreAt k c')
      | .refused => s.refuseSeq n m
      | .failed cause => t.failSeq m cause

/-- MESSAGE_OFFER (R173): the channel accepts, refuses or fails the message; a LAND message is accepted line by line. -/
def execMessageOffer (n : Nat) (s : State) : Out :=
  match s.arrive n with
  | some m =>
    if m.kind = 0x34#6 ∧ m.dmod = s.modId then (if s.cycle < m.again then .refused (.notEnabled "MESSAGE_OFFER") else .next (s.offerSeq n m))
    else if m.kind ≠ 1#6 ∨ m.dmod ≠ s.modId then .refused (.notEnabled "MESSAGE_OFFER")
    else
      .next (s.atCore n m fun k c s =>
        match c.offer (m.incoming c) with
        | .took c' => s.landLine k c m (m.incoming c) ((s.setCoreAt k (c'.countIn m)).post (m.answer c.gid 0x10 0 []))
        | .refused => (s.pullBack m).post (m.answer c.gid 0x13 0 [])
        | .failed cause => s.post (m.answer c.gid 0x15 cause.code []))
  | none => .refused (.notEnabled "MESSAGE_OFFER")

/-- A request of a kind, performed by the remote-operation unit or served from local store (R192). -/
def State.perform (s : State) (n : Nat) (kind : BitVec 6) (name : String) (f : Nat → Core → Msg → State → State) : Out :=
  match s.arrive n with
  | some m =>
    if m.kind ≠ kind ∨ m.dmod ≠ s.modId then .refused (.notEnabled name)
    else .next (s.atCore n m fun k c s => f k c m s)
  | none => .refused (.notEnabled name)

/-- Some byte of a payload is marked. -/
def anyMark (bs : List MByte) : Bool := bs.any Prod.snd

/-- PUT_PERFORM (R191, R192): one line of the PUT, and its answer after the last (R361, R369). The answer tells of marked data by one payload byte with its mark, a form that R244 does not give (DESIGN CHOICE, log 32). -/
def execPutPerform (n : Nat) (s : State) : Out :=
  s.perform n 2 "PUT_PERFORM" fun k _ m s => s.writeLines k m m.laddr.toNat fun c s =>
    (s.setCoreAt k (c.countIn m)).post (m.answer c.gid 0x10 0 (m.payload.take 1 |>.map fun b => (b.1, anyMark m.payload)))

/-- Serve a read: captured cores serve it from their frozen local store (R351). -/
def State.serve (s : State) (n : Nat) (kind : BitVec 6) (name : String) : Out :=
  match s.arrive n with
  | some m =>
    if m.kind ≠ kind ∨ m.dmod ≠ s.modId then .refused (.notEnabled name)
    else
      let k := keyOfAddr m.dst
      let s := s.dropMsg n
      match s.serving? (pageOf k) with
      | none => .next (s.post (m.answer 0 0x15 (Cause.code .nochn) []))
      | some _ =>
        let c := s.coreAt k
        .next ((s.setCoreAt k (c.countIn m)).post (m.answer c.gid 0x11 0 (c.rdMarked m.laddr.toNat m.len.toNat)))
  | none => .refused (.notEnabled name)

/-- GET_SERVE (R191, R192). -/
def execGetServe (n : Nat) (s : State) : Out := s.serve n 3 "GET_SERVE"

/-- STREAM_READ_SERVE (R232). -/
def execStreamReadServe (n : Nat) (s : State) : Out := s.serve n 6 "STREAM_READ_SERVE"

/-- The atomic step of R113 at a destination, without a journal record: the core after it, the old value, and whether the word was marked. -/
def Core.remoteAtomic (c : Core) (m : Msg) : Core × BitVec 64 × Bool :=
  let ty := Ty.ofCode (m.aux.extractLsb' 0 4)
  let k : BitVec 3 := m.aux.extractLsb' 4 3
  let a := m.laddr.toNat
  let n := ty.width / 8
  let word (i : Nat) : Word := BitVec.ofNat 64 (leNat (((m.payload.drop (8 * i)).take 8).map Prod.fst))
  let old := BitVec.ofNat 64 (c.rdNat a n)
  let dp := c.anyMarked a n
  let new := amNew k ty old (ty.low (word 0)) (ty.low (word 1))
  let put (x : BitVec 64) (p : Bool) : Core := c.wrMarked a ((natBytes x.toNat n).map fun b => (b, p))
  (if anyMark m.payload then put 0 true else if new ≠ old ∨ n = 8 then put new false else c, ty.extend old, dp)

/-- RA_PERFORM (R191, R192): the answer's old value is marked when marked data was read or written (R193). -/
def execRaPerform (n : Nat) (s : State) : Out :=
  s.perform n 4 "RA_PERFORM" fun k c m s =>
    let r := c.remoteAtomic m
    (s.setCoreAt k (r.1.countIn m)).post (m.answer c.gid 0x10 0 ((natBytes r.2.1.toNat 8).map fun b => (b, r.2.2 || anyMark m.payload)))

/-- STREAM_STORE_PERFORM (R232): a line at a time, as a PUT (R367). -/
def execStreamStorePerform (n : Nat) (s : State) : Out :=
  s.perform n 5 "STREAM_STORE_PERFORM" fun k _ m s => s.writeLines k m m.laddr.toNat fun c s =>
    (s.setCoreAt k (c.countIn m)).post (m.answer c.gid 0x10 0 [])

/-! ### Answers at the sender -/

/-- The store of a stream command is done (R190, R232). -/
def Stream.storeDone (x : Stream) (req : Nat) : Stream :=
  { x with wrOut := x.wrOut.filter fun w => w.1 != req, sentBytes := [], again := none }

/-- Change a stream command. -/
def Core.modStream (c : Core) (id : Nat) (f : Stream → Stream) : Core :=
  { c with streams := c.streams.map fun x => if x.id = id then f x else x }

/-- The store in flight is offered again (R173, R225, R254). -/
def Stream.putBack (x : Stream) (req : Nat) (r : Retry) : Stream :=
  if x.wrOut.any fun w => w.1 == req then { x with again := some r } else x

/-- A read goes back to be sent again. -/
def Stream.unread (x : Stream) (pos : Nat) (r : Retry) : Stream :=
  { x with rdOut := x.rdOut.filter fun r => r.1 != pos
           redo := x.redo ++ (x.rdOut.filter fun e => e.1 == pos).map fun e => (e.1, e.2, r) }

/-- The answer of a kind that has come back to a core. -/
def State.answered (s : State) (n : Nat) (kinds : List (BitVec 6)) (name : String) (f : Nat → Core → Msg → State → State) : Out :=
  match s.arrive n with
  | some m =>
    match m.home with
    | some k =>
      if kinds.contains m.kind ∧ m.dmod = s.modId then .next (f k (s.coreAt k) m (s.dropMsg n)) else .refused (.notEnabled name)
    | none => .refused (.notEnabled name)
  | none => .refused (.notEnabled name)

/-- ACKNOWLEDGEMENT (R191, R225, R232, R244). -/
def execAcknowledgement (n : Nat) (s : State) : Out :=
  s.answered n [0x10] "ACKNOWLEDGEMENT" fun k c m s =>
    match m.why with
    | .op id =>
      let w := firstWord m.payload
      let v := match c.heldTicket m.tkt with
        | some x => if x.kind = 3#4 then w.1 else 0
        | none => 0
      let c := if (c.ops.any fun o => o.id == id && o.tkt.isSome) then c.completeTicket m.tkt 0 w.2 v else c
      s.setCoreAt k (c.freeOp id)
    | .store id req => s.setCoreAt k (c.modStream id fun x => x.storeDone req)
    | _ => s

/-- GET_DATA (R191, R232): GET bytes are written with their marks, a line at a time (R361), and stream bytes join their stream. -/
def execGetData (n : Nat) (s : State) : Out :=
  s.answered n [0x11] "GET_DATA" fun k c m s =>
    match m.why with
    | .op id =>
      if c.ops.any fun o => o.id == id then
        s.writeLines k m m.back.toNat fun c s => s.setCoreAt k (({ c with remFails := 0 }.completeTicket m.tkt 0 (anyMark m.payload) 0).freeOp id)
      else s
    | .read id pos => s.setCoreAt k (c.modStream id fun x =>
        { x with rdOut := x.rdOut.filter fun r => r.1 != pos, pieces := x.pieces ++ [⟨pos, m.payload, Cause.code .lspsn⟩] })
    | _ => s

/-- REFUSAL (R173, R253): the operation stays in the hold buffer and is offered again later. -/
def execRefusal (n : Nat) (s : State) : Out :=
  s.answered n [0x13] "REFUSAL" fun k c m s =>
    match m.why with
    | .op id =>
      s.setCoreAt k (c.modOp id fun o => { o with st := .refused, since := s.cycle })
    | .store id req => s.setCoreAt k (c.modStream id fun x => x.putBack req ⟨s.cycle + 64, none⟩)
    | .read id pos => s.setCoreAt k (c.modStream id fun x => x.unread pos ⟨s.cycle + 64, none⟩)
    | .system => s

/-- REOFFER of operation `id` of core k, 64 cycles after the refusal (R173). -/
def execReoffer (k id : Nat) (s : State) : Out :=
  let c := s.coreAt k
  match c.ops.find? fun o => o.id == id with
  | some o =>
    if o.st == .refused && decide (o.since + 64 ≤ s.cycle) && !c.captured then .next (s.sendOp k o false)
    else .refused (.notEnabled "REOFFER")
  | none => .refused (.notEnabled "REOFFER")

/-- STALE_NAME (R171, R254): a relative destination waits for its page map, another is reported and discarded. -/
def execStaleName (n : Nat) (s : State) : Out :=
  match s.arrive n with
  | some m =>
    if m.kind ≠ 0x14#6 ∨ m.dmod ≠ s.modId then .refused (.notEnabled "STALE_NAME")
    else
      let s := s.dropMsg n
      match m.home, m.why with
      | some k, .op id =>
        let c := s.coreAt k
        match c.ops.find? fun o => o.id == id with
        | some o =>
          if o.rel.isSome then .next (s.setCoreAt k (c.modOp id fun o => { o with st := .stale, since := s.cycle }))
          else
            .next (s.setCoreAt k ((c.report2 (Cause.code .stale) o.site (m.src.setWidth 64) o.dst (o.tkt.getD 0)).freeOp id))
        | none => .next s
      | some k, .store id req =>
        .next (s.setCoreAt k ((s.coreAt k).modStream id fun x => x.putBack req ⟨s.cycle + 64, some (m.src.extractLsb' 24 8)⟩))
      | some k, .read id pos =>
        .next (s.setCoreAt k ((s.coreAt k).modStream id fun x => x.unread pos ⟨s.cycle + 64, some (m.src.extractLsb' 24 8)⟩))
      | _, _ =>
        .next { s with posts := s.posts ++ [⟨m.grp, mkRecord (Cause.code .stale) 2 0 0 false false 0 0 (m.src.setWidth 64) 0 m.grp 0
          (namedWord m.smod m.src) (BitVec.ofNat 64 s.cycle) s.seq.seq, 0, 0, 0⟩], seq := { s.seq with seq := s.seq.seq + 1 } }
  | none => .refused (.notEnabled "STALE_NAME")

/-- An operation whose name can no longer be translated is discarded, completes with BADREL and is reported (R254). -/
def Core.badRel (c : Core) (o : Op) : Core :=
  let c := match o.tkt with
    | some t => c.completeTicket t (Cause.code .badrel) false 0
    | none => c
  let c := c.report2 (Cause.code .badrel) o.site ((o.rel.getD 0).setWidth 64) ((o.rel.getD 0).setWidth 64) (o.tkt.getD 0)
  c.freeOp o.id

/-- An operation that carried a stream command's recorded store and failed counts as a failed store (R266, R351). -/
def State.opLost (s : State) (c : Core) (o : Op) : State :=
  if o.owes.isSome then s.modGroup c.gid fun g => g.failStore o.dst else s

/-- RETRANSLATE_CHECK of operation `id` of core k (R254). -/
def execRetranslateCheck (k id : Nat) (s : State) : Out :=
  let c := s.coreAt k
  match c.ops.find? fun o => o.id == id && o.st == .stale && decide (o.since + 64 ≤ s.cycle) with
  | some o =>
    match c.relToNamed (o.rel.getD 0) with
    | none => .next ((s.setCoreAt k (c.badRel o)).opLost c o)
    | some r =>
      if r.2.extractLsb' 24 8 = o.dst.extractLsb' 24 8 then .next (s.setCoreAt k (r.1.setOp id fun o => { o with since := s.cycle }))
      else .next (s.setCoreAt k (r.1.modOp id fun o => { o with st := .held, dst := namedWord (wordMod o.dst) r.2, resend := true }))
  | none => .refused (.notEnabled "RETRANSLATE_CHECK")

/-- INFO of a delivery failure (R325). -/
def failInfo (cause : BitVec 12) (o : Op) : Word :=
  if cause = Cause.code .nochn then o.ch.setWidth 64
  else if cause = Cause.code .msglen then BitVec.ofNat 64 o.payload.length
  else 0

/-- DELIVERY_FAILURE (R171): the operation is discarded and reported. -/
def execDeliveryFailure (n : Nat) (s : State) : Out :=
  match s.arrive n with
  | some m =>
    if m.kind ≠ 0x15#6 ∨ m.dmod ≠ s.modId then .refused (.notEnabled "DELIVERY_FAILURE")
    else
      let s := s.dropMsg n
      match m.home, m.why with
      | some k, .op id =>
        let c := s.coreAt k
        match c.ops.find? fun o => o.id == id with
        | some o =>
          let c := match o.tkt with
            | some t => c.completeTicket t m.aux false 0
            | none => c
          .next ((s.setCoreAt k ((c.report2 m.aux o.site (failInfo m.aux o) o.dst (o.tkt.getD 0)).freeOp id)).opLost c o)
        | none => .next s
      | some k, .store id req =>
        let c := s.coreAt k
        let x := c.streams.find? fun x => x.id == id
        let info : Word := if m.aux = Cause.code .nochn then ((x.map fun x => endCh x.dst).getD 0).setWidth 64
          else if m.aux = Cause.code .msglen then BitVec.ofNat 64 ((x.map fun x => x.sentBytes.length).getD 0) else 0
        let r := (c.modStream id fun x => x.storeDone req).report2 m.aux ((x.map Stream.site).getD Site.none) info (namedWord m.smod m.src) 0
        .next ((s.setCoreAt k r).modGroup c.gid fun g => g.failStore (namedWord m.smod m.src))
      | some k, .read id pos =>
        let c := s.coreAt k
        let x := c.streams.find? fun x => x.id == id
        let len := ((x.bind fun x => x.rdOut.find? fun r => r.1 == pos).map Prod.snd).getD 0
        let c := c.modStream id fun x =>
          { x with rdOut := x.rdOut.filter fun r => r.1 != pos, pieces := x.pieces ++ [⟨pos, List.replicate len (0, true), Cause.code .lspsn⟩] }
        .next (s.setCoreAt k (c.report2 m.aux ((x.map Stream.site).getD Site.none) 0 (namedWord m.smod m.src) 0))
      | _, _ =>
        .next { s with posts := s.posts ++ [⟨m.grp, mkRecord m.aux 2 0 0 false false 0 0 (m.ch.setWidth 64) 0 m.grp 0
          (namedWord m.smod m.src) (BitVec.ofNat 64 s.cycle) s.seq.seq, 0, 0, 0⟩], seq := { s.seq with seq := s.seq.seq + 1 } }
  | none => .refused (.notEnabled "DELIVERY_FAILURE")

/-- The kinds of R244. -/
def listedKind (k : BitVec 6) : Bool :=
  let n := k.toNat
  (decide (1 ≤ n) && decide (n ≤ 7)) || (decide (0x10 ≤ n) && decide (n ≤ 0x15)) || (decide (0x30 ≤ n) && decide (n ≤ 0x34))

/-- A router discards a message of an unlisted kind, and counts it (R244). -/
def State.badKind (s : State) : State := { s with boot := { s.boot with badKinds := satInc s.boot.badKinds } }

/-- UNLISTED_KIND (R244): the message is discarded and counted. -/
def execUnlistedKind (n : Nat) (s : State) : Out :=
  match s.flight[n]? with
  | some m => if listedKind m.kind then .refused (.notEnabled "UNLISTED_KIND") else .next (s.dropMsg n).badKind
  | none => .refused (.notEnabled "UNLISTED_KIND")

end Sys2Proof.Machine
end

