-- ==== Sys2Proof/Machine/Combine.lean ====
section
/-! DEFINITION. The combine plane: trees and their entries (R194 to R196, R294 to R296), units and operators (R298 to R304), delivery (R306), quorum (R307, R308), aborts (R309) and trees that span modules (R400 to R403): OP 0xA6. -/
namespace Sys2Proof.Machine

/-! ### Shape (R246, R294) -/

/-- The next named hop toward a router: port and router (R241, R246). -/
def nextHop (k dst : Nat) : Option (Nat × Nat) :=
  let x := k % 256
  let y := k / 256 % 256
  if k / 65536 ≠ dst / 65536 then some (4, twinOf k)
  else if x < dst % 256 then some (1, k + 1)
  else if dst % 256 < x then some (3, k - 1)
  else if dst / 256 % 256 < y then some (0, k - 256)
  else if y < dst / 256 % 256 then some (2, k + 256)
  else none

/-- The routers on the route from k, k and the destination included; `fuel` bounds the hops. -/
def routeGo (dst : Nat) : Nat → Nat → List Nat
  | 0, k => [k]
  | n + 1, k =>
    match nextHop k dst with
    | some h => k :: routeGo dst n h.2
    | none => [k]

/-- The routers on the route of R246; it has at most 511 hops. -/
def routeTo (k dst : Nat) : List Nat := routeGo dst 512 k

/-- The port of a router on which an adjacent router lies. -/
def portToward (k j : Nat) : Nat := ((nextHop k j).map Prod.fst).getD 5

/-! ### Descriptors (R194, R296) -/

/-- A field of a tree descriptor. -/
def descBits (d : List Word) (w lo n : Nat) : Nat := (d.getD w 0).toNat / 2 ^ lo % 2 ^ n

/-- FORM: 0 reduce, 1 all-reduce, 2 broadcast. -/
def descForm (d : List Word) : Nat := descBits d 0 22 2
/-- QRM. -/
def descQrm (d : List Word) : Bool := descBits d 0 21 1 == 1
/-- XM. -/
def descXm (d : List Word) : Bool := descBits d 0 20 1 == 1
/-- TYPE. -/
def descTy (d : List Word) : Ty := Ty.ofCode (BitVec.ofNat 4 (descBits d 0 16 4))
/-- OPC. -/
def descOpc (d : List Word) : Nat := descBits d 0 12 4
/-- TID. -/
def descTid (d : List Word) : BitVec 12 := BitVec.ofNat 12 (descBits d 0 0 12)
/-- CH. -/
def descCh (d : List Word) : BitVec 6 := BitVec.ofNat 6 (descBits d 0 24 6)
/-- SLEN. -/
def descSlen (d : List Word) : Nat := descBits d 4 0 6
/-- QCNT. -/
def descQcnt (d : List Word) : Nat := descBits d 4 32 20
/-- DLN, in µs. -/
def descDln (d : List Word) : Nat := descBits d 5 0 32
/-- RMOD. -/
def descRmod (d : List Word) : BitVec 20 := BitVec.ofNat 20 (descBits d 6 0 20)
/-- EG. -/
def descEg (d : List Word) : Nat := descBits d 7 0 8

/-- The block positions or units of a step (R298). -/
def descPositions (d : List Word) : Nat := if descTy d = .vb16 then descSlen d / 2 else descSlen d

/-- The bytes of a position. -/
def descUnit (d : List Word) : Nat := if descTy d = .vb16 then 128 else 64

/-- OPC and TYPE go together (R296). -/
def opcOk (opc : Nat) (ty : Ty) : Bool :=
  if opc ≤ 5 then ty.isAtomic else if 8 ≤ opc ∧ opc ≤ 10 then ty == .f32 else opc == 12 && ty.isBlock

/-- The named key of a relative core address in a group's pages (R37, R38). -/
def Group.keyOfRel (g : Group) (rel : BitVec 32) : Option Nat :=
  if rel.extractLsb' 26 6 ≠ 0 ∨ rel.extractLsb' 7 9 ≠ 0 then none
  else (g.pages[(rel.extractLsb' 16 10).toNat]?).map fun p =>
    keyOf (rel.extractLsb' 6 1).toNat (p / 32 * 8 + (rel.extractLsb' 3 3).toNat) (p % 32 * 8 + (rel.extractLsb' 0 3).toNat)

/-- The members of a descriptor in rank order (R194, R307). -/
def Group.members (g : Group) (d : List Word) : List Nat :=
  let pgf := descBits d 1 0 10
  let pgl := descBits d 1 10 10
  (List.range (pgl + 1 - pgf)).flatMap fun i =>
    match g.pages[pgf + i]? with
    | none => []
    | some p => [(0, 2), (1, 3)].flatMap fun tw => (List.range 64).filterMap fun q =>
      if (d.getD tw.2 0).getLsbD q then some (keyOf tw.1 (p / 32 * 8 + q / 8) (p % 32 * 8 + q % 8)) else none

/-- The checks of a descriptor that give BADARG (R194, R296). -/
def Group.descOk (g : Group) (d : List Word) : Bool :=
  let ty := descTy d
  let opc := descOpc d
  let slen := descSlen d
  let ms := g.members d
  let blk := opc == 12
  descForm d != 3 && decide (1 ≤ slen) && decide (slen ≤ 32) && decide ((descCh d).toNat ≤ 55) && opcOk opc ty
    && !(ty == .vb16 && slen % 2 == 1)
    && (if blk then decide (1 ≤ descEg d) && decide (descEg d ≤ 254) else descEg d == 0)
    && decide (descBits d 1 0 10 ≤ descBits d 1 10 10) && decide (descBits d 1 10 10 < g.pages.length)
    && !ms.isEmpty && (g.keyOfRel (BitVec.ofNat 32 (descBits d 0 32 32))).any ms.contains
    && (!descQrm d || (!(decide (8 ≤ opc) && decide (opc ≤ 10)) && slen != 32 && descQcnt d != 0
        && decide (descQcnt d ≤ ms.length) && decide (descDln d ≤ 60000000)))
    && descBits d 0 30 2 == 0 && descBits d 1 20 44 == 0 && descBits d 4 52 12 == 0 && descBits d 4 6 26 == 0
    && descBits d 5 32 32 == 0 && descBits d 6 20 44 == 0 && descBits d 7 8 56 == 0

/-! ### Building and removing (R194, R196, R295, R296) -/

/-- The tree with an identifier. -/
def State.tree? (s : State) (tid : BitVec 12) : Option Tree := s.trees.find? fun t => t.tid == tid

/-- Change a tree. -/
def State.modTree (s : State) (tid : BitVec 12) (f : Tree → Tree) : State :=
  { s with trees := s.trees.map fun t => if t.tid = tid then f t else t }

/-- The entries of a router, over all trees. -/
def State.entriesAt (s : State) (r : Nat) : List Entry := s.trees.flatMap fun t => t.entries.filter fun e => e.router == r

/-- The inputs in a CHM mask, as ports in the fixed order L, N, E, S, W, Z (R300). -/
def chmPorts (m : BitVec 6) : List Nat := ([5, 0, 1, 2, 3, 4] : List Nat).filter fun p => m.getLsbD p

/-- A contiguous run of free buffer units of a router (R296). -/
def freeUnits (es : List Entry) (n : Nat) : Option Nat :=
  (List.range (513 - n)).find? fun b => es.all fun e => decide (b + n ≤ e.bufb) || decide (e.bufb + e.nbuf ≤ b)

/-- The entry of a router in a new tree; none when its table or its pool is full. -/
def State.newEntry (s : State) (d : List Word) (members routers : List Nat) (root r : Nat) (join : Bool) : Option Entry :=
  let kids := routers.filter fun c => ((nextHop c root).map Prod.snd) == some r && c != root
  let ports := (kids.map fun c => portToward r c) ++ (if members.contains r then [5] else [])
  let chm : BitVec 6 := bitsOf 6 fun p => ports.contains p
  let n := 2 * (chmPorts chm).length + 4 + (if r = root then descSlen d else 0)
  let es := s.entriesAt r
  match (List.range 64).find? fun k => es.all fun e => e.slot != k, freeUnits es n with
  | some slot, some b =>
    let par : BitVec 3 := if r = root then (if join then 6 else 7) else BitVec.ofNat 3 (portToward r (((nextHop r root).map Prod.snd).getD r))
    some ⟨r, slot, par, chm, 0, b, n, List.replicate (descPositions d) (BitVec.ofNat 8 (descEg d)), [], [], 0, none, [], none⟩
  | _, _ => none

/-- Build a tree of a group; the cause of a failure (R194, R296, R348). -/
def State.buildTree (s : State) (g : Group) (d : List Word) : Except Cause State :=
  if !g.descOk d then .error .badarg
  else if (s.tree? (descTid d)).isSome then .error .texist
  else
    let ms := g.members d
    let root := (g.keyOfRel (BitVec.ofNat 32 (descBits d 0 32 32))).getD 0
    let routers := (ms.flatMap fun m => routeTo m root).eraseDups
    let join := descXm d && descRmod d != s.modId
    let es := routers.map fun r => s.newEntry d ms routers root r join
    if es.any Option.isNone then .error .tfull
    else
      let t : Tree := ⟨g.gid, descTid d, d, ms, root, es.filterMap id, 0, [], none, [], [], [], []⟩
      let clear (k : Nat) (s : State) : State :=
        let c := s.coreAt k
        s.setCoreAt k { c with trees := NMap.set c.trees (descTid d).toNat (.new 0) }
      .ok (ms.foldl (fun s k => clear k s) { s with trees := s.trees ++ [t] })

/-- A member's state of a tree. -/
def Core.treeMem (c : Core) (tid : BitVec 12) : TreeMem := (NMap.get? c.trees tid.toNat).getD (.new 0)

/-- Replace a member's state of a tree. -/
def Core.setTreeMem (c : Core) (tid : BitVec 12) (m : TreeMem) : Core := { c with trees := NMap.set c.trees tid.toNat m }

/-- A step ends at a member: its ticket completes, its record is freed (R195, R303). The done bitmap of a step in place that wrote nothing is zero (R308, R309). -/
def Core.endStep (c : Core) (tid : BitVec 12) (step : Nat) (cause : BitVec 12) (abt : Bool) : Core :=
  let m := c.treeMem tid
  match m.opens.find? fun o => o.step == step with
  | some o =>
    let c := (c.completeTicket o.tkt cause false 0).freeOp o.op
    let m := if o.ip && m.bitStep != step then { m with bitmap := 0, bitStep := step } else m
    c.setTreeMem tid { m with opens := m.opens.filter (fun o => o.step != step), done := m.done + 1, cause := cause, abt := abt }
  | none => c

/-- The steps of a tree that are open at some member. -/
def State.openSteps (s : State) (t : Tree) : List Nat := (t.members.flatMap fun k => ((s.coreAt k).treeMem t.tid).opens.map OpenStep.step).eraseDups

/-- An entry whose step has ended without its result: it goes on with the root's scales (log 17). -/
def Entry.skip (e : Entry) (step : Nat) (sc : List (BitVec 8)) : Entry :=
  let e := { e with sc := sc, hand := if e.hand.any (fun h => h.1 == step) then none else e.hand, got := if e.hand.any (fun h => h.1 == step) then [] else e.got, prog := if e.hand.any (fun h => h.1 == step) then none else e.prog }
  if e.step ≤ step then { e with held := [], since := [], att := 0, step := step + 1 } else e

/-- A lane message with nothing filled in. -/
def LaneMsg.to (m : BitVec 20) (kind : LaneKind) (tid : BitVec 12) : LaneMsg := ⟨m, kind, tid, 0, 0, 0, .raw [], 0, [], [], 0, 0, 0, []⟩

/-- The tree is a joined part of a tree whose root is on another module (R400). -/
def Tree.isJoin (own : BitVec 20) (t : Tree) : Bool := descXm t.desc && descRmod t.desc != own

/-- The module is joined to the tree and has not been detached (R400, R403). -/
def Tree.joined (t : Tree) (m : BitVec 20) : Bool := (t.joins.any fun j => j.1 == m) && !t.gone.contains m

/-- The modules with which a part of a tree exchanges messages: RMOD, or at the root the joined ones (R400). -/
def Tree.others (own : BitVec 20) (t : Tree) : List (BitVec 20) :=
  if t.isJoin own then [descRmod t.desc] else (t.joins.map Prod.fst).filter fun m => !t.gone.contains m

/-- The scales at the root of a tree's local part. -/
def Tree.rootScales (t : Tree) : List (BitVec 8) := ((t.entries.find? fun e => e.router == t.root).map Entry.sc).getD []

/-- Abort one step of a tree on this module (R309): open tickets complete with ABORT, records are freed, and no member owes the step. -/
def State.abortHere (s : State) (t : Tree) (step : Nat) : State :=
  let atMember (s : State) (k : Nat) : State :=
    let c := (s.coreAt k).endStep t.tid step (Cause.code .abort) true
    let m := c.treeMem t.tid
    s.setCoreAt k (c.setTreeMem t.tid { m with issued := max m.issued (step + 1) })
  let s := t.members.foldl atMember s
  let s := { s with
    downs := s.downs.filter fun x => !(x.tid == t.tid && x.step == step)
    cunits := s.cunits.filter fun x => !(x.tid == t.tid && x.step == step)
    rnqs := s.rnqs.filter fun x => !(x.tid == t.tid && x.step == step)
    rnms := s.rnms.filter fun x => !(x.tid == t.tid && x.step == step) }
  s.modTree t.tid fun t =>
    let sc := t.rootScales
    let t := { t with rel := t.rel.filter (fun x => x.step != step), entries := t.entries.map fun e => e.skip step sc }
    if t.step = step then { t with step := step + 1, sums := [], qsince := none, rnm := [] } else t

/-- The other parts of a spanning tree learn that a step has been aborted, with the scales that the root has then (R309; log 23). -/
def State.tellAbort (s : State) (tid : BitVec 12) (step : Nat) : State :=
  match s.tree? tid with
  | some t => { s with laneOut := s.laneOut ++ (t.others s.modId).map fun m => { LaneMsg.to m .abort tid with step := step, scales := t.rootScales } }
  | none => s

/-- Abort one step of a tree on every module that holds a part of it (R309). -/
def State.abortOne (s : State) (t : Tree) (step : Nat) : State := (s.abortHere t step).tellAbort t.tid step

/-- TABORT: the step that the tree is in ends (R196, R309). -/
def State.abortStep (s : State) (t : Tree) : State :=
  match s.openSteps t with
  | [] => s
  | o :: os => s.abortOne t (os.foldl min o)

/-- The open steps of a tree, the lowest first. -/
def State.sortedSteps (s : State) (t : Tree) : List Nat := (s.openSteps t).mergeSort fun a b => decide (a ≤ b)

/-- Step 1 of a generation advance aborts the open steps of the trees that have a router on its pages (R309). -/
def State.abortOn (s : State) (pages : List Nat) : State :=
  (s.trees.filter fun t => t.entries.any fun e => pages.contains (pageOf e.router)).foldl (fun s t => (s.sortedSteps t).foldl (fun s n => s.abortOne t n) s) s

/-- Remove a tree from every router (R196, R295). -/
def State.removeTree (s : State) (tid : BitVec 12) : State :=
  { s with trees := s.trees.filter fun t => t.tid != tid
           cunits := s.cunits.filter fun x => x.tid != tid, downs := s.downs.filter fun x => x.tid != tid
           rnqs := s.rnqs.filter fun x => x.tid != tid, rnms := s.rnms.filter fun x => x.tid != tid }

/-- Abort every open step of a tree and remove it from this module (R196). -/
def State.freeTree (s : State) (t : Tree) : State := ((s.sortedSteps t).foldl (fun s n => s.abortHere t n) s).removeTree t.tid

/-- The other parts of a spanning tree learn that this one is gone (R403). -/
def State.tellGone (s : State) (t : Tree) : State :=
  { s with laneOut := s.laneOut ++ (t.others s.modId).map fun m => LaneMsg.to m .leave t.tid }

/-- Complete a ticket of a core. -/
def State.finishTicket (s : State) (k : Nat) (t : BitVec 16) (cause : BitVec 12) : State :=
  s.setCoreAt k ((s.coreAt k).completeTicket t cause false 0)

/-- The request at an index of the sequencer's list, when it is of a kind and no earlier one of its core waits (R436). -/
def State.seqReq? (s : State) (n : Nat) (op : SeqOp) : Option SeqReq :=
  match s.seqIn[n]? with
  | some r => if r.op = op ∧ (s.seqIn.take n).all (fun x => x.core != r.core) then some r else none
  | none => none

/-- Take a request out of the list. -/
def State.dropReq (s : State) (n : Nat) : State := { s with seqIn := s.seqIn.eraseIdx n }

/-- TREE_BUILD (R194, R296, R400): a join waits for the answer of RMOD. -/
def execTreeBuild (n : Nat) (s : State) : Out :=
  match s.seqReq? n .tbuild with
  | some r =>
    let s := s.dropReq n
    match s.group? r.gid with
    | none => .next (s.finishTicket r.core r.tkt (Cause.code .badarg))
    | some g =>
      match s.buildTree g r.words with
      | .error c => .next (s.finishTicket r.core r.tkt c.code)
      | .ok s =>
        if descXm r.words && descRmod r.words != s.modId then
          .next { s with laneOut := s.laneOut ++ [{ LaneMsg.to (descRmod r.words) .join (descTid r.words) with
            count := (g.members r.words).length, desc := r.words, tkt := r.tkt, core := r.core }] }
        else .next (s.finishTicket r.core r.tkt 0)
  | none => .refused (.notEnabled "TREE_BUILD")

/-- TREE_REMOVE (R196, R403). -/
def execTreeRemove (n : Nat) (s : State) : Out :=
  match s.seqReq? n .tfree with
  | some r =>
    let s := s.dropReq n
    match s.tree? (r.a.extractLsb' 0 12) with
    | none => .next (s.finishTicket r.core r.tkt (Cause.code .tnomem))
    | some t =>
      if t.gid ≠ r.gid then .next (s.finishTicket r.core r.tkt (Cause.code .tnomem))
      else
        .next (((s.freeTree t).tellGone t).finishTicket r.core r.tkt 0)
  | none => .refused (.notEnabled "TREE_REMOVE")

/-! ### CTRB, TABORT and TQRY (R195, R196) -/

/-- A ticket that is done at once with a cause. -/
def Core.ticketAtOnce (c : Core) (d : Reg) (kind : BitVec 4) (cause : Cause) : Core :=
  let c := if c.ticketBusy then c.commit else c
  if c.ticketBusy then c
  else
    let x := c.allocTicket kind
    (x.1.completeTicket x.2 cause.code false 0).modRegs fun r => (r.wrS d (tktWord x.2) false).adv

/-- CTRB (R195). BADADDR of s[B] comes before MISALN: DESIGN CHOICE (log 33). -/
def State.ctrb (d a b : Reg) (ip : BitVec 1) (s : State) : Except Trap State :=
  let c := s.core
  match psnUse c.regs [a, b] with
  | .error t => .error t
  | .ok () =>
    let tid := (c.regs.rdS a).extractLsb' 0 12
    match (s.tree? tid).bind fun t => if t.members.contains s.cur then some t else none with
    | none => .ok (s.setCore (c.ticketAtOnce d 6 .tnomem))
    | some t =>
      let x := c.regs.rdS b
      let len := 64 * descSlen t.desc
      let span := if descQrm t.desc then len + 64 else len
      if !inProgram x.toNat span then .error ⟨.badaddr, x⟩
      else if x.toNat % 64 ≠ 0 then .error ⟨.misaln, x⟩
      else
        let m := c.treeMem tid
        if 2 ≤ m.opens.length then .ok (s.setCore (c.ticketAtOnce d 6 .cbusy))
        else
          let bs := if descForm t.desc = 2 ∧ s.cur ≠ t.root then [] else c.seenMarked x.toNat len
          match c.issueOp (some (d, 6)) fun c => { c.newOp 0xA6 0 with cls := 2, kind := 0x35, opa := c.regs.rdS a, opb := x, payload := bs } with
          | .error e => .error e
          | .ok c' =>
            if c'.regs.pc = c.regs.pc then .ok (s.setCore c')
            else
              let tkt := c'.nextTkt - 1
              .ok (s.setCore (c'.setTreeMem tid { m with
                issued := m.issued + 1, inPlace := ip == 1#1, opens := m.opens ++ [⟨m.issued, x.extractLsb' 0 20, ip == 1#1, tkt, c'.nextOp - 1⟩] }))

/-- CTRB (R195). -/
def execCtrb (p : Pred) (d a b : Reg) (ip : BitVec 1) (s : State) : Out := issueS p (State.ctrb d a b ip) s

/-- TABORT (R196): it closes the window after itself. -/
def execTabort (p : Pred) (a : Reg) (s : State) : Out :=
  issueS p (fun s =>
    match psnUse s.core.regs [a] with
    | .error t => .error t
    | .ok () =>
      let tid := (s.core.regs.rdS a).extractLsb' 0 12
      let s := s.setCore s.core.adv.commit
      match s.tree? tid with
      | some t => .ok (if t.gid = s.core.gid then s.abortStep t else s)
      | none => .ok s) s

/-- A value of a tree read by TQRY. -/
def State.tqry (d a : Reg) (f : Core → BitVec 12 → Option Tree → Word) (s : State) : Except Trap State :=
  let c := s.core
  match psnUse c.regs [a] with
  | .error t => .error t
  | .ok () =>
    let tid := (c.regs.rdS a).extractLsb' 0 12
    let t := (s.tree? tid).bind fun t => if t.entries.any fun e => e.router == s.cur then some t else none
    .ok (s.setCore (c.modRegs fun r => (r.wrS d (f c tid t) false).adv))

/-- TQRY with sel 0 (R196). -/
def execTqryStatus (p : Pred) (d a : Reg) (s : State) : Out :=
  issueS p (State.tqry d a fun c tid t =>
    match t with
    | none => 0
    | some t =>
      let m := c.treeMem tid
      BitVec.ofNat 16 m.done ++ (0#8 ++ (m.cause ++ (0#24 ++ (bit1 (descQrm t.desc) ++ (bit1 m.abt ++ (bit1 (!m.opens.isEmpty) ++ 1#1))))))) s

/-- TQRY with sel 1 (R196). -/
def execTqryDoneBitmap (p : Pred) (d a : Reg) (s : State) : Out :=
  issueS p (State.tqry d a fun c tid _ => (c.treeMem tid).bitmap.setWidth 64) s

/-- TQRY with sel 2 (R196, R307). -/
def execTqryQuorumCount (p : Pred) (d a : Reg) (s : State) : Out :=
  issueS p (State.tqry d a fun c tid _ => (c.treeMem tid).quorum.setWidth 64) s

/-! ### Units and operators (R298 to R302) -/

/-- ToFixed (R301): the integers of a block at scale Eg. A wrong FMT makes poison even where E is 0. -/
def toFixed (ty : Ty) (b : Blk) (eg : Nat) (own : Org) : CBody :=
  if hdrE b.hdr = 255#8 then .poison (orgClean (b.data.extractLsb' 0 128))
  else if hdrFmt b.hdr ≠ ty.fmt ∧ hdrFmt b.hdr ≠ 0#4 then .poison own
  else if hdrE b.hdr = 0#8 then .fixed (List.replicate 32 0) false false
  else
    let sh (j : Nat) : Int := (hdrE b.hdr).toNat - (eg : Int) - b.mu j - (ty.width - 1 : Nat) + 24
    .fixed ((List.range 32).map fun j => roundInt (b.mant ty j) (sh j) .rne)
      ((List.range 32).any fun j => !isWhole (b.mant ty j) (sh j)) false

/-- The block of a position's bytes (R298). -/
def unitBlk (ty : Ty) (bs : List MByte) : Blk :=
  let x := bs.map Prod.fst
  if ty = Ty.vb16 then ⟨BitVec.ofNat 512 (leNat (x.take 64)), BitVec.ofNat 32 (leNat ((x.drop 64).take 4))⟩
  else ⟨BitVec.ofNat 512 (leNat ((x.drop 4).take (4 * ty.width))), BitVec.ofNat 32 (leNat (x.take 4))⟩

/-- The bytes of a position that holds a block (R298). -/
def blkUnit (ty : Ty) (b : Blk) : List MByte :=
  let h := natBytes b.hdr.toNat 4
  let m := natBytes b.data.toNat (4 * ty.width)
  ((if ty = Ty.vb16 then m ++ h ++ List.replicate 60 0 else h ++ m ++ List.replicate (60 - 4 * ty.width) 0)).map fun x => (x, false)

/-- The element of an integer or f32 unit. -/
def unitElem (ty : Ty) (bs : List MByte) (e : Nat) : BitVec 64 :=
  let n := ty.width / 8
  BitVec.ofNat 64 (leNat (((bs.drop (n * e)).take n).map Prod.fst))

/-- Two elements combined (R300). -/
def combineElem (opc : Nat) (ty : Ty) (a b : BitVec 64) : BitVec 64 :=
  match opc with
  | 0 => ty.low (a + b)
  | 1 => if ty.value b < ty.value a then b else a
  | 2 => if ty.value a < ty.value b then b else a
  | 3 => a &&& b
  | 4 => a ||| b
  | 5 => a ^^^ b
  | 8 => (Ty.f32.fadd .rne (Ty.f32.unpack a) (Ty.f32.unpack b)).bits
  | 9 => (Ty.f32.fminmax false a b).bits
  | _ => (Ty.f32.fminmax true a b).bits

/-- Two raw units combined, with the marks of both (R299, R300). -/
def combineRaw (opc : Nat) (ty : Ty) (a b : List MByte) : List MByte :=
  let n := ty.width / 8
  let bs := (List.range (64 / n)).flatMap fun e => natBytes (combineElem opc ty (unitElem ty a e) (unitElem ty b e)).toNat n
  (List.range 64).map fun i => (bs.getD i 0, (a.getD i (0, false)).2 || (b.getD i (0, false)).2)

/-- Two bodies combined: the winning poison, exact sums, or the operator (R300, R302). -/
def combineBody (opc : Nat) (ty : Ty) : CBody → CBody → CBody
  | .poison a, .poison b => .poison (orgMin a b)
  | .poison a, _ => .poison a
  | _, .poison b => .poison b
  | .fixed a i s, .fixed b j t => .fixed (List.zipWith (· + ·) a b) (i || j) (s || t)
  | .raw a, .raw b => .raw (combineRaw opc ty a b)
  | .raw a, _ => .raw a
  | x, .raw _ => x

/-- A sum lies outside the 32-bit range (R302). -/
def overflows : CBody → Bool
  | .fixed n _ _ => n.any fun t => decide (t < -(2 ^ 31)) || decide (t > 2 ^ 31 - 1)
  | _ => false

/-- A sum clamped at the greatest scale (R302). -/
def clampBody : CBody → CBody
  | .fixed n i s =>
    if overflows (.fixed n i s) then .fixed (n.map fun t => clampInt t (-(2 ^ 31 - 1)) (2 ^ 31 - 1)) i true else .fixed n i s
  | b => b

/-- Several units combined in the order given (R300): bodies, contributors and ranks. -/
def combineUnits (d : List Word) : List CUnit → Option (CBody × Nat × List Nat)
  | [] => none
  | u :: us => some (us.foldl (fun a x => (combineBody (descOpc d) (descTy d) a.1 x.body, a.2.1 + x.count, a.2.2 ++ x.ranks))
      (u.body, u.count, u.ranks))

/-! ### Contributions and sums (R300 to R303) -/

/-- The tree and its entry at a router. -/
def State.entryOf (s : State) (tid : BitVec 12) (r : Nat) : Option (Tree × Entry) :=
  (s.tree? tid).bind fun t => (t.entries.find? fun e => e.router == r).map fun e => (t, e)

/-- Change a tree's entry at a router. -/
def State.modEntry (s : State) (tid : BitVec 12) (r : Nat) (f : Entry → Entry) : State :=
  s.modTree tid fun t => { t with entries := t.entries.map fun e => if e.router = r then f e else e }

/-- Member k contributes bytes: in a broadcast only the root of the whole tree does (R195, R401). -/
def Tree.gives (own : BitVec 20) (t : Tree) (k : Nat) : Bool := descForm t.desc != 2 || (k == t.root && !t.isJoin own)

/-- The contribution of member k enters its router, one unit for each position. -/
def State.contribute (s : State) (t : Tree) (k step : Nat) (bs : List MByte) : State :=
  if !t.gives s.modId k then s
  else
    let n := descUnit t.desc
    let rank := t.members.idxOf k
    { s with cunits := s.cunits ++ (List.range (descPositions t.desc)).map fun p =>
      ⟨t.gid, t.tid, step, p, k, 5, 0, .raw ((bs.drop (n * p)).take n), 1, [rank], 0⟩ }

/-- The step that a router works on: at the root, the one after the last release (R304, R308). -/
def Tree.stepAt (t : Tree) (e : Entry) : Nat := if e.router = t.root then t.step else e.step

/-- Part of the result of a step is still to reach member k. -/
def State.owes (s : State) (t : Tree) (k step : Nat) : Bool :=
  (s.downs.any fun x => x.tid == t.tid && x.router == k && x.step == step && x.todo.contains 5) || (k == t.root && t.rel.any fun x => x.step == step)

/-- The result of a step has come and gone at member k (R308). -/
def State.missed (s : State) (t : Tree) (k step : Nat) : Bool :=
  (t.entries.any fun e => e.router == k && decide (step < t.stepAt e)) && !s.owes t k step

/-- A committed CTRB of core k leaves its core (R195, R303). One that contributes nothing, of a step whose result has gone, ends with QLATE here, as a late contribution does at its router (R308). -/
def State.leaveCtrb (s : State) (k : Nat) (o : Op) : State :=
  let c := s.coreAt k
  let tid := o.opa.extractLsb' 0 12
  let s := s.setCoreAt k (c.setOp o.id fun o => { o with st := .sent })
  match s.tree? tid, (c.treeMem tid).opens.find? fun x => x.op == o.id with
  | some t, some x =>
    if t.gives s.modId k = false ∧ s.missed t k x.step = true then s.setCoreAt k ((s.coreAt k).endStep tid x.step (Cause.code .qlate) false)
    else s.contribute t k x.step o.payload
  | _, _ => s

/-- The unit as a router takes it: a member's block contribution is converted at the router's scale, and a marked word makes it poison (R299, R301). At scale 254 a conversion that overflows is clamped (R302). -/
def State.takeUnit (s : State) (t : Tree) (e : Entry) (u : CUnit) : CUnit :=
  let ty := descTy t.desc
  match u.body with
  | .raw bs =>
    if u.port = 5 then
      if descOpc t.desc = 12 then
        let c := s.coreAt u.router
        let sc := e.sc.getD u.pos 0
        let body := if anyMark bs then .poison (c.unitOrigin .lspsn 0) else toFixed ty (unitBlk ty bs) sc.toNat (c.unitOrigin .fmt 0)
        { u with body := if sc.toNat < 254 then body else clampBody body, stamp := sc, att := e.att }
      else { u with att := e.att }
    else u
  | _ => u

/-- The ports whose units a router waits for; at a root, one more for each joined module, and in a broadcast only the root's own (R300, R401). -/
def Tree.inputs (t : Tree) (e : Entry) : List Nat :=
  if descForm t.desc = 2 then [5]
  else chmPorts e.chm ++ (if e.router = t.root then
      ((List.range t.joins.length).filter fun i => !t.gone.contains (t.joins.getD i (0, 0)).1).map (8 + ·) else [])

/-- The block that a joined module's sum crosses as (R402). -/
def partialBody (d : List Word) (tid : BitVec 12) (step pos : Nat) (sc : BitVec 8) : CBody → CBody
  | .fixed n inx sat =>
    let seed : Word := BitVec.ofNat 64 (tid.toNat * 2 ^ 32 + step % 2 ^ 32)
    match toBlock (descTy d) (fun i => .sr (srRand seed (32 * pos + i))) (n.map fun t => .dy t ((sc.toNat : Int) - 151)) with
    | some (b, _) => .raw (blkUnit (descTy d) ⟨b.data, b.hdr ||| (if sat then 8 else 0) ||| (if inx then 4 else 0)⟩)
    | none => .raw []
  | b => b

/-- The positions that the two buffer units of an input or an output hold (R296, R298). -/
def descRoom (d : List Word) : Nat := if descTy d = .vb16 then 1 else 2

/-- A router's upward output holds no free unit: its parent has not taken what it sent (R297). -/
def State.upFull (s : State) (t : Tree) (e : Entry) : Bool :=
  match nextHop e.router t.root with
  | some h => decide (descRoom t.desc ≤ (s.cunits.filter fun u => u.tid == t.tid && u.router == h.2 && u.port == portToward h.2 e.router).length)
  | none => false

/-- What an entry holds of a position, in the fixed order of its inputs (R300). -/
def Entry.present (t : Tree) (e : Entry) (pos : Nat) : List CUnit :=
  (t.inputs e).flatMap fun p => e.held.filter fun x => x.port == p && x.pos == pos

/-- Every input of a position is present (R300). -/
def Entry.whole (t : Tree) (e : Entry) (pos : Nat) : Bool :=
  (t.inputs e).all fun p => e.held.any fun x => x.port == p && x.pos == pos

/-- A position's sum is out of range, where it is checked now, or the conversion of the router's own contribution was (R302); poison is neither. -/
def tooLarge (check : Bool) (body : CBody) (us : List CUnit) : Bool :=
  match body with
  | .fixed _ _ _ => (check && overflows body) || us.any fun u => u.port == 5 && overflows u.body
  | _ => false

/-- The root of a quorum step sums its partials exactly and checks the sum when the step completes (R302, R307). -/
def Tree.gathers (t : Tree) (e : Entry) : Bool := e.router == t.root && e.par != 6#3 && descQrm t.desc

/-- A router sends the sum of the units that it holds of a position on: up, into the root's sums, or to RMOD; an overflow becomes a renormalise request (R302, R303, R402), at the root of a quorum step only when the step completes (R307). -/
def State.forward (s : State) (t : Tree) (e : Entry) (pos : Nat) : State :=
  let us := e.present t pos
  match combineUnits t.desc us with
  | none => s
  | some x =>
    let sc := e.sc.getD pos 0
    let s := s.modEntry t.tid e.router fun y => { y with held := y.held.filter (fun u => u.pos != pos), since := NMap.del y.since pos }
    let prior := if t.gathers e then t.sums.find? fun u => u.pos == pos else none
    let x : CBody × Nat × List Nat :=
      match prior with
      | some u => (combineBody (descOpc t.desc) (descTy t.desc) u.body x.1, u.count + x.2.1, u.ranks ++ x.2.2)
      | none => x
    if tooLarge (!t.gathers e) x.1 us ∧ sc.toNat < 254 then { s with rnqs := s.rnqs ++ [⟨t.gid, t.tid, e.step, pos, sc, t.root⟩] }
    else
      let body := if t.gathers e then x.1 else clampBody x.1
      let u : CUnit := ⟨t.gid, t.tid, e.step, pos, e.router, 0, sc, body, x.2.1, x.2.2, e.att⟩
      if e.router = t.root then
        if e.par = 6#3 then
          { s with laneOut := s.laneOut ++ [{ LaneMsg.to (descRmod t.desc) .part t.tid with
            step := e.step, pos := pos, stamp := sc, body := partialBody t.desc t.tid e.step pos sc body, count := x.2.1, ranks := x.2.2, att := e.att }] }
        else s.modTree t.tid fun t => { t with sums := t.sums.filter (fun y => y.pos != pos) ++ [u] }
      else
        match nextHop e.router t.root with
        | some h => { s with cunits := s.cunits ++ [{ u with router := h.2, port := portToward h.2 e.router }] }
        | none => s

/-! ### Release and the way down (R297, R304, R306) -/

/-- The next scale of a position (R304). -/
def nextScale (rnm : Bool) (sc : BitVec 8) : CBody → BitVec 8
  | .fixed n _ _ => if !rnm && n.all (fun t => decide (t.natAbs < 2 ^ 23)) then BitVec.ofNat 8 (max 1 (sc.toNat - 1)) else sc
  | _ => sc

/-- The bytes that a position releases (R304). -/
def releaseBytes (d : List Word) (sc : BitVec 8) : CBody → List MByte
  | .raw bs => bs
  | .poison o => blkUnit (descTy d) (poisonBlk (descTy d) o)
  | .fixed n inx sat =>
    match toBlock (descTy d) (fun _ => .rne) (n.map fun t => .dy t ((sc.toNat : Int) - 151)) with
    | some (b, _) => blkUnit (descTy d) ⟨b.data, b.hdr ||| (if sat then 8 else 0) ||| (if inx then 4 else 0)⟩
    | none => []

/-- The quorum unit (R307). -/
def quorumUnit (ranks : List Nat) (count : Nat) : List MByte :=
  let x : BitVec 512 := bitsOf 448 (fun r => ranks.contains r) ++ (0#44 ++ BitVec.ofNat 20 count)
  (natBytes x.toNat 64).map fun b => (b, false)

/-- The parts of a step's result: its positions, and in quorum mode the quorum unit. -/
def descParts (d : List Word) : Nat := descPositions d + if descQrm d then 1 else 0

/-- The last part of a result, or a notice: the member's step ends with it. -/
def CDown.final (x : CDown) (d : List Word) : Bool := x.bytes.isNone || x.pos + 1 == descParts d

/-- With it the result, or for a reduce the notice, has passed a router (R304). -/
def CDown.passes (x : CDown) (d : List Word) : Bool := if descForm d = 0 then x.bytes.isNone else x.final d

/-- A router takes the scales that an item carries; with the last item it goes on to the next step (R304). An item of a step that has been aborted since changes nothing. -/
def Entry.pass (d : List Word) (x : CDown) (e : Entry) : Entry :=
  if x.step < e.step then e
  else
  let e := { e with sc := x.scs.foldl (fun sc y => sc.set y.1 y.2) e.sc }
  if x.passes d then { e with held := [], since := [], att := 0, step := x.step + 1 } else e

/-- An item enters the downward buffer of router r, for the ports of `todo`. -/
def State.enterDown (s : State) (t : Tree) (r : Nat) (x : CDown) (todo : List Nat) : State :=
  let s := s.modEntry t.tid r (Entry.pass t.desc x)
  if todo.isEmpty then s else { s with downs := s.downs ++ [{ x with router := r, todo := todo }] }

/-- The downward buffer of router r holds a free unit (R297). -/
def State.downRoom (s : State) (t : Tree) (r : Nat) : Bool :=
  decide ((s.downs.filter fun y => y.tid == t.tid && y.router == r).length < descRoom t.desc)

/-- The root's next released item enters its downward buffer, where that has room. -/
def State.pumpOne (s : State) (tid : BitVec 12) : State :=
  match s.tree? tid with
  | some t =>
    match t.rel with
    | x :: xs => if s.downRoom t t.root then (s.modTree tid fun t => { t with rel := xs }).enterDown t t.root x x.todo else s
    | [] => s
  | none => s

/-- What the root has released goes down as its buffer has room (R297). -/
def State.pumpDown (s : State) (tid : BitVec 12) : State :=
  match s.tree? tid with
  | some t => t.rel.foldl (fun s _ => s.pumpOne tid) s
  | none => s

/-- The items of a released step at a root whose inputs are `ports`: for a reduce the result for the root's member, then a notice (R304, R306). -/
def releaseItems (t : Tree) (ports : List Nat) (parts : List (Nat × List MByte)) (scs : List (BitVec 8)) (own : Bool) (step count : Nat) (ranks : List Nat) : List CDown :=
  let kids := ports.filter fun p => p != 5
  let all := if descOpc t.desc = 12 then (List.range scs.length).zip scs else []
  let item (pos : Nat) (bytes : Option (List MByte)) (scs : List (Nat × BitVec 8)) (todo : List Nat) : CDown :=
    ⟨t.gid, t.tid, step, pos, t.root, bytes, scs, count, ranks, todo, [], 0⟩
  if descForm t.desc = 0 then
    (if own then parts.map fun x => item x.1 (some x.2) [] [5] else []) ++ [item 0 none all (kids ++ if own then [] else [5])]
  else parts.map fun x => item x.1 (some x.2) (all.filter fun y => y.1 == x.1) ports

/-- The ranks of the members that are included in every position of the root's sums (log 17). -/
def Tree.included (t : Tree) : List Nat :=
  match t.sums with
  | [] => []
  | u :: us => u.ranks.filter fun r => us.all fun v => v.ranks.contains r

/-- The root releases the step: the items for its tree and the messages to the joined modules, each with the ranks as its own members count them (R304, R306, R401). -/
def State.releaseStep (s : State) (t : Tree) : State :=
  let root := t.entries.find? fun e => e.router == t.root
  let scs := (root.map Entry.sc).getD []
  let bodyAt (p : Nat) : CBody :=
    match t.sums.find? fun u => u.pos == p with
    | some u => clampBody u.body
    | none => .raw (List.replicate (descUnit t.desc) (0, false))
  let ps := List.range (descPositions t.desc)
  let ranks := t.included
  let count := ranks.length
  let parts := ps.map fun p => (p, releaseBytes t.desc (scs.getD p 0) (bodyAt p))
  let parts := if descQrm t.desc then parts ++ [(ps.length, quorumUnit ranks count)] else parts
  let scs' := ps.map fun p => nextScale (t.rnm.contains p) (scs.getD p 0) (bodyAt p)
  let far := (List.range t.joins.length).flatMap fun i =>
    let j := t.joins.getD i (0, 0)
    let off := t.members.length + ((t.joins.take i).map Prod.snd).sum
    let mine := (ranks.filter fun r => decide (off ≤ r) && decide (r < off + j.2)).map fun r => r - off
    if t.gone.contains j.1 then []
    else if descForm t.desc = 0 then
      [{ LaneMsg.to j.1 .result t.tid with step := t.step, pos := descParts t.desc - 1, count := count, ranks := mine, scales := scs' }]
    else parts.map fun x => { LaneMsg.to j.1 .result t.tid with
      step := t.step, pos := x.1, stamp := scs'.getD x.1 0, body := .raw x.2, count := count, ranks := mine }
  let items := releaseItems t (chmPorts ((root.map Entry.chm).getD 0)) parts scs' true t.step count ranks
  let s := { s with laneOut := s.laneOut ++ far }
  (s.modTree t.tid fun t =>
    { t with step := t.step + 1, sums := [], qsince := none, rnm := [], rel := t.rel ++ items
             entries := t.entries.map fun e => if e.router = t.root then { e with held := [], since := [] } else e }).pumpDown t.tid

/-- The deadline of a quorum step has passed (R307). -/
def State.deadlinePassed (s : State) (t : Tree) : Bool :=
  descDln t.desc != 0 && t.qsince.any fun n => decide (n + 3300 * descDln t.desc ≤ s.cycle)

/-- The root has summed every position, and no member is captured: the open steps of a captured member end in the capture (R304, R351). -/
def State.mayRelease (s : State) (t : Tree) : Bool :=
  ((List.range (descPositions t.desc)).all fun p => t.sums.any fun u => u.pos == p) && !t.members.any fun k => (s.coreAt k).captured

/-- The member of a router sends its contribution of a step again (R303). -/
def State.resend (s : State) (t : Tree) (k : Nat) : State :=
  let c := s.coreAt k
  match (c.treeMem t.tid).opens.find? fun o => o.step == t.step with
  | some o =>
    match c.ops.find? fun x => x.id == o.op && x.st == .sent with
    | some x => s.contribute t k t.step x.payload
    | none => s
  | none => s

/-- A router takes a renormalise commit: the new scale, and nothing held (R303). -/
def State.renorm (s : State) (t : Tree) (r pos : Nat) (sc : BitVec 8) : State :=
  let s := s.modEntry t.tid r fun e => { e with sc := e.sc.set pos sc, held := [], since := [], att := e.att + 1 }
  let s := { s with cunits := s.cunits.filter fun u => !(u.tid == t.tid && u.router == r && u.port == 5 && u.step == t.step) }
  if t.members.contains r then s.resend t r else s

/-- The root commits a new scale and sends it down (R303). -/
def State.commitScale (s : State) (t : Tree) (pos : Nat) (sc : BitVec 8) : State :=
  let s := (s.modTree t.tid fun t => { t with sums := [], qsince := none, rnm := t.rnm ++ [pos] }).renorm t t.root pos sc
  { s with
    rnms := s.rnms ++ (t.entries.filter fun e => e.router != t.root).map fun e => ⟨t.gid, t.tid, t.step, pos, sc, e.router⟩
    laneOut := s.laneOut ++ (if t.isJoin s.modId then [] else t.others s.modId).map fun m => { LaneMsg.to m .rnm t.tid with step := t.step, pos := pos, stamp := sc } }

/-- A position whose sum at the root is out of range, at a scale that can still grow (R302). -/
def Tree.wide (t : Tree) : Option Nat :=
  (t.sums.find? fun u => overflows u.body && decide ((t.rootScales.getD u.pos 0).toNat < 254)).map CUnit.pos

/-- The root ends a step whose sums are complete: it releases it, or renormalises a position whose sum is out of range (R302 to R304, R307). -/
def State.settleStep (s : State) (t : Tree) : State :=
  match t.wide with
  | some p => s.commitScale t p (BitVec.ofNat 8 (min ((t.rootScales.getD p 0).toNat + 4) 254))
  | none => s.releaseStep t

/-- A root that may release the step does; in quorum mode once QCNT members are in or the deadline has passed (R304, R307). -/
def State.tryRelease (s : State) (tid : BitVec 12) : State :=
  match s.tree? tid with
  | none => s
  | some t =>
    if s.mayRelease t && (!descQrm t.desc || decide (descQcnt t.desc ≤ t.included.length) || s.deadlinePassed t) then s.settleStep t else s

/-- A router sends on a position that is whole, where its upward output has room; at a root the step may then be complete (R297, R300). -/
def State.pump (s : State) (tid : BitVec 12) (r : Nat) : State :=
  match s.entryOf tid r with
  | none => s
  | some (t, e) =>
    match (List.range (descPositions t.desc)).find? (e.whole t) with
    | some p => if s.upFull t e then s else (s.forward t e p).tryRelease tid
    | none => s

/-- The router whose upward output a unit left has room again (R297). -/
def State.pumpSender (s : State) (t : Tree) (u : CUnit) : State :=
  match t.entries.find? fun e => (nextHop e.router t.root).any fun h => h.2 == u.router && portToward h.2 e.router == u.port with
  | some e => s.pump t.tid e.router
  | none => s

/-- A unit is taken into a router's entry; a position that is whole goes on (R300, R307). The first one at the root starts the deadline of a quorum step (log 17). -/
def State.placeUnit (s : State) (t : Tree) (e : Entry) (u : CUnit) : State :=
  let s := s.modEntry t.tid e.router fun e => { e with
    held := e.held ++ [u], since := if (NMap.get? e.since u.pos).isSome then e.since else NMap.set e.since u.pos s.cycle }
  let s := s.modTree t.tid fun t => if e.router = t.root ∧ descQrm t.desc = true ∧ t.qsince = none then { t with qsince := some s.cycle } else t
  s.pump t.tid e.router

/-- COMBINE_UNIT: unit n arrives at its router, after those before it on its port and where that input has a free buffer unit (R297, R300 to R303, R308). -/
def execCombineUnit (n : Nat) (s : State) : Out :=
  match s.cunits[n]? with
  | none => .refused (.notEnabled "COMBINE_UNIT")
  | some u =>
    let s' := { s with cunits := s.cunits.eraseIdx n }
    match s.entryOf u.tid u.router with
    | none => .next s'
    | some (t, e) =>
      if (s.cunits.take n).any fun x => x.tid == u.tid && x.router == u.router && x.port == u.port && x.step == u.step then .refused (.notEnabled "COMBINE_UNIT")
      else if u.step < t.stepAt e then
        if u.port = 5 ∧ s.owes t u.router u.step = false then
          .next (s'.setCoreAt u.router ((s'.coreAt u.router).endStep u.tid u.step (Cause.code .qlate) false))
        else .next (s'.pumpSender t u)
      else if e.step < u.step ∨ descRoom t.desc ≤ (e.held.filter fun x => x.port == u.port).length then .refused (.notEnabled "COMBINE_UNIT")
      else
        let u := s'.takeUnit t e u
        if (descOpc t.desc = 12 ∧ u.stamp ≠ e.sc.getD u.pos 0) ∨ u.att ≠ e.att then .next (s'.pumpSender t u)
        else .next ((s'.placeUnit t e u).pumpSender t u)

/-- RNQ: request n reaches the root (R303). -/
def execRnq (n : Nat) (s : State) : Out :=
  match s.rnqs[n]? with
  | none => .refused (.notEnabled "RNQ")
  | some q =>
    let s := { s with rnqs := s.rnqs.eraseIdx n }
    match s.tree? q.tid with
    | none => .next s
    | some t =>
      match t.entries.find? fun e => e.router == t.root with
      | none => .next s
      | some e =>
        if q.step ≠ t.step ∨ e.sc.getD q.pos 0 ≠ q.scale then .next s
        else if e.par = 6#3 then
          .next { s with laneOut := s.laneOut ++ [{ LaneMsg.to (descRmod t.desc) .rnq t.tid with step := q.step, pos := q.pos, stamp := q.scale }] }
        else .next (s.commitScale t q.pos (BitVec.ofNat 8 (min (q.scale.toNat + 4) 254)))

/-- Commit n waits at its router: for an older commit there, for its parent to take this one, or for the results of the steps before (R303, R304). -/
def State.rnmWaits (s : State) (t : Tree) (n : Nat) (q : CRnm) : Bool :=
  let up := ((nextHop q.router t.root).map Prod.snd).getD t.root
  ((s.rnms.take n).any fun x => x.tid == q.tid && x.router == q.router)
    || (s.rnms.any fun x => x.tid == q.tid && x.router == up && x.step == q.step && x.pos == q.pos && x.scale == q.scale)
    || (t.entries.any fun e => e.router == q.router && decide (e.step < q.step))

/-- RNM: commit n reaches its router, after the router's parent and in the order of the commits (R303). -/
def execRnm (n : Nat) (s : State) : Out :=
  match s.rnms[n]? with
  | none => .refused (.notEnabled "RNM")
  | some q =>
    match s.tree? q.tid with
    | none => .next { s with rnms := s.rnms.eraseIdx n }
    | some t =>
      if s.rnmWaits t n q then .refused (.notEnabled "RNM")
      else
        let s := { s with rnms := s.rnms.eraseIdx n }
        .next (if q.step = t.step then s.renorm t q.router q.pos q.scale else s)

/-! ### Delivery (R306, R308) -/

/-- The open step of a member that a result belongs to, once its CTRB has left the core. -/
def Core.openFor (c : Core) (tid : BitVec 12) (step : Nat) : Option OpenStep :=
  match (c.treeMem tid).opens.find? fun o => o.step == step with
  | some o => if c.ops.any fun x => x.id == o.op && x.st == .sent then some o else none
  | none => none

/-- Item n, when it is the first of its tree at its router that has to go to port p. -/
def State.downTurn (s : State) (n p : Nat) : Option CDown :=
  match s.downs[n]? with
  | some x => if x.todo.contains p && (s.downs.take n).all fun y => !(y.tid == x.tid && y.router == x.router && y.todo.contains p) then some x else none
  | none => none

/-- Item n has gone to port p; one that has gone everywhere frees its buffer. -/
def State.leaveDown (s : State) (n p : Nat) : State :=
  match s.downs[n]? with
  | some x =>
    let todo := x.todo.filter fun q => q != p
    (if todo.isEmpty then { s with downs := s.downs.eraseIdx n } else { s with downs := s.downs.set n { x with todo := todo } }).pumpDown x.tid
  | none => s

/-- The ports of an entry that an item from above goes to: its children and its member, but for a member that took it before its capture. -/
def Entry.downPorts (e : Entry) (x : CDown) : List Nat := (chmPorts e.chm).filter fun p => !(p == 5 && x.served.contains e.router)

/-- Item n goes to the child on port p, where that router has a free downward unit and has taken every commit of that step or an earlier one (R297, R304). -/
def State.hop (s : State) (n p : Nat) : Option State :=
  match s.downTurn n p with
  | some x =>
    match s.tree? x.tid with
    | some t =>
      match t.entries.find? fun e => (nextHop e.router t.root).any fun h => h.2 == x.router && portToward h.2 e.router == p with
      | some e =>
        if p ≠ 5 ∧ s.downRoom t e.router = true ∧ (s.rnms.all fun q => !(q.tid == x.tid && q.router == e.router && decide (q.step ≤ x.step))) = true then
          some ((s.leaveDown n p).enterDown t e.router x (e.downPorts x))
        else none
      | none => none
    | none => none
  | none => none

/-- How a member takes a step's result; none while it has to wait for its CTRB. In quorum mode a member without its CTRB takes it as its last CTRB asked (R306, R308, log 17). -/
def State.handing (s : State) (t : Tree) (k step : Nat) : Option Handing :=
  let c := s.coreAt k
  let m := c.treeMem t.tid
  match m.opens.find? fun o => o.step == step with
  | some o =>
    if o.ip then (c.openFor t.tid step).map fun _ => .place
    else if descQrm t.desc || (c.openFor t.tid step).isSome then some .message else none
  | none => if descQrm t.desc then some (if m.inPlace then .drop else .message) else none

/-- The result of a step has been handed over at member k: its CTRB ends, once it has left its core or at the member's capture, with QLATE where its contribution, if it gives one, is not in the result (R195, R307, R308). -/
def State.closeStep (s : State) (t : Tree) (k : Nat) (x : CDown) (capture : Bool) : State :=
  let c := s.coreAt k
  let q := descQrm t.desc
  let c := if q then c.setTreeMem t.tid { c.treeMem t.tid with quorum := BitVec.ofNat 20 x.count } else c
  s.setCoreAt k (if capture || (c.openFor t.tid x.step).isSome then
    c.endStep t.tid x.step (if !q || !t.gives s.modId k || x.ranks.contains (t.members.idxOf k) then 0 else Cause.code .qlate) false else c)

/-- Where a part of a result stands in a member's s[B], and its bits of the done bitmap (R298). -/
def partPlace (d : List Word) (pos : Nat) : Nat × BitVec 32 :=
  if pos = descPositions d then (64 * descSlen d, BitVec.ofNat 32 (2 ^ descSlen d))
  else if descTy d = .vb16 then (128 * pos, BitVec.ofNat 32 (3 * 2 ^ (2 * pos)))
  else (64 * pos, BitVec.ofNat 32 (2 ^ pos))

/-- A part of a result is written over the member's s[B] (R22, R306). -/
def Core.placePart (c : Core) (t : Tree) (o : OpenStep) (x : CDown) (bs : List MByte) : Core :=
  let m := c.treeMem t.tid
  let w := partPlace t.desc x.pos
  (c.wrMarked (o.addr.toNat + w.1) bs).setTreeMem t.tid
    { m with bitmap := (if m.bitStep = x.step then m.bitmap else 0) ||| w.2, bitStep := x.step }

/-- The message that a whole result makes, and how far it has been written (R306). -/
def State.resultMsg (s : State) (t : Tree) (e : Entry) (payload : List MByte) : Incoming :=
  let root := s.coreAt t.root
  ⟨descCh t.desc, namedWord root.modu root.addr, payload, false, t.gid, e.prog⟩

/-- A line of a message result at member k that another line follows: the last part of a result that the channel accepts is written line by line (R237, R361). -/
def State.resultLine (s : State) (t : Tree) (e : Entry) (x : CDown) (h : Handing) : Option State :=
  let c := s.coreAt e.router
  if h = .message ∧ x.final t.desc = true then
    match x.bytes with
    | none => none
    | some bs =>
      let i := s.resultMsg t e (e.got ++ bs)
      match c.offer i with
      | .took _ => (c.nextLine i).map fun y => (s.setCoreAt e.router y.1).modEntry t.tid e.router fun e => { e with hand := some (x.step, h), prog := some y.2 }
      | _ => none
  else none

/-- A part of a result, or a notice, is handed to member k (R306, R308); none where the channel refuses the message. -/
def State.deliver (s : State) (t : Tree) (e : Entry) (x : CDown) (h : Handing) (capture : Bool) : Option State :=
  let k := e.router
  let fin := x.final t.desc
  let done (s : State) : State := (s.modEntry t.tid k fun e => { e with hand := none, got := [], prog := none }).closeStep t k x capture
  match x.bytes with
  | none => some (s.closeStep t k x capture)
  | some bs =>
    let keep (got : List MByte) (s : State) : State := if fin then done s else s.modEntry t.tid k fun e => { e with hand := some (x.step, h), got := got }
    match h with
    | .drop => some (keep [] s)
    | .place =>
      match ((s.coreAt k).treeMem t.tid).opens.find? fun o => o.step == x.step with
      | some o => some (keep [] (s.setCoreAt k ((s.coreAt k).placePart t o x bs)))
      | none => some (keep [] s)
    | .message =>
      if !fin then some (keep (e.got ++ bs) s)
      else
        let payload := e.got ++ bs
        match (s.coreAt k).offer (s.resultMsg t e payload) with
        | .took c => some (done (s.setCoreAt k c))
        | .refused => if descQrm t.desc then some (done s) else none
        | .failed cause =>
          let c := s.coreAt k
          let c := (c.endStep t.tid x.step cause.code false).report2 cause.code Site.none
            (if cause = .nochn then (descCh t.desc).setWidth 64 else BitVec.ofNat 64 payload.length) c.name 0
          some (done (s.setCoreAt k c))

/-- The delivery port of core k is in the midst of another message than the result of this tree (R220, R237). -/
def State.portHeld (s : State) (tid : BitVec 12) (k : Nat) : Bool :=
  (s.flight.any fun m => m.prog.isSome && m.unit == 1 && m.dmod == s.modId && keyOfAddr m.dst == k)
    || s.trees.any fun t => t.tid != tid && t.entries.any fun e => e.router == k && e.prog.isSome

/-- RESULT_DELIVERY of item n (R306, R308): a notice, a part in place, or with its last part the whole result as a message, line by line where the channel copies it; the delivery port is not in the midst of another message. A refused message is offered again 64 cycles later. -/
def execResultDelivery (n : Nat) (s : State) : Out :=
  match s.downTurn n 5 with
  | none => .refused (.notEnabled "RESULT_DELIVERY")
  | some x =>
    match s.entryOf x.tid x.router with
    | none => .refused (.notEnabled "RESULT_DELIVERY")
    | some (t, e) =>
      let kept := (e.hand.filter fun h => h.1 == x.step).map Prod.snd
      let h := if x.bytes.isNone then (if descQrm t.desc || ((s.coreAt x.router).openFor t.tid x.step).isSome then some .drop else none)
        else if kept.isSome then kept else s.handing t x.router x.step
      match h with
      | some h =>
        if (s.coreAt x.router).captured ∨ s.cycle < x.again ∨ (x.bytes.isSome ∧ s.portHeld t.tid x.router = true) then .refused (.notEnabled "RESULT_DELIVERY")
        else
          match s.resultLine t e x h with
          | some s => .next s
          | none =>
            match s.deliver t e x h false with
            | some s => .next (s.leaveDown n 5)
            | none => .next { s with downs := s.downs.set n { x with again := s.cycle + 64 } }
      | none => .refused (.notEnabled "RESULT_DELIVERY")

/-- QUORUM_WAIT at a router (R307): what is present goes on after 1 µs. -/
def execQuorumWait (r : Nat) (gid : BitVec 16) (tid : BitVec 12) (pos : Nat) (s : State) : Out :=
  match s.entryOf tid r with
  | some (t, e) =>
    match NMap.get? e.since pos with
    | some n =>
      if t.gid = gid ∧ descQrm t.desc ∧ n + 3300 ≤ s.cycle ∧ s.upFull t e = false then .next ((s.forward t e pos).tryRelease tid)
      else .refused (.notEnabled "QUORUM_WAIT")
    | none => .refused (.notEnabled "QUORUM_WAIT")
  | none => .refused (.notEnabled "QUORUM_WAIT")

/-- QUORUM_DEADLINE of a tree (R307): the step is released, once every position has been summed (R304). -/
def execQuorumDeadline (gid : BitVec 16) (tid : BitVec 12) (s : State) : Out :=
  match s.tree? tid with
  | some t =>
    if t.gid = gid ∧ descQrm t.desc ∧ s.deadlinePassed t = true ∧ s.mayRelease t = true then .next (s.settleStep t)
    else .refused (.notEnabled "QUORUM_DEADLINE")
  | none => .refused (.notEnabled "QUORUM_DEADLINE")

/-! ### Trees that span modules (R400 to R403) -/

/-- Take a lane message out of the list. -/
def State.dropLane (s : State) (n : Nat) : State := { s with laneIn := s.laneIn.eraseIdx n }

/-- The answer to a join (R400). -/
def State.joinCause (s : State) (m : LaneMsg) : BitVec 12 :=
  match s.tree? m.tid with
  | none => Cause.code .tnomem
  | some t =>
    if !(descXm t.desc && descRmod t.desc == s.modId) then Cause.code .tnomem
    else if t.step != 0 || t.members.any (fun k => decide (0 < ((s.coreAt k).treeMem t.tid).issued)) then Cause.code .texist
    else if descForm t.desc != descForm m.desc || descOpc t.desc != descOpc m.desc || descTy t.desc != descTy m.desc
        || descSlen t.desc != descSlen m.desc then Cause.code .badarg
    else 0

/-- Modules in ascending order of identifier. -/
def insertJoin (j : BitVec 20 × Nat) : List (BitVec 20 × Nat) → List (BitVec 20 × Nat)
  | [] => [j]
  | x :: xs => if j.1 < x.1 then j :: x :: xs else x :: insertJoin j xs

/-- A unit or a sum at the root after a module with n members has joined at index i, before those whose ranks begin at `off`: the inputs and ranks behind it move up (R400, R401). -/
def CUnit.shift (i off n : Nat) (u : CUnit) : CUnit :=
  { u with port := if 8 + i ≤ u.port then u.port + 1 else u.port, ranks := u.ranks.map fun r => if off ≤ r then r + n else r }

/-- A module joins a tree at its root with n members (R400). -/
def Tree.join (t : Tree) (m : BitVec 20) (n : Nat) : Tree :=
  let before := t.joins.filter fun j => decide (j.1 < m)
  let off := t.members.length + (before.map Prod.snd).sum
  if t.joins.any fun j => j.1 == m then { t with joins := t.joins.map (fun j => if j.1 = m then (m, n) else j), gone := t.gone.filter fun x => x != m }
  else
    { t with joins := insertJoin (m, n) t.joins, sums := t.sums.map (CUnit.shift before.length off n)
             entries := t.entries.map fun e => { e with held := e.held.map (CUnit.shift before.length off n) } }

/-- TREE_JOIN (R400): at RMOD a join is answered; at the joining module the answer completes the ticket. -/
def execTreeJoin (n : Nat) (s : State) : Out :=
  match s.laneIn[n]? with
  | none => .refused (.notEnabled "TREE_JOIN")
  | some m =>
    match m.kind with
    | .join =>
      let cause := s.joinCause m
      let s := (s.dropLane n).modTree m.tid fun t => if cause = 0 then t.join m.peer m.count else t
      .next { s with laneOut := s.laneOut ++ [{ LaneMsg.to m.peer .joined m.tid with count := cause.toNat, tkt := m.tkt, core := m.core }] }
    | .joined =>
      let s := s.dropLane n
      let s := if m.count = 0 then s else s.removeTree m.tid
      .next (s.finishTicket m.core m.tkt (BitVec.ofNat 12 m.count))
    | _ => .refused (.notEnabled "TREE_JOIN")

/-- The body of a partial as the root takes it, with the sticky bits of its header (R402). -/
def landPartial (d : List Word) (sc : BitVec 8) : CBody → CBody
  | .raw bs =>
    if descOpc d = 12 then
      let b := unitBlk (descTy d) bs
      match toFixed (descTy d) b sc.toNat 0 with
      | .fixed n i t => .fixed n (i || b.hdr.getLsbD 2) (t || b.hdr.getLsbD 3)
      | x => x
    else .raw bs
  | b => b

/-- The kind travels on the combine lane, which keeps order (R401). -/
def LaneKind.combines : LaneKind → Bool
  | .part | .rnq | .rnm | .result | .abort => true
  | _ => false

/-- A joined part takes the root's scales after an abort; where they are not its own, its members send their contributions to the current step again (R309; log 23). -/
def State.rescale (s : State) (tid : BitVec 12) (sc : List (BitVec 8)) : State :=
  match s.tree? tid with
  | none => s
  | some t =>
    if t.rootScales = sc then s
    else
      let s := { s with
        cunits := s.cunits.filter fun x => !(x.tid == tid && x.step == t.step)
        rnqs := s.rnqs.filter fun x => !(x.tid == tid && x.step == t.step), rnms := s.rnms.filter fun x => !(x.tid == tid && x.step == t.step) }
      let s := s.modTree tid fun t => { t with entries := t.entries.map fun e => { e with sc := sc, held := [], since := [], att := 0 } }
      t.members.foldl (fun s k => s.resend t k) s

/-- A position of the step is in at the root from an input already. -/
def Tree.has (t : Tree) (e : Entry) (port pos : Nat) : Bool :=
  !descQrm t.desc && ((e.held.any fun u => u.port == port && u.pos == pos) || t.sums.any fun u => u.pos == pos)

/-- PARTIAL (R401 to R403): a partial, a renormalise message, a result or an abort of a spanning tree arrives from another module, after those before it. A partial or a renormalise message waits until the results of the steps before it have passed the root. -/
def execTreePartial (n : Nat) (s : State) : Out :=
  match s.laneIn[n]? with
  | none => .refused (.notEnabled "PARTIAL")
  | some m =>
    let early := s
    let s := s.dropLane n
    match s.tree? m.tid, (s.tree? m.tid).bind fun t => t.entries.find? fun e => e.router == t.root with
    | some t, some e =>
      if m.kind.combines && (early.laneIn.take n).any fun x => x.kind.combines && x.peer == m.peer && x.tid == m.tid then .refused (.notEnabled "PARTIAL")
      else
      match m.kind with
      | .part =>
        match t.joins.findIdx? fun j => j.1 == m.peer with
        | none => .next s
        | some i =>
          if t.joined m.peer = false ∨ m.step ≠ t.step ∨ (descOpc t.desc = 12 ∧ m.stamp ≠ e.sc.getD m.pos 0) ∨ (e.step = m.step ∧ m.att ≠ e.att)
              ∨ t.has e (8 + i) m.pos = true then .next s
          else if e.step ≠ m.step then .refused (.notEnabled "PARTIAL")
          else
            let off := t.members.length + ((t.joins.take i).map Prod.snd).sum
            .next (s.placeUnit t e ⟨t.gid, t.tid, t.step, m.pos, t.root, 8 + i, m.stamp, landPartial t.desc m.stamp m.body,
              m.count, m.ranks.map (off + ·), e.att⟩)
      | .rnq =>
        if m.step ≠ t.step then .next s
        else if e.step ≠ m.step then .refused (.notEnabled "PARTIAL")
        else if m.stamp ≠ e.sc.getD m.pos 0 then .next s
        else .next (s.commitScale t m.pos (BitVec.ofNat 8 (min (m.stamp.toNat + 4) 254)))
      | .rnm =>
        if m.step ≠ t.step then .next s
        else if e.step ≠ m.step then .refused (.notEnabled "PARTIAL")
        else .next (s.commitScale t m.pos m.stamp)
      | .result =>
        let bs := match m.body with | .raw bs => bs | _ => []
        let last := m.pos + 1 = descParts t.desc
        let scs := if descOpc t.desc ≠ 12 then [] else if descForm t.desc = 0 then (List.range m.scales.length).zip m.scales else [(m.pos, m.stamp)]
        let item : CDown := ⟨t.gid, t.tid, m.step, m.pos, t.root, some bs, scs, m.count, m.ranks, chmPorts e.chm, [], 0⟩
        let item := if descForm t.desc = 0 then { item with pos := 0, bytes := none } else item
        if m.step ≠ t.step then .next s
        else .next ((s.modTree t.tid fun t => { t with step := if last then m.step + 1 else t.step, rel := t.rel ++ [item] }).pumpDown t.tid)
      | .abort =>
        if t.isJoin s.modId then .next ((s.abortHere t m.step).rescale t.tid m.scales)
        else .next (if t.joined m.peer && decide (m.step ≤ t.step) then s.abortOne t m.step else s)
      | _ => .next s
    | _, _ => .next s

/-- A step that is not in quorum mode and that the root has seen open is aborted at every member when a module goes (R403). -/
def State.detachStep (s : State) (t : Tree) : State :=
  let seen := (s.openSteps t).contains t.step || !t.sums.isEmpty || (t.entries.any fun e => !e.held.isEmpty && e.step == t.step)
    || s.cunits.any fun u => u.tid == t.tid && u.step == t.step
  if !descQrm t.desc && seen then s.abortOne t t.step else s

/-- DETACH of module m from a tree (R403): at a joined module the local part goes; at the root the step ends or goes on without it. The notice that m has left is used up. -/
def execDetach (m : BitVec 20) (gid : BitVec 16) (tid : BitVec 12) (s : State) : Out :=
  match s.tree? tid with
  | none => .refused (.notEnabled "DETACH")
  | some t =>
    let s := { s with laneIn := s.laneIn.filter fun x => !(x.kind == LaneKind.leave && x.peer == m && x.tid == tid) }
    if t.gid ≠ gid then .refused (.notEnabled "DETACH")
    else if descXm t.desc && descRmod t.desc == m && m != s.modId then .next (s.freeTree t)
    else if t.joined m then
      let s := (s.modTree tid fun t => { t with gone := t.gone ++ [m] }).detachStep t
      .next ((List.range (descPositions t.desc)).foldl (fun s _ => s.pump tid t.root) s)
    else .refused (.notEnabled "DETACH")

end Sys2Proof.Machine
end

