-- ==== Sys2Proof/Machine/StreamUnit.lean ====
section
/-! DEFINITION. The stream unit (R187, R188, R190, R231 to R234): when a command starts, its reads, its stores and its finish. -/
namespace Sys2Proof.Machine

/-! ### Starting (R231) -/

/-- Every byte is read and stored, and no store waits for an answer, but for one that a captured member recorded. -/
def Stream.ran (x : Stream) : Bool :=
  x.rpos == x.total && x.redo.isEmpty && x.rdOut.isEmpty && x.pieces.isEmpty && x.wrOut.isEmpty
    && (x.kind != .sfq || (x.wpos == x.total && x.eosDone))

/-- The command has nothing left to do (R190). -/
def Stream.done (x : Stream) : Bool := x.ran && x.owed == 0

/-- The earlier commands of the queue let the command start: the last of them has finished, or both write this core and it has performed its last store. -/
def Core.queueReady (c : Core) (x : Stream) : Bool :=
  let prev := c.streams.filter fun y => y.ctx == x.ctx && y.kind != .sbar && y.sn == x.sn && decide (y.id < x.id)
  prev.all fun y => x.isLocal && y.isLocal && y.started && y.done

/-- No barrier before the command that names its stream number is left (R188). -/
def Core.barrierReady (c : Core) (x : Stream) : Bool :=
  c.streams.all fun y => !(y.ctx == x.ctx && y.kind == .sbar && decide (y.id < x.id) && y.mask.getLsbD x.sn.toNat)

/-- A held command's window has committed, and the fences before it are satisfied (R169, R197). -/
def Core.heldReady (c : Core) (x : Stream) : Bool :=
  match x.held with
  | none => true
  | some id =>
    match c.ops.find? fun o => o.id == id with
    | some o => o.committed && c.prereqOk o.after
    | none => true

/-- STREAM_START of command `id` of core k: its hold record is freed (R225, R231). -/
def execStreamStart (k id : Nat) (s : State) : Out :=
  let c := s.coreAt k
  match c.streams.find? fun x => x.id == id with
  | some x =>
    if !x.started && x.kind != .sbar && c.queueReady x && c.barrierReady x && c.heldReady x && (!c.captured || x.held.isNone) then
      let c := c.modStream id fun x => { x with started := true, held := none }
      .next (s.setCoreAt k (match x.held with
        | some o => c.freeOp o
        | none => c))
    else .refused (.notEnabled "STREAM_START")
  | none => .refused (.notEnabled "STREAM_START")

/-- STREAM_FINISH of command `id` of core k (R190): a barrier finishes once no earlier command of its context is left. -/
def execStreamFinish (k id : Nat) (s : State) : Out :=
  let c := s.coreAt k
  match c.streams.find? fun x => x.id == id with
  | some x =>
    let fin := if x.kind = .sbar then
        c.streams.all fun y => !(y.ctx == x.ctx && y.kind != .sbar && decide (y.id < x.id))
      else x.started && x.done
    if fin && !(s.seq.debts.any fun d => d.core == k && d.stream == id) then
      let s := s.setCoreAt k { c with streams := c.streams.filter fun y => y.id != id }
      .next { s with edge := { s.edge with told := s.edge.told.filter fun t => !(t.2.1 == k && t.2.2.1 == id) } }
    else .refused (.notEnabled "STREAM_FINISH")
  | none => .refused (.notEnabled "STREAM_FINISH")

/-! ### Reads (R185, R232, R233) -/

/-- The bytes from an address to the end of its line. -/
def toLineEnd (a : Int) : Nat := (64 - a % 64).toNat

/-- Where byte `pos` of the source lies, as an offset from the source base, and how many bytes follow it in one run; none for a row that lies outside the table's range. -/
def Stream.srcAt (x : Stream) (pos : Nat) : Int × Nat :=
  match x.kind with
  | .sgth =>
    let i := pos / x.row
    let j := pos % x.row
    (((NMap.get? x.idx i).getD 0).toNat * x.row + j, x.row - j)
  | _ =>
    let c0 := patCount x.srcPat 0
    (patOffset x.srcPat pos, c0 - pos % c0)

/-- The base of the source: a local address, the local address of a remote endpoint, or a virtual address. -/
def Stream.srcBase (x : Stream) : Nat := if x.srcSp = 2#2 then (endAddr x.src).toNat else x.src.toNat

/-- The row of a gather that holds position `pos` lies outside the program range (R185). -/
def Stream.badRow (x : Stream) (pos : Nat) : Bool :=
  x.kind == .sgth && x.srcSp != 1#2
    && !inProgram (x.srcBase + ((NMap.get? x.idx (pos / x.row)).getD 0).toNat * x.row : Nat) x.row

/-- The next read: one to be made again, or the next position; position and greatest length. -/
def Stream.nextRead (x : Stream) : Option (Nat × Nat) :=
  match x.redo with
  | r :: _ => some (r.1, r.2.1)
  | [] => if x.rpos < x.total then some (x.rpos, x.total - x.rpos) else none

/-- A retry may be made now: its cycle has come. -/
def Retry.due (r : Retry) (now : Nat) : Bool := decide (r.at' ≤ now)

/-- A retry whose page-map entry still has the stale generation: it is looked at again 64 cycles later (R254). -/
def Retry.stale (r : Retry) (a : BitVec 32) : Bool := r.gen == some (a.extractLsb' 24 8)

/-- The read at `pos` of `n` bytes is on its way or done. -/
def Stream.reading (x : Stream) (pos n : Nat) : Stream :=
  match x.redo with
  | _ :: rs => { x with redo := rs }
  | [] => { x with rpos := pos + n }

/-- Bytes that are zero and marked, with their cause. -/
def lostPiece (pos n : Nat) (cause : Cause) : Piece := ⟨pos, List.replicate n (0, true), cause.code⟩

/-- A stream request to another core (R232). -/
def Core.streamMsg (c : Core) (k : Nat) (kind : BitVec 6) (dst : BitVec 32) (why : Purpose) (la : LAddr) (ch : BitVec 6) (len : Nat) (bs : List MByte) : Msg :=
  { kind := kind, cls := 0, smod := c.modu, src := c.addr, dmod := c.modu, dst := dst, grp := c.gid, tkt := 0, len := BitVec.ofNat 12 len,
    ch := ch, laddr := la, aux := 0, payload := bs, why := why, back := 0, home := some k }

/-- An access of a command that no longer translates fails, with a report (R254). -/
def Core.streamBadRel (c : Core) (x : Stream) (rel : BitVec 32) : Core :=
  c.report2 (Cause.code .badrel) x.site (rel.setWidth 64) (rel.setWidth 64) 0

/-- Nothing that the core has sent toward this core waits to be accepted or performed (R367). -/
def Core.pathClear (c : Core) (dst : Word) : Bool :=
  c.ops.all fun o => o.cls != 0#2 || o.op == 0xA3#8 || (o.st == .held && !o.resend) || !sameCore o.dst dst

/-- Index i and those after it in its line are read (R233). A marked index word is used as stored, and its row is marked (DEDUCED from R187, log 15). -/
def Core.readIndices (c : Core) (x : Stream) (i : Nat) : Stream :=
  let a := x.list.toNat + 4 * i
  let n := min (x.count - i) ((64 - a % 64) / 4)
  { x with
    idx := (List.range n).foldl (fun m j => NMap.set m (i + j) (BitVec.ofNat 32 (c.rdNat (a + 4 * j) 4))) x.idx
    badIdx := x.badIdx ++ ((List.range n).filter fun j => c.marked (a + 4 * j)).map (i + ·) }

/-- Read off the core: at most 16 line reads are in flight (R232). A refused or stale read is offered again 64 cycles later, a stale one under its new name (R253, R254). -/
def State.readFar (s : State) (k : Nat) (x : Stream) (pos n a : Nat) : Option State :=
  let c := s.coreAt k
  let wait := x.redo.head?.map fun r => r.2.2
  if 16 ≤ x.rdOut.length ∨ wait.any (fun r => !r.due s.cycle) then none
  else if x.srcSp = 2#2 then
    match c.relToNamed (endRel x.src) with
    | none =>
      let c := (c.modStream x.id fun y => { y.reading pos n with pieces := y.pieces ++ [lostPiece pos n .badrel] }).streamBadRel x (endRel x.src)
      some (s.setCoreAt k c)
    | some r =>
      if wait.any fun w => w.stale r.2 then
        some (s.setCoreAt k (r.1.modStream x.id fun y =>
          { y with redo := y.redo.mapIdx fun i e => if i = 0 then (e.1, e.2.1, { e.2.2 with at' := s.cycle + 64 }) else e }))
      else if !r.1.pathClear (namedWord c.modu r.2) || (wait.isNone && r.1.storing (namedWord c.modu r.2)) then none
      else
        let c := r.1.modStream x.id fun y => { y.reading pos n with rdOut := y.rdOut ++ [(pos, n)] }
        some ((s.setCoreAt k (if wait.isSome then c else { c with sent := c.sent + 1 })).route k
          (c.streamMsg k 6 r.2 (.read x.id pos) (BitVec.ofNat 20 a) 0 n []))
  else
    let c := c.modStream x.id fun y => { y.reading pos n with rdOut := y.rdOut ++ [(pos, n)] }
    let s := s.setCoreAt k c
    some (s.toEdge ⟨k, .read x.id pos, c.gid, ((s.group? c.gid).map Group.asid).getD 0, a, n, false, [], .home, 0, s.cycle, false⟩)

/-- The next read of a started command of core k. -/
def State.streamRead (s : State) (k id : Nat) : Option State :=
  let c := s.coreAt k
  match c.streams.find? fun x => x.id == id && x.started with
  | none => none
  | some x =>
    match x.nextRead with
    | none => none
    | some (pos, most) =>
      if x.kind = .sgth ∧ (NMap.get? x.idx (pos / x.row)).isNone then
        some (s.setCoreAt k (c.modStream id fun y => c.readIndices y (pos / x.row)))
      else
        let at' := x.srcAt pos
        let a := (x.srcBase : Int) + at'.1
        if x.badRow pos then
          let n := min most at'.2
          some (s.setCoreAt k (c.modStream id fun y => { y.reading pos n with pieces := y.pieces ++ [lostPiece pos n .gidx] }))
        else
          let n := min most (min at'.2 (toLineEnd a))
          if x.srcSp = 0#2 then
            some (s.setCoreAt k (c.modStream id fun y =>
              { y.reading pos n with pieces := y.pieces ++ [⟨pos, c.rdMarked a.toNat n, Cause.code .lspsn⟩] }))
          else s.readFar k x pos n (BitVec.ofInt 64 a).toNat

/-! ### Stores (R186 to R188, R232, R234) -/

/-- The piece that a command stores next: a gather stores any, another the one at its write position. -/
def Stream.nextPiece (x : Stream) : Option Piece :=
  if x.kind = .sgth then x.pieces.head? else x.pieces.find? fun p => p.pos == x.wpos

/-- The first `n` bytes of a piece are taken out of the stream. -/
def Stream.takePiece (x : Stream) (p : Piece) (n : Nat) : Stream :=
  let rest := x.pieces.filter fun q => q.pos != p.pos
  { x with pieces := if p.bytes.length ≤ n then rest else ⟨p.pos + n, p.bytes.drop n, p.cause⟩ :: rest, wpos := x.wpos + n }

/-- Where byte `pos` of the destination lies, as an offset from the destination base, and how many bytes follow it in one run. -/
def Stream.dstAt (x : Stream) (pos : Nat) : Int × Nat :=
  match x.dstPat with
  | some q => (patOffset q pos, patCount q 0 - pos % patCount q 0)
  | none => (pos, x.total - pos)

/-- The base of the destination. -/
def Stream.dstBase (x : Stream) : Nat := if x.dstSp = 2#2 then (endAddr x.dst).toNat else x.dst.toNat

/-- Byte `pos` of a stream ends level l (R234). -/
def endsLevel (p : VData) (total l pos : Nat) : Bool :=
  pos + 1 == total || (decide (l < patLevels p) && (pos + 1) % patSpan p (l + 1) == 0)

/-- The length of the entry that begins at `pos` (R186): it closes at the close level, at 64 bytes, or at the end of the stream. -/
def Stream.entryLen (x : Stream) (pos : Nat) : Nat :=
  ((List.range 64).find? fun i => endsLevel x.srcPat x.total x.cl.toNat (pos + i)).map (· + 1) |>.getD 64

/-- The bytes at `pos`, when all of them are there, with the causes of their marks. -/
def Stream.gathered (x : Stream) (pos n : Nat) : Option (List (MByte × BitVec 12)) :=
  (List.range n).mapM fun i =>
    (x.pieces.find? fun p => decide (p.pos ≤ pos + i) && decide (pos + i < p.pos + p.bytes.length)).bind fun p =>
      (p.bytes[pos + i - p.pos]?).map fun b => (b, p.cause)

/-- The bytes before `pos` are taken out of the stream. -/
def Stream.drained (x : Stream) (pos : Nat) : Stream :=
  { x with wpos := pos, pieces := (x.pieces.filter fun p => decide (pos < p.pos + p.bytes.length)).map fun p =>
      if p.pos < pos then ⟨pos, p.bytes.drop (pos - p.pos), p.cause⟩ else p }

/-- The marks of an entry (R15, R186). -/
def Stream.entryMarks (x : Stream) (pos n : Nat) : BitVec 9 :=
  bitsOf 9 fun l => decide (l < 8) && (List.range n).any fun i => endsLevel x.srcPat x.total l (pos + i)

/-- The poison origin of an entry with marked bytes: the winner of their causes (R65, R187). Its PC is the command's (R64). -/
def Core.entryOrigin (c : Core) (pc : LAddr) (bs : List (MByte × BitVec 12)) : Option Org :=
  orgWinner ((bs.filter fun b => b.1.2).map fun b => mkOrigin c.gid b.2 pc c.modu c.addr)

/-- The next entry of an own queue, or its end-of-stream entry (R186, R190). -/
def Core.feedOwn (c : Core) (x : Stream) : Option Core :=
  let q := x.mask.extractLsb' 0 1
  if ((c.ctxAt x.ctx).feed q).room = 0 then none
  else if x.wpos < x.total then
    let n := x.entryLen x.wpos
    match x.gathered x.wpos n with
    | none => none
    | some bs =>
      let e : FqEntry := match c.entryOrigin x.pc bs with
        | some o => ⟨(poisonReg o).data, (poisonReg o).side, x.entryMarks x.wpos n, some x.id⟩
        | none => ⟨BitVec.ofNat 512 (leNat (bs.map fun b => b.1.1)), 0, x.entryMarks x.wpos n, some x.id⟩
      some ((c.pushFeed x.ctx q [e]).modStream x.id fun y => y.drained (x.wpos + n))
  else if x.eosDone then none
  else
    let r := poisonReg (c.unitOrigin .spsn x.pc)
    let e : FqEntry := if x.eosPsn then ⟨r.data, r.side, 0x100, some x.id⟩ else ⟨x.eos.setWidth 512, 0, 0x100, some x.id⟩
    some ((c.pushFeed x.ctx q [e]).modStream x.id fun y => { y with eosDone := true })

/-- What the next store to another core carries: its local address, length in the stream, and bytes; an SFQ sends entries as messages (R173, R186). -/
def Stream.farStore (x : Stream) : Option (Nat × Nat × List MByte) :=
  if x.remote then
    if x.wpos < x.total then
      let n := x.entryLen x.wpos
      (x.gathered x.wpos n).map fun bs => (0, n, bs.map Prod.fst ++ List.replicate (64 - n) (0, false))
    else if x.eosDone then none
    else some (0, 0, (natBytes x.eos.toNat 8).map fun b => (if x.eosPsn then 0 else b, x.eosPsn))
  else
    x.nextPiece.map fun p =>
      let d := x.dstAt p.pos
      let n := min p.bytes.length (min d.2 2048)
      (((x.dstBase : Int) + d.1).toNat, n, p.bytes.take n)

/-- A store of a command is on its way. -/
def Stream.storing (x : Stream) (n : Nat) (bs : List MByte) : Stream :=
  let pos := if x.kind = .sgth then (x.nextPiece.map Piece.pos).getD 0 else x.wpos
  let y := { x with wrOut := x.wrOut ++ [(x.nextReq, pos, n)], nextReq := x.nextReq + 1, sentBytes := bs }
  if n = 0 then { y with eosDone := true } else y.drained (pos + n)

/-- The local address at another core of the byte at a position of the destination. -/
def Stream.farAddr (x : Stream) (pos : Nat) : Nat := ((x.dstBase : Int) + (x.dstAt pos).1).toNat

/-- The message of a store to another core: an SFQ entry for its channel, or bytes for a local address (R173, R186, R232). -/
def Core.storeMsg (c : Core) (k : Nat) (x : Stream) (dst : BitVec 32) (req la : Nat) (bs : List MByte) : Msg :=
  c.streamMsg k (if x.remote then 1 else 5) dst (.store x.id req) (BitVec.ofNat 20 la) (if x.remote then endCh x.dst else 0) bs.length bs

/-- A store whose destination no longer translates fails (R254, R266). -/
def State.storeLost (s : State) (k : Nat) (x : Stream) (f : Stream → Stream) : State :=
  let c := ((s.coreAt k).modStream x.id f).streamBadRel x (endRel x.dst)
  (s.setCoreAt k c).modGroup c.gid fun g => g.failStore ((endRel x.dst).setWidth 64)

/-- A refused or stale store is offered again under the name that its destination has now (R173, R225, R254). -/
def State.storeAgain (s : State) (k : Nat) (x : Stream) (req pos : Nat) (w : Retry) : Option State :=
  let c := s.coreAt k
  if !w.due s.cycle then none
  else
    match c.relToNamed (endRel x.dst) with
    | none => some (s.storeLost k x fun y => y.storeDone req)
    | some r =>
      if w.stale r.2 then some (s.setCoreAt k (r.1.modStream x.id fun y => { y with again := some { w with at' := s.cycle + 64 } }))
      else
        let c := r.1.modStream x.id fun y => { y with again := none }
        some ((s.setCoreAt k c).route k (c.storeMsg k x r.2 req (if x.remote then 0 else x.farAddr pos) x.sentBytes))

/-- The next store to another core; one at a time, so that the stream's order holds (R188, R367). -/
def State.storeFar (s : State) (k : Nat) (x : Stream) : Option State :=
  let c := s.coreAt k
  match x.wrOut, x.again with
  | w :: _, some r => s.storeAgain k x w.1 w.2.1 r
  | _ :: _, none => none
  | [], _ =>
    match x.farStore with
    | none => none
    | some (la, n, bs) =>
      match c.relToNamed (endRel x.dst) with
      | none => some (s.storeLost k x fun y => (y.storing n bs).storeDone y.nextReq)
      | some r =>
        if !r.1.pathClear (namedWord c.modu r.2) || r.1.storing (namedWord c.modu r.2) then none
        else
          let c := r.1.modStream x.id fun y => y.storing n bs
          some ((s.setCoreAt k { c with sent := c.sent + 1 }).route k (c.storeMsg k x r.2 x.nextReq la bs))

/-- The next store into system memory. -/
def State.storeCxl (s : State) (k : Nat) (x : Stream) : Option State :=
  let c := s.coreAt k
  match (if x.wrOut.isEmpty then x.nextPiece else none) with
  | none => none
  | some p =>
    let d := x.dstAt p.pos
    let a := (x.dstBase : Int) + d.1
    let n := min p.bytes.length (min d.2 (toLineEnd a))
    let c := c.modStream x.id fun y => y.storing n []
    let s := s.setCoreAt k c
    some (s.toEdge ⟨k, .store x.id x.nextReq, c.gid, ((s.group? c.gid).map Group.asid).getD 0, (BitVec.ofInt 64 a).toNat, n, true, p.bytes.take n,
      .home, 0, s.cycle, false⟩)

/-- The next store into this core. -/
def Core.storeOwn (c : Core) (x : Stream) : Option Core :=
  x.nextPiece.map fun p =>
    let d := x.dstAt p.pos
    let a := (x.dstBase : Int) + d.1
    let n := min p.bytes.length (min d.2 (toLineEnd a))
    let bad := x.kind == .sgth && x.badIdx.contains (p.pos / x.row)
    (c.wrMarked a.toNat ((p.bytes.take n).map fun b => (b.1, b.2 || bad))).modStream x.id fun y => y.takePiece p n

/-- The next store of a started command of core k. -/
def State.streamWrite (s : State) (k id : Nat) : Option State :=
  let c := s.coreAt k
  match c.streams.find? fun x => x.id == id && x.started with
  | none => none
  | some x =>
    if x.toCore then s.storeFar k x
    else if x.dstSp = 1#2 then s.storeCxl k x
    else if x.kind = .sfq then (c.feedOwn x).map (s.setCoreAt k)
    else (c.storeOwn x).map (s.setCoreAt k)

end Sys2Proof.Machine
end

