-- ==== Sys2Proof/Machine/Cxl.lean ====
section
/-! DEFINITION. System memory: line ownership (R377 to R379), translation and walks (R380 to R383), accesses and their completions (R335, R371, R381), host coherence (R384, R385), XINV and MSI-X arms (R383, R389). -/
namespace Sys2Proof.Machine

/-! ### Lines and owners (R376 to R379) -/

/-- The host-role ports in port order. -/
def Edge.hosts (e : Edge) : List Nat := (List.range 48).filter fun p => e.role p == 1

/-- V of an interleave set. -/
def setV (s : Word × Word × Word) : Bool := s.1.getLsbD 63
/-- SC: the set is shared-coherent. -/
def setSC (s : Word × Word × Word) : Bool := s.1.getLsbD 62
/-- HX: the set is exposed to the hosts. -/
def setHX (s : Word × Word × Word) : Bool := s.1.getLsbD 61
/-- G + 8. -/
def setGran (s : Word × Word × Word) : Nat := (s.1.extractLsb' 48 4).toNat + 8
/-- NW; its five bits hold 32 as 0 (log 18). -/
def setWays (s : Word × Word × Word) : Nat := if s.1.extractLsb' 40 5 = 0 then 32 else (s.1.extractLsb' 40 5).toNat
/-- The first SPA of a set. -/
def setBase (s : Word × Word × Word) : Nat := (s.1.extractLsb' 0 28).toNat * 2 ^ 18
/-- The bytes of a set. -/
def setSize (s : Word × Word × Word) : Nat := (s.2.1.extractLsb' 0 28).toNat * 2 ^ 18
/-- The port of way k; ways 8 to 31 repeat ways 0 to 7, 12 ports on for each 8. -/
def setPort (s : Word × Word × Word) (k : Nat) : Nat :=
  if k < 8 then (s.2.2.toNat / 2 ^ (8 * k)) % 256 else ((s.2.2.toNat / 2 ^ (8 * (k % 8))) % 256 + 12 * (k / 8)) % 48

/-- The interleave set that covers an SPA. -/
def Edge.setOf (e : Edge) (a : Nat) : Option (Word × Word × Word) :=
  (e.sets.map Prod.snd).find? fun s => setV s && decide (setBase s ≤ a) && decide (a < setBase s + setSize s)

/-- The host window of an SPA (R377). -/
def hostWindow (a : Nat) : Option Nat := if 2 ^ 46 ≤ a ∧ a < 2 ^ 46 + 4 * 2 ^ 44 then some ((a - 2 ^ 46) / 2 ^ 44) else none

/-- The port whose edge block owns the line at an SPA; none for an unmapped one (R378, R379). -/
def Edge.owner (e : Edge) (a : Nat) : Option Nat :=
  match hostWindow a with
  | some h => e.hosts[h]?
  | none =>
    match e.setOf a with
    | some s => some (setPort s ((a - setBase s) / 2 ^ setGran s % setWays s))
    | none => none

/-- The device address that an owner sends to its port (R379). -/
def deviceAddr (s : Word × Word × Word) (a : Nat) : Nat :=
  (a - setBase s) / (2 ^ setGran s * setWays s) * 2 ^ setGran s + a % 2 ^ setGran s

/-- Host copies of the line are kept coherent by its owner (R385). -/
def Edge.coherent (e : Edge) (a : Nat) : Bool := (e.setOf a).any fun s => setSC s && setHX s

/-- Where the byte at an SPA lies: its port, and the address that the owner sends to that port's device or host; none for an unmapped SPA (R377, R379). The device addresses of port p are kept from p times 2^48 on. -/
def Edge.loc (e : Edge) (a : Nat) : Option Nat :=
  match hostWindow a with
  | some h => e.hosts[h]?.map fun p => p * 2 ^ 48 + (a - 2 ^ 46) % 2 ^ 44
  | none => (e.setOf a).map fun s => setPort s ((a - setBase s) / 2 ^ setGran s % setWays s) * 2 ^ 48 + deviceAddr s a

/-- An access to the line fails every attempt: nothing maps it, the link of its owner's port is held down (R376), or its device does not answer (R335). -/
def Edge.dead (e : Edge) (a : Nat) : Bool := e.lost.contains (a / 64) || !(e.owner a).any fun p => e.role p != 0

/-- A valid set names the port. -/
def Edge.named (e : Edge) (p : Nat) : Bool := e.sets.any fun y => setV y.2 && (List.range (setWays y.2)).any fun i => setPort y.2 i == p

/-! ### Memory -/

/-- The bytes at an SPA, marked when their line carries CXL poison; an unmapped one has none to give. -/
def Edge.read (e : Edge) (a n : Nat) : List MByte :=
  (List.range n).map fun i => ((e.loc (a + i)).map fun p => (e.mem.byte p, e.poison.contains (p / 64))).getD (0, true)

/-- Write bytes of one line: marked bytes set its poison, and a clean write of the whole line clears it (R187). -/
def Edge.write (e : Edge) (a : Nat) (bs : List MByte) : Edge :=
  match e.loc a with
  | none => e
  | some p =>
    { e with mem := e.mem.putBytes p (bs.map Prod.fst)
             poison := if anyMark bs then nsInsert (p / 64) e.poison else if bs.length = 64 then nsErase (p / 64) e.poison else e.poison }

/-- An access of a stream command stands at the line's owner or at its port: one that arrives later is performed after it (R371, R384). -/
def Edge.taken (e : Edge) (line : Nat) : Bool :=
  e.accs.any fun x => match x.stage with
    | .owner b => b / 64 == line
    | .port b => b / 64 == line
    | _ => false

/-! ### Host coherence (R385) -/

/-- The filter entry of a line. -/
def Edge.filtAt (e : Edge) (line : Nat) : Filt := (NMap.get? e.filt line).getD ⟨0, 0⟩

/-- Replace a filter entry; a line that no host holds has none. -/
def Edge.setFilt (e : Edge) (line : Nat) (f : Filt) : Edge :=
  { e with filt := if f.held = 0 then NMap.del e.filt line else NMap.set e.filt line f }

/-- Hosts that must answer before the module accesses a line: for a write every holder, for a read those that may hold it modified. -/
def Edge.conflicts (e : Edge) (a : Nat) (write : Bool) : List Nat :=
  if e.coherent a then
    let f := e.filtAt (a / 64)
    (List.range 4).filter fun h => if write then f.held.getLsbD h else f.dirty.getLsbD h
  else []

/-- Send back-invalidations for a line, each once. -/
def Edge.snoop (e : Edge) (a : Nat) (write : Bool) : Edge :=
  { e with snoops := (e.conflicts a write).foldl (fun l h => if l.contains ⟨h, a / 64, write⟩ then l else l ++ [⟨h, a / 64, write⟩]) e.snoops }

/-! ### Reports of edge blocks (R187, R325, R335, R382) -/

/-- The records that an edge block has made. -/
def Edge.made (e : Edge) (p : Option Nat) : BitVec 32 := (NMap.get? e.seqs (p.getD 48)).getD 0

/-- Post a KIND 2 report of the edge block of port p about a line of a group. -/
def State.edgeReport (s : State) (p : Option Nat) (cause : Cause) (gid : BitVec 16) (va : Nat) : State :=
  let w : Word := BitVec.ofNat 64 (va / 64 * 64)
  { s with
    posts := s.posts ++ [⟨gid, mkRecord cause.code 2 0 0 false false 0 0 w 0 gid 0 w (BitVec.ofNat 64 s.cycle) (s.edge.made p), 0, 0, 0⟩]
    edge := { s.edge with seqs := NMap.set s.edge.seqs (p.getD 48) (s.edge.made p + 1) } }

/-! ### Translation (R380 to R382) -/

/-- Bytes of a page of leaf level l. -/
def pageBytes (l : Nat) : Nat := 2 ^ (12 + 9 * (l - 1))

/-- The cached translation of an address. -/
def Edge.cached (e : Edge) (home : Nat) (asid : BitVec 16) (va : Nat) : Option XEnt :=
  ((NMap.get? e.xlat home).getD []).find? fun x => x.asid == asid && x.page == va / pageBytes x.lvl

/-- Where a walk goes next. -/
inductive WalkRes where
  | table (p : XPtr)
  | leaf (x : XEnt)
  | fail

/-- A word of a table; none where it is unmapped or poisoned, or where its read fails every attempt (R335, R382). -/
def Edge.tableWord (e : Edge) (a : Nat) : Option Word :=
  match e.owner a with
  | none => none
  | some _ =>
    let bs := e.read a 8
    if anyMark bs || e.dead a then none else some (BitVec.ofNat 64 (leNat (bs.map Prod.fst)))

/-- The entry that a walk reads next (R380). -/
def Edge.walkAddr (e : Edge) (w : Walk) : Nat :=
  if w.lvl = 5 then e.asidTab.toNat + 16 * w.asid.toNat else w.table + 8 * (w.page * 4096 / 2 ^ (12 + 9 * (w.lvl - 1)) % 512)

/-- The next read of a walk and what it gives (R380, R382). -/
def Edge.walkStep (e : Edge) (w : Walk) : WalkRes :=
  let va := w.page * 4096
  if w.lvl = 5 then
    let a := e.walkAddr w
    match e.tableWord a, e.tableWord (a + 8) with
    | some x, some y =>
      if !x.getLsbD 0 || x.extractLsb' 48 16 != 0 || x.extractLsb' 1 11 != 0 || y != 0 then .fail
      else .table ⟨w.asid, 4, 0, (x.extractLsb' 12 36).toNat * 4096⟩
    | _, _ => .fail
  else
    match e.tableWord (e.walkAddr w) with
    | none => .fail
    | some x =>
      let addr := (x.extractLsb' 12 36).toNat * 4096
      let ps := x.getLsbD 7
      if !x.getLsbD 0 || x.extractLsb' 48 16 != 0 || x.extractLsb' 8 4 != 0 || x.extractLsb' 2 5 != 0 then .fail
      else if w.lvl = 4 ∧ ps then .fail
      else if w.lvl = 1 ∨ ps then
        if addr % pageBytes w.lvl ≠ 0 then .fail else .leaf ⟨w.asid, w.lvl, va / pageBytes w.lvl, addr, x.getLsbD 1⟩
      else .table ⟨w.asid, w.lvl - 1, va / 2 ^ (12 + 9 * (w.lvl - 1)), addr⟩

/-- The line that a walk reads next may be held modified by a host, for which BISnpData goes before the read (R382, R385), or an access to it has arrived before (R371). -/
def Edge.walkHeld (e : Edge) (w : Walk) : Bool := !(e.conflicts (e.walkAddr w) false).isEmpty || e.taken (e.walkAddr w / 64)

/-- A walk that begins at the lowest cached table pointer, or at the ASID entry. -/
def Edge.newWalk (e : Edge) (home : Nat) (asid : BitVec 16) (page : Nat) : Walk :=
  let ps := (NMap.get? e.ptrs home).getD []
  let hit (l : Nat) : Option XPtr := ps.find? fun p => p.asid == asid && p.lvl == l && p.pfx == page * 4096 / 2 ^ (12 + 9 * l)
  match ([1, 2, 3, 4] : List Nat).findSome? hit with
  | some p => ⟨home, asid, page, p.lvl, p.table, []⟩
  | none => ⟨home, asid, page, 5, 0, []⟩

/-- Translation entries of a leaf level that a home holds (R381). -/
def xlatRoom (l : Nat) : Nat := if l = 1 then 2048 else if l = 2 then 512 else 64

/-- Cache a translation with the pointers of its walk. -/
def Edge.fill (e : Edge) (w : Walk) (x : XEnt) : Edge :=
  let old := (NMap.get? e.xlat w.home).getD []
  let same := old.filter fun y => y.lvl == x.lvl
  let old := if same.length < xlatRoom x.lvl then old
    else match same[Config.victim e.fills % same.length]? with
      | some v => old.erase v
      | none => old
  let ptrs := w.path.foldl (fun l p =>
    let l := l.filter fun q => !(q.asid == p.asid && q.lvl == p.lvl && q.pfx == p.pfx)
    (if l.length < 256 then l else l.eraseIdx (Config.victim e.fills % 256)) ++ [p]) ((NMap.get? e.ptrs w.home).getD [])
  { e with xlat := NMap.set e.xlat w.home (old ++ [x]), ptrs := NMap.set e.ptrs w.home ptrs, fills := e.fills + 1 }

/-- The SPA of an access under a translation; none where the access faults (R382). -/
def Edge.spaOf (e : Edge) (x : XEnt) (va : Nat) (write : Bool) : Option Nat :=
  let a := x.spa + va % pageBytes x.lvl
  if write && !x.w then none else if (e.owner a).isNone then none else some a

/-- A stream access ends at its core with data, or as performed. -/
def State.xDone (s : State) (x : XAcc) (bs : List MByte) (cause : Cause) : State :=
  let c := s.coreAt x.core
  match x.why with
  | .read id pos => s.setCoreAt x.core (c.modStream id fun y =>
      { y with rdOut := y.rdOut.filter fun r => r.1 != pos, pieces := y.pieces ++ [⟨pos, bs, cause.code⟩] })
  | .store id req => s.setCoreAt x.core (c.modStream id fun y => y.storeDone req)
  | _ => s

/-- A stream access fails: a read delivers marked bytes, and a write counts as a failed store of its group (R335, R382). -/
def State.xFail (s : State) (x : XAcc) (cause : Cause) : State :=
  let s := s.xDone x (List.replicate x.len (0, true)) cause
  let s := match x.why with
    | .store id _ => s.setCoreAt x.core ((s.coreAt x.core).modStream id fun y => { y with failed := some cause.code })
    | _ => s
  if x.write then s.modGroup x.gid fun g => g.failStore (BitVec.ofNat 64 x.va) else s

/-- The number of a stream access's command. -/
def Purpose.cmd : Purpose → Nat
  | .read id _ => id
  | .store id _ => id
  | _ => 0

/-- No command of the group with this number has been told of a fault: a new group begins. -/
def Edge.forget (e : Edge) (gid : BitVec 16) : Edge := { e with told := e.told.filter fun t => t.1 != gid }

/-- A translation fault of an access, reported once for each command and page (R382). -/
def State.xFault (s : State) (x : XAcc) : State :=
  let key := (x.gid, x.core, Purpose.cmd x.why, x.va / 4096)
  let s := s.xFail x .xlat
  if s.edge.told.contains key then s
  else
    let s := s.edgeReport (s.edge.homeOf x.asid x.va) .xlat x.gid x.va
    { s with edge := { s.edge with told := s.edge.told ++ [key] } }

/-- An access with its translation goes on to its owner, or faults. -/
def State.xForward (s : State) (x : XAcc) (t : XEnt) : State :=
  match s.edge.spaOf t x.va x.write with
  | some a => { s with edge := { s.edge with accs := s.edge.accs ++ [{ x with stage := .owner a }] } }
  | none => s.xFault x

/-- Two accesses of one core to one virtual line (R381). -/
def XAcc.sameLine (x y : XAcc) : Bool := x.core == y.core && x.va / 64 == y.va / 64

/-- A home has yet to look at access y, which arrived there before x (R381). -/
def Edge.homeBefore (e : Edge) (x y : XAcc) : Bool := y.stage == .home && e.homeOf y.asid y.va == e.homeOf x.asid x.va

/-- Access n at its home, after those that arrived there before it: a hit goes to its owner, and a miss waits for a walk (R381, R382). -/
def State.xHome (s : State) (n : Nat) : Option State :=
  match s.edge.accs[n]? with
  | none => none
  | some x =>
    if x.stage ≠ .home ∨ (s.edge.accs.take n).any fun y => s.edge.homeBefore x y || (x.sameLine y && y.stage == .walk) then none
    else
      let s' := { s with edge := { s.edge with accs := s.edge.accs.eraseIdx n } }
      if 2 ^ 48 ≤ x.va then some (s'.xFault x)
      else
        match s.edge.homeOf x.asid x.va with
        | none => some (s'.xFault x)
        | some h =>
          match s.edge.cached h x.asid x.va with
          | some t => some (s'.xForward x t)
          | none =>
            let e := { s.edge with accs := s.edge.accs.set n { x with stage := .walk } }
            let walks := if e.walks.any fun w => w.home == h && w.asid == x.asid && w.page == x.va / 4096 then e.walks
              else e.walks ++ [e.newWalk h x.asid (x.va / 4096)]
            some { s with edge := { e with walks := walks } }

/-- Walk n has a walk slot: its home's first 64, or one of the 1,024 shared ones in order of request (R382). -/
def Edge.hasSlot (e : Edge) (n : Nat) : Bool :=
  let rank (k : Nat) : Nat := match e.walks[k]? with
    | some w => ((e.walks.take k).filter fun y => y.home == w.home).length
    | none => 0
  decide (rank n < 64) || decide (((List.range n).filter fun k => decide (64 ≤ rank k)).length < 1024)

/-- Walk n reads its next table. -/
def State.walkRead (s : State) (n : Nat) : Option State :=
  match s.edge.walks[n]? with
  | none => none
  | some w =>
    if !s.edge.hasSlot n then none
    else if s.edge.walkHeld w then
      if (s.edge.conflicts (s.edge.walkAddr w) false).isEmpty || s.edge.snoops.any fun y => y.line == s.edge.walkAddr w / 64 then none else some { s with edge := s.edge.snoop (s.edge.walkAddr w) false }
    else
      match s.edge.walkStep w with
      | .table p => some { s with edge := { s.edge with walks := s.edge.walks.set n { w with lvl := p.lvl, table := p.table, path := w.path ++ [p] } } }
      | _ => none

/-- The access waits for this walk. -/
def Edge.waitsFor (e : Edge) (w : Walk) (x : XAcc) : Bool :=
  x.stage == .walk && x.asid == w.asid && x.va / 4096 == w.page && e.homeOf x.asid x.va == some w.home

/-- WALK_COMPLETE of walk n (R382): its accesses go on or fault; a faulting walk caches nothing. A table read that failed every attempt is reported with CXLTO (R335). -/
def execWalkComplete (n : Nat) (s : State) : Out :=
  match s.edge.walks[n]? with
  | none => .refused (.notEnabled "WALK_COMPLETE")
  | some w =>
    if !s.edge.hasSlot n || s.edge.walkHeld w then .refused (.notEnabled "WALK_COMPLETE")
    else
      let mine := s.edge.accs.filter (s.edge.waitsFor w)
      let e := { s.edge with walks := s.edge.walks.eraseIdx n, accs := s.edge.accs.filter fun x => !s.edge.waitsFor w x }
      match s.edge.walkStep w with
      | .table _ => .refused (.notEnabled "WALK_COMPLETE")
      | .fail =>
        let a := e.walkAddr w
        let t := { s with edge := e }
        let t := match mine.head? with
          | some x => if (e.owner a).isSome && e.dead a then t.edgeReport (e.owner a) .cxlto x.gid x.va else t
          | none => t
        .next (mine.foldl State.xFault t)
      | .leaf x =>
        let ok := mine.any fun y => (s.edge.spaOf x y.va y.write).isSome
        let e := if ok then e.fill w x else e
        .next (mine.foldl (fun s y => s.xForward y x) { s with edge := e })

/-! ### Accesses at their owner (R335, R371, R385) -/

/-- CXL_ACCESS (R371, R385): the owner issues access n, once every back-invalidation that it needs is answered. -/
def execCxlAccess (n : Nat) (s : State) : Out :=
  match s.edge.accs[n]? with
  | none => .refused (.notEnabled "CXL_ACCESS")
  | some x =>
    match x.stage with
    | .owner a =>
      let busy := (s.edge.accs.take n).any fun y => match y.stage with
        | .owner b => a / 64 == b / 64
        | _ => false
      if busy then .refused (.notEnabled "CXL_ACCESS")
      else if !(s.edge.conflicts a x.write).isEmpty then .next { s with edge := s.edge.snoop a x.write }
      else if s.edge.snoops.any fun y => y.line == a / 64 then .refused (.notEnabled "CXL_ACCESS")
      else .next { s with edge := { s.edge with accs := s.edge.accs.set n { x with stage := .port a, attempts := 1, since := s.cycle } } }
    | _ => .refused (.notEnabled "CXL_ACCESS")

/-- Access n at its port, when it is the first there for its line. -/
def Edge.atPort (e : Edge) (n : Nat) : Option (XAcc × Nat) :=
  match e.accs[n]? with
  | none => none
  | some x =>
    match x.stage with
    | .port a =>
      if (e.accs.take n).any fun y => match y.stage with
        | .port b => a / 64 == b / 64
        | _ => false
      then none else some (x, a)
    | _ => none

/-- The link of the port of an SPA's owner is up (R376). -/
def Edge.linkUp (e : Edge) (a : Nat) : Bool := (e.owner a).any fun p => e.role p != 0

/-- An attempt failed: the access is issued again up to two times, which counts as a detected transient (R322, R409), and then fails with CXLTO (R335). -/
def State.attemptFailed (s : State) (n : Nat) (x : XAcc) (a : Nat) : State :=
  let s := if x.write && s.edge.linkUp a && Config.lostWrite s.tick then { s with edge := s.edge.write a x.data } else s
  if x.attempts < 3 then
    { s with
      edge := { s.edge with accs := s.edge.accs.set n { x with attempts := x.attempts + 1, since := s.cycle } }
      boot := { s.boot with transients := satInc s.boot.transients } }
  else
    let s := { s with edge := { s.edge with accs := s.edge.accs.eraseIdx n } }
    (s.xFail x .cxlto).edgeReport (s.edge.owner a) .cxlto x.gid x.va

/-- CXL_COMPLETION of access n, which comes only over a link that is up (R335, R371, R376): it is performed, or its attempt failed with an error other than poison. A number past the accesses stands for a line of memory: the table reads of walks and the accesses of the sequencer there now fail every attempt, or are performed again (log 34). -/
def execCxlCompletion (n : Nat) (ok : Bool) (s : State) : Out :=
  if s.edge.accs.length ≤ n then
    let line := n - s.edge.accs.length
    .next { s with edge := { s.edge with lost := if ok then nsErase line s.edge.lost else nsInsert line s.edge.lost } }
  else
  match s.edge.atPort n with
  | none => .refused (.notEnabled "CXL_COMPLETION")
  | some (x, a) =>
    if !s.edge.linkUp a then .refused (.notEnabled "CXL_COMPLETION")
    else if !ok then .next (s.attemptFailed n x a)
    else
      let s := { s with edge := { s.edge with accs := s.edge.accs.eraseIdx n } }
      if x.write then
        let s := { s with edge := s.edge.write a x.data }
        let s := if anyMark x.data then s.edgeReport (s.edge.owner a) .psncxl x.gid x.va else s
        .next (s.xDone x [] .cxlpsn)
      else .next (s.xDone x (s.edge.read a x.len) .cxlpsn)

/-- CXL_TIMEOUT of access n, 50 µs after its last attempt (R335). -/
def execCxlTimeout (n : Nat) (s : State) : Out :=
  match s.edge.atPort n with
  | none => .refused (.notEnabled "CXL_TIMEOUT")
  | some (x, a) => if x.since + 165000 ≤ s.cycle then .next (s.attemptFailed n x a) else .refused (.notEnabled "CXL_TIMEOUT")

/-! ### Hosts (R385) -/

/-- A bit of a host mask, set or cleared. -/
def hostBit (m : BitVec 4) (h : Nat) (b : Bool) : BitVec 4 := setBit m h b

/-- The lines in the filter of the edge block that owns a line. -/
def Edge.filtered (e : Edge) (line : Nat) : List Nat := (e.filt.map Prod.fst).filter fun l => e.owner (64 * l) == e.owner (64 * line)

/-- The filter of the line's edge block holds the line, or has room for it. -/
def Edge.filtRoom (e : Edge) (line : Nat) : Bool := (e.filtered line).contains line || decide ((e.filtered line).length < 65536)

/-- A full filter gives up an entry: BISnpInv goes to its holders, once for one entry (R385). -/
def Edge.evict (e : Edge) (line : Nat) : Edge :=
  let mine := e.filtered line
  if e.snoops.any fun y => y.inv && mine.contains y.line then e
  else
    match mine[Config.victim e.fills % mine.length]? with
    | some v => { e.snoop (64 * v) true with fills := e.fills + 1 }
    | none => e

/-- The owner is in the midst of an access to the line, or of a back-invalidation of it: a host's request for the line waits (R371, R385). -/
def Edge.lineBusy (e : Edge) (line : Nat) : Bool :=
  (e.snoops.any fun y => y.line == line) || e.accs.any fun x => match x.stage with
    | .port b => b / 64 == line
    | _ => false

/-- HOST_ACCESS of host port h to a line (R385): kind 0 reads, 1 reads to modify, 2 writes the line back, 3 drops a clean copy. A line that no host may reach is left alone; a line of the host's own window is its own memory. A request for a coherent line whose owner is in the midst of an access to it, or whose filter has no room yet, has no effect yet. -/
def execHostAccess (h : BitVec 2) (line : Nat) (kind : BitVec 2) (data : BitVec 512) (s : State) : Out :=
  let e := s.edge
  let a := 64 * line
  let bs : List MByte := (natBytes data.toNat 64).map fun b => (b, false)
  if e.role h.toNat ≠ 1 then .next s
  else if e.coherent a then
    let f := e.filtAt line
    if e.lineBusy line ∧ kind.toNat < 2 then .next s
    else if !e.filtRoom line ∧ kind.toNat < 2 then .next { s with edge := e.evict line }
    else
    match kind.toNat with
    | 0 => .next { s with edge := e.setFilt line { f with held := hostBit f.held h.toNat true } }
    | 1 => .next { s with edge := e.setFilt line ⟨hostBit f.held h.toNat true, hostBit f.dirty h.toNat true⟩ }
    | 2 => .next { s with edge := (e.write a bs).setFilt line ⟨hostBit f.held h.toNat false, hostBit f.dirty h.toNat false⟩ }
    | _ => .next { s with edge := e.setFilt line ⟨hostBit f.held h.toNat false, hostBit f.dirty h.toNat false⟩ }
  else if kind = 2#2 ∧ ((e.setOf a).any setHX ∨ ((hostWindow a).isSome ∧ e.owner a = some h.toNat)) then .next { s with edge := e.write a bs }
  else .next s

/-- BIRSP of host h for a line (R385), with the data of a modified copy. -/
def execBirsp (h : BitVec 2) (line : Nat) (dirty : Option (BitVec 512)) (s : State) : Out :=
  match s.edge.snoops.find? fun x => x.host == h.toNat && x.line == line with
  | none => .refused (.notEnabled "BIRSP")
  | some x =>
    let e := { s.edge with snoops := s.edge.snoops.erase x }
    let e := match dirty with
      | some d => e.write (64 * line) ((natBytes d.toNat 64).map fun b => (b, false))
      | none => e
    let f := e.filtAt line
    .next { s with edge := e.setFilt line ⟨if x.inv then hostBit f.held h.toNat false else f.held, hostBit f.dirty h.toNat false⟩ }

/-! ### Invalidation (R383, R386) -/

/-- The scope of an invalidation covers an entry of `n` bytes from `va`. -/
def xinvHits (w range : Word) (asid : BitVec 16) (va n : Nat) : Bool :=
  let base := (range.extractLsb' 12 52).toNat * 4096
  let len := ((range.extractLsb' 0 12).toNat + 1) * 4096
  match (w.extractLsb' 61 2).toNat with
  | 0 => asid == w.extractLsb' 32 16
  | 1 => asid == w.extractLsb' 32 16 && decide (va < base + len) && decide (base < va + n)
  | 2 => true
  | _ => false

/-- XINV (R383): matching entries are dropped, matching walks start again, and DONE waits for the accesses that used a dropped entry. -/
def execXinv (w range : Word) (s : State) : Out :=
  let e := s.edge
  let hitE (x : XEnt) : Bool := xinvHits w range x.asid (x.page * pageBytes x.lvl) (pageBytes x.lvl)
  let hitP (x : XPtr) : Bool := xinvHits w range x.asid (x.pfx * 2 ^ (12 + 9 * x.lvl)) (2 ^ (12 + 9 * x.lvl))
  let used (x : XAcc) : Bool := (((e.homeOf x.asid x.va).bind fun h => NMap.get? e.xlat h).getD []).any fun y => y.asid == x.asid && y.page == x.va / pageBytes y.lvl && hitE y
  let hitA (x : XAcc) : Bool := (xinvHits w range x.asid (x.va / 4096 * 4096) 4096 || used x) && (match x.stage with
    | .owner _ => true
    | .port _ => true
    | _ => false)
  .next { s with edge := { e with
    xinv := w &&& 0x6000FFFF00000000, xrange := range
    xlat := e.xlat.map fun p => (p.1, p.2.filter fun x => !hitE x)
    ptrs := e.ptrs.map fun p => (p.1, p.2.filter fun x => !hitP x)
    walks := e.walks.map fun x => if xinvHits w range x.asid (x.page * 4096) 4096 then { x with lvl := 5, table := 0, path := [] } else x
    accs := e.accs.map fun x => if hitA x then { x with stale := true } else x } }

/-- DONE of XINV. -/
def Edge.xinvDone (e : Edge) : Bool := e.accs.all fun x => !x.stale

/-! ### Accesses of the launch sequencer (R371, R384) -/

/-- A translation for the sequencer: through the home's cache, or by a walk that reads its tables at once. -/
def Edge.walkAll (e : Edge) : Nat → Walk → Option (Walk × XEnt)
  | 0, _ => none
  | n + 1, w =>
    match e.walkStep w with
    | .table p => Edge.walkAll e n { w with lvl := p.lvl, table := p.table, path := w.path ++ [p] }
    | .leaf x => some (w, x)
    | .fail => none

/-- The table line at which a walk of the sequencer must wait, for a host or for an access that arrived before (R371, R385). -/
def Edge.walkStop (e : Edge) : Nat → Walk → Option Nat
  | 0, _ => none
  | n + 1, w =>
    if e.walkHeld w then some (e.walkAddr w)
    else
      match e.walkStep w with
      | .table p => Edge.walkStop e n { w with lvl := p.lvl, table := p.table, path := w.path ++ [p] }
      | _ => none

/-- The table line at which the translation of an address must wait for a host. -/
def Edge.tableHeld (e : Edge) (asid : BitVec 16) (va : Nat) : Option Nat :=
  match e.homeOf asid va with
  | none => none
  | some h => if (e.cached h asid va).isSome then none else e.walkStop 5 (e.newWalk h asid (va / 4096))

/-- The sequencer waits for a host at a line. -/
def State.waitHost (s : State) (a : Nat) : State := { s with edge := { s.edge.snoop a false with blocked := true } }

/-- The SPA of an address of an address space, and the edge with what it cached. -/
def Edge.translate (e : Edge) (asid : BitVec 16) (va : Nat) (write : Bool) : Option (Edge × Nat) :=
  if 2 ^ 48 ≤ va then none
  else
    match e.homeOf asid va with
    | none => none
    | some h =>
      match e.cached h asid va with
      | some x => (e.spaOf x va write).map fun a => (e, a)
      | none =>
        match e.walkAll 5 (e.newWalk h asid (va / 4096)) with
        | none => none
        | some (w, x) => (e.spaOf x va write).map fun a => (e.fill w x, a)

/-- Read one line's part for the sequencer; a line that a host may hold modified, or to which an access has arrived before (R384), blocks the move. A read that fails every attempt delivers marked bytes and a CXLTO report (R335). -/
def State.seqReadLine (s : State) (a va n : Nat) : State × List MByte :=
  if s.edge.dead a then (if (s.edge.owner a).isSome then s.edgeReport (s.edge.owner a) .cxlto 0 va else s, List.replicate n (0, true))
  else if (s.edge.conflicts a false).isEmpty && !s.edge.taken (a / 64) then (s, s.edge.read a n)
  else (s.waitHost a, List.replicate n (0, false))

/-- Write one line's part for the sequencer. -/
def State.seqWriteLine (s : State) (a : Nat) (bs : List MByte) : State :=
  if (s.edge.conflicts a true).isEmpty && !s.edge.taken (a / 64) then { s with edge := s.edge.write a bs }
  else { s with edge := { s.edge.snoop a true with blocked := true } }

/-- Read `n` bytes at a virtual address, line by line; none after a translation fault. `fuel` bounds the lines. -/
def State.vaReadGo (asid : BitVec 16) : Nat → Nat → Nat → State → Option (State × List MByte)
  | 0, _, _, s => some (s, [])
  | fuel + 1, va, n, s =>
    if n = 0 then some (s, [])
    else
      let k := min n (64 - va % 64)
      match s.edge.tableHeld asid va, s.edge.translate asid va false with
      | some t, _ => some (s.waitHost t, List.replicate n (0, false))
      | none, none => none
      | none, some (e, a) =>
        let r := { s with edge := e }.seqReadLine a va k
        match State.vaReadGo asid fuel (va + k) (n - k) r.1 with
        | none => none
        | some (s, bs) => some (s, r.2 ++ bs)

/-- Read bytes at a virtual address for the sequencer. -/
def State.vaRead (s : State) (asid : BitVec 16) (va n : Nat) : Option (State × List MByte) := State.vaReadGo asid (n / 64 + 2) va n s

/-- Write bytes at a virtual address, line by line; none after a translation fault or a write that fails every attempt, with nothing of that line or later written. -/
def State.vaWriteGo (asid : BitVec 16) : Nat → Nat → List MByte → State → Option State
  | 0, _, _, s => some s
  | fuel + 1, va, bs, s =>
    if bs.isEmpty then some s
    else
      let line := bs.take (64 - va % 64)
      match s.edge.tableHeld asid va, s.edge.translate asid va true with
      | some t, _ => some (s.waitHost t)
      | none, none => none
      | none, some (e, a) => if e.dead a then none else State.vaWriteGo asid fuel (va + line.length) (bs.drop line.length) ({ s with edge := e }.seqWriteLine a line)

/-- Write bytes at a virtual address for the sequencer. -/
def State.vaWrite (s : State) (asid : BitVec 16) (va : Nat) (bs : List MByte) : Option State := State.vaWriteGo asid (bs.length / 64 + 2) va bs s

/-- The cause of a write of the sequencer at a virtual address that was not performed: a translation fault, or a line that answers no attempt (R266, R335). -/
def State.vaWriteCause (s : State) (asid : BitVec 16) (va : Nat) : Cause :=
  match s.edge.translate asid va true with
  | some (e, a) => if e.dead a then .cxlto else .xlat
  | none => .xlat

/-- Read bytes at a system physical address, line by line. -/
def State.spaReadGo : Nat → Nat → Nat → State → State × List MByte
  | 0, _, _, s => (s, [])
  | fuel + 1, a, n, s =>
    if n = 0 then (s, [])
    else
      let k := min n (64 - a % 64)
      let r := s.seqReadLine a a k
      let t := State.spaReadGo fuel (a + k) (n - k) r.1
      (t.1, r.2 ++ t.2)

/-- Read bytes at a system physical address, as the compaction area is (R277). -/
def State.spaRead (s : State) (a n : Nat) : State × List MByte := State.spaReadGo (n / 64 + 2) a n s

/-- A move of the sequencer. When it met a line that a host holds, only the back-invalidations it sent remain, and the move is made later. -/
def seqMove (s : State) (t : State) : Out :=
  if t.edge.blocked then .next { s with edge := { s.edge with snoops := t.edge.snoops } } else .next t

end Sys2Proof.Machine
end

