-- ==== Sys2Proof/Machine/Matrix.lean ====
section
/-! DEFINITION. The matrix array: MMA (R149 to R156), B latches (R157), accumulators (R158 to R163) and the twin window (R166, R167): OP 0x80, 0x81, 0x83 and 0x84. -/
namespace Sys2Proof.Machine

/-! ### Operands of an MMA -/

/-- The tag of a latch that holds a type (R23, R152). -/
def latchTag (ty : Ty) : BitVec 4 :=
  match ty with
  | .vb4 => 1 | .vb8 => 2 | .vb16 => 3 | .bf16 => 4 | .f16 => 5
  | _ => 0

/-- `n` bits at a position of a long bit vector, replaced. -/
def setField {w : Nat} (x : BitVec w) (lo n : Nat) (y : BitVec w) : BitVec w :=
  let msk : BitVec w := BitVec.ofNat w (2 ^ n - 1)
  (x &&& ~~~(msk <<< lo)) ||| ((y &&& msk) <<< lo)

/-- A block as an MMA or a latch takes it: a block of another format is poison of the reading core (R54). -/
def blkTaken (b : Blk) (ty : Ty) (own : Org) : Blk := if b.read ty = .mismatch then poisonBlk ty own else b

/-- A unit of the A operand, by its index, each line of it seen whole (R149, R153, R156). A unit that is a poison block and lies on a marked word as well gives the winner of the two origins (DEDUCED from R65 and R146, log 11). -/
def Core.unit (c : Core) (ty : Ty) (ma ha u : Nat) : Blk :=
  let size := unitBytes ty
  let m := ma + u * size
  let h := ha + 4 * u
  let raw : Blk :=
    ⟨BitVec.ofNat 512 (c.seenNat (m / 64) m size), if ty.isBlock then BitVec.ofNat 32 (c.seenNat (h / 64) h 4) else 0⟩
  let x := if ty.isBlock then blkTaken raw ty (c.ownOrigin .fmt) else raw
  if c.seenMark (m / 64) m size || (ty.isBlock && c.seenMark (h / 64) h 4) then
    poisonBlk ty (match ty.isBlock, x.read ty with
      | true, .poison o => orgMin (c.ownOrigin .lspsn) o
      | _, _ => c.ownOrigin .lspsn)
  else x

/-- A half-type latch holds the poison record of R150. -/
def Latch.record (l : Latch) : Option Org :=
  if hdrE (l.hdr.extractLsb' 0 32) = 255#8 then some (orgClean (l.hdr.extractLsb' 32 128)) else none

/-- The header area of a half-type latch that holds a poison record (R150). -/
def recordHdr (o : Org) : BitVec 4096 := ((orgClean o) ++ 0xFF0000F0#32).setWidth 4096

/-- Block kb of column j of a latch (R150). -/
def Latch.blk (l : Latch) (ty : Ty) (j kb : Nat) : Blk :=
  if ty.isBlock then
    let b := j * nbk ty + kb
    ⟨(l.data.extractLsb' (b * ty.blockBits) ty.blockBits).setWidth 512, l.hdr.extractLsb' (32 * b) 32⟩
  else
    match l.record with
    | some o => poisonBlk ty o
    | none => ⟨(l.data.extractLsb' (256 * j) 256).setWidth 512, 0⟩

/-- A latch, empty unless it holds a type already, with the type's tag (R157). -/
def Latch.retag (l : Latch) (ty : Ty) : Latch := if l.tag = latchTag ty then l else ⟨latchTag ty, 0, 0⟩

/-- Write column j of a latch, as BLMV does (R157). -/
def Latch.putColumn (l : Latch) (ty : Ty) (j : Nat) (x : VVal) : Latch :=
  let l := l.retag ty
  if ty.isBlock then
    let n := nbk ty
    let x : VVal :=
      match x.whole, orgWinner x.wholeOrgs with
      | true, some o => ofBlks ty (List.replicate n (poisonBlk ty o))
      | _, _ => x
    { l with
      data := setField l.data (512 * j) 512 (x.data.setWidth 16384)
      hdr := setField l.hdr (32 * n * j) (32 * n) (x.side.setWidth 4096) }
  else
    match orgWinner (x.poisonAt 0 256) with
    | some o =>
      let w := match l.record with
        | some h => orgMin h o
        | none => o
      { l with data := setField l.data (256 * j) 256 0, hdr := recordHdr w }
    | none => { l with data := setField l.data (256 * j) 256 (x.data.setWidth 16384) }

/-- A latch of the core. -/
def Core.latchAt (c : Core) (k : BitVec 1) : Latch := c.latch[k.toNat]'(k.isLt)

/-- Replace a latch, keeping its contents from before the window (R168). -/
def Core.putLatch (c : Core) (k : BitVec 1) (l : Latch) : Core :=
  let c := c.keepLatch k
  { c with latch := c.latch.set k.toNat l k.isLt }

/-! ### MMA -/

/-- The checks 3 to 7 of R152 and the issue of an MMA. -/
def Core.mmaIssue (neg : Bool) (d : BitVec 2) (a b cr : Reg) (ty : Ty) (h bl : BitVec 1) (c : Core) : Except Trap Core :=
  let r := c.regs
  let n := nbk ty
  let st := if cr = 0#5 then n else ((r.rdS cr).extractLsb' 0 24).toNat
  let ma := (r.rdS a).toNat
  let ha := (r.rdS b).toNat
  let last := 31 * st + n
  let size := unitBytes ty
  if (c.latchAt bl).tag ≠ latchTag ty then .error (trap0 .bltag)
  else if (c.accAt d).fp32 = ty.isBlock then .error (trap0 .acmd)
  else
    match psnUse r [a, b, cr] with
    | .error t => .error t
    | .ok () =>
      if !inProgram ma (last * size) then .error ⟨.badaddr, infoAddr ma⟩
      else if ty.isBlock && !inProgram ha (last * 4) then .error ⟨.badaddr, infoAddr ha⟩
      else if ma % size ≠ 0 then .error ⟨.misaln, infoAddr ma⟩
      else if ty.isBlock && ha % 4 != 0 then .error ⟨.misaln, infoAddr ha⟩
      else
        let job : MmaJob :=
          { ctx := c.run, acc := d, neg := neg, ty := ty, half := h == 1#1
            units := (List.range (32 * n)).map fun i => c.unit ty ma ha (i / n * st + i % n)
            cols := (List.range (32 * n)).map fun i => blkTaken ((c.latchAt bl).blk ty (i / n) (i % n)) ty (c.ownOrigin .fmt)
            pc := r.pc, word := c.fetchWord, hit := none }
        let c := (c.drainMma.keepAcc d)
        .ok { c.adv with mma := some job }

/-- A hand-over in progress brings the core in focus the licence and this accumulator (R164). -/
def State.receives (s : State) (d : BitVec 2) : Bool := s.quern.hand.any fun h => h.toRunner == isRunner s.cur && h.dst == d

/-- MMA and MMAN: one that names the accumulator of a tile on its way to the core waits for it and then holds the licence (R164); else the licence, the release deadline, and then the checks in the core (R152, R155, R165). -/
def State.mma (neg : Bool) (d : BitVec 2) (a b c : Reg) (ty : Ty) (h bl : BitVec 1) (s : State) : Except Trap State :=
  let here := s.receives d
  let s := if here then s.settle [d] else s
  if !here && !s.holds then .error (trap0 .nolic)
  else if s.overdue s.cur then
    let t : Trap := ⟨.lrev, (s.quern.rreq.map Prod.fst).getD 0⟩
    let s := s.setCore s.core.drainMma
    .ok ((s.release s.cur).take t)
  else
    match s.core.mmaIssue neg d a b c ty h bl with
    | .error t => .ok (s.take t)
    | .ok c => .ok (s.setCore c)

/-! ### Accumulators -/

/-- The state in which an instruction that names accumulators has its effect: a hand-over and an MMA that concern them are done (R156, R164). -/
def State.accReady (s : State) (ks : List (BitVec 2)) : State :=
  let s := s.settle ks
  s.setCore (if s.core.mma.any fun m => ks.contains m.acc then s.core.drainMma else s.core)

/-- An instruction that names accumulators waits for an MMA in flight to one of them (R153) and for a hand-over that uses one (R164). -/
def issueA (p : Pred) (ks : List (BitVec 2)) (f : Core → Except Trap Core) (s : State) : Out :=
  issueS p (fun s =>
    match f (s.accReady ks).core with
    | .error t => .error t
    | .ok c => .ok ((s.accReady ks).setCore c)) s

/-- The tile is poisoned or partial (R66, R160). -/
def Acc.bad (a : Acc) : Bool := orgCause a.org != 0 || a.ptl

/-- Replace an accumulator, keeping its contents from before the window (R168). -/
def Core.putAcc (c : Core) (k : BitVec 2) (a : Acc) : Core := (c.keepAcc k).setAcc k a

/-- Set flags in an accumulator's ACCST and in ASTAT (R69, R158). -/
def Core.flagAcc (c : Core) (k : BitVec 2) (f : Flags) : Core :=
  if f = 0 then c else (c.putAcc k ((c.accAt k).flag f)).modRegs fun r => r.flag f

/-- Element (row, col) of a tile. -/
def Acc.elem (a : Acc) (row col : Nat) : BitVec 48 := a.n.toList.getD (32 * row + col) 0

/-- The FP32 lane in an element (R58). -/
def elemF32 (x : BitVec 48) : BitVec 64 := (x.extractLsb' 0 32).setWidth 64

/-- An element as ACCRD exports it (R160). -/
def Acc.toFormat (a : Acc) (ty : Ty) (rm : RMode) (x : BitVec 48) : FRes :=
  if ty = .i64 then ⟨if a.fp32 then elemF32 x else x.signExtend 64, 0⟩
  else if a.fp32 then (if ty = .f32 then ⟨elemF32 x, 0⟩ else convLane ty .f32 rm (elemF32 x))
  else ty.round rm false x.toInt a.t.toInt

/-- ACCRD (R160). -/
def Core.accrd (d : Reg) (k : BitVec 2) (row : BitVec 5) (q : BitVec 2) (ty : Ty) (rnd : Rnd) (c : Core) : Except Trap Core :=
  let a := c.accAt k
  let n := ty.lanes
  let rs := (List.range n).map fun i =>
    a.toFormat ty (rnd.mode (c.regs.rdS rnd.seed) i) (a.elem row.toNat (n * q.toNat + i))
  let orgs := (if a.bad then [a.org] else []) ++ c.spsn rnd.srcs
  let fl := if orgs.isEmpty then orFlags rs else fPSN
  .ok ((c.flagAcc k fl).putV d orgs ⟨ofLanes ty.width n fun i => (rs.getD i ⟨0, 0⟩).bits, 0⟩ fl)

/-- The value of an element as an input of ToBlock (R161). -/
def Acc.xval (a : Acc) (x : BitVec 48) : XVal := if a.fp32 then (Ty.f32.unpack (elemF32 x)).toX else .dy x.toInt a.t.toInt

/-- ACCEXP (R161). -/
def Core.accexp (d : Reg) (k : BitVec 2) (row : BitVec 5) (q : BitVec 2) (ty : Ty) (rnd : Rnd) (c : Core) : Except Trap Core :=
  let a := c.accAt k
  let old := c.regs.rdVV d
  let res : Blk × Flags :=
    match orgWinner ((if a.bad then [a.org] else []) ++ c.spsn rnd.srcs) with
    | some o => (poisonBlk ty o, fPSN)
    | none =>
      c.blockResult ty (fun i => rnd.mode (c.regs.rdS rnd.seed) (32 * q.toNat + i))
        ((List.range 32).map fun j => a.xval (a.elem row.toNat j))
  let z : VVal := ⟨setBits old.data (ty.blockBits * q.toNat) ty.blockBits res.1.data, setHdr old.side q.toNat res.1.hdr⟩
  .ok ((c.flagAcc k res.2).modRegs fun r => (r.wrVV d z).adv)

/-- ACCWR (R162). -/
def Core.accwr (d : BitVec 2) (v : Reg) (row : BitVec 5) (q : BitVec 2) (ty : Ty) (c : Core) : Except Trap Core :=
  let a := c.accAt d
  if a.fp32 = (ty == .i64) then .error (trap0 .acmd)
  else
    let x := c.regs.rdVV v
    let n := ty.lanes
    let base := 32 * row.toNat + n * q.toNat
    let orgs := x.poisonAll
    let val (i : Nat) : Int := (x.lane ty.width i).toInt
    let new (i : Nat) : BitVec 48 :=
      if !orgs.isEmpty then 0
      else if ty = .i64 then BitVec.ofInt 48 (clampInt (val i) accMin accMax)
      else (x.lane 32 i).setWidth 48
    let sat := orgs.isEmpty && ty == .i64 && (List.range n).any fun i => clampInt (val i) accMin accMax != val i
    let fl := if orgs.isEmpty then (if sat then fSAT else 0) else fPSN
    let cells := a.n.toList
    let a' : Acc := { a with n := tileOf (cells.take base ++ (List.range n).map new ++ cells.drop (base + n)) }
    .ok ((c.putAcc d (a'.poison orgs fl)).modRegs fun r => (r.flag fl).adv)

/-- Rescale a tile to T' (R163). -/
def Acc.rescale (a : Acc) (t : BitVec 16) : Acc × Flags :=
  let sh := a.t.toInt - t.toInt
  if a.t.toInt ≤ t.toInt then
    let inx := a.ints.any fun x => !isWhole x sh
    ({ a with n := tileOf (a.ints.map fun x => BitVec.ofInt 48 (roundInt x sh .rne)), t := t },
      (if inx then fINX else 0) ||| (if a.t.toInt < t.toInt then fRNM else 0))
  else
    let big (x : Int) : Int := clampInt (x * 2 ^ sh.toNat) (-accMax) accMax
    let sat := a.ints.any fun x => big x != x * 2 ^ sh.toNat
    ({ a with n := tileOf (a.ints.map fun x => BitVec.ofInt 48 (big x)), t := t }, if sat then fSAT else 0)

/-- ACCSC (R163). -/
def Core.accsc (d : BitVec 2) (s : Reg) (c : Core) : Except Trap Core :=
  let a := c.accAt d
  if a.fp32 then .error (trap0 .acmd)
  else if c.regs.psn s then
    .ok ((c.putAcc d (a.poison [c.ownOrigin .spsn] 0)).modRegs fun r => (r.flag fPSN).adv)
  else
    let x := a.rescale ((c.regs.rdS s).extractLsb' 0 16)
    .ok ((c.putAcc d (x.1.flag x.2)).modRegs fun r => (r.flag x.2).adv)

/-- The number n fits when scaled by 2^d (R163). -/
def fitsScaled (d : Nat) (n : Int) : Bool := decide (accMin ≤ n * 2 ^ d) && decide (n * 2 ^ d ≤ accMax)

/-- The largest d not above the fuel for which every element fits (R163). -/
def fitGo (xs : List Int) : Nat → Nat
  | 0 => 0
  | k + 1 => if xs.all (fitsScaled (k + 1)) then k + 1 else fitGo xs k

/-- ACCSC.FIT (R163). An element that is not zero admits no d above 47. -/
def Core.accscFit (d : BitVec 2) (c : Core) : Except Trap Core :=
  let a := c.accAt d
  if a.fp32 then .error (trap0 .acmd)
  else if a.ints.all fun x => x == 0 then .ok c.adv
  else
    let k := fitGo a.ints (min 47 (a.t.toInt + 32768).toNat)
    .ok ((c.putAcc d { a with
      n := tileOf (a.ints.map fun x => BitVec.ofInt 48 (x * 2 ^ k)), t := BitVec.ofInt 16 (a.t.toInt - k) }).adv)

/-- ACCSWP (R159). -/
def Core.accswp (d a : BitVec 2) (c : Core) : Except Trap Core :=
  let x := c.accAt d
  let y := c.accAt a
  .ok ((if d = a then c else (c.putAcc d y).putAcc a x).adv)

/-! ### The twin window -/

/-- A twin-window register as it stood at the start of the cycle (R166). -/
def State.twRead (s : State) (k : BitVec 3) : VData × Bool :=
  let q := s.quern
  match (if q.twCycle = s.cycle then q.twLog.find? fun e => e.reg == k else none) with
  | some e => (e.old, e.oldPsn)
  | none => (q.tw[k.toNat]'(k.isLt), q.twp.getLsbD k.toNat)

/-- Write a twin-window register: when both cores write one in a cycle the runner's value stays and TWC is set in both (R24, R166). -/
def State.twWrite (s : State) (k : BitVec 3) (x : VData) (bad : Bool) : State :=
  let q := s.quern
  let me := isRunner s.cur
  let log := if q.twCycle = s.cycle then q.twLog else []
  let both := log.any fun e => e.reg == k && e.runner != me
  let q := { q with twCycle := s.cycle, twLog := log ++ [⟨k, me, q.tw[k.toNat]'(k.isLt), q.twp.getLsbD k.toNat⟩] }
  let q := if both && !me then q else { q with tw := q.tw.set k.toNat x k.isLt, twp := setBit q.twp k.toNat bad }
  let s := s.setQuern q
  if both then
    let s := s.setCore { s.core with twc := true }
    let t := twinOf s.cur
    s.setCoreAt t { s.coreAt t with twc := true }
  else s

/-- What TWW stores of a vector register: the data, or the winning origin (R167). -/
def VVal.twData (x : VVal) : VData × Bool :=
  match orgWinner x.poisonAll with
  | some o => ((orgClean o).setWidth 512, true)
  | none => (x.data, false)

/-- A twin-window value as a vector register takes it (R166, R167). -/
def twVal (x : VData × Bool) : VVal := if x.2 then poisonReg (x.1.extractLsb' 0 128) else ⟨x.1, 0⟩

/-! ### The instructions -/

/-- MMA (R155). -/
def execMma (p : Pred) (d : BitVec 2) (a b c : Reg) (ty : Ty) (h bl : BitVec 1) (s : State) : Out :=
  issueS p (State.mma false d a b c ty h bl) s

/-- MMAN (R155). -/
def execMman (p : Pred) (d : BitVec 2) (a b c : Reg) (ty : Ty) (h bl : BitVec 1) (s : State) : Out :=
  issueS p (State.mma true d a b c ty h bl) s

/-- The tile of the MMA in flight of core k is written (R153, R156). -/
def execMmaTileWrite (k : Nat) (s : State) : Out :=
  if (s.coreAt k).mma.isSome then .next (s.setCoreAt k (s.coreAt k).drainMma) else .refused (.notEnabled "MMA_TILE_WRITE")

/-- ACCZ (R159). -/
def execAccz (p : Pred) (d : BitVec 2) (t : BitVec 10) (s : State) : Out :=
  issueA p [d] (fun c => .ok (c.putAcc d ((c.accAt d).cleared (t.signExtend 16))).adv) s

/-- ACCMODE (R159). -/
def execAccmode (p : Pred) (d : BitVec 2) (m : BitVec 1) (s : State) : Out :=
  issueA p [d] (fun c => .ok (c.putAcc d { (c.accAt d).cleared 0 with fp32 := m == 1#1 }).adv) s

/-- ACCRD (R160). -/
def execAccrd (p : Pred) (d : Reg) (a : BitVec 2) (row : BitVec 5) (q : BitVec 2) (ty : Ty) (rnd : Rnd) (s : State) : Out :=
  issueA p [a] (Core.accrd d a row q ty rnd) s

/-- ACCWR (R162). -/
def execAccwr (p : Pred) (d : BitVec 2) (a : Reg) (row : BitVec 5) (q : BitVec 2) (ty : Ty) (s : State) : Out :=
  issueA p [d] (Core.accwr d a row q ty) s

/-- ACCEXP (R161). -/
def execAccexp (p : Pred) (d : Reg) (a : BitVec 2) (row : BitVec 5) (q : BitVec 2) (ty : Ty) (rnd : Rnd) (s : State) : Out :=
  issueA p [a] (Core.accexp d a row q ty rnd) s

/-- ACCSWP (R159). -/
def execAccswp (p : Pred) (d a : BitVec 2) (s : State) : Out :=
  issueA p [d, a] (Core.accswp d a) s

/-- ACCSC (R163). -/
def execAccsc (p : Pred) (d : BitVec 2) (a : Reg) (s : State) : Out :=
  issueA p [d] (Core.accsc d a) s

/-- ACCSC.FIT (R163). -/
def execAccscFit (p : Pred) (d : BitVec 2) (s : State) : Out :=
  issueA p [d] (Core.accscFit d) s

/-- ACCRAW (R160). -/
def execAccraw (p : Pred) (d : Reg) (a : BitVec 2) (row : BitVec 5) (q : BitVec 2) (s : State) : Out :=
  issueA p [a] (fun c =>
    if !c.prv then .error (trap0 .priv)
    else
      let t := c.accAt a
      .ok (c.modRegs fun r => (r.wrVV d ⟨ofLanes 64 8 fun i => (t.toFormat .i64 .rne (t.elem row.toNat (8 * q.toNat + i))).bits, 0⟩).adv)) s

/-- ACCRAW with the origin record and ACCST (R160). -/
def execAccrawOrg (p : Pred) (d : Reg) (a : BitVec 2) (s : State) : Out :=
  issueA p [a] (fun c =>
    if !c.prv then .error (trap0 .priv)
    else
      let t := c.accAt a
      .ok (c.modRegs fun r => (r.wrVV d ⟨(t.stWord ++ t.org).setWidth 512, 0⟩).adv)) s

/-- TWR (R166, R167). -/
def execTwr (p : Pred) (d : Reg) (a : BitVec 3) (s : State) : Out :=
  issueS p (fun s =>
    let x := s.twRead a
    .ok (s.setCore (s.core.modRegs fun r => ((r.wrVV d (twVal x)).flag (psnFlag x.2)).adv))) s

/-- TWW (R166, R167, R168). -/
def execTww (p : Pred) (d : BitVec 3) (a : Reg) (s : State) : Out :=
  issueS p (fun s =>
    let x := (s.core.regs.rdVV a).twData
    let s := s.twWrite d x.1 x.2
    .ok (s.setCore ((s.core.modRegs fun r => (r.flag (psnFlag x.2)).adv).commit))) s

/-- XCHT (R166, R167, R168). -/
def execXcht (p : Pred) (d : Reg) (a : BitVec 3) (s : State) : Out :=
  issueS p (fun s =>
    let y := s.twRead a
    let x := (s.core.regs.rdVV d).twData
    let s := s.twWrite a x.1 x.2
    .ok (s.setCore ((s.core.modRegs fun r => ((r.wrVV d (twVal y)).flag (psnFlag (x.2 || y.2))).adv).commit))) s

/-- BLLD (R157); each 64-byte line is seen whole (R22). -/
def execBlld (p : Pred) (d : BitVec 1) (a b : Reg) (ty : Ty) (s : State) : Out :=
  issue p (fun c =>
    let r := c.regs
    let m := (r.rdS a).toNat
    let h := (r.rdS b).toNat
    let n := 32 * nbk ty
    let len := if ty.isBlock then 2048 else 1024
    match psnUse r [a, b] with
    | .error t => .error t
    | .ok () =>
      if !c.mayRead m len then .error ⟨.badaddr, infoAddr m⟩
      else if ty.isBlock && !c.mayRead h (4 * n) then .error ⟨.badaddr, infoAddr h⟩
      else if m % 64 ≠ 0 then .error ⟨.misaln, infoAddr m⟩
      else if ty.isBlock && h % 64 != 0 then .error ⟨.misaln, infoAddr h⟩
      else
        let own := c.ownOrigin .lspsn
        let size := ty.blockBits / 8
        let hit (j : Nat) : Bool := c.seenMark (size * j / 64) (m + size * j) size || c.seenMark (32 + 4 * j / 64) (h + 4 * j) 4
        let bad := if ty.isBlock then (List.range n).any hit else (List.range (len / 64)).any fun i => c.seenMark i (m + 64 * i) 64
        let raw : Latch :=
          ⟨latchTag ty, BitVec.ofNat 16384 (c.seenLines 0 m len), if ty.isBlock then BitVec.ofNat 4096 (c.seenLines 32 h (4 * n)) else 0⟩
        let poison : Blk := poisonBlk ty own
        let l : Latch :=
          if !bad then raw
          else if !ty.isBlock then { raw with hdr := recordHdr own }
          else (List.range n).foldl (fun l j =>
            if hit j then
              { l with
                data := setField l.data (ty.blockBits * j) ty.blockBits (poison.data.setWidth 16384)
                hdr := setField l.hdr (32 * j) 32 (poison.hdr.setWidth 4096) }
            else l) raw
        .ok ((c.putLatch d l).modRegs fun r => (r.flag (psnFlag bad)).adv)) s

/-- BLMV (R157). -/
def execBlmv (p : Pred) (d : BitVec 1) (a : Reg) (j : BitVec 5) (ty : Ty) (s : State) : Out :=
  issue p (fun c =>
    let x := c.regs.rdVV a
    let bad := !(if ty.isBlock then x.poisonAll else x.poisonAt 0 256).isEmpty
    .ok ((c.putLatch d ((c.latchAt d).putColumn ty j.toNat x)).modRegs fun r => (r.flag (psnFlag bad)).adv)) s

/-- BLCLR (R157). -/
def execBlclr (p : Pred) (d : BitVec 1) (s : State) : Out :=
  issue p (fun c => .ok (c.putLatch d ⟨0, 0, 0⟩).adv) s

end Sys2Proof.Machine
end

