-- ==== Sys2Proof/Machine/System.lean ====
section
/-! DEFINITION. Suspension, traps, islands, and poison inspection and clearing: OP 0xC0 FN 0x00, 0xC1, 0xC2 and 0xC4 (R206, R207, R211, R212, R214, R215, R217, R218). -/
namespace Sys2Proof.Machine

/-! ### SUSPEND (R206, R207) -/

/-- The checks of SUSPEND in the order of R206. -/
def Core.checkSuspend (c : Core) (a b cr : Reg) : Except Trap Unit :=
  let x := c.regs.rdS a
  let y := c.regs.rdS b
  match psnUse c.regs [a, b, cr] with
  | .error t => .error t
  | .ok () =>
    if y.extractLsb' 19 3 ≠ 0 ∧ !c.prv then .error (trap0 .priv)
    else if x.extractLsb' 48 16 ≠ 0 then .error ⟨.badaddr, x⟩
    else if y.extractLsb' 22 9 ≠ 0 ∨ y.extractLsb' 32 32 ≠ 0 ∨ 60000000 < (c.regs.rdS cr).toNat then .error (trap0 .badarg)
    else if x.toNat % 4096 ≠ 0 then .error ⟨.misaln, x⟩
    else .ok ()

/-- The sequencer already suspends the group. -/
def State.suspending (s : State) (gid : BitVec 16) : Bool := s.seq.groups.any fun g => g.gid == gid && g.susp.isSome

/-- SUSPEND: the window commits, the request goes to the sequencer, and the context stands at PC + 8 for the capture (R206, R207). The request carries D: where another suspension of the group is under way when the sequencer serves it, SBUSY takes the place of the 0. -/
def State.suspend (d a b cr : Reg) (s : State) : Except Trap State :=
  let c := s.core
  match c.checkSuspend a b cr with
  | .error t => .error t
  | .ok () =>
    let st : Word := if s.suspending c.gid then (Cause.code .sbusy).setWidth 64 else 0
    let req : SeqReq := ⟨.suspend, s.cur, c.gid, 0, c.regs.rdS a, c.regs.rdS b, c.regs.rdS cr, [d.setWidth 64], c.prv, ⟨c.run, c.prv, c.regs.pc, c.fetchWord⟩, false, false, none⟩
    let c := (c.modRegs fun r => r.wrS d st false).park .none false
    let s := s.setCore { c with stopping := true }
    .ok { s with seqIn := s.seqIn ++ [req] }

/-- SUSPEND (R206). -/
def execSuspend (p : Pred) (d a b c : Reg) (s : State) : Out := issueS p (State.suspend d a b c) s

/-! ### Traps (R211, R212) -/

/-- TRAP (R212). -/
def execTrap (p : Pred) (code : BitVec 10) (s : State) : Out := issue p (fun _ => .error ⟨.swtrap, code.setWidth 64⟩) s

/-- BKPT (R212). -/
def execBkpt (p : Pred) (code : BitVec 10) (s : State) : Out := issue p (fun _ => .error ⟨.bkpt, code.setWidth 64⟩) s

/-- PC of the context's trap record (R324). -/
def Core.recordPc (c : Core) : Nat := ((c.ctx.trapRec.toList.getD 0 0).extractLsb' 0 20).toNat

/-- TRET to a target (R212): NOHND comes before every other trap. -/
def Core.tret (c : Core) (srcs : List Reg) (t : Int) : Except Trap Core :=
  if !c.regs.handler then .error (trap0 .nohnd)
  else
    match psnUse c.regs srcs with
    | .error x => .error x
    | .ok () => c.trapReturn t

/-- TRET with m = 0 (R212). -/
def execTretReissue (p : Pred) (s : State) : Out := issue p (fun c => c.tret [] c.recordPc) s

/-- TRET with m = 1 (R212). -/
def execTretNext (p : Pred) (s : State) : Out := issue p (fun c => c.tret [] (c.recordPc + 8 : Nat)) s

/-- TRET with m = 2 (R212). -/
def execTretTarget (p : Pred) (a : Reg) (s : State) : Out := issue p (fun c => c.tret [a] (c.regs.rdS a).toNat) s

/-! ### Islands (R214, R215) -/

/-- ISREL (R214). -/
def execIsrel (p : Pred) (s : State) : Out := issueS p (fun s => .ok ((s.islandRelease s.cur).adv)) s

/-- The bound island of a core. -/
def State.islandOf (s : State) (k : Nat) : Option Island := s.seq.islands.find? fun i => i.members.contains k

/-- Named hops between two cores (R215). -/
def hops (j k : Nat) : Nat :=
  let dist (a b : Nat) : Nat := (a - b) + (b - a)
  dist (j / 256 % 256) (k / 256 % 256) + dist (j % 256) (k % 256) + (if j / 65536 = k / 65536 then 0 else 1)

/-- A timed message tries to start on its next link in island cycle n: its three flits hold the link for three cycles (R286, R287). -/
def Landing.hop (x : Landing) (n : Nat) (busy : List (Nat × Nat × Nat)) : Landing × List (Nat × Nat × Nat) :=
  match x.path with
  | (r, p, cost) :: rest =>
    if x.ready ≤ n ∧ busy.all (fun b => b.1 != r || b.2.1 != p || decide (b.2.2 ≤ n)) then
      ({ x with path := rest, ready := n + cost, on := some (r, p) }, (r, p, n + 3) :: busy.filter fun b => decide (n < b.2.2))
    else (x, busy)
  | [] => (x, busy)

/-- Replace a bound island. -/
def State.setIsland (s : State) (i : Island) : State :=
  { s with seq := { s.seq with islands := s.seq.islands.map fun j => if j.gid == i.gid && j.iid == i.iid then i else j } }

/-- ISEND: a value that lands at the receiver at a fixed schedule value (R215). It enters the timed lane toward the receiver (R286): the link into its router, the links of the timed route list, and the link into the receiver (port numbers 6 and 5). -/
def State.isend (a b : Reg) (mk : VVal → Landing) (s : State) : Except Trap State :=
  let c := s.core
  if !c.islBnd then .error (trap0 .isnb)
  else
    match psnUse c.regs [a] with
    | .error t => .error t
    | .ok () =>
      match c.relOperand (c.regs.rdS a) with
      | .error t => .error t
      | .ok r =>
        let k := keyOfAddr (wordAddr r.2)
        match s.islandOf s.cur with
        | none => .error ⟨.badrel, c.regs.rdS a⟩
        | some i =>
          if !i.members.contains k then .error ⟨.badrel, c.regs.rdS a⟩
          else
            let x := c.regs.rdVV b
            let land := { mk x with
              val := c.scnt + 4 + BitVec.ofNat 48 (c.islPad.toNat * hops s.cur k)
              src := c.relpos.extractLsb' 0 32
              path := (s.cur, 6, 1) :: (NMap.get? c.routes k).getD [] ++ [(k, 5, 1)]
              ready := i.now }
            let h := land.hop i.now i.busy
            let s := s.setCore ((r.1.modRegs fun g => (g.flag (psnFlag x.poisoned)).adv).commit)
            let t := s.coreAt k
            .ok ((s.setCoreAt k { t with landing := t.landing ++ [h.1] }).setIsland { i with busy := h.2 })

/-- ISEND to a latch column (R215). -/
def execIsendLatch (p : Pred) (a b : Reg) (bl : BitVec 1) (j : BitVec 5) (ty : Ty) (s : State) : Out :=
  issueS p (State.isend a b fun x => ⟨0, 0, bl.setWidth 2, j, 0, ty, x.data, x.side, [], 0, none, false⟩) s

/-- ISEND to a twin-window register (R215). -/
def execIsendTwin (p : Pred) (a b : Reg) (tw : BitVec 3) (s : State) : Out :=
  issueS p (State.isend a b fun x => ⟨0, 0, 2, 0, tw, .none, x.data, x.side, [], 0, none, false⟩) s

/-- ISSYNC (R215): it waits until the schedule counter reaches s[A][47:0]. -/
def execIssync (p : Pred) (a : Reg) (s : State) : Out :=
  issue p (fun c =>
    let t := (c.regs.rdS a).extractLsb' 0 48
    if !c.islBnd then .error (trap0 .isnb)
    else
      match psnUse c.regs [a] with
      | .error x => .error x
      | .ok () =>
        if t < c.scnt then .error (trap0 .islate)
        else if c.scnt = t then .ok c.adv
        else .ok { c with sync := some t }) s

/-- The schedule counter of core k has reached the value that its ISSYNC waits for: the ISSYNC issues, unless the watchdog has expired (R213, R215), and the next instruction a cycle later (R416). -/
def execScheduleValueReached (k : Nat) (s : State) : Out :=
  let c := s.coreAt k
  if c.sync = some c.scnt ∧ c.ctx.st = .running ∧ c.ctx.wd < c.ctx.wdLimit then
    .next (s.setCoreAt k { c.adv with sync := none, issueAt := max c.issueAt (s.cycle + 1) })
  else .refused (.notEnabled "SCHEDULE_VALUE_REACHED")

/-- A timed message of core k lands: a latch column as BLMV writes it, or a twin-window register as TWW does, with no TWC (R215, R286). -/
def State.land (s : State) (k : Nat) (x : Landing) : State :=
  let v : VVal := ⟨x.data, x.side⟩
  if x.target = 2#2 then
    let q := s.quernAt (quernOf k)
    let w := v.twData
    s.setQuernAt (quernOf k) { q with tw := q.tw.set x.tw.toNat w.1 x.tw.isLt, twp := setBit q.twp x.tw.toNat w.2 }
  else
    let c := s.coreAt k
    let b := x.target.extractLsb' 0 1
    s.setCoreAt k (c.putLatch b ((c.latchAt b).putColumn x.ty x.col.toNat v))

/-- A core is captured where it stands (R291): a context that runs becomes READY at its next instruction. The faulty core of an ISFLT goes back to its last commit point; every other commits. -/
def Core.freeze (c : Core) (faulty : Bool) : Core :=
  let runs := c.ctxs.toList.any fun x => x.st == .running
  let c := if faulty then (if runs then c.rollback.freeRetained else c) else if runs then c.commit else c.drainMma
  let c := if runs then c.setCtx { c.ctx with st := .ready, wait := .none, since := c.cycle.toNat } else c
  { c with stopping := true, captured := true, sync := none, frozen := if runs then some c.run else none }

/-- A report of the launch sequencer about a group (R290). -/
def State.groupReport (s : State) (cause : Cause) (gid : BitVec 16) : State :=
  { s with
    posts := s.posts ++ [⟨gid, mkRecord cause.code 2 0 0 false false 0 0 0 0 gid 0 0 (BitVec.ofNat 64 s.cycle) s.seq.seq, 0, 0, 0⟩]
    seq := { s.seq with seq := s.seq.seq + 1 } }

/-- A core of a bound island in one cycle of its clock: CYCLE, the schedule counter, and the watchdog of a running context. -/
def Core.clock (c : Core) (member : Bool) : Core :=
  let c := { c with cycle := c.cycle + 1, scnt := if member then c.scnt + 1 else c.scnt }
  if c.ctx.st == .running && !c.captured then c.setCtx { c.ctx with wd := c.ctx.wd + 1 } else c

/-- The clock of a field runs in a cycle (R314). -/
def Field.runs (x : Field) (cycle : Nat) : Bool := decide (x.gate ≤ cycle % 16)

/-- The clock of a core runs in this cycle: an island follows its most throttled member field, stops while a droop of a member lasts (R288), and once it has halted (R290). -/
def State.clockRuns (s : State) (k : Nat) : Bool :=
  match s.seq.islands.find? fun i => i.members.contains k with
  | some i => !i.halted && i.members.all fun j => (s.fieldAt (fieldOf j)).runs s.cycle && !((s.coreAt j).droop.any fun n => decide (n < s.cycle))
  | none => (s.fieldAt (fieldOf k)).runs s.cycle

/-- The stages of a cycle, in which what happens takes effect in order (R9, R157, R166, R215, R315): the outside world's writes, then the instructions of the cores in named order, then timed landings, then every device. -/
def landStage : Nat := 262144

/-- Devices come last in a cycle. -/
def deviceStage : Nat := 262145

/-- An island halts at the start of a cycle of its clock (R290, R291): every member is captured, and the sequencer will suspend the group on its own behalf. Where the instructions of this cycle have had their turn, it is the start of the next one, and its schedule value stands when the gate has stopped the clock. A marker or a retirement halts with no cause. After ISFLT nothing that was to land is kept, and the island is not bound again. -/
def State.haltIsland (s : State) (i : Island) (cause : Option Cause) (faulty : Option Nat) : State :=
  let lost := cause == some .isflt
  let late := decide (landStage < s.stage)
  let runs := s.clockRuns
  let s := i.members.foldl (fun s k =>
    let c := s.coreAt k
    let c := (if late && runs k then c.clock true else c).freeze (faulty == some k)
    let left := c.issueAt - (if late then s.cycle + 1 else s.cycle)
    s.setCoreAt k { c with readyAt := c.scnt + BitVec.ofNat 48 left, landing := if lost then [] else c.landing.map fun x => { x with path := [], on := none, arrived := true } }) s
  let s := s.setIsland { i with halted := true, unbound := i.unbound || lost, busy := [] }
  let s := { s with seq := { s.seq with groups := s.seq.groups.map fun g =>
    if g.gid = i.gid then { g with halted := true, wantSusp := if g.susp.isSome then g.wantSusp else some (g.wantSusp.getD .halt) } else g } }
  match cause with
  | some c => s.groupReport c i.gid
  | none => s

/-- The timed lane in the island cycle that begins: in the order of their senders, messages start on links that are free, and one whose last flit has come takes a place in a landing buffer of 16 (R286, R287, log 31). -/
def State.laneStep (s : State) (i : Island) : State :=
  let n := i.now + 1
  let all := i.members.flatMap fun k => (List.range (s.coreAt k).landing.length).map fun m => (k, m)
  let src (e : Nat × Nat) : Nat := (((s.coreAt e.1).landing[e.2]?).map fun x => x.src.toNat).getD 0
  let one (a : State × List (Nat × Nat × Nat)) (e : Nat × Nat) : State × List (Nat × Nat × Nat) :=
    let c := a.1.coreAt e.1
    match c.landing[e.2]? with
    | none => a
    | some x =>
      let h := x.hop n a.2
      let here := c.landing.filter Landing.arrived
      let x := if h.1.path.isEmpty && decide (h.1.ready + 2 ≤ n) && decide (here.length < 16) then { h.1 with arrived := true } else h.1
      (a.1.setCoreAt e.1 { c with landing := c.landing.set e.2 x }, h.2)
  let r := (all.mergeSort fun a b => decide (src a ≤ src b)).foldl one (s, i.busy)
  r.1.setIsland { i with now := n, busy := r.2 }

/-- A timed message of the island has reached its landing value and not its buffer (R290). -/
def State.lateIn (s : State) (i : Island) : Bool :=
  i.members.any fun k => let c := s.coreAt k; c.landing.any fun x => x.val == c.scnt && !x.arrived

/-- The island cycle that begins: the timed lane moves, and a late message halts the island before anything is done in it (R286, R290). -/
def State.islandCycle (s : State) (gid iid : BitVec 16) : State :=
  match s.seq.islands.find? fun i => i.gid == gid && i.iid == iid with
  | none => s
  | some i =>
    let s := s.laneStep i
    match s.seq.islands.find? fun i => i.gid == gid && i.iid == iid with
    | some j => if s.lateIn j then s.haltIsland j (some .padx) none else s
    | none => s

/-- A delivery of core k to a twin-window register goes first: the twin has one for this cycle from a lower relative address (R287). -/
def State.twinFirst (s : State) (k : Nat) (x : Landing) : Bool :=
  let c := s.coreAt (twinOf k)
  x.target == 2#2 && !c.captured && c.landing.any fun y => y.target == 2#2 && y.arrived && y.val == c.scnt && decide (y.src < x.src)

/-- The landing of entry n of core k (R286, R287): at its value, the lower relative address first, for the twin window over both cores of the quern. A message that is late halts the island (R290). -/
def execTimedLanding (k n : Nat) (s : State) : Out :=
  let c := s.coreAt k
  match c.landing[n]? with
  | some x =>
    if !x.arrived && x.val == c.scnt && !c.captured then
      match s.islandOf k with
      | some i => .next (s.haltIsland i (some .padx) none)
      | none => .next (s.setCoreAt k { c with landing := c.landing.eraseIdx n })
    else if c.captured then .refused (.notEnabled "TIMED_LANDING")
    else if x.arrived && x.val == c.scnt && !(c.landing.any fun y => y.val == c.scnt && decide (y.src < x.src)) && !s.twinFirst k x then
      .next ((s.setCoreAt k { c with landing := c.landing.eraseIdx n }).land k x)
    else .refused (.notEnabled "TIMED_LANDING")
  | none => .refused (.notEnabled "TIMED_LANDING")

/-! ### Poison inspection and clearing (R217, R218) -/

/-- Half of an origin record. -/
def orgHalf (o : Org) (h : BitVec 1) : Word := if h = 0#1 then o.extractLsb' 0 64 else o.extractLsb' 64 64

/-- A scalar result that is never poisoned and sets no flag. -/
def Core.into (c : Core) (d : Reg) (x : Word) : Core := c.modRegs fun r => (r.wrS d x false).adv

/-- PSNQ of a scalar (R217). -/
def execPsnqScalar (p : Pred) (d a : Reg) (s : State) : Out :=
  issue p (fun c => .ok (c.into d ((bit1 (c.regs.psn a)).setWidth 64))) s

/-- What PSNQ reports of block k of a vector register (R123, R217). -/
def VVal.blockOrg (x : VVal) (k : Nat) : Org :=
  if x.whole then (orgWinner x.wholeOrgs).getD 0
  else if x.bad k then x.orgAt (fmtBits (hdrFmt (sideHdr x.side k)) * k)
  else 0

/-- PSNQ of a vector register (R217). -/
def execPsnqVector (p : Pred) (d a : Reg) (half : BitVec 1) (k : BitVec 2) (s : State) : Out :=
  issue p (fun c => .ok (c.into d (orgHalf ((c.regs.rdVV a).blockOrg k.toNat) half))) s

/-- PSNQ of an accumulator (R217). -/
def execPsnqAcc (p : Pred) (d : Reg) (a : BitVec 2) (half : BitVec 1) (s : State) : Out :=
  issueA p [a] (fun c =>
    let o := (c.accAt a).org
    .ok (c.into d (if orgCause o = 0 then 0 else orgHalf o half))) s

/-- PSNQ of a twin-window register (R217). -/
def execPsnqTwin (p : Pred) (d : Reg) (a : BitVec 3) (half : BitVec 1) (s : State) : Out :=
  issueS p (fun s =>
    let x := s.twRead a
    .ok (s.setCore (s.core.into d (if x.2 then orgHalf (x.1.extractLsb' 0 128) half else 0)))) s

/-- PSNCLS (R218). -/
def execPsncls (p : Pred) (d : Reg) (s : State) : Out :=
  issue p (fun c => .ok (c.modRegs fun r => (r.wrS d (r.rdS d) false).adv)) s

/-- A vector register with its poison removed (R218). -/
def VVal.cleared (x : VVal) : VVal :=
  hdrSlots.foldl (fun (y : VVal) k =>
    if x.bad k then
      let n := fmtBits (hdrFmt (sideHdr x.side k))
      ⟨if n = 0 then 0 else setBits y.data (n * k) n 0, setHdr y.side k 0⟩
    else y) x

/-- PSNCLV (R218). -/
def execPsnclv (p : Pred) (d : Reg) (s : State) : Out :=
  issue p (fun c => .ok (c.modRegs fun r => (r.wrVV d (r.rdVV d).cleared).adv)) s

/-- PSNCLA (R218, R219). -/
def execPsncla (p : Pred) (d : BitVec 2) (s : State) : Out :=
  issueA p [d] (fun c =>
    if !c.prv then .error (trap0 .priv)
    else
      let a := c.accAt d
      .ok ((c.putAcc d { a with org := 0, ptl := false, flags := a.flags &&& ~~~fPSN }).adv.commit)) s

end Sys2Proof.Machine
end

