-- ==== Sys2Proof/Machine/Fabric.lean ====
section
/-! DEFINITION. Named and physical positions (R248 to R251), generation advances (R252, R255), repair (R257, R258), rotation (R259) and link retries (R334). -/
namespace Sys2Proof.Machine

/-! ### Repair tables (R248, R249, R251) -/

/-- A row of a repair table. -/
def Field.row (f : Field) (pr : Nat) : RepRow := (NMap.get? f.rows pr).getD ⟨32, false, false⟩

/-- Replace a row. -/
def Field.setRow (f : Field) (pr : Nat) (r : RepRow) : Field := { f with rows := NMap.set f.rows pr r }

/-- The physical row and column of a named position within its field (R249). -/
def Field.phys (f : Field) (ny nx : Nat) : Nat × Nat :=
  let pr := if f.rskip.toNat ≤ ny then ny + 1 else ny
  (pr, if (f.row pr).cskip.toNat ≤ nx then nx + 1 else nx)

/-- The physical position of a core by its name (R249). -/
def State.physOf (s : State) (k : Nat) : Nat × Nat := (s.fieldAt (fieldOf k)).phys (k / 256 % 256 % 32) (k % 256 % 32)

/-- The distance of two numbers. -/
def distNat (a b : Nat) : Nat := (a - b) + (b - a)

/-- The cycles of a named hop from router k to its neighbour j (R242, R251). -/
def State.hopCost (s : State) (k j : Nat) : Nat :=
  if k / 65536 ≠ j / 65536 then 1
  else
    let p := s.physOf k
    let q := s.physOf j
    if fieldOf k = fieldOf j then 2 * (distNat p.1 q.1 + distNat p.2 q.2)
    else
      let lo := if k < j then p else q
      let hi := if k < j then q else p
      if k / 256 = j / 256 then 2 * ((32 - lo.2) + hi.2 + distNat p.1 q.1) + 4
      else 2 * ((32 - lo.1) + hi.1 + distNat p.2 q.2) + 4

/-- The cycles of the hops of the route of R246. -/
def State.routeCost (s : State) (k dst : Nat) : Nat :=
  let rs := routeTo k dst
  ((rs.zip (rs.drop 1)).map fun h => s.hopCost h.1 h.2).sum

/-- A column of a physical row is healthy. -/
def Field.healthy (f : Field) (pr pc : Nat) : Bool := !f.faulty.contains (33 * pr + pc)

/-- The faulty columns of a physical row. -/
def Field.faultsIn (f : Field) (pr : Nat) : List Nat := (List.range 33).filter fun pc => !f.healthy pr pc

/-! ### Pages -/

/-- A page's record. -/
def State.pageAt (s : State) (p : Nat) : Page := (NMap.get? s.seq.pages p).getD ⟨none, false, false, 0, none⟩

/-- Replace a page's record. -/
def State.setPage (s : State) (p : Nat) (x : Page) : State := { s with seq := { s.seq with pages := NMap.set s.seq.pages p x } }

/-- The field of a page. -/
def fieldOfPage (p : Nat) : Nat := p / 32 / 4 * 8 + p % 32 / 4

/-- The 16 pages of a field. -/
def fieldPages (f : Nat) : List Nat := (List.range 1024).filter fun p => fieldOfPage p == f

/-- The 128 cores of a page: bedstone, then runner, row by row. -/
def pageCores (p : Nat) : List Nat :=
  (List.range 128).map fun i => keyOf (i / 64) (p / 32 * 8 + i % 64 / 8) (p % 32 * 8 + i % 8)

/-- The pages of a field whose positions an operator of R257 moves. -/
def movedPages (f : Nat) (old new : Field) (move : Nat → Nat → Bool) : List Nat :=
  (fieldPages f).filter fun p => (List.range 64).any fun i =>
    let ny := (p / 32 * 8 + i / 8) % 32
    let nx := (p % 32 * 8 + i % 8) % 32
    move ny nx && old.phys ny nx != new.phys ny nx

/-! ### Generation advances (R255) -/

/-- The routers of the module. -/
def routers : List Nat := List.range 131072

/-- The input ports of a router, with the router on the other side; port 5 is its own core. -/
def inputPorts (r : Nat) : List (Nat × Nat) :=
  let x := r % 256
  let y := r / 256 % 256
  (if 0 < y then [(0, r - 256)] else []) ++ (if x < 255 then [(1, r + 1)] else []) ++ (if y < 255 then [(2, r + 256)] else [])
    ++ (if 0 < x then [(3, r - 1)] else []) ++ [(4, twinOf r), (5, r)]

/-- The classes that drain markers travel on. -/
def drainClasses : List (BitVec 2) := [0, 1, 2]

/-- 10 ms in cycles (R255). -/
def advanceSpacing : Nat := 33000000

/-- The pages of an advance may advance again. -/
def State.spaced (s : State) (a : Advance) : Bool :=
  a.pages.all fun p => match (s.pageAt p).lastAdv with
    | some n => decide (n + advanceSpacing ≤ s.cycle)
    | none => true

/-- No bound island has a member on the pages of an advance (R290), and no other advance in progress touches them. -/
def State.advanceClear (s : State) (a : Advance) : Bool :=
  (s.seq.islands.all fun i => i.members.all fun k => !a.pages.contains (pageOf k))
    && s.advances.all fun b => b.id == a.id || !b.begun || b.pages.all fun p => !a.pages.contains p

/-- Begin step 1 of an advance. -/
def State.beginAdvance (s : State) (id : Nat) : State :=
  match s.advances.find? fun a => a.id == id with
  | none => s
  | some a =>
    let s := State.abortOn { s with advances := s.advances.map fun b => if b.id = id then { b with begun := true } else b } a.pages
    a.pages.foldl (fun s p => s.setPage p { s.pageAt p with lastAdv := some s.cycle }) s

/-- An advance that is about to begin halts the islands that it touches and have not halted (R290). -/
def State.haltFor (s : State) (a : Advance) : State :=
  if s.spaced a then
    (s.seq.islands.filter fun i => i.members.any (fun k => a.pages.contains (pageOf k)) && !(s.coreAt (i.members.headD 0)).captured).foldl
      (fun s i => s.haltIsland i (some .isrep) none) s
  else s

/-- Ask for an advance of some pages; it begins at once when nothing holds it. -/
def State.askAdvance (s : State) (pages : List Nat) (table : Option (Nat × Field)) (retire : Bool) : State :=
  let id := (s.advances.map Advance.id).foldl max 0 + 1
  let a : Advance := ⟨id, pages, table, [], [], false, [], retire, false⟩
  let s := { s with advances := s.advances ++ [a] }
  if s.spaced a && s.advanceClear a then s.beginAdvance id else s.haltFor a

/-- Change an advance. -/
def State.modAdvance (s : State) (id : Nat) (f : Advance → Advance) : State :=
  { s with advances := s.advances.map fun a => if a.id = id then f a else a }

/-- GENERATION_CLOSE: router r receives ADV of advance a (R255). -/
def execGenerationClose (a r : Nat) (s : State) : Out :=
  match s.advances.find? fun x => x.id == a && x.begun with
  | some x =>
    if x.closed.contains r || decide (131072 ≤ r) then .refused (.notEnabled "GENERATION_CLOSE")
    else .next (s.modAdvance a fun x => { x with closed := nsInsert r x.closed })
  | none => .refused (.notEnabled "GENERATION_CLOSE")

/-- DRAIN_MARKER: router r receives a marker of a class on an input port whose sender has received ADV (R255). -/
def execDrainMarker (a r : Nat) (port : BitVec 3) (cls : BitVec 2) (s : State) : Out :=
  match s.advances.find? fun x => x.id == a && x.begun with
  | some x =>
    let from' := (inputPorts r).find? fun q => q.1 == port.toNat
    if (from'.any fun q => x.closed.contains q.2) && drainClasses.contains cls && !x.markers.contains (r, port, cls) && decide (r < 131072) then
      .next (s.modAdvance a fun x => { x with markers := x.markers ++ [(r, port, cls)] })
    else .refused (.notEnabled "DRAIN_MARKER")
  | none => .refused (.notEnabled "DRAIN_MARKER")

/-- A router has received ADV and every marker. -/
def Advance.drainedAt (a : Advance) (r : Nat) : Bool :=
  a.closed.contains r && (inputPorts r).all fun q => drainClasses.all fun c => a.markers.contains (r, BitVec.ofNat 3 q.1, c)

/-- No data message addressed to a page of the advance is left in a router. -/
def State.noneLeft (s : State) (a : Advance) : Bool :=
  s.flight.all fun m => m.cls == 2#2 || m.dmod != s.modId || m.kind == 7#6 || !a.pages.contains (pageOf (keyOfAddr m.dst))

/-- Write the new generation into the names of the cores of a page (R28, R255). -/
def State.renamePage (s : State) (p : Nat) (g : BitVec 8) : State :=
  (pageCores p).foldl (fun s k =>
    let c := s.coreAt k
    s.setCoreAt k { c with name := c.name.extractLsb' 32 32 ++ (g ++ c.name.extractLsb' 0 24) }) s

/-- Write the new generation into the page-map entries of a page in every member core of the group that owns it (R39, R255). -/
def State.remapPage (s : State) (p : Nat) (g : BitVec 8) : State :=
  match s.owner? p with
  | none => s
  | some x =>
    let pg := x.pages.idxOf p
    (x.pages.flatMap pageCores).foldl (fun s k => s.setCoreAt k ((s.coreAt k).wrBytes (0xFC000 + 4 * pg + 3) [g])) s

/-- The uncorrectable errors counted at a core stay with the physical core: a name that moves finds those of its new one (R340). -/
def State.moveErrors (s old : State) (f : Nat) : State :=
  let ks := (fieldPages f).flatMap pageCores
  ks.foldl (fun s k =>
    let p := s.physOf k
    let hs := ((ks.find? fun j => j / 65536 == k / 65536 && old.physOf j == p).map fun j => (old.coreAt j).ueHours).getD []
    if hs = (s.coreAt k).ueHours then s else s.setCoreAt k { s.coreAt k with ueHours := hs }) s

/-- The new repair table of an advance is written (R255, step 3). -/
def State.putTable (s : State) (x : Advance) : State :=
  match x.table with
  | some (f, t) => (s.setFieldAt f { s.fieldAt f with rows := t.rows, rskip := t.rskip, nflt := t.nflt, rot := t.rot }).moveErrors s f
  | none => s

/-- ALL_DRAINED of advance a: tables, names and page maps are written (R255, step 3). -/
def execAllDrained (a : Nat) (s : State) : Out :=
  match s.advances.find? fun x => x.id == a && x.begun && !x.drained with
  | some x =>
    if routers.all x.drainedAt && s.noneLeft x then
      let s := s.putTable x
      let s := x.pages.foldl (fun s p =>
        let g := (x.entry (s.genBase p) false).gen
        (s.renamePage p g).remapPage p g) s
      .next (s.modAdvance a fun x => { x with drained := true })
    else .refused (.notEnabled "ALL_DRAINED")
  | none => .refused (.notEnabled "ALL_DRAINED")

/-! ### Repair (R257, R258) -/

/-- A physical row returns to service (R257, R259). -/
def Field.restoreRow (f : Field) (pr : Nat) : Field :=
  match f.faultsIn pr with
  | pc :: _ => f.setRow pr ⟨BitVec.ofNat 6 pc, true, false⟩
  | [] => f.setRow pr ⟨BitVec.ofNat 6 (((List.range 33).find? fun pc => f.healthy pr pc).getD 32), false, false⟩

/-- A faulty physical quern is marked (R257). -/
def Field.markFaulty (f : Field) (pr pc : Nat) : Field :=
  let x := nsInsert (33 * pr + pc) f.faulty
  { f with faulty := x, nflt := BitVec.ofNat 7 (min 65 x.length) }

/-- The repair of a faulty quern at (pr, pc) of field f: the new table and the pages that move, or none when pages must be retired (R257). -/
def Field.repair (f : Field) (n pr pc : Nat) : Option (Field × List Nat) :=
  let g := f.markFaulty pr pc
  if pr = f.rskip.toNat then
    some (g.setRow pr { g.row pr with mult := decide (2 ≤ (g.faultsIn pr).length) }, [])
  else if pc = (f.row pr).cskip.toNat then some (g.setRow pr { g.row pr with flt := true }, [])
  else if !(f.row pr).flt then
    let h := g.setRow pr ⟨BitVec.ofNat 6 pc, true, false⟩
    some (h, movedPages n f h fun ny _ => (f.phys ny 0).1 == pr)
  else if (f.faultsIn f.rskip.toNat).length ≤ 1 then
    let h := g.restoreRow f.rskip.toNat
    let h := ({ h with rskip := BitVec.ofNat 6 pr }).setRow pr { h.row pr with mult := true }
    some (h, movedPages n f h fun ny nx => (f.phys ny nx).1 != (h.phys ny nx).1)
  else none

/-- An advance of the field's pages is in progress, so its repair table is about to change. -/
def State.fieldBusy (s : State) (f : Nat) : Bool := s.advances.any fun a => a.pages.any fun p => fieldOfPage p == f

/-- The field agent of field n repairs the physical position (pr, pc), or retires the pages that hold positions on faulty querns (R257, R258); it does so once no earlier change of its table is under way. -/
def State.repairPos (s : State) (n pr pc : Nat) : State :=
  let f := s.fieldAt n
  let g := f.markFaulty pr pc
  if s.fieldBusy n then s.setFieldAt n { f with repairs := f.repairs ++ [(pr, pc)] }
  else
    match f.repair n pr pc with
    | some (h, pages) =>
      match pages.filter fun p => !(s.pageAt p).retired with
      | [] => s.setFieldAt n { h with due := f.due }
      | pages => (s.setFieldAt n { f with faulty := g.faulty }).askAdvance pages (some (n, { h with due := f.due, rotAt := f.rotAt })) false
    | none =>
      let pages := (fieldPages n).filter fun q => !(s.pageAt q).retired && (List.range 64).any fun i =>
        let y := (q / 32 * 8 + i / 8) % 32
        let x := (q % 32 * 8 + i % 8) % 32
        !g.healthy (f.phys y x).1 (f.phys y x).2
      let s := s.setFieldAt n { f with faulty := g.faulty, nflt := g.nflt }
      (pages.foldl (fun s q => s.setPage q { s.pageAt q with retired := true }) s).askAdvance pages none true

/-- The field agent repairs the position of core k. -/
def State.repairAt (s : State) (k : Nat) : State := s.repairPos (fieldOf k) (s.physOf k).1 (s.physOf k).2

/-- The repairs of a field that have waited for its table. -/
def State.nextRepairs (s : State) (n : Nat) : State :=
  let f := s.fieldAt n
  f.repairs.foldl (fun s p => s.repairPos n p.1 p.2) (s.setFieldAt n { f with repairs := [] })

/-! ### The end of an advance (R255) -/

/-- An advance has ended: its entries are the module's, and a rotated field's pages return to the allocator (R255, R259); repairs that waited for the table are made (R257). -/
def State.endAdvance (s : State) (x : Advance) : State :=
  let s := x.pages.foldl (fun s p => { s with gens := NMap.set s.gens p (x.entry (s.genBase p) true) }) s
  let s := match x.table with
    | some (f, t) => s.setFieldAt f { s.fieldAt f with due := t.due, rotAt := t.rotAt }
    | none => s
  let s := { s with advances := s.advances.filter fun y => y.id != x.id, boot := { s.boot with advances := satInc s.boot.advances } }
  (x.pages.map fieldOfPage).eraseDups.foldl State.nextRepairs s

/-- GENERATION_OPEN: router r receives OPN (R255, step 4). -/
def execGenerationOpen (a r : Nat) (s : State) : Out :=
  match s.advances.find? fun x => x.id == a && x.drained with
  | some x =>
    if x.opened.contains r || decide (131072 ≤ r) then .refused (.notEnabled "GENERATION_OPEN")
    else
      let x := { x with opened := nsInsert r x.opened }
      if x.opened.length = 131072 then .next (s.endAdvance x) else .next (s.modAdvance a fun _ => x)
  | none => .refused (.notEnabled "GENERATION_OPEN")

/-! ### Rotation (R259) -/

/-- Cycles of an hour. -/
def hourCycles : Nat := 11880000000000

/-- Operating hours of a field. -/
def Field.hoursNow (f : Field) : Nat := f.hours + f.ran / hourCycles

/-- ROTATION_DUE of field f (R259). -/
def execRotationDue (f : Nat) (s : State) : Out :=
  let x := s.fieldAt f
  if f < 64 ∧ !x.due ∧ x.rotAt ≤ x.hoursNow then .next (s.setFieldAt f { x with due := true }) else .refused (.notEnabled "ROTATION_DUE")

/-- The next column after `c`, modulo 33, that is healthy in a row. -/
def Field.nextHealthy (f : Field) (pr c : Nat) : Nat :=
  (((List.range 33).map fun i => (c + 1 + i) % 33).find? fun j => f.healthy pr j).getD c

/-- Rotate(t) (R259). -/
def Field.rotated (f : Field) (k : Nat) : Field :=
  let g := (List.range 33).foldl (fun (g : Field) pr =>
    if pr = f.rskip.toNat ∨ (f.row pr).flt then g
    else g.setRow pr { f.row pr with cskip := BitVec.ofNat 6 (f.nextHealthy pr (f.row pr).cskip.toNat) }) f
  let g :=
    if (List.range 33).any fun pr => (g.row pr).mult then g
    else
      match ((List.range 33).map fun i => (f.rskip.toNat + 1 + i) % 33).find? fun pr => decide ((f.faultsIn pr).length ≤ 1) with
      | some nr => { g.restoreRow f.rskip.toNat with rskip := BitVec.ofNat 6 nr }
      | none => g
  let m := (f.hoursNow - 15 * k) / 1000 + 1
  { g with rot := f.rot + 1, due := false, rotAt := 1000 * m + 15 * k }

/-- ROTATE of field f, once its 16 pages are free (R259). -/
def execRotate (f : Nat) (s : State) : Out :=
  let x := s.fieldAt f
  let free (p : Nat) : Bool := (s.owner? p).isNone && !(s.pageAt p).scrubbing
  let busy := s.advances.any fun a => a.pages.any fun p => fieldOfPage p == f
  if x.due && (fieldPages f).all free && !busy then
    let pages := (fieldPages f).filter fun p => !(s.pageAt p).retired
    let s := { s with boot := { s.boot with rotations := satInc s.boot.rotations } }
    .next (s.askAdvance pages (some (f, x.rotated f)) false)
  else .refused (.notEnabled "ROTATE")

/-- ADVANCE_SPACING_ELAPSED of a page: an advance that it held begins (R255). -/
def execAdvanceSpacingElapsed (page : Nat) (s : State) : Out :=
  match s.advances.find? fun a => !a.begun && a.pages.contains page with
  | some a =>
    if s.spaced a && s.advanceClear a then .next (s.beginAdvance a.id)
    else if s.spaced a && (s.seq.islands.any fun i => i.members.any (fun k => a.pages.contains (pageOf k)) && !(s.coreAt (i.members.headD 0)).captured) then
      .next (s.haltFor a)
    else .refused (.notEnabled "ADVANCE_SPACING_ELAPSED")
  | none => .refused (.notEnabled "ADVANCE_SPACING_ELAPSED")

end Sys2Proof.Machine
end

