-- ==== Sys2Proof/Machine/Shake.lean ====
section
/-! DEFINITION. SHAKE256 (FIPS 202), the digest of containers and sprigs (R267, R343). -/
namespace Sys2Proof

/-- The 25 lanes, lane (x, y) at 5 * y + x. -/
abbrev Lanes := Vector (BitVec 64) 25

/-- Lane at an index. -/
def laneAt (a : Lanes) (i : Nat) : BitVec 64 := a.toList.getD i 0

/-- Rotation offsets by lane index. -/
def rhoOffsets : List Nat := [0, 1, 62, 28, 27, 36, 44, 6, 55, 20, 3, 10, 43, 25, 39, 41, 45, 15, 21, 8, 18, 2, 61, 56, 14]

/-- One step of the round-constant register. -/
def rcStep (r : Nat) : Nat := if 128 ≤ r then ((2 * r) % 256) ^^^ 0x71 else 2 * r

/-- The register after `t` steps from 1. -/
def rcReg : Nat → Nat
  | 0 => 1
  | t + 1 => rcStep (rcReg t)

/-- The constant of a round. -/
def roundConst (ir : Nat) : BitVec 64 :=
  (List.range 7).foldl (fun (w : BitVec 64) j => if rcReg (j + 7 * ir) % 2 = 1 then w ||| BitVec.twoPow 64 (2 ^ j - 1) else w) 0

/-- One round of Keccak-f[1600]. -/
def keccakRound (a : Lanes) (ir : Nat) : Lanes :=
  let l := a.toList
  let g (i : Nat) : BitVec 64 := l.getD i 0
  let c := (List.range 5).map fun x => g x ^^^ g (x + 5) ^^^ g (x + 10) ^^^ g (x + 15) ^^^ g (x + 20)
  let d (x : Nat) : BitVec 64 := c.getD ((x + 4) % 5) 0 ^^^ (c.getD ((x + 1) % 5) 0).rotateLeft 1
  let t := (List.range 25).map fun i => (g i ^^^ d (i % 5)).rotateLeft (rhoOffsets.getD i 0)
  let b := (List.range 25).map fun i =>
    let x := i % 5
    let y := i / 5
    let x' := (x + 3 * y) % 5
    t.getD (5 * x + x') 0
  Vector.ofFn fun i =>
    let x := i.val % 5
    let y := i.val / 5
    let v := b.getD i.val 0 ^^^ (~~~(b.getD (5 * y + (x + 1) % 5) 0) &&& b.getD (5 * y + (x + 2) % 5) 0)
    if i.val = 0 then v ^^^ roundConst ir else v

/-- Keccak-f[1600]. -/
def keccak (a : Lanes) : Lanes := (List.range 24).foldl keccakRound a

/-- Absorb one block of 136 bytes. -/
def absorb (a : Lanes) (bs : List Byte) : Lanes :=
  keccak (Vector.ofFn fun i => laneAt a i.val ^^^ (if i.val < 17 then BitVec.ofNat 64 (leNat ((bs.drop (8 * i.val)).take 8)) else 0))

/-- Absorb `n` whole blocks. -/
def absorbAll : Nat → List Byte → Lanes → Lanes
  | 0, _, a => a
  | n + 1, bs, a => absorbAll n (bs.drop 136) (absorb a (bs.take 136))

/-- The padding of SHAKE: 0x1F, zeros, 0x80 in the last byte. -/
def shakePad (bs : List Byte) : List Byte :=
  let n := 136 - bs.length % 136
  if n = 1 then bs ++ [0x9F] else bs ++ (0x1F :: List.replicate (n - 2) 0) ++ [0x80]

/-- Squeeze `n` bytes. -/
def squeeze : Nat → Nat → Lanes → List Byte
  | 0, _, _ => []
  | fuel + 1, n, a =>
    let block := (a.toList.take 17).flatMap fun w => natBytes w.toNat 8
    if n ≤ 136 then block.take n else block ++ squeeze fuel (n - 136) (keccak a)

/-- SHAKE256 of some bytes, `n` bytes long. -/
def shake256 (bs : List Byte) (n : Nat) : List Byte :=
  let p := shakePad bs
  squeeze (n / 136 + 1) n (absorbAll (p.length / 136) p (Vector.replicate 25 0))

/-- The 256-bit digest. -/
def digest256 (bs : List Byte) : BitVec 256 := BitVec.ofNat 256 (leNat (shake256 bs 32))

end Sys2Proof
end

