-- ==== Sys2Proof/Machine/Launch.lean ====
section
/-! DEFINITION. The launch sequencer: records and queues (R260 to R264, R387), events and arms (R216, R265, R388, R389), containers (R267, R268), placement and launch (R269 to R273), fault records (R326), group end (R266, R274 to R276) and islands at bind (R214, R284). -/
namespace Sys2Proof.Machine

/-! ### Launch records (R262) -/

/-- A word of a record. -/
def recW (ws : List Word) (i : Nat) : Word := ws.getD i 0
/-- ASID. -/
def recAsid (ws : List Word) : BitVec 16 := (recW ws 0).extractLsb' 48 16
/-- IMG. -/
def recImg (ws : List Word) : BitVec 48 := (recW ws 0).extractLsb' 12 36 ++ 0#12
/-- DOM. -/
def recDom (ws : List Word) : BitVec 16 := (recW ws 1).extractLsb' 48 16
/-- DEPE. -/
def recDepe (ws : List Word) : Nat := ((recW ws 1).extractLsb' 32 16).toNat
/-- DEPT. -/
def recDept (ws : List Word) : BitVec 32 := (recW ws 1).extractLsb' 0 32
/-- CEV. -/
def recCev (ws : List Word) : Nat := ((recW ws 2).extractLsb' 48 16).toNat
/-- CEVV. -/
def recCevv (ws : List Word) : Bool := (recW ws 2).getLsbD 47
/-- FCV. -/
def recFcv (ws : List Word) : Bool := (recW ws 2).getLsbD 28
/-- FCH. -/
def recFch (ws : List Word) : BitVec 6 := (recW ws 2).extractLsb' 22 6
/-- STRT. -/
def recStrt (ws : List Word) : Bool := (recW ws 2).getLsbD 18
/-- NMV. -/
def recNmv (ws : List Word) : Bool := (recW ws 2).getLsbD 17
/-- WDL. -/
def recWdl (ws : List Word) : Nat := ((recW ws 2).extractLsb' 11 6).toNat
/-- CPL as a virtual address, 0 for none. -/
def recCpl (ws : List Word) : Nat := ((recW ws 3).extractLsb' 6 42).toNat * 64

/-- The form checks of R264. -/
def recOk (ws : List Word) : Bool :=
  (recW ws 0).extractLsb' 0 12 == 0 && (recW ws 2).extractLsb' 0 11 == 0 && (recW ws 3).extractLsb' 48 16 == 0
    && (recW ws 3).extractLsb' 0 6 == 0 && !(recFcv ws && decide (55 < (recFch ws).toNat)) && decide (recWdl ws ≤ 32)

/-- WDOG.LIM of a WDL (R262). -/
def wdlLim (n : Nat) : BitVec 32 := if n = 0 then 0x00400000 else BitVec.ofNat 32 (2 ^ n)

/-! ### Events (R216, R265, R389) -/

/-- The event at an index. -/
def State.eventAt (s : State) (e : Nat) : Event := (NMap.get? s.seq.events e).getD ⟨0, false⟩

/-- Replace an event. -/
def State.setEvent (s : State) (e : Nat) (x : Event) : State := { s with seq := { s.seq with events := NMap.set s.seq.events e x } }

/-- The message of an arm (R216): the counter, zero-extended, to a channel of the arming core; CH holds the channel, which R243 says of KIND 0x01 only (DESIGN CHOICE, log 32). -/
def armMsg (modu : BitVec 20) (dst : BitVec 32) (gid : BitVec 16) (ch : BitVec 6) (n : BitVec 32) : Msg :=
  { kind := 0x34, cls := 2, smod := modu, src := 0, dmod := modu, dst := dst, grp := gid, tkt := 0, len := 8, ch := ch, laddr := 0, aux := 0
    payload := (natBytes n.toNat 8).map fun b => (b, false)
    why := .system, back := 0, home := none }

/-- An arm fires. -/
def State.fireArm (s : State) (a : Arm) (n : BitVec 32) : State :=
  { s with flight := s.flight ++ [armMsg s.modId (s.coreAt a.core).addr a.gid a.ch n] }

/-- The MSI-X arms whose threshold an event has reached fire once (R389): the interrupt goes out of the host port of rank PORT with vector VEC, and nowhere where no port has that rank (DEDUCED, log 18). -/
def State.fireMsix (s : State) (e : Nat) : State :=
  let n := (s.eventAt e).count
  let due := s.edge.msix.filter fun x => x.2.getLsbD 63 && (x.2.extractLsb' 32 16).toNat == e && decide (x.2.extractLsb' 0 32 ≤ n)
  { s with edge := { s.edge with
    irqs := s.edge.irqs ++ due.filterMap fun x => s.edge.hosts[(x.2.extractLsb' 58 2).toNat]?.map fun p => (p, x.2.extractLsb' 48 10, x.1)
    msix := due.foldl (fun m x => NMap.set m x.1 (setBit x.2 63 false)) s.edge.msix } }

/-- The group is on its pages: not sealed for a resume (R350). -/
def State.present (s : State) (gid : BitVec 16) : Bool := (s.group? gid).any fun g => !g.susp.any Susp.isSealed

/-- The arms that an event satisfies fire once each (R216); those of a group that has been suspended wait for its resume (log 26). -/
def State.fireArms (s : State) (e : Nat) : State :=
  let n := (s.eventAt e).count
  let fires (a : Arm) : Bool := a.ev.toNat == e && decide (a.thr ≤ n) && s.present a.gid
  let due := s.seq.arms.filter fires
  let s := { s with seq := { s.seq with arms := s.seq.arms.filter fun a => !fires a } }
  (due.foldl (fun s a => s.fireArm a n) s).fireMsix e

/-- Raise a counter, saturating (R216, R265). -/
def State.raise (s : State) (e n : Nat) : State :=
  let x := s.eventAt e
  (s.setEvent e { x with count := BitVec.ofNat 32 (min (x.count.toNat + n) 0xFFFFFFFF) }).fireArms e

/-- A report of the launch sequencer (R324, R328). -/
def State.seqReport (s : State) (cause : BitVec 12) (kind : BitVec 2) (gid : BitVec 16) (info wher : Word) : State :=
  { s with
    posts := s.posts ++ [⟨gid, mkRecord cause kind 0 0 false false 0 0 info 0 gid 0 wher (BitVec.ofNat 64 s.cycle) s.seq.seq, 0, 0, 0⟩]
    seq := { s.seq with seq := s.seq.seq + 1 } }

/-- Whether an EVARM would exceed the limits of R216: 16 arms in a core of a group, 4,096 in the module. -/
def State.armsFull (s : State) (gid : BitVec 16) (core : Nat) : Bool :=
  decide (4096 ≤ s.seq.arms.length) || decide (16 ≤ (s.seq.arms.filter fun a => a.gid == gid && a.core == core).length)

/-- EVARM at the sequencer: it replaces the channel's earlier arm, and fires at once when satisfied (R216). -/
def State.arm (s : State) (a : Arm) : State :=
  let s := { s with seq := { s.seq with arms := s.seq.arms.filter fun x => !(x.gid == a.gid && x.core == a.core && x.ch == a.ch) } }
  if a.thr ≤ (s.eventAt a.ev.toNat).count then s.fireArm a (s.eventAt a.ev.toNat).count
  else if s.armsFull a.gid a.core then s.seqReport (Cause.code .evfull) 2 a.gid 0 0
  else { s with seq := { s.seq with arms := s.seq.arms ++ [a] } }

/-- EVENT_SIGNAL: request n, an EVSIG or an EVARM, reaches the sequencer (R216). -/
def execEventSignal (n : Nat) (s : State) : Out :=
  match s.seqReq? n .evsig with
  | some r => .next ((s.dropReq n).raise (r.a.extractLsb' 0 16).toNat (r.b.extractLsb' 0 32).toNat)
  | none =>
    match s.seqReq? n .evarm with
    | some r => .next ((s.dropReq n).arm ⟨r.core, r.gid, r.b.extractLsb' 32 6, r.a.extractLsb' 0 16, r.b.extractLsb' 0 32⟩)
    | none => .refused (.notEnabled "EVENT_SIGNAL")

/-- EVRD_RESPONSE: the counter of request n is written at the requester (R216). -/
def execEvrdResponse (n : Nat) (s : State) : Out :=
  match s.seqReq? n .evrd with
  | some r =>
    let s := s.dropReq n
    let x := (s.eventAt (r.a.extractLsb' 0 16).toNat).count
    let c := (s.coreAt r.core).wrMarked (r.b.extractLsb' 0 20).toNat ((natBytes x.toNat 8).map fun b => (b, false))
    .next (s.setCoreAt r.core (c.completeTicket r.tkt 0 false 0))
  | none => .refused (.notEnabled "EVRD_RESPONSE")

/-- EVENT_WORD_ADD (R388). -/
def execEventWordAdd (e : BitVec 16) (v : BitVec 32) (s : State) : Out := .next (s.raise e.toNat v.toNat)

/-- CLRF (R388). -/
def execClrf (e : BitVec 16) (s : State) : Out := .next (s.setEvent e.toNat { s.eventAt e.toNat with fail := false })

/-- MSIX_ARM (R389): it fires at once when it is armed already satisfied. -/
def execMsixArm (i : BitVec 6) (w : Word) (s : State) : Out :=
  let w := w &&& 0x8FFFFFFFFFFFFFFF
  .next ({ s with edge := { s.edge with msix := NMap.set s.edge.msix i.toNat w } }.fireMsix (w.extractLsb' 32 16).toNat)

/-! ### Queues (R260, R261, R263, R387) -/

/-- Enter a record; none where the queue is full. -/
def State.enqueue (s : State) (q : BitVec 4) (ws : List Word) : Option State :=
  let x := s.queueAt q
  if 256 ≤ x.recs.length then none else some (s.setQueue q { x with recs := x.recs ++ [⟨ws, none, none, none⟩] })

/-- The record that a LAUNCH enqueues (R263). -/
def kernelRecord (g : Group) (prv : Bool) (ws : List Word) : List Word :=
  let w0 : Word := g.asid ++ (recW ws 0).extractLsb' 0 48
  let w1 : Word := g.dom ++ (recW ws 1).extractLsb' 0 48
  let w2 := setBit (recW ws 2) 17 false
  let w2 := if recCevv ws && decide (0xFF00 ≤ recCev ws) && !prv then setBit w2 47 false else w2
  [w0, w1, w2] ++ (ws.drop 3)

/-- LAUNCH_ENQUEUE of request n (R216, R263). -/
def execLaunchEnqueue (n : Nat) (s : State) : Out :=
  match s.seqReq? n .launch with
  | none => .refused (.notEnabled "LAUNCH_ENQUEUE")
  | some r =>
    let s := s.dropReq n
    match s.group? r.gid with
    | none => .next s
    | some g =>
      match s.enqueue (r.b.extractLsb' 0 4) (kernelRecord g r.prv r.words) with
      | some s => .next (s.finishTicket r.core r.tkt 0)
      | none => .next (s.finishTicket r.core r.tkt (Cause.code .qfull))

/-- RECORD_SLOT_WRITE (R387): the write at offset 0x38 enqueues the buffer and clears it; a record for a full queue is counted in OVF. -/
def execRecordSlotWrite (q : BitVec 4) (w : BitVec 3) (data : Word) (s : State) : Out :=
  let x := s.queueAt q
  let slot := x.slot.set w.toNat data
  if w = 7#3 then
    let s := s.setQueue q { x with slot := List.replicate 8 0 }
    match s.enqueue q slot with
    | some s => .next s
    | none =>
      let x := s.queueAt q
      .next (s.setQueue q { x with ovf := if x.ovf = BitVec.allOnes 16 then x.ovf else x.ovf + 1 })
  else .next (s.setQueue q { x with slot := slot })

/-- The status word of a queue (R261). -/
def LQueue.status (x : LQueue) : Word :=
  x.ovf ++ (0#7 ++ (BitVec.ofNat 9 x.recs.length ++ (0#12 ++ (0#1 ++ (x.why ++ x.starts)))))

/-! ### Fault logs and fault channels (R326, R386) -/

/-- The control word of a fault log (R386). -/
def logControl (log : List (List Word)) (next lost : Nat) : Word :=
  BitVec.ofNat 64 (lost % 2 ^ 32 + 2 ^ 32 * ((next + 256 - log.length) % 256) + 2 ^ 40 * (next % 256))

/-- FAULT_LOG_EMPTY (R386). -/
def execFaultLogEmpty (q : BitVec 4) (s : State) : Out := .next (s.setQueue q { s.queueAt q with log := [], lost := 0 })

/-- MGMT_LOG_EMPTY (R386, R404). -/
def execMgmtLogEmpty (s : State) : Out := .next { s with boot := { s.boot with log := [], lost := 0 } }

/-- The core that holds a relative address of a group. -/
def Group.rel0 (g : Group) : Nat := (g.keyOfRel 0).getD 0

/-- A report as a message to a group's fault channel (R326). -/
def State.reportMsg (s : State) (k : Nat) (ch : BitVec 6) (r : Report) : Msg :=
  { kind := 0x34, cls := 2, smod := wordMod r.src, src := wordAddr r.src, dmod := s.modId, dst := (s.coreAt k).addr, grp := r.gid, tkt := 0, len := 64, ch := ch, laddr := 0, aux := 0
    payload := (r.words.flatMap fun w => natBytes w.toNat 8).map fun b => (b, false)
    why := .system, back := 0, home := if r.src = 0 then none else some (keyOfAddr (wordAddr r.src)) }

/-- The record waits: for the next offer of a refused one (R173), for an earlier record of its unit (R326), or for the resume that a RETIRE record follows (R341). -/
def State.postWaits (s : State) (n : Nat) (r : Report) : Bool :=
  decide (s.cycle < r.again) || ((s.posts.take n).any fun x => x.gid == r.gid && x.src == r.src)
    || (s.flight.any fun m => m.kind == 0x34#6 && m.len == 64#12 && m.grp == r.gid && m.sender == r.src)
    || ((r.words.headD 0).extractLsb' 52 12 == Cause.code .retire && s.seq.resumes.any fun e => e.gid == r.gid)

/-- The group's records go to its fault channel (R326). -/
def State.faultChannel (s : State) (g : Group) : Bool :=
  let c := s.coreAt g.rel0
  g.ended.isNone && recFcv g.words && c.bound (recFch g.words).toNat && c.chMode (recFch g.words).toNat == 0#2

/-- FAULT_RECORD_POST of report n, after the earlier reports of its unit (R326): to the group's fault channel, or to the queue's fault log; a report for no group goes to the management log. A refused one is offered again 64 cycles later, up to 16 times (R173); at a captured core it is recorded as a token (R351), and it waits for a group that the sequencer will resume. -/
def execFaultRecordPost (n : Nat) (s : State) : Out :=
  match s.posts[n]? with
  | none => .refused (.notEnabled "FAULT_RECORD_POST")
  | some r =>
    if s.postWaits n r then .refused (.notEnabled "FAULT_RECORD_POST")
    else
      let t := { s with posts := s.posts.eraseIdx n }
      match s.group? r.gid with
      | none => if s.seq.resumes.any fun e => e.gid == r.gid then .refused (.notEnabled "FAULT_RECORD_POST") else .next (t.logMgmt r.words)
      | some g =>
        let ch := recFch g.words
        let k := g.rel0
        let c := s.coreAt k
        if !s.faultChannel g then .next (t.logFault g.queue r.words)
        else if c.captured then
          if g.susp.any fun x => !x.isSealed && x.recorded.contains k then .next (t.token g k (s.reportMsg k ch r))
          else .refused (.notEnabled "FAULT_RECORD_POST")
        else
          match c.offer ⟨ch, r.src, (r.words.flatMap fun w => natBytes w.toNat 8).map fun b => (b, false), false, r.gid, none⟩ with
          | .took c => .next (t.setCoreAt k c)
          | _ =>
            if 15 ≤ r.tries then .next (t.logFault g.queue r.words)
            else .next { s with posts := s.posts.set n { r with tries := r.tries + 1, again := s.cycle + 64 } }

/-- A record for a fault channel goes to the queue's fault log where 64 of its group wait already (R326). -/
def State.spill (s : State) : State :=
  s.seq.groups.foldl (fun s g =>
    let mine := s.posts.filter fun r => r.gid == g.gid
    if mine.length ≤ 64 || !s.faultChannel g then s
    else
      let keep := (s.posts.zip (List.range s.posts.length)).filter fun e =>
        e.1.gid != g.gid || decide (((s.posts.take e.2).filter fun r => r.gid == g.gid).length < 64)
      (mine.drop 64).foldl (fun s r => s.logFault g.queue r.words) { s with posts := keep.map Prod.fst }) s

/-! ### Completion (R266) -/

/-- The words of a completion record. -/
def completionWords (gid : BitVec 16) (cause : BitVec 12) (nfail : BitVec 32) (faddr : Word) (tstart tend : Nat) : List Word :=
  [gid ++ (cause ++ (0#4 ++ nfail)), faddr, BitVec.ofNat 64 tstart, BitVec.ofNat 64 tend, 0, 0, 0, 0]

/-- The bytes of some words. -/
def wordBytes (ws : List Word) : List MByte := (ws.flatMap fun w => natBytes w.toNat 8).map fun b => (b, false)

/-- Complete a group or a record (R266): the completion record, then the event. -/
def State.complete (s : State) (ws : List Word) (q : BitVec 4) (gid : BitVec 16) (cause : BitVec 12) (nfail : BitVec 32) (faddr : Word)
    (tstart tend : Nat) : State :=
  let failed (s : State) (c : Cause) : State :=
    let va : Word := BitVec.ofNat 64 (recCpl ws)
    let s := s.logFault q (mkRecord c.code 2 0 0 false false 0 0 va 0 gid 0 va (BitVec.ofNat 64 s.cycle) s.seq.seq)
    { s with seq := { s.seq with seq := s.seq.seq + 1 } }
  let s :=
    if recCpl ws = 0 then s
    else
      match s.vaWrite (recAsid ws) (recCpl ws) (wordBytes (completionWords gid cause nfail faddr tstart tend)) with
      | some s => s
      | none => failed s (s.vaWriteCause (recAsid ws) (recCpl ws))
  if !recCevv ws then s
  else if cause = 0 then s.raise (recCev ws) 1
  else s.setEvent (recCev ws) { s.eventAt (recCev ws) with fail := true }

/-! ### Containers (R267, R268) -/

/-- A container as the sequencer reads it. -/
structure Image where
  imgLen : Nat
  enda : Nat
  sct : Bool
  pages : Nat
  w : Nat
  h : Nat
  chans : List (Word × Word)
  joins : List (Word × Word)
  isls : List IslandDesc
  regions : List Region
  image : List Byte
  dig : BitVec 256
  deriving DecidableEq, Repr

/-- The image of no container. -/
def Image.none : Image := ⟨0, 0, false, 0, 0, 0, [], [], [], [], [], 0⟩

/-- A word of a container. -/
def contWord (bs : List Byte) (o : Nat) : Word := BitVec.ofNat 64 (leNat ((bs.drop o).take 8))

/-- A bit field of a word as a number. -/
def fld (w : Word) (lo n : Nat) : Nat := w.toNat / 2 ^ lo % 2 ^ n

/-- The offset of the image bytes. -/
def imageOff (bs : List Byte) : Nat :=
  let c := contWord bs 0x18
  (0x40 + 16 * fld c 0 8 + 24 * fld c 8 8 + 16 * fld c 16 16 + 8 * fld c 32 16 + 63) / 64 * 64

/-- The bytes of a container, from its header. -/
def contLen (bs : List Byte) : Nat := imageOff bs + fld (contWord bs 8) 0 20

/-- A channel entry keeps the limits of R90, R175 and R176: the ring of a LAND channel is a region. -/
def chanOk (regions : List Region) (e : Word × Word) : Bool :=
  let ch := fld e.1 37 6
  let mode := fld e.1 4 2
  let ent := 8 * fld e.1 20 17
  fld e.1 43 21 == 0 && decide (ch ≤ 55) && fld e.1 11 1 == 0 && fld e.1 6 2 == 0 && fld e.1 1 3 == 0 && fld e.1 0 1 == 1
    && fld e.1 16 4 == 0 && mode != 1
    && (decide (ent ≤ 0xEFFF8) || (mode == 2 && !landAct e.2))
    && (match mode with
        | 0 => e.2 == 0
        | 2 => fld e.2 29 35 == 0 && decide (fld e.2 20 4 ≤ 13) && landBase e.2 % 64 == 0 && inProgram (landBase e.2) (landSize e.2)
            && regions.any fun r => r.base == landBase e.2 && decide (landSize e.2 ≤ r.size)
        | _ => fld e.2 1 63 == 0 && fld e.1 14 1 == 1)

/-- A join entry keeps the limits of R90 and R177. -/
def joinOk (e : Word × Word) (pad : Word) : Bool :=
  let n := (maskChannels e.2).length
  fld e.1 37 27 == 0 && fld e.1 11 1 == 0 && fld e.1 6 2 == 0 && fld e.1 1 3 == 0 && fld e.1 0 1 == 1 && fld e.1 4 2 == 1
    && fld e.1 12 3 == 0 && decide (8 * fld e.1 20 17 ≤ 0xEFFF8) && e.2.extractLsb' 56 8 == 0 && decide (1 ≤ n) && decide (n ≤ 8) && pad == 0 && e.1.extractLsb' 37 27 == 0

/-- Every element occurs once. -/
def allDistinct [BEq α] : List α → Bool
  | [] => true
  | x :: xs => !xs.contains x && allDistinct xs

/-- The container in some bytes; none where it fails R268. -/
def parseImage (bs : List Byte) : Option Image :=
  let w8 := contWord bs 8
  let sh := contWord bs 0x10
  let c := contWord bs 0x18
  let nch := fld c 0 8
  let njs := fld c 8 8
  let nis := fld c 16 16
  let nrg := fld c 32 16
  let oj := 0x40 + 16 * nch
  let oi := oj + 24 * njs
  let org := oi + 16 * nis
  let chans := (List.range nch).map fun i => (contWord bs (0x40 + 16 * i), contWord bs (0x48 + 16 * i))
  let joins := (List.range njs).map fun i => (contWord bs (oj + 24 * i), contWord bs (oj + 24 * i + 8))
  let pads := (List.range njs).map fun i => contWord bs (oj + 24 * i + 16)
  let isls := (List.range nis).map fun i =>
    let a := contWord bs (oi + 16 * i)
    ({ iid := a.extractLsb' 0 16, col := fld a 16 16, row := fld a 32 16, w := fld a 48 8 + 1, h := fld a 56 8 + 1
       pad := (contWord bs (oi + 16 * i + 8)).extractLsb' 0 8 } : IslandDesc)
  let regions := (List.range nrg).map fun i =>
    let a := contWord bs (org + 8 * i)
    ({ base := fld a 0 20, size := fld a 20 20, kind := fld a 40 2 } : Region)
  let dig : BitVec 256 := BitVec.ofNat 256 (leNat ((bs.drop 0x20).take 32))
  let enda := fld w8 32 20
  let sct := fld sh 26 1 == 1
  let pages := fld sh 16 10 + 1
  let w := fld sh 5 5 + 1
  let h := fld sh 0 5 + 1
  let members := joins.flatMap fun e => maskChannels e.2
  let chs := chans.map fun e => fld e.1 37 6
  let feeds := (chans.filter fun e => fld e.1 4 2 == 3).map fun e => (fld e.1 12 2, fld e.2 0 1)
  let regOk (r : Region) : Bool := decide (r.kind ≤ 2) && r.base % 64 == 0 && r.size % 64 == 0 && decide (r.base + r.size ≤ enda)
  let ok := contWord bs 0 == 0x0000000156580001 && digest256 (bs.drop 0x40) == dig && decide (enda ≤ 0xF0000)
    && (chans.any fun e => fld e.1 37 6 == 0 && fld e.1 4 2 == 0) && allDistinct (chs ++ members) && chans.all (chanOk regions)
    && (joins.zip pads).all (fun e => joinOk e.1 e.2) && allDistinct (joins.map fun e => fld e.1 16 4) && allDistinct feeds
    && regions.all regOk && decide (fld c 48 6 ≤ 32) && (if sct then h == 1 else pages == w * h)
    && ((List.range nis).all fun i => fld (contWord bs (oi + 16 * i + 8)) 8 56 == 0)
    && (List.range nrg).all fun i => fld (contWord bs (org + 8 * i)) 42 22 == 0
  if ok then some ⟨fld w8 0 20, enda, sct, pages, w, h, chans, joins, isls, regions, (bs.drop (imageOff bs)).take (fld w8 0 20), dig⟩ else none

/-- The container of a record: from the cache, by its ASID, IMG and digest, or from memory; none where it cannot be read (R264, R271). -/
def State.fetchImage (s : State) (asid : BitVec 16) (img : BitVec 48) : Option (State × List Byte) :=
  match s.vaRead asid img.toNat 64 with
  | none => none
  | some (s, hd) =>
    let hdr := hd.map Prod.fst
    let dig : BitVec 256 := BitVec.ofNat 256 (leNat ((hdr.drop 0x20).take 32))
    if anyMark hd then none
    else
      match s.seq.cache.find? fun c => c.asid == asid && c.img == img && c.dig == dig with
      | some c => some (s, c.bytes)
      | none =>
        match s.vaRead asid img.toNat (contLen hdr) with
        | some (s, bs) => if anyMark bs then none else some (s, bs.map Prod.fst)
        | none => none

/-- Keep a container among the 64 most recently launched (R271). -/
def State.cacheImage (s : State) (asid : BitVec 16) (img : BitVec 48) (dig : BitVec 256) (bs : List Byte) : State :=
  let rest := s.seq.cache.filter fun c => !(c.asid == asid && c.img == img && c.dig == dig)
  { s with seq := { s.seq with cache := (⟨asid, img, dig, bs⟩ :: rest).take 64 } }

/-! ### Placement (R269, R270) -/

/-- A page is allocatable (R269), but for the rectangle that a compaction keeps for another queue's head (R277). -/
def State.allocatable (s : State) (q : Option (BitVec 4)) (p : Nat) : Bool :=
  let x := s.pageAt p
  (s.owner? p).isNone && !x.retired && !(s.fieldAt (fieldOfPage p)).due && !x.scrubbing
    && (match s.seq.making with
        | some (q', ps) => some q' == q || !ps.contains p
        | none => true)
    && s.seq.jobs.all fun j => !j.pages.contains p

/-- The pages of a rectangle in the numbering of R37. -/
def rectPages (oy ox w h : Nat) : List Nat := (List.range h).flatMap fun j => (List.range w).map fun i => 32 * (oy + j) + ox + i

/-- PlaceContig (R270). -/
def placeContig (ok : Nat → Bool) (w h : Nat) : Option (List Nat) :=
  (List.range (33 - h)).findSome? fun oy => (List.range (33 - w)).findSome? fun ox =>
    let ps := rectPages oy ox w h
    if ps.all ok then some ps else none

/-- PlaceScatter (R270). -/
def placeScatter (ok : Nat → Bool) (n : Nat) : Option (List Nat) :=
  let ps := ((List.range 1024).filter ok).take n
  if ps.length = n then some ps else none

/-- Placement of a shape (R270). -/
def placeShape (ok : Nat → Bool) (sct : Bool) (n w h : Nat) : Option (List Nat) := if sct then placeScatter ok n else placeContig ok w h

/-- Placement of a queue's head: in the rectangle that a compaction frees for it, once it is free (R277), else by R270. -/
def State.placeHead (s : State) (q : BitVec 4) (sct : Bool) (n w h : Nat) : Option (List Nat) :=
  match s.seq.making with
  | some (q', ps) => if q' = q ∧ ps ≠ [] then (if ps.all (s.allocatable (some q)) then some ps else none) else placeShape (s.allocatable (some q)) sct n w h
  | none => placeShape (s.allocatable (some q)) sct n w h

/-- The shape can be placed when every page that is not retired is free (R270). -/
def State.everPlaced (s : State) (sct : Bool) (n w h : Nat) : Bool := (placeShape (fun p => !(s.pageAt p).retired) sct n w h).isSome

/-- The next group identifier: in rotation, skipping 0 and those in use (R269). -/
def State.nextGid (s : State) : BitVec 16 :=
  let used (g : BitVec 16) : Bool := g == 0 || (s.seq.groups.any fun x => x.gid == g) || (s.seq.resumes.any fun x => x.gid == g)
    || s.seq.arms.any fun a => a.gid == g
  ((List.range 65536).map fun i => s.seq.lastGid + 1 + BitVec.ofNat 16 i).find? (fun g => !used g) |>.getD 0

/-! ### The launch state (R271 to R273) -/

/-- A page-map entry (R39). -/
def mapEntry (g : BitVec 8) (p : Nat) : BitVec 32 := g ++ (0#13 ++ (1#1 ++ BitVec.ofNat 10 p))

/-- GRPID of a group (R27). -/
def Group.grpid (g : Group) : Word :=
  let w := if g.sct then 0 else g.wid
  let h := if g.sct then 0 else g.hgt
  0#19 ++ (BitVec.ofNat 5 h ++ (0#3 ++ (BitVec.ofNat 5 w ++ (0#5 ++ (bit1 g.sct ++ (BitVec.ofNat 10 (g.pages.length - 1) ++ g.gid))))))

/-- RELPOS of core k in relative page pg (R29, R37). -/
def relposOf (k pg : Nat) : Word :=
  (BitVec.ofNat 10 pg ++ (0#9 ++ (BitVec.ofNat 1 (k / 65536) ++ (BitVec.ofNat 3 (k / 256 % 8) ++ BitVec.ofNat 3 (k % 8)))) : BitVec 26).setWidth 64

/-- NAME of core k (R28). -/
def State.nameOf (s : State) (k : Nat) : Word := 0#12 ++ (s.modId ++ (s.genOf (pageOf k) ++ BitVec.ofNat 24 k))

/-- The page map of a group as bytes. -/
def State.pageMap (s : State) (g : Group) : List Byte := g.pages.flatMap fun p => natBytes (mapEntry (s.genOf p) p).toNat 4

/-- Write the bindings of a container; channel 0 takes the record's PRIO (R267, R273). -/
def Core.bindAll (c : Core) (img : Image) (prio : BitVec 3) : Core :=
  let c := img.chans.foldl (fun (c : Core) e =>
    let ch := fld e.1 37 6
    let w0 : Word := e.1 &&& 0x0000001FFFFFFFFF
    let w0 : Word := if ch = 0 then (w0 &&& 0xFFFFFFFFFFFFF8FF) ||| ((prio.setWidth 64 : Word) <<< 8) else w0
    c.putBinding ch w0 e.2 0) c
  img.joins.foldl (fun (c : Core) e =>
    let chs := maskChannels e.2
    chs.foldl (fun c ch => c.putBinding ch e.1 0 (if chs.head? = some ch then e.2 else 0)) c) c

/-- A core as launch leaves it before the start message (R273). What the launch does not touch stays: the cycle count and the module's own counts. -/
def State.launchCore (s : State) (g : Group) (img : Image) (pg k : Nat) : Core :=
  let c := s.coreAt k
  let n := Core.reset s.modId k
  let w2 := recW g.words 2
  let n := { n with
    grpid := g.grpid, name := s.nameOf k, relpos := relposOf k pg, trapvec := 0#44 ++ (w2.extractLsb' 30 17 ++ (0#2 ++ w2.extractLsb' 29 1))
    wdogLim := wdlLim (recWdl g.words), cycle := c.cycle, free := c.free, seq := c.seq, reports := c.reports, ueHours := c.ueHours, droop := c.droop }
  let n := { n with ls := Mem.putBytes (Mem.putBytes [] 0 img.image) 0xFC000 (s.pageMap g) }
  { n.bindAll img (w2.extractLsb' 19 3) with clean := true, imgLen := img.imgLen }

/-- Free the licence of a quern and its requests. -/
def State.freeLicence (s : State) (q : Nat) : State :=
  let x := s.quernAt q
  let s := if x.holder.isSome ∨ x.hand.isSome then s.addPool (fieldOf q) 1 else s
  s.setQuernAt q { x with holder := none, hand := none, reqBed := none, reqRun := none, rreq := none }

/-- The querns of a page. -/
def pageQuerns (p : Nat) : List Nat := (pageCores p).take 64

/-- Deliver the start message to a core (R272, R273), whose first instruction issues at cycle `at'`. -/
def State.startCore (s : State) (g : Group) (k at' : Nat) : State :=
  let c := s.coreAt k
  let m : Incoming := ⟨0, 0, wordBytes ((g.words.drop 4).take 4), false, g.gid, none⟩
  match c.offer m with
  | .took c => s.setCoreAt k { c with issueAt := at' }
  | _ => s

/-- Load and start a group on its pages (R271 to R273). A page that is not resident costs Ceil(IMGLEN / 32) cycles. -/
def State.launch (s : State) (q : BitVec 4) (ws : List Word) (img : Image) (bytes : List Byte) (pages : List Nat) : State :=
  let g : Group := ⟨s.nextGid, recAsid ws, recDom ws, pages, img.sct, img.w - 1, img.h - 1, ws, q, img.imgLen, img.enda, img.regions, img.isls,
    img.dig, bytes, 0, 0, none, 0, none, none, 0, none, none, false⟩
  let resident := pages.all fun p => (s.pageAt p).digest == some img.dig && (pageCores p).all fun k => (s.coreAt k).clean
  let at' := s.cycle + 1320 + (if resident then 0 else (img.imgLen + 31) / 32)
  let s := { s with seq := { s.seq with groups := s.seq.groups ++ [g], lastGid := g.gid }, edge := s.edge.forget g.gid }
  let s := s.cacheImage g.asid (recImg ws) img.dig bytes
  let s := (pages.zip (List.range pages.length)).foldl (fun s p =>
    let s := s.setPage p.1 { s.pageAt p.1 with digest := some img.dig }
    let s := (pageQuerns p.1).foldl State.freeLicence s
    (pageCores p.1).foldl (fun s k => s.setCoreAt k (s.launchCore g img p.2 k)) s) s
  if recStrt ws then s.startCore g g.rel0 at' else (pages.flatMap pageCores).foldl (fun s k => s.startCore g k at') s

/-! ### START_GROUP (R260, R264, R272) -/

/-- Change the head of a queue. -/
def State.modHead (s : State) (q : BitVec 4) (f : QRec → QRec) : State :=
  let x := s.queueAt q
  s.setQueue q { x with recs := match x.recs with
    | r :: rs => f r :: rs
    | [] => [] }

/-- The checks of a record at the head of its queue, in the order of R264: the state with the container that was read, or the cause. A record that has passed is not checked again. -/
def State.checkHead (s : State) (q : BitVec 4) (r : QRec) : Except Cause State :=
  if r.image.isSome then .ok s
  else
    let ws := r.words
    if !recOk ws then .error .badarg
    else
      match s.fetchImage (recAsid ws) (recImg ws) with
      | none => .error .badimg
      | some (s, bytes) =>
        match parseImage bytes with
        | none => .error .badimg
        | some img =>
          let e := s.eventAt (recDepe ws)
          if !s.everPlaced img.sct img.pages img.w img.h then .error .nopage
          else if recDept ws ≠ 0 ∧ e.fail then .error .depf
          else .ok (s.modHead q fun r => { r with image := some bytes, dep := if recDept ws = 0 ∨ recDept ws ≤ e.count then some true else none })

/-- The dependence of a waiting head at the end of a cycle: FAIL ends it, even in the cycle in which the counter arrives, and otherwise a counter that has arrived lets it go on for good (R264). -/
def State.meetHead (s : State) (q : BitVec 4) : State :=
  match (s.queueAt q).recs.head? with
  | some r =>
    let e := s.eventAt (recDepe r.words)
    if r.image.isNone || r.dep.isSome then s
    else if e.fail then s.modHead q fun r => { r with dep := some false }
    else if recDept r.words ≤ e.count then s.modHead q fun r => { r with dep := some true }
    else s
  | none => s

/-- What the head of a queue is ready for. -/
inductive HeadSt where
  | empty
  | bad (c : Cause)
  | dependence (s : State)
  | pages (s : State)
  | ready (s : State) (img : Image) (bytes : List Byte) (ps : List Nat)

/-- The state of the head of a queue (R264, R270), with the container read where it was not before. -/
def State.headState (s : State) (q : BitVec 4) : HeadSt :=
  match (s.queueAt q).recs.head? with
  | none => .empty
  | some r =>
    match s.checkHead q r with
    | .error c => .bad c
    | .ok s =>
      let r := (s.queueAt q).recs.headD r
      match r.dep with
      | none => .dependence s
      | some false => .bad .depf
      | some true =>
        match r.image.bind fun bs => (parseImage bs).map fun img => (bs, img) with
        | none => .bad .badimg
        | some (bytes, img) =>
          match s.placeHead q img.sct img.pages img.w img.h with
          | some ps => .ready s img bytes ps
          | none => .pages s

/-- A group of the resume list that came from queue q goes first, but for one that a compaction moved for this queue's head (R277, R278). -/
def State.barred (s : State) (q : BitVec 4) : Bool := s.seq.resumes.any fun e => e.queue == q && e.moved != some q

/-- The head of a queue could start now. -/
def State.headReady (s : State) (q : BitVec 4) : Bool :=
  match s.headState q with
  | .ready .. => !s.barred q
  | _ => false

/-- The suspension is one of the compaction or the pre-emption for the head of queue q. -/
def SuspWhy.isFor (q : BitVec 4) (w : SuspWhy) : Bool := w == .compaction q || w == .preemption q

/-- The compaction or the pre-emption for the head of queue q ends: suspensions that it wanted and that have not begun are withdrawn (R277, R278). -/
def State.endMaking (s : State) (q : BitVec 4) : State :=
  if s.seq.making.any fun m => m.1 == q then
    { s with seq := { s.seq with
      making := none
      groups := s.seq.groups.map fun g => if g.wantSusp.any (SuspWhy.isFor q) then { g with wantSusp := none } else g } }
  else s

/-- What the compaction or the pre-emption for the head of queue q suspends has left its pages, and the pages are scrubbed. -/
def State.madeAll (s : State) (q : BitVec 4) : Bool :=
  (s.seq.groups.all fun g => !g.wantSusp.any (SuspWhy.isFor q) && !g.susp.any fun x => SuspWhy.isFor q x.why) && s.seq.pages.all fun p => !p.2.scrubbing

/-- Take the head off a queue. -/
def State.popHead (s : State) (q : BitVec 4) : State :=
  let x := s.queueAt q
  (s.setQueue q { x with recs := x.recs.drop 1, why := 0, starts := x.starts + 1 }).endMaking q

/-- Note why a head waits (R261). -/
def State.noteWhy (s : State) (q : BitVec 4) (why : BitVec 3) : State :=
  let x := s.queueAt q
  (s.setQueue q { x with why := why }).modHead q fun r => { r with placeSince := if why = 2#3 ∧ r.placeSince.isNone then some s.cycle else r.placeSince }

/-- START_GROUP of queue q (R260, R264, R266, R272): its head ends without running, waits, or starts. A head starts after the ready heads of higher rank and after the groups of the resume list that came from its queue (R278); it waits with WHY = 2 until then. A compaction or a pre-emption after which its head still cannot be placed ends. -/
def execStartGroup (q : BitVec 4) (s : State) : Out :=
  if s.boot.phase ≠ 4#4 then .refused (.notEnabled "START_GROUP")
  else
    match s.headState q with
    | .empty => .refused (.notEnabled "START_GROUP")
    | .bad c =>
      match (s.queueAt q).recs.head? with
      | some r => seqMove s ((s.popHead q).complete r.words q 0 c.code 0 0 0 0)
      | none => .refused (.notEnabled "START_GROUP")
    | .dependence t => if (s.queueAt q).why = 1#3 then .refused (.notEnabled "START_GROUP") else seqMove s (t.noteWhy q 1)
    | .pages t =>
      if (s.queueAt q).why = 3#3 then (if s.madeAll q then .next ((s.endMaking q).noteWhy q 2) else .refused (.notEnabled "START_GROUP"))
      else if (s.queueAt q).why = 2#3 then .refused (.notEnabled "START_GROUP")
      else seqMove s (t.noteWhy q 2)
    | .ready t img bytes ps =>
      if (List.range q.toNat).any (fun r => s.headReady (BitVec.ofNat 4 r)) || s.barred q then
        if (s.queueAt q).why = 2#3 ∨ (s.queueAt q).why = 3#3 then .refused (.notEnabled "START_GROUP") else seqMove s (t.noteWhy q 2)
      else
        match (s.queueAt q).recs.head? with
        | some r => seqMove s ((t.popHead q).launch q r.words img bytes ps)
        | none => .refused (.notEnabled "START_GROUP")

/-! ### Group end (R274 to R276) -/

/-- A core is idle (R274). -/
def Core.idle (c : Core) : Bool :=
  c.ctxs.toList.all (fun x => x.st == .free) && c.pend.isEmpty && c.tokens.isEmpty && c.ops.isEmpty && c.streams.isEmpty
    && (c.slots.all fun x => x.2.done)

/-- The member cores of a group. -/
def Group.cores (g : Group) : List Nat := g.pages.flatMap pageCores

/-- What a probe wave finds: every core idle, and the counts of group messages sent and accepted. -/
def State.wave (s : State) (g : Group) : Bool × Nat × Nat :=
  let cs := g.cores.map s.coreAt
  (cs.all Core.idle, (cs.map Core.sent).sum, (cs.map Core.accepted).sum)

/-- A probe would find the group ended: it comes before a suspension (R279). -/
def State.mayHaveEnded (s : State) (g : Group) : Bool := (s.wave g).1 && (s.wave g).2.1 == (s.wave g).2.2

/-- The group is neither suspended, nor probed, nor ended. -/
def Group.open' (g : Group) : Bool := g.susp.isNone && g.probe.isNone && g.ended.isNone

/-- TERMINATION_PROBE of a group (R274, R279): the first wave. -/
def execTerminationProbe (gid : BitVec 16) (s : State) : Out :=
  match s.group? gid with
  | some g =>
    let w := s.wave g
    if g.open' && w.1 && w.2.1 == w.2.2 then .next (s.modGroup gid fun g => { g with probe := some (w.2.1, w.2.2) })
    else .refused (.notEnabled "TERMINATION_PROBE")
  | none => .refused (.notEnabled "TERMINATION_PROBE")

/-- The islands of a group end with it (R214). -/
def State.dropIslands (s : State) (g : Group) : State :=
  let mine := s.seq.islands.filter fun i => i.gid == g.gid
  let s := (mine.flatMap Island.members).foldl (fun s k => s.setCoreAt k { s.coreAt k with islBnd := false }) s
  { s with seq := { s.seq with islands := s.seq.islands.filter (fun i => i.gid != g.gid), binds := s.seq.binds.filter fun b => b.gid != g.gid } }

/-- The field agents take over a retired core's quern, and the record of step 6 is posted (R341). -/
def State.finishRetire (s : State) (gid : BitVec 16) (ks : List Nat) : State :=
  ks.foldl (fun s k =>
    let p := s.physOf k
    let wher : Word := BitVec.ofNat 64 (fieldOf k / 8 * 2 ^ 19 + fieldOf k % 8 * 2 ^ 16 + k / 65536 * 2 ^ 12 + p.1 * 2 ^ 6 + p.2)
    let info : Word := ((s.coreAt k).retiring.getD 0).setWidth 64
    let s := s.setCoreAt k { s.coreAt k with retiring := none }
    (s.repairAt k).seqReport (Cause.code .retire) 3 gid info wher) s

/-- The members of a group that are being retired. -/
def State.retiringOf (s : State) (g : Group) : List Nat := g.cores.filter fun k => (s.coreAt k).retiring.isSome

/-- A group has ended: nothing of it waits for a suspension, and its members that are being retired are taken over by the field agents (R274, R341). -/
def State.concludes (s : State) (g : Group) (cause : BitVec 12) : State :=
  let s := (s.modGroup g.gid fun g => { g with probe := none, wantSusp := none, susp := none, ended := some cause, endAt := s.cycle }).dropIslands g
  s.finishRetire g.gid (s.retiringOf g)

/-- PROBE_WAVE of a group (R274, R279): the second wave finds it ended, which cancels a waiting suspension, or the probe is dropped. -/
def execProbeWave (gid : BitVec 16) (s : State) : Out :=
  match s.group? gid with
  | some g =>
    match g.probe with
    | none => .refused (.notEnabled "PROBE_WAVE")
    | some p =>
      let w := s.wave g
      if w.1 && w.2.1 == w.2.2 && w.2 == p then
        .next (s.concludes g (if g.nfail ≠ 0 then Cause.code .stfail else 0))
      else .next (s.modGroup gid fun g => { g with probe := none })
  | none => .refused (.notEnabled "PROBE_WAVE")

/-- A remote or CXL store of a group is still outstanding (R275). -/
def State.storesOut (s : State) (g : Group) : Bool :=
  (s.edge.accs.any fun x => x.gid == g.gid && x.write) || (s.flight.any fun m => m.kind == 7#6 && m.grp == g.gid && m.aux == 1)
    || g.cores.any fun k => (s.coreAt k).streams.any (fun x => !x.wrOut.isEmpty) || (s.coreAt k).ops.any fun o => o.st == .sent && o.cls == 0#2

/-- The records of a group that are still on their way when its channels go are written into its queue's fault log, but for a group that the sequencer will resume: they wait for it (R326, R341; log 20). -/
def State.flushReports (s : State) (g : Group) : State :=
  if s.seq.resumes.any fun e => e.gid == g.gid then s
  else
  let waiting := s.posts.filter (fun r => r.gid == g.gid) ++ g.cores.flatMap fun k => (s.coreAt k).reports.filter fun r => r.gid == g.gid
  waiting.foldl (fun s r => s.logFault g.queue r.words) { s with posts := s.posts.filter fun r => r.gid != g.gid }

/-- A core's key after its group's pages `src` have become the pages `dst`: the same place in the page of the same number. -/
def rehome (src dst : List Nat) (k : Nat) : Nat :=
  let p := dst.getD (src.idxOf (pageOf k)) 0
  keyOf (k / 65536) (p / 32 * 8 + k / 256 % 8) (p % 32 * 8 + k % 8)

/-- The arms of a suspended group wait for its resume, with their cores as if its relative pages were the pages of the same number (R216). -/
def State.parkArms (s : State) (g : Group) : State :=
  { s with seq := { s.seq with arms := s.seq.arms.map fun a => if a.gid = g.gid then { a with core := rehome g.pages (List.range g.pages.length) a.core } else a } }

/-- The arms that waited for group `old` are those of the resumed group, and the ones that are satisfied fire (R216). -/
def State.claimArms (s : State) (old : BitVec 16) (g : Group) : State :=
  let mine := s.seq.arms.filter fun a => a.gid == old
  let s := { s with seq := { s.seq with
    arms := s.seq.arms.map fun a => if a.gid = old then { a with gid := g.gid, core := rehome (List.range g.pages.length) g.pages a.core } else a } }
  (mine.map fun a => a.ev.toNat).eraseDups.foldl State.fireArms s

/-- The pages of a group start their scrub and belong to no group; its licences and trees go (R275, R295, R320), and its arms where it has completed (R216). -/
def State.releasePages (s : State) (g : Group) : State :=
  let s := s.flushReports g
  let s := (g.pages.flatMap pageQuerns).foldl State.freeLicence s
  let s := (s.trees.filter fun t => t.gid == g.gid && g.gid != 0).foldl (fun s t => (s.removeTree t.tid).tellGone t) s
  let s := g.cores.foldl (fun s k =>
    let c := s.coreAt k
    s.setCoreAt k { Core.reset s.modId k with name := c.name, cycle := c.cycle, free := c.free, seq := c.seq, reports := c.reports.filter fun r => r.gid != g.gid,
                                              ueHours := c.ueHours, droop := c.droop, ls := c.ls, marks := c.marks, clean := c.clean, imgLen := c.imgLen }) s
  let s := g.pages.foldl (fun s p => s.setPage p { s.pageAt p with scrubbing := true, scrubAt := s.cycle }) s
  let s := if g.ended.isSome then { s with seq := { s.seq with arms := s.seq.arms.filter fun a => a.gid != g.gid } } else if g.gid = 0 then s else s.parkArms g
  { s with seq := { s.seq with groups := s.seq.groups.filter fun x => x.gid != g.gid || x.pages != g.pages } }

/-- The pages of a sealed group may be released: no debt is left and they have been renamed (R350, stage 6). -/
def State.vacated (s : State) (g : Group) : Bool :=
  g.susp.any Susp.isSealed && (s.advances.all fun a => a.pages.all fun p => !g.pages.contains p) && s.seq.debts.all fun d => d.gid != g.gid

/-- The group that PAGE_RELEASE names. The pages of a group that has been resumed elsewhere before they are renamed are held under number 0, and the first that may go is meant. -/
def State.leaving (s : State) (gid : BitVec 16) : Option Group :=
  if gid = 0 then s.seq.groups.find? fun g => g.gid == 0 && s.vacated g else s.group? gid

/-- PAGE_RELEASE of a group (R266, R275): once no store is outstanding it completes and its pages are released. A suspended group releases them without completing, once no debt is left and its pages have been renamed (R350, stage 6). -/
def execPageRelease (gid : BitVec 16) (s : State) : Out :=
  match s.leaving gid with
  | some g =>
    match g.ended with
    | none =>
      if s.vacated g then .next (s.releasePages g)
      else .refused (.notEnabled "PAGE_RELEASE")
    | some cause =>
      if s.storesOut g then .refused (.notEnabled "PAGE_RELEASE")
      else
        let cause := if cause = 0 ∧ g.nfail ≠ 0 then Cause.code .stfail else cause
        seqMove s ((s.complete g.words g.queue g.gid cause g.nfail g.faddr (g.tstart.getD 0) g.endAt).releasePages g)
  | none => .refused (.notEnabled "PAGE_RELEASE")

/-- The bytes of a core that its scrub keeps (R276). -/
def Core.scrubbed (c : Core) : Core :=
  let keep (a : Nat) : Bool := decide (0xF0000 ≤ a) || (c.clean && decide (a < c.imgLen))
  { c with ls := c.ls.filter fun x => keep x.1, marks := c.marks.filter fun w => keep (8 * w) }

/-- SCRUB_DONE of a page, 1,920 cycles after its scrub began (R276). -/
def execScrubDone (page : Nat) (s : State) : Out :=
  let x := s.pageAt page
  if x.scrubbing ∧ x.scrubAt + 1920 ≤ s.cycle then
    .next (((pageCores page).foldl (fun s k => s.setCoreAt k (s.coreAt k).scrubbed) s).setPage page { x with scrubbing := false })
  else .refused (.notEnabled "SCRUB_DONE")

/-- A core of a killed or failed group stops: nothing of it runs, and only what has left it is still answered. -/
def Core.stop (c : Core) : Core :=
  { c with
    ctxs := Vector.ofFn fun i => { c.ctxs[i.val]'(i.isLt) with st := .free, wait := .none }
    pend := [], tokens := [], retained := [], stopping := true, sync := none, mma := none
    ops := c.ops.filter (fun o => o.st == .sent)
    streams := c.streams.filter fun x => !x.wrOut.isEmpty
    landing := [] }

/-- A group ends without a probe, with a cause (R266, R341). -/
def State.endGroup (s : State) (g : Group) (cause : Cause) : State :=
  (g.cores.foldl (fun s k => s.setCoreAt k (s.coreAt k).stop) s).concludes g cause.code

/-- A group of the resume list that is killed: its sprig is not resumed, and it completes with KILL, its pages leaving as they were to (R266). -/
def State.killListed (s : State) (e : ResumeEnt) : State :=
  let mine := s.posts.filter fun r => r.gid == e.gid
  let s := mine.foldl (fun s r => s.logFault e.queue r.words) { s with posts := s.posts.filter fun r => r.gid != e.gid }
  let s := s.modGroup e.gid fun g => { g with gid := 0 }
  let s := { s with seq := { s.seq with resumes := s.seq.resumes.filter fun x => x.gid != e.gid, arms := s.seq.arms.filter fun a => a.gid != e.gid } }
  s.complete e.words e.queue e.gid (Cause.code .kill) e.nfail e.faddr (e.tstart.getD 0) s.cycle

/-- KILL_GROUP (R266). A group that has ended already, or whose sprig a program has, is left as it is (log 26). -/
def execKillGroup (gid : BitVec 16) (s : State) : Out :=
  match s.seq.resumes.find? fun e => e.gid == gid with
  | some e => seqMove s (s.killListed e)
  | none =>
    match s.group? gid with
    | some g => if g.ended.isSome || g.susp.any Susp.isSealed then .next s else .next (s.endGroup g .kill)
    | none => .next s

/-! ### Islands at bind (R214, R283, R284) -/

/-- The group-relative column and row of a relative page and a core (R283). -/
def Group.gxgy (g : Group) (k : Nat) : Nat × Nat :=
  let pg := g.pages.idxOf (pageOf k)
  (pg % (g.wid + 1) * 8 + k % 8, pg / (g.wid + 1) * 8 + k / 256 % 8)

/-- The members of an island (R283). -/
def Group.islandCores (g : Group) (d : IslandDesc) : List Nat :=
  g.cores.filter fun k =>
    let p := g.gxgy k
    decide (d.col ≤ p.1) && decide (p.1 < d.col + d.w) && decide (d.row ≤ p.2) && decide (p.2 < d.row + d.h)

/-- Some hop between adjacent members costs more than the pad (R284). -/
def State.padTooSmall (s : State) (ms : List Nat) (pad : Nat) : Bool :=
  ms.any fun k => ((inputPorts k).filter fun q => q.1 != 5 && ms.contains q.2).any fun q => decide (pad < s.hopCost k q.2)

/-- The cause that an ISBIND gets at once (R214, R284). -/
def State.bindRefused (s : State) (g : Group) (d : Option IslandDesc) (k : Nat) : Bool :=
  match d with
  | none => true
  | some d => g.sct || decide (8 * (g.wid + 1) < d.col + d.w) || decide (8 * (g.hgt + 1) < d.row + d.h)
      || !(g.islandCores d).contains k || (s.coreAt k).islBnd

/-- The timed route list of member k: for each other member, the links of the route of R246 with their cycles under the repair tables in force (R284). -/
def State.timedRoutes (s : State) (ms : List Nat) (k : Nat) : NMap (List (Nat × Nat × Nat)) :=
  (ms.filter fun j => j != k).foldl (fun m j =>
    let rs := routeTo k j
    NMap.set m j ((rs.zip (rs.drop 1)).map fun h => (h.1, portToward h.1 h.2, s.hopCost h.1 h.2))) []

/-- All members bind in one cycle, with their timed route lists (R214, R284); what is still to land from an island that has ended lands as many cycles later (log 31). -/
def State.bindIsland (s : State) (g : Group) (d : IslandDesc) : State :=
  let ms := g.islandCores d
  let routes := ms.map (s.timedRoutes ms)
  let s := (ms.zip routes).foldl (fun s e => s.setCoreAt e.1 { s.coreAt e.1 with
    islBnd := true, islIid := d.iid, islPad := d.pad, scnt := 0, routes := e.2
    landing := (s.coreAt e.1).landing.map fun x => { x with val := x.val - (s.coreAt e.1).scnt } }) s
  { s with seq := { s.seq with islands := s.seq.islands ++ [⟨g.gid, d.iid, d.pad, ms, [], 0, [], false, false⟩] } }

/-- End every waiting request of an id with a cause. -/
def State.endBinds (s : State) (gid iid : BitVec 16) (cause : BitVec 12) : State :=
  let mine := s.seq.binds.filter fun b => b.gid == gid && b.iid == iid && !b.held
  let s := { s with seq := { s.seq with binds := s.seq.binds.filter fun b => !(b.gid == gid && b.iid == iid && !b.held) } }
  mine.foldl (fun s b => s.finishTicket b.core b.tkt cause) s

/-- Bind or fail an id whose every member has asked (R214, R284): a member that has been bound in another island meanwhile lies outside the rectangle. -/
def State.tryBind (s : State) (g : Group) (d : IslandDesc) : State :=
  let ms := g.islandCores d
  let asked := s.seq.binds.filter fun b => b.gid == g.gid && b.iid == d.iid && !b.held
  if g.susp.isSome then s
  else if ms.all fun k => asked.any fun b => b.core == k then
    if s.padTooSmall ms d.pad.toNat then s.endBinds g.gid d.iid (Cause.code .padx)
    else if ms.any fun k => (s.coreAt k).islBnd then s.endBinds g.gid d.iid (Cause.code .badarg)
    else (s.bindIsland g d).endBinds g.gid d.iid 0
  else s

/-- More than 1 ms has passed since the first request of an id: ISTO comes before anything else (R214). -/
def State.bindLate (s : State) (gid iid : BitVec 16) : Bool :=
  s.seq.binds.any fun b => b.gid == gid && b.iid == iid && !b.held && decide (b.since + 3300000 < s.cycle)

/-- ISLAND_BIND of an id (R214): the next ISBIND that names it arrives; requests that a release has freed count as arriving now. -/
def execIslandBind (gid iid : BitVec 16) (s : State) : Out :=
  match (if s.bindLate gid iid then none else s.group? gid) with
  | none => .refused (.notEnabled "ISLAND_BIND")
  | some g =>
    let d := g.isls.find? fun d => d.iid == iid
    match (List.range s.seqIn.length).find? fun n => (s.seqReq? n .isbind).any fun r => r.gid == gid && r.a.extractLsb' 0 16 == iid with
    | some n =>
      match s.seqReq? n .isbind with
      | none => .refused (.notEnabled "ISLAND_BIND")
      | some r =>
        let s := s.dropReq n
        if s.bindRefused g d r.core then .next (s.finishTicket r.core r.tkt (Cause.code .badarg))
        else
          let b : BindReq := ⟨gid, iid, r.core, r.tkt, false, s.cycle⟩
          let s := { s with seq := { s.seq with binds := s.seq.binds ++ [{ b with held := b.barred s.seq.islands }] } }
          .next (match d with
            | some d => s.tryBind g d
            | none => s)
    | none =>
      match d with
      | some d =>
        let t := s.tryBind g d
        if t.seq.binds = s.seq.binds then .refused (.notEnabled "ISLAND_BIND") else .next t
      | none => .refused (.notEnabled "ISLAND_BIND")

/-- ISTO of an id, 1 ms after its first request (R214). -/
def execIsto (gid iid : BitVec 16) (s : State) : Out :=
  if s.seq.binds.any fun b => b.gid == gid && b.iid == iid && !b.held && decide (b.since + 3300000 ≤ s.cycle) then
    .next (s.endBinds gid iid (Cause.code .isto))
  else .refused (.notEnabled "ISTO")

end Sys2Proof.Machine
end

