-- ==== Sys2Proof/Machine/Governor.lean ====
section
/-! DEFINITION. The governor (R314 to R319), droop (R288) and the thermal trip (R410). -/
namespace Sys2Proof.Machine

/-! ### Charges (R318) -/

/-- Cycles of an epoch. -/
def epochCycles : Nat := 3300

/-- The quanta of the data-plane links of a field in a width state. -/
def linkQuanta (lnk : BitVec 2) : Int := if lnk = 0#2 then 256 else if lnk = 1#2 then 128 else 64

/-- The quanta of a port in a width state: 4, 2 or 1 lanes, or ×16, ×8 or ×4. -/
def portQuanta (w : BitVec 2) : Int := if w = 0#2 then 4 else if w = 1#2 then 2 else 1

/-- The floor of a field. -/
def linkFloor (f : Nat) : Int := 64 + 2 * (fieldPorts f).length

/-- The querns of a field. -/
def fieldQuerns (f : Nat) : List Nat := (fieldPages f).flatMap fun p => (pageCores p).take 64

/-- Licences held in a field, those in hand-over among them. -/
def State.heldIn (s : State) (f : Nat) : List (Nat × Quern) :=
  s.querns.filter fun e => fieldOf e.1 == f && (e.2.holder.isSome || e.2.hand.isSome)

/-- Licences that have a release request. -/
def State.requestedIn (s : State) (f : Nat) : Nat := ((s.heldIn f).filter fun e => e.2.rreq.isSome).length

/-- The N, E, S and W links of a field on a timed route of a bound island, which stay at FULL (R284, R318). -/
def State.islandLinks (s : State) (f : Nat) : Nat :=
  (s.seq.islands.flatMap fun i => i.members.flatMap fun k => (s.coreAt k).routes.flatMap fun e =>
    (e.2.filter fun h => decide (h.2.1 < 4) && fieldOf h.1 == f).map fun h => (h.1, h.2.1)).eraseDups.length

/-- What those links cost above the floor: their share of the 192 quanta that all the field's links at FULL cost above QUARTER, rounded down (log 10). -/
def State.islandCost (s : State) (f : Nat) : Int := 192 * s.islandLinks f / (8 * (fieldQuerns f).length)

/-! ### Budget (R316) -/

/-- ThermalBudget for the epoch that begins: it starts at FBUD, falls with a column above the limit, and rises up to FBUD with every column 5 °C below it. -/
def Field.thermal (x : Field) (f hot : Nat) : Int :=
  let b : Int := if x.sample.isNone then x.fbud else x.budget
  let b := if 1000 * x.limit < hot then b - 64 else if hot + 5000 ≤ 1000 * x.limit then max b (min (b + 64) x.fbud) else b
  max b (linkFloor f)

/-! ### Grants and releases (R314, R315, R317) -/

/-- A queued request that could be granted, with its age and the rank of its core in named order. -/
def State.queuedIn (s : State) (f : Nat) : List (Nat × Nat × Nat × Bool) :=
  (s.querns.filter fun e => fieldOf e.1 == f).flatMap fun e =>
    (match e.2.reqBed with
      | some n => [(n, 2 * e.1, e.1, false)]
      | none => []) ++ (match e.2.reqRun with
      | some n => [(n, 2 * e.1 + 1, e.1, true)]
      | none => [])

/-- Older first, then named order: the key of a quern is its row and column, and the bedstone stands before the runner (R315). -/
def olderFirst (a b : Nat × Nat × Nat × Bool) : Bool := decide (a.1 < b.1) || (a.1 == b.1 && decide (a.2.1 ≤ b.2.1))

/-- Grant queued requests while quanta are left; what is left. -/
def State.grantQueued (s : State) (spare : Int) : List (Nat × Nat × Nat × Bool) → State × Int
  | [] => (s, spare)
  | r :: rs =>
    let q := s.quernAt r.2.2.1
    if 0 < spare ∧ q.isFree then State.grantQueued (s.setQuernAt r.2.2.1 (q.give r.2.2.2 s.cycle)) (spare - 1) rs
    else State.grantQueued s spare rs

/-- The message of a release request on channel 59: the deadline and the epoch (R317). -/
def releaseMsg (modu : BitVec 20) (dst : BitVec 32) (gid : BitVec 16) (epoch : Nat) : Msg :=
  { armMsg modu dst gid 59 0 with payload := (natBytes (26400 + 2 ^ 32 * (epoch % 65536)) 8).map fun b => (b, false) }

/-- A holder is asked to release. -/
def State.askOne (s : State) (epoch q : Nat) : State :=
  let x := s.quernAt q
  match x.holder with
  | none => s
  | some r =>
    let k := if r then q + 65536 else q
    let c := s.coreAt k
    let s := s.setQuernAt q { x with rreq := some (c.cycle, s.cycle + 26400) }
    if c.bound 59 then { s with flight := s.flight ++ [releaseMsg s.modId c.addr c.gid epoch] } else s

/-- AskRelease(n): the oldest grants without a request, ties in named order. -/
def State.askRelease (s : State) (f epoch : Nat) (n : Int) : State :=
  let cand := (s.heldIn f).filter fun e => e.2.rreq.isNone && e.2.holder.isSome
  let sorted := cand.mergeSort fun a b => decide (a.2.grant < b.2.grant) || (a.2.grant == b.2.grant && decide (a.1 ≤ b.1))
  (sorted.take n.toNat).foldl (fun s e => s.askOne epoch e.1) s

/-! ### Links (R318) -/

/-- Narrower and wider states. -/
def narrower (w : BitVec 2) : BitVec 2 := if w = 0#2 then 1 else 2
/-- One state wider. -/
def wider (w : BitVec 2) : BitVec 2 := if w = 2#2 then 1 else 0

/-- One width state moves by at most one step: the new state, and what is left of the spare. -/
def moveLink (cost : BitVec 2 → Int) (rem : Int) (w : BitVec 2) : BitVec 2 × Int :=
  if rem < 0 then (narrower w, rem + (cost w - cost (narrower w)))
  else if cost (wider w) - cost w ≤ rem then (wider w, rem - (cost (wider w) - cost w))
  else (w, rem)

/-- Move the ports of a kind in ascending number. -/
def movePorts (ws : NMap (BitVec 2)) (rem : Int) : List Nat → NMap (BitVec 2) × Int
  | [] => (ws, rem)
  | p :: ps =>
    let r := moveLink portQuanta rem ((NMap.get? ws p).getD 0)
    movePorts (NMap.set ws p r.1) r.2 ps

/-- WidenOrNarrowLinks: the data-plane links, then the ports (log 10). The links on timed routes of bound islands stay at FULL and `free` has paid for them; the others move. -/
def Field.moveLinks (x : Field) (f : Nat) (free spare : Int) : Field :=
  let cost (w : BitVec 2) : Int := max 0 (linkQuanta w - 64 - free)
  let ps := fieldPorts f
  let ports (ws : NMap (BitVec 2)) : Int := (ps.map fun p => portQuanta ((NMap.get? ws p).getD 0) - 1).sum
  let rem := spare - cost x.lnk - ports x.yun - ports x.cxl
  let a := moveLink cost rem x.lnk
  let y := movePorts x.yun a.2 ps
  let z := movePorts x.cxl y.2 ps
  { x with lnk := a.1, yun := y.1, cxl := z.1 }

/-! ### EpochStep (R314) -/

/-- A column of field f trips the module (R410): every clock stops, and the trip is logged, as a record that the spec does not state (log 34). -/
def State.trip (s : State) (f : Nat) : State :=
  let s := s.logMgmt (Config.tripRecord s.boot.seq.toNat f)
  { s with boot := { s.boot with phase := 5, fail := 4, seq := s.boot.seq + 1 } }

/-- Cycle 0 of an epoch of field f: a hottest column at 115 °C trips the module (R410); else management's FBUD and limit take effect, the budget, Held and Requested are taken, and what the pool still holds is discarded (R314 to R316, R404). -/
def State.sampleField (s : State) (f : Nat) : State :=
  let x := s.fieldAt f
  if s.boot.phase = 4#4 ∧ x.epochAt = s.cycle then
    if 115000 ≤ Config.hottest s.cycle f then s.trip f
    else
    let x := { x with fbud := x.fbudNew, limit := x.limitNew }
    s.setFieldAt f { x with
      budget := x.thermal f (Config.hottest s.cycle f)
      epoch := if x.sample.isNone then x.epoch else x.epoch + 1
      epochAt := s.cycle + epochCycles
      sample := some ((s.heldIn f).length, s.requestedIn f)
      decideAt := some (s.cycle + 16)
      pool := 0 }
  else s

/-- EPOCH_STEP of field f (R314): the decision at cycle 16 of an epoch, on what its cycle 0 sampled. The new GATE holds from the next cycle. -/
def execEpochStep (f : Nat) (s : State) : Out :=
  let x := s.fieldAt f
  match x.sample, x.decideAt with
  | some (held, asked), some n =>
    if s.boot.phase ≠ 4#4 ∨ 64 ≤ f ∨ s.cycle < n then .refused (.notEnabled "EPOCH_STEP")
    else
      let deficit := held + linkFloor f + s.islandCost f - x.budget
      let next : Field := { x with decideAt := none, pool := 0 }
      if 0 < deficit then
        let s := s.setFieldAt f { next with gateNew := min 12 (x.gate + 4) }
        .next (s.askRelease f x.epoch (deficit - asked))
      else
        let r := s.grantQueued (-deficit) ((s.queuedIn f).mergeSort olderFirst)
        let pool := min r.2 64
        .next (r.1.setFieldAt f ({ next with gateNew := 0, pool := pool }.moveLinks f (s.islandCost f) (r.2 - pool)))
  | _, _ => .refused (.notEnabled "EPOCH_STEP")

/-- The governor status word of a field (R319); QUED shows at most its 1,024 (log 10). -/
def State.govStatus (s : State) (f : Nat) : Word :=
  let x := s.fieldAt f
  BitVec.ofNat 64 (2 ^ 48 * (x.epoch % 65536) + 2 ^ 44 * x.gate + 2 ^ 42 * x.lnk.toNat + 2 ^ 28 * (s.heldIn f).length + 2 ^ 16 * (x.budget.toNat % 4096)
    + min 1024 (s.queuedIn f).length)

/-! ### Gating, droop and heat (R288, R314, R410) -/

/-- DROOP_TRIP of core k (R288): a bound island stops from the next cycle. -/
def execDroopTrip (k : Nat) (s : State) : Out :=
  if s.seq.islands.any fun i => i.members.contains k then .next (s.setCoreAt k { s.coreAt k with droop := some ((s.coreAt k).droop.getD s.cycle) }) else .next s

/-- DROOP_CLEAR of core k (R288). -/
def execDroopClear (k : Nat) (s : State) : Out := .next (s.setCoreAt k { s.coreAt k with droop := none })

/-- THERMAL_TRIP of a column of field f (R410). -/
def execThermalTrip (f : Nat) (s : State) : Out := .next (s.trip f)

end Sys2Proof.Machine
end

