-- ==== Sys2Proof/Machine/Boot.lean ====
section
/-! DEFINITION. Boot (R405, R406), the management window (R404, R409), attestation (R407, R408), firmware and power, and what a host port reads (R386). -/
namespace Sys2Proof.Machine

/-! ### Reset (R406) -/

/-- Every change of a repair table that is under way or waits is in the stored fault map, and no advance is left. -/
def State.settleRepairs (s : State) : State :=
  let force (s : State) : State := { s.advances.foldl State.putTable s with advances := [] }
  let one (s : State) (f : Nat) : State :=
    let x := s.fieldAt f
    x.repairs.foldl (fun s p => force (s.repairPos f p.1 p.2)) (s.setFieldAt f { x with repairs := [] })
  (List.range 64).foldl one (force s)

/-- A field as a reset leaves it: its repair table from the stored fault map, which for a field with no recorded fault is the faultless one (R248), and its operating hours. -/
def Field.afterReset (x : Field) (f : Nat) : Field :=
  let y : Field := { Field.reset f with hours := x.hoursNow, rotAt := x.rotAt }
  if x.faulty.isEmpty then y else { y with nflt := x.nflt, rskip := x.rskip, rows := x.rows, faulty := x.faulty, rot := x.rot }

/-- The module after a reset or a power-on: the nonvolatile store (boot count, firmware slots, counters, signature indices, fault map) and the memory behind the CXL ports stay; everything else is as State.reset has it. -/
def State.wiped (s : State) : State :=
  let s := s.settleRepairs
  let r := State.reset
  let gone := s.seq.pages.filter fun p => p.2.retired
  { r with
    fields := s.fields.map fun e => (e.1, e.2.afterReset e.1)
    gens := gone.map fun p => (p.1, ⟨true, true, 0xFF⟩)
    seq := { r.seq with pages := gone.map fun p => (p.1, ⟨none, true, false, 0, none⟩) }
    edge := { r.edge with mem := s.edge.mem, poison := s.edge.poison }
    tick := s.tick, inputs := s.inputs
    boot := { r.boot with
      bootCnt := s.boot.bootCnt, slot0 := s.boot.slot0, slot1 := s.boot.slot1, active1 := s.boot.active1, fusedMin := s.boot.fusedMin
      correctable := s.boot.correctable, transients := s.boot.transients, uncorrectable := s.boot.uncorrectable, retirements := s.boot.retirements
      rotations := s.boot.rotations, advances := s.boot.advances, badKinds := s.boot.badKinds, frames := s.boot.frames, cfgDrop := s.boot.cfgDrop, untrained := s.boot.untrained
      otsUsed := s.boot.otsUsed, opKey := s.boot.opKey } }

/-- The slot that ROM boots: valid, at or above the fused minimum, the higher version; slot 0 of equals. -/
def Boot.pick (b : Boot) : Option Bool :=
  let ok (x : FwSlot) : Bool := x.valid && decide (b.fusedMin ≤ x.ver)
  if ok b.slot0 && (!ok b.slot1 || decide (b.slot1.ver ≤ b.slot0.ver)) then some false else if ok b.slot1 then some true else none

/-- A reset begins: ROM raises the boot count before anything else (R406, step 1). The slots as they stand now decide what is booted: an update written later waits for the next reset. FWVER reads as the version that ROM will boot (R405). -/
def State.bootUp (s : State) : State :=
  let s := s.wiped
  let b := s.boot
  let ver (a : Bool) : BitVec 16 := if a then b.slot1.ver else b.slot0.ver
  { s with boot := { b with
    bootCnt := b.bootCnt + 1, fwVer := (b.pick.map ver).getD 0, picked := b.pick, active1 := b.pick.getD b.active1
    pickFail := if b.slot0.valid || b.slot1.valid then 2 else 1 } }

/-- Step 2: ROM checks the firmware slots. -/
def State.bootFirmware (s : State) : State :=
  let b := s.boot
  match b.picked with
  | none => { s with boot := { b with phase := 5, fail := b.pickFail } }
  | some _ => { s with boot := { b with phase := 1 } }

/-- A field with a failed bypass path has all its pages retired (R250, R258). -/
def State.retireField (s : State) (f : Nat) : State :=
  (fieldPages f).foldl (fun s p => { s.setPage p { s.pageAt p with retired := true } with gens := NMap.set s.gens p ⟨true, true, 0xFF⟩ }) s

/-- Step 3: the field agents load the fault map and test the bypass paths. -/
def State.bootFabric (s : State) : State :=
  let n := s.boot.bootCnt.toNat
  if Config.faultMapBad n then { s with boot := { s.boot with phase := 5, fail := 3 } }
  else
    let s := ((List.range 64).filter (Config.bypassBad n)).foldl State.retireField s
    { s with boot := { s.boot with phase := 2 } }

/-- The next boot step of R406, if one is left to make: firmware checked, fabric tested, awaiting configuration. A failed step sets FAIL and PHASE 5. -/
def State.bootStep (s : State) : Option State :=
  if !s.boot.power then none
  else match s.boot.phase.toNat with
    | 0 => some s.bootFirmware
    | 1 => some s.bootFabric
    | 2 => some { s with boot := { s.boot with phase := 3 } }
    | _ => none

/-- RST (R404, R406): it resets a module that has power; the bit reads 1 until the next cycle. -/
def execRst (s : State) : Out :=
  if s.boot.power then
    let s := s.bootUp
    .next { s with boot := { s.boot with rstAt := some s.cycle } }
  else .next s

/-- MODULE_RESET: power-on or reset (R406). -/
def execModuleReset (s : State) : Out := .next s.bootUp

/-- POWER_LOSS (R407): all program state is lost; the module waits for power. -/
def execPowerLoss (s : State) : Out :=
  let s := s.wiped
  .next { s with boot := { s.boot with power := false } }

/-- Link training of CXL port p (R376): a memory port whose partner is not a single Type 3 device is disabled and counted (log 24). -/
def State.trainPort (s : State) (p : Nat) : State :=
  if s.edge.role p = 2 ∧ Config.soleType3 s.boot.bootCnt.toNat p = false then
    { s with edge := { s.edge with roles := NMap.set s.edge.roles p 0 }, boot := { s.boot with untrained := satInc s.boot.untrained } }
  else s

/-- GO (R406): the identifier is copied to every NAME, the edge links train, and the governor's first epoch begins; a second GO has no effect. -/
def execGo (s : State) : Out :=
  if s.boot.phase ≠ 3#4 then .next s
  else
    let m := s.boot.modidReg
    let rename (c : Core) : Core := { c with name := 0#12 ++ (m ++ c.name.extractLsb' 0 32) }
    let s := { s with modId := m, cores := s.cores.map fun e => (e.1, rename e.2), boot := { s.boot with phase := 4, goAt := some s.cycle } }
    .next ((List.range 64).foldl (fun s f => s.setFieldAt f { s.fieldAt f with epochAt := s.cycle + 1 }) ((List.range 48).foldl State.trainPort s))

/-! ### Firmware (R406) -/

/-- FIRMWARE_UPDATE: the security core writes the inactive slot. -/
def execFirmwareUpdate (ver : BitVec 16) (sigOk : Bool) (s : State) : Out :=
  let x : FwSlot := ⟨ver, sigOk⟩
  .next { s with boot := if s.boot.active1 then { s.boot with slot0 := x } else { s.boot with slot1 := x } }

/-- RAISE_FUSED_MINIMUM: a signed request; the fuses never fall. -/
def execRaiseFusedMinimum (v : BitVec 16) (sigOk : Bool) (s : State) : Out :=
  .next (if sigOk && decide (s.boot.fusedMin < v) then { s with boot := { s.boot with fusedMin := v } } else s)

/-! ### Attestation (R407, R408) -/

/-- One-time indices of an operational key. -/
def otsLimit : Nat := 1048576

/-- A one-time index is stored before the signature made with it leaves (R407); the next operational key follows one whose indices have run out. -/
def Boot.spendIndex (b : Boot) : Boot :=
  if b.otsUsed < otsLimit then { b with otsUsed := b.otsUsed + 1 } else { b with opKey := b.opKey + 1, otsUsed := 1 }

/-- NONCE_WRITE of word i: discarded while a report is being made; the last word starts a report, whose one-time index is stored first. -/
def execNonceWrite (i : BitVec 2) (v : Word) (s : State) : Out :=
  let b := s.boot
  if b.making then .next s
  else
    let b := { b with nonce := b.nonce.set i.toNat v i.isLt }
    if i = 3#2 then
      let b := b.spendIndex
      .next { s with boot := { b with making := true, attest := (b.opKey, b.otsUsed) } }
    else .next { s with boot := b }

/-- The attestation header: MOD is the MODID register (R404, R408). -/
def State.attestHeader (s : State) : List Word :=
  let retired := (s.seq.pages.filter fun p => p.2.retired).map Prod.fst
  let fmd := Config.faultMapDigest ((s.fields.filter fun e => !e.2.faulty.isEmpty).map fun e => (e.1, e.2.faulty)) retired
  [s.boot.modidReg ++ (0#12 ++ s.boot.bootCnt), s.boot.fwVer ++ (0#37 ++ BitVec.ofNat 11 (1024 - retired.length)), fmd.extractLsb' 0 64, fmd.extractLsb' 64 64]
    ++ s.boot.nonce.toList

/-- ATTEST_READY (R407, R408): the header, the certificate and the signature, made with the index stored for it, become readable. -/
def execAttestReady (s : State) : Out :=
  let b := s.boot
  if b.making then
    let h := s.attestHeader
    .next { s with boot := { b with making := false, reportWords := h ++ Config.attestTail b.attest.1 b.attest.2 h } }
  else .refused (.notEnabled "ATTEST_READY")

/-! ### Writes (R404) -/

/-- TREE_SLOT_SELECT (R404). -/
def execTreeSlotSelect (w : Word) (s : State) : Out := .next { s with boot := { s.boot with treeSel := w &&& 0x3FFFFFFFFF } }

/-- Write one entry of the module route table (R391): region entries, then near entries from 4,096. -/
def Boot.putRoute (b : Boot) (key : Nat) (v : BitVec 16) : Boot := { b with routes := NMap.set b.routes key (v &&& 0x803F) }

/-- ROUTE_UPDATE of a region or a near entry (R391, R392). -/
def execRouteUpdate (near : Bool) (i : BitVec 12) (v : BitVec 16) (s : State) : Out :=
  let key := if near then 4096 + i.toNat % 256 else i.toNat
  .next { s with boot := s.boot.putRoute key v }

/-- GO has been accepted since the reset. -/
def Boot.went (b : Boot) : Bool := b.phase == 4#4 || b.goAt.isSome

/-- A write to a register marked "until GO": after GO it is discarded and counted in CFGDROP. -/
def State.untilGo (s : State) (f : State → State) : State :=
  if s.boot.went then { s with boot := { s.boot with cfgDrop := satInc s.boot.cfgDrop } } else f s

/-- A field of a word replaced. -/
def putField (w v : Word) (lo n : Nat) : Word :=
  let m : Word := BitVec.ofNat 64 ((2 ^ n - 1) * 2 ^ lo)
  (w &&& ~~~m) ||| (v &&& m)

/-- A Yunavy port's word 0 after a write (R390): MODE 3 and a TOUT outside its range are discarded, and ENC = 0 holds only in local mode. -/
def portWord0 (old v : Word) : Word :=
  let w := putField (putField (putField old v 63 1) v 60 1) v 16 36
  let w := if fld v 61 2 = 3 then w else putField w v 61 2
  let w := if 100 ≤ fld v 0 16 ∧ fld v 0 16 ≤ 60000 then putField w v 0 16 else w
  if fld w 61 2 = 1 then w else setBit w 60 true

/-- A Yunavy port. -/
def State.portAt (s : State) (p : Nat) : YPort := (NMap.get? s.yun p).getD YPort.reset

/-- Replace a Yunavy port. -/
def State.setPort (s : State) (p : Nat) (x : YPort) : State := { s with yun := NMap.set s.yun p x }

/-- Write word j of a Yunavy port. -/
def State.writePort (s : State) (p j : Nat) (v : Word) : State :=
  let x := s.portAt p
  match j with
  | 0 => s.setPort p { x with w := x.w.set 0 (portWord0 x.w[0] v) }
  | 1 => s.setPort p { x with w := x.w.set 1 v }
  | 2 => s.setPort p { x with w := x.w.set 2 v }
  | _ => s.setPort p { x with w := x.w.set 3 (v &&& 0x0000FFFFFFFFFFFF) }

/-- A write that breaks the rules of interleave sets is discarded and reported in the management log (R378). -/
def State.breaksSets (s : State) (off : Nat) (v : Word) : State :=
  let s := s.logMgmt (mkRecord (Cause.code .badarg) 2 0 0 false false 0 0 v 0 0 0 (BitVec.ofNat 64 off) (BitVec.ofNat 64 s.cycle) s.boot.seq)
  { s with boot := { s.boot with seq := s.boot.seq + 1 } }

/-- Write a CXL port's role (R376): host only on ports 0 to 3. A port that a valid set names stays a memory port (R378). -/
def State.writeRole (s : State) (p : Nat) (v : Word) : State :=
  let r : BitVec 2 := v.extractLsb' 0 2
  if r = 3#2 ∨ (r = 1#2 ∧ 4 ≤ p) then s
  else if r ≠ 2#2 ∧ s.edge.named p then s.breaksSets (0x182000 + 8 * p) v
  else { s with edge := { s.edge with roles := NMap.set s.edge.roles p r } }

/-- An interleave set that is valid names powers of two, memory ports and no address of another (R378). -/
def Edge.setFits (e : Edge) (k : Nat) (x : Word × Word × Word) : Bool :=
  !setV x || (([1, 2, 4, 8, 16, 32] : List Nat).contains (setWays x) && decide (setGran x ≤ 14) && decide (setBase x + setSize x ≤ 2 ^ 46)
    && (List.range (setWays x)).all (fun i => e.role (setPort x i) == 2)
    && e.sets.all fun y => y.1 == k || !setV y.2 || decide (setBase x + setSize x ≤ setBase y.2) || decide (setBase y.2 + setSize y.2 ≤ setBase x))

/-- Write word j of interleave set k; a write that breaks the rules of sets is discarded and reported in the management log. -/
def State.writeSet (s : State) (k j : Nat) (v : Word) : State :=
  let old := (NMap.get? s.edge.sets k).getD (0, 0, 0)
  let x := match j with
    | 0 => (v &&& 0xE00F1F000FFFFFFF, old.2)
    | 1 => (old.1, v &&& 0x0FFFFFFF, old.2.2)
    | _ => (old.1, old.2.1, v)
  if s.edge.setFits k x then { s with edge := { s.edge with sets := NMap.set s.edge.sets k x } }
  else s.breaksSets (0x183000 + 24 * k + 8 * j) v

/-- MGMT_WRITE (R404): a write at the offset 0x10_0000 + off of a host port's window, to a register without a row of its own. An offset that names none is left alone. -/
def execMgmtWrite (off : BitVec 20) (v : Word) (s : State) : Out :=
  let o := off.toNat
  let b := s.boot
  .next (
    if o % 8 ≠ 0 then s
    else if o = 0x80100 then s.untilGo fun s => { s with boot := { s.boot with modidReg := v.extractLsb' 0 20 } }
    else if o = 0x80108 then { s with edge := { s.edge with asidTab := v } }
    else if o = 0x80110 then { s with boot := { b with compAddr := v } }
    else if o = 0x80118 then { s with boot := { b with compSize := v } }
    else if o = 0x80120 then { s with boot := { b with trust := v } }
    else if 0x81000 ≤ o ∧ o < 0x81000 + 0x20 * 48 then s.untilGo fun s => s.writePort ((o - 0x81000) / 32) ((o - 0x81000) / 8 % 4) v
    else if 0x82000 ≤ o ∧ o < 0x82000 + 8 * 48 then s.untilGo fun s => s.writeRole ((o - 0x82000) / 8) v
    else if 0x83000 ≤ o ∧ o < 0x83000 + 24 * 8 then s.writeSet ((o - 0x83000) / 24) ((o - 0x83000) / 8 % 3) v
    else if 0x84000 ≤ o ∧ o < 0x86200 then
      { s with boot := (List.range 4).foldl (fun b i => b.putRoute ((o - 0x84000) / 2 + i) (v.extractLsb' (16 * i) 16)) b }
    else if 0xA0200 ≤ o ∧ o < 0xA0200 + 8 * 64 then
      let f := (o - 0xA0200) / 8
      s.setFieldAt f { s.fieldAt f with fbudNew := fld v 0 12, limitNew := fld v 48 12 }
    else s)

/-! ### Reads (R386, R404, R405, R409) -/

/-- BOOTST (R405). -/
def Boot.status (b : Boot) : Word := b.bootCnt ++ (b.fwVer ++ (0#8 ++ (b.fail ++ b.phase)))

/-- Word j of the selected tree slot (R295). -/
def State.treeSlotWord (s : State) (j : Nat) : Word :=
  let r := (s.boot.treeSel.extractLsb' 0 17).toNat
  let slot := fld s.boot.treeSel 32 6
  match s.trees.findSome? fun t => (t.entries.find? fun e => e.router == r && e.slot == slot).map fun e => (t, e) with
  | none => 0
  | some (t, e) =>
    let d := t.desc
    let opn := ((s.coreAt r).treeMem t.tid).opens.length
    let bit (b : Bool) (n : Nat) : Nat := if b then 2 ^ n else 0
    match j with
    | 0 => BitVec.ofNat 64 (2 ^ 63 + 2 ^ 60 * e.par.toNat + (((List.range 6).filter fun p => e.chm.getLsbD p).map fun p => 2 ^ (54 + p)).sum + 2 ^ 52 * descForm d
        + bit (descQrm d) 51 + bit (descXm d) 50 + 2 ^ 46 * descOpc d + 2 ^ 42 * (descTy d).code.toNat + 2 ^ 36 * descSlen d + 2 ^ 34 * opn
        + 2 ^ 20 * t.tid.toNat + t.gid.toNat)
    | 1 => BitVec.ofNat 64 (2 ^ 48 * (e.step % 65536) + 2 ^ 40 * e.nbuf + 2 ^ 30 * e.bufb + 2 ^ 24 * (descCh d).toNat)
    | 2 => if r = t.root then BitVec.ofNat 64 (2 ^ 32 * descQcnt d + descDln d) else 0
    | n => if descOpc d = 12 then BitVec.ofNat 64 (leNat ((e.sc.drop (8 * (n - 3))).take 8)) else 0

/-- A word of a field's repair table: the header, then the rows (R248). -/
def Field.tableWord (x : Field) (j : Nat) : Word :=
  if j = 0 then BitVec.ofNat 64 (2 ^ 48 * x.rot.toNat + 2 ^ 32 * x.nflt.toNat + x.rskip.toNat)
  else if j ≤ 33 then
    let r := x.row (j - 1)
    BitVec.ofNat 64 ((if r.flt then 2 ^ 15 else 0) + (if r.mult then 2 ^ 14 else 0) + r.cskip.toNat)
  else 0

/-- Word j of a log of records. -/
def logWord (log : List (List Word)) (next j : Nat) : Word :=
  let i := j / 8
  let oldest := (next + 256 - log.length) % 256
  ((log[(i + 256 - oldest) % 256]?).getD []).getD (j % 8) 0

/-- Module power over the last epoch, the hottest column now, and the coolant inlet (R409). -/
def State.powerWord (s : State) : Word :=
  let hot := (((List.range 64).map (Config.hottest s.cycle)).foldl max 0) / 1000
  Config.coolantInlet s.cycle ++ (BitVec.ofNat 16 hot ++ Config.modulePower (s.fieldAt 0).epochAt)

/-- What the management window reads at an offset (R404). -/
def State.mgmtRead (s : State) (o : Nat) : Word :=
  let b := s.boot
  if o = 0x180000 then b.status
  else if o = 0x180008 then (if b.goAt = some s.cycle then 1 else 0) ||| (if b.rstAt = some s.cycle then 2 else 0)
  else if o = 0x180100 then b.modidReg.setWidth 64
  else if o = 0x180108 then s.edge.asidTab
  else if o = 0x180110 then b.compAddr
  else if o = 0x180118 then b.compSize
  else if o = 0x180120 then b.trust
  else if 0x181000 ≤ o ∧ o < 0x181600 then (s.portAt ((o - 0x181000) / 32)).w.toList.getD ((o - 0x181000) / 8 % 4) 0
  else if 0x182000 ≤ o ∧ o < 0x182180 then ((NMap.get? s.edge.roles ((o - 0x182000) / 8)).getD 0).setWidth 64
  else if 0x183000 ≤ o ∧ o < 0x1830C0 then
    let x := (NMap.get? s.edge.sets ((o - 0x183000) / 24)).getD (0, 0, 0)
    match (o - 0x183000) / 8 % 3 with
    | 0 => x.1
    | 1 => x.2.1
    | _ => x.2.2
  else if 0x184000 ≤ o ∧ o < 0x186200 then
    let r (i : Nat) : Nat := ((NMap.get? b.routes ((o - 0x184000) / 2 + i)).getD 0).toNat
    BitVec.ofNat 64 (r 0 + 2 ^ 16 * r 1 + 2 ^ 32 * r 2 + 2 ^ 48 * r 3)
  else if 0x190000 ≤ o ∧ o < 0x198000 then (s.fieldAt ((o - 0x190000) / 512)).tableWord ((o - 0x190000) / 8 % 64)
  else if 0x1A0000 ≤ o ∧ o < 0x1A0200 then s.govStatus ((o - 0x1A0000) / 8)
  else if 0x1A0200 ≤ o ∧ o < 0x1A0400 then
    let x := s.fieldAt ((o - 0x1A0200) / 8)
    BitVec.ofNat 64 (2 ^ 48 * x.limitNew + x.fbudNew)
  else if o = 0x1B0000 then b.treeSel
  else if 0x1B0008 ≤ o ∧ o < 0x1B0040 then s.treeSlotWord ((o - 0x1B0008) / 8)
  else if 0x1C0000 ≤ o ∧ o < 0x1C0050 then
    match (o - 0x1C0000) / 8 with
    | 0 => b.correctable
    | 1 => b.transients
    | 2 => b.uncorrectable
    | 3 => b.retirements
    | 4 => b.rotations
    | 5 => b.advances
    | 6 => b.badKinds
    | 7 => b.frames
    | 8 => b.cfgDrop
    | _ => s.powerWord
  else if 0x1D0000 ≤ o ∧ o < 0x1D0020 then b.nonce.toList.getD ((o - 0x1D0000) / 8) 0
  else if 0x1D0040 ≤ o ∧ o < 0x1E0000 then b.reportWords.getD ((o - 0x1D0040) / 8) 0
  else if 0x1E0000 ≤ o ∧ o < 0x1E4000 then logWord b.log b.logNext ((o - 0x1E0000) / 8)
  else if o = 0x1E4000 then logControl b.log b.logNext b.lost
  else 0

/-- What an access of `n` bytes at an offset of a host port's launch window reads (R386): one that is not of 8 bytes, aligned, reads as all ones. -/
def State.windowRead (s : State) (o n : Nat) : Word :=
  if o % 8 ≠ 0 ∨ n ≠ 8 then BitVec.allOnes 64
  else if o < 0x10000 then
    let x := s.queueAt (BitVec.ofNat 4 (o / 0x1000))
    if o % 0x1000 = 0x40 then x.status else if o % 0x1000 = 0x48 then logControl x.log x.logNext x.lost else 0
  else if o < 0x50000 then
    let x := s.queueAt (BitVec.ofNat 4 ((o - 0x10000) / 0x4000))
    logWord x.log x.logNext ((o - 0x10000) / 8 % 2048)
  else if o = 0x50000 then s.edge.xinv ||| (if s.edge.xinvDone then 0x8000000000000000 else 0)
  else if o = 0x50008 then s.edge.xrange
  else if 0x80000 ≤ o ∧ o < 0x100000 then
    let e := s.eventAt ((o - 0x80000) / 8)
    (e.count.setWidth 64 : Word) ||| (if e.fail then 0x100000000 else 0)
  else if 0x100000 ≤ o ∧ o < 0x100400 then (if o % 16 = 0 then (NMap.get? s.edge.msix ((o - 0x100000) / 16)).getD 0 else 0)
  else if 0x180000 ≤ o then s.mgmtRead o
  else 0

end Sys2Proof.Machine
end

