-- ==== Sys2Proof/Machine/SprigBytes.lean ====
section
/-! DEFINITION. A sprig as bytes (R342 to R349): the header, the section table, core blocks, context records, and the sections of local store, tokens, debts, trees and islands. Where the spec gives a section no layout, the one used here is the model's own (log 8). -/
namespace Sys2Proof.Machine

/-- The bytes of a word. -/
def w64 (x : Word) : List Byte := natBytes x.toNat 8

/-- Bytes filled up with zero to a length. -/
def padTo (n : Nat) (bs : List Byte) : List Byte := bs ++ List.replicate (n - bs.length) 0

/-- Bytes filled up to a multiple of 64. -/
def pad64 (bs : List Byte) : List Byte := padTo ((bs.length + 63) / 64 * 64) bs

/-- Bytes `n` from offset `o`. -/
def slice (bs : List Byte) (o n : Nat) : List Byte := (bs.drop o).take n

/-- The little-endian number at an offset. -/
def numAt (bs : List Byte) (o n : Nat) : Nat := leNat (slice bs o n)

/-! ### Context records (R346) -/

/-- The SUB of R81 with its counter index and operand. -/
def Wait.words : Wait → Word
  | .none => 0
  | .ctr k v => (v ++ (0#20 ++ (k ++ 0#8)) : BitVec 64)
  | .batch n => BitVec.ofNat 64 (1 + 2 ^ 32 * n.toNat)
  | .lic => 2
  | .tkt t => BitVec.ofNat 64 (3 + 2 ^ 32 * t.toNat)
  | .chan ch => BitVec.ofNat 64 (4 + 2 ^ 32 * ch.toNat)

/-- The wait condition of a record. -/
def Wait.ofWord (w : Word) : Wait :=
  match fld w 0 3 with
  | 0 => .ctr (BitVec.ofNat 4 (fld w 8 4)) (BitVec.ofNat 32 (fld w 32 32))
  | 1 => .batch (BitVec.ofNat 16 (fld w 32 32))
  | 2 => .lic
  | 3 => .tkt (BitVec.ofNat 16 (fld w 32 32))
  | _ => .chan (BitVec.ofNat 6 (fld w 32 32))

/-- A feed-queue entry. -/
def FqEntry.bytes (e : FqEntry) : List Byte :=
  padTo 96 (natBytes e.data.toNat 64 ++ natBytes e.side.toNat 16 ++ natBytes e.marks.toNat 2)

/-- The entry in 96 bytes. -/
def FqEntry.ofBytes (bs : List Byte) : FqEntry :=
  ⟨BitVec.ofNat 512 (numAt bs 0 64), BitVec.ofNat 128 (numAt bs 64 16), BitVec.ofNat 9 (numAt bs 80 2), none⟩

/-- A context's state code; a captured context does not run. -/
def CtxSt.code : CtxSt → Nat
  | .free => 0
  | .running => 1
  | .ready => 1
  | .parked => 2

/-- The record of context k (R346). Guard g0 reads as 1. -/
def Core.ctxBytes (c : Core) (k : BitVec 2) : List Byte :=
  let x := c.ctxAt k
  let r := if x.st = .free then { Regs.reset with openBatch := x.regs.openBatch } else x.regs
  let w0 : Word := BitVec.ofNat 64 (x.st.code + 4 * x.base.toNat + (if x.prv then 32 else 0) + (if r.handler then 64 else 0) + 2 ^ 32 * r.pc.toNat)
  let batches := (c.unfinished k).length
  let q (f : FeedQ) : List Byte := padTo 1536 (f.live.flatMap FqEntry.bytes)
  let vecs := (List.range 32).flatMap fun i => natBytes (r.rdV (BitVec.ofNat 5 i)).toNat 64 ++ natBytes (r.rdSide (BitVec.ofNat 5 i)).toNat 16
  padTo 6144 (w64 w0 ++ w64 r.astatWord ++ w64 (if x.st = .parked then x.wait.words else 0)
    ++ w64 (BitVec.ofNat 64 (r.openBatch.toNat + 65536 * batches))
    ++ w64 (BitVec.ofNat 64 (r.sp.toNat + 2 ^ 32 * (r.g ||| 1).toNat))
    ++ w64 (BitVec.ofNat 64 (x.fq0.live.length + 256 * x.fq1.live.length))
    ++ w64 (BitVec.ofNat 64 x.wd) ++ w64 0
    ++ r.s.toList.flatMap w64 ++ r.m.toList.flatMap w64 ++ vecs ++ q x.fq0 ++ q x.fq1)

/-- The context of a record; its watchdog limit is the core's. -/
def ctxOfBytes (bs : List Byte) (lim now : Nat) : Ctx :=
  let w0 := contWord bs 0
  let w3 := contWord bs 0x18
  let w4 := contWord bs 0x20
  let w5 := contWord bs 0x28
  let st : CtxSt := match fld w0 0 2 with
    | 0 => .free
    | 1 => .ready
    | _ => .parked
  let q (o n : Nat) : FeedQ := ⟨(List.range n).map fun i => FqEntry.ofBytes (slice bs (o + 96 * i) 96), [], 0⟩
  let prio : BitVec 3 := BitVec.ofNat 3 (fld w0 2 3)
  let regs : Regs :=
    { s := Vector.ofFn fun i => contWord bs (0x40 + 8 * i.val)
      sp := BitVec.ofNat 32 (fld w4 0 32)
      v := Vector.ofFn fun i => BitVec.ofNat 512 (numAt bs (0x180 + 80 * i.val) 64)
      side := Vector.ofFn fun i => BitVec.ofNat 128 (numAt bs (0x180 + 80 * i.val + 64) 16)
      g := BitVec.ofNat 8 (fld w4 32 8) &&& 0xFE
      m := Vector.ofFn fun i => contWord bs (0x140 + 8 * i.val)
      pc := BitVec.ofNat 20 (fld w0 32 20)
      astat := (contWord bs 8).setWidth _
      openBatch := BitVec.ofNat 16 (fld w3 0 16)
      batchUsed := false
      handler := fld w0 6 1 == 1 }
  { regs := regs, fq0 := q 0xB80 (fld w5 0 5), fq1 := q 0x1180 (fld w5 8 5), st := st
    wait := if st = .parked then Wait.ofWord (contWord bs 0x10) else .none
    wd := numAt bs 0x30 4, wdLimit := lim, prio := prio, base := prio, since := now, prv := fld w0 5 1 == 1, copyAddr := 0, copyLen := 0
    trapRec := Vector.replicate 8 0, fence := Prereq.none, rstack := [] }

/-! ### Core blocks (R345) -/

/-- The pending activation in 32 bytes; `marked` says whether its payload holds a marked word. -/
def Pend.ofBytes (bs : List Byte) (now : Nat) (marked : Nat → Nat → Bool) : Pend :=
  let w := contWord bs 0
  let mode := fld w 8 2
  let addr := fld w 32 20
  let len := fld w 52 12
  let psn := fld (contWord bs 24) 1 1 == 1
  { mode := BitVec.ofNat 2 mode, ch := BitVec.ofNat 6 (fld w 0 6), sender := contWord bs 8, addr := BitVec.ofNat 20 addr, len := BitVec.ofNat 12 len
    word := contWord bs 16, psn := psn, anyPsn := psn || (decide (mode ≤ 1) && marked addr len)
    set := BitVec.ofNat 4 (fld w 10 4), psnMask := BitVec.ofNat 8 (fld w 16 8)
    size := if mode = 0 then (len + 63) / 64 else if mode = 1 then 1 else 0, since := now }

/-- An accumulator. -/
def Acc.bytes (a : Acc) : List Byte :=
  padTo 6208 (a.n.toList.flatMap (fun x => natBytes x.toNat 6) ++ w64 a.stWord ++ natBytes a.org.toNat 16)

/-- The accumulator in 6,208 bytes: T, mode, flags and PTL as ACCST has them (R31). -/
def Acc.ofBytes (bs : List Byte) : Acc :=
  let w := contWord bs 6144
  ⟨Vector.ofFn fun i => BitVec.ofNat 48 (numAt bs (6 * i.val) 6), w.extractLsb' 48 16, w.getLsbD 32, w.extractLsb' 0 7, w.getLsbD 8, BitVec.ofNat 128 (numAt bs 6152 16)⟩

/-- A latch. -/
def Latch.bytes (l : Latch) : List Byte := padTo 2624 (natBytes l.data.toNat 2048 ++ natBytes l.hdr.toNat 512 ++ natBytes l.tag.toNat 1)

/-- The latch in 2,624 bytes. -/
def Latch.ofBytes (bs : List Byte) : Latch :=
  ⟨BitVec.ofNat 4 (numAt bs 2560 1), BitVec.ofNat 16384 (numAt bs 0 2048), BitVec.ofNat 4096 (numAt bs 2048 512)⟩

/-- A ticket slot. -/
def Core.slotBytes (c : Core) (i : Nat) : List Byte :=
  match NMap.get? c.slots i with
  | some x => w64 (x.tkt.setWidth 64 <<< 48 ||| (c.ticketWord x.tkt &&& 0xFFFFFFF)) ++ w64 (c.rdWord (0xFE000 + 8 * i))
  | none => w64 2 ++ w64 0

/-- The slot in 16 bytes; none for one that holds no ticket. -/
def Slot.ofBytes (bs : List Byte) : Option Slot :=
  let w := contWord bs 0
  if fld w 1 1 = 1 then none
  else some ⟨BitVec.ofNat 16 (fld w 48 16), BitVec.ofNat 4 (fld w 8 4), fld w 0 1 == 1, BitVec.ofNat 12 (fld w 16 12), fld w 2 1 == 1⟩

/-- The block of a core. -/
def Core.block (c : Core) : List Byte :=
  let w3 := (if c.clean then 1 else 0) + (if c.retiring.isSome then 2 else 0) + 256 * (c.nextTkt.toNat % 256) + 65536 * (c.nextTkt.toNat / 256)
  padTo 64 (w64 (c.relpos.extractLsb' 0 32 |>.setWidth 64) ++ w64 c.trapvec ++ w64 (c.wdogLim.setWidth 64) ++ w64 (BitVec.ofNat 64 w3))
    ++ c.ctr.toList.flatMap (fun x => natBytes x.toNat 4)
    ++ c.rdBytes 0xFD800 2048
    ++ padTo 16384 (c.pend.flatMap Pend.bytes)
    ++ c.rdBytes 0xF4000 32768
    ++ (([0, 1, 2, 3] : List (BitVec 2)).flatMap c.ctxBytes)
    ++ c.acc.toList.flatMap Acc.bytes ++ c.latch.toList.flatMap Latch.bytes
    ++ (List.range 256).flatMap c.slotBytes ++ List.replicate 2048 0

/-- A core from its block, its kept bytes and marks, the image, the group's names and its page map (R347, R356). What does not belong to the group stays as `old` has it. -/
def coreOfBlock (old : Core) (grpid name relpos : Word) (image : List Byte) (map : List Byte) (kept : Mem) (marks : List Nat) (now : Nat) (bs : List Byte) : Core :=
  let w3 := contWord bs 24
  let lim := BitVec.ofNat 32 (numAt bs 16 4)
  let clean := fld w3 0 1 == 1
  let ls := if clean then Mem.putBytes [] 0 image else kept
  let ls := Mem.putBytes (Mem.putBytes (Mem.putBytes (if clean then kept.foldl (fun m e => m.put e.1 e.2) ls else ls) 0xF4000 (slice bs 0x4880 32768))
    0xFD800 (slice bs 0x80 2048)) 0xFC000 map
  let ls := (List.range 256).foldl (fun m i => Mem.putBytes m (0xFE000 + 8 * i) (slice bs (0x19E00 + 16 * i + 8) 8)) ls
  let marked (a n : Nat) : Bool := marks.any fun w => decide (a < 8 * w + 8) && decide (8 * w < a + n)
  let pends := ((List.range 512).map fun i => slice bs (0x880 + 32 * i) 32).filter fun p => fld (contWord p 24) 0 1 == 1
  let slots := (List.range 256).foldl (fun (m : NMap Slot) i =>
    match Slot.ofBytes (slice bs (0x19E00 + 16 * i) 16) with
    | some x => NMap.set m i x
    | none => m) []
  let c := { Core.reset 0 old.pos with
    ctxs := Vector.ofFn fun i => ctxOfBytes (slice bs (0xC880 + 6144 * i.val) 6144) (wdLimitOf lim) old.now
    acc := Vector.ofFn fun i => Acc.ofBytes (slice bs (0x12880 + 6208 * i.val) 6208)
    latch := Vector.ofFn fun i => Latch.ofBytes (slice bs (0x18980 + 2624 * i.val) 2624)
    ctr := Vector.ofFn fun i => BitVec.ofNat 32 (numAt bs (0x40 + 4 * i.val) 4)
    grpid := grpid, name := name, relpos := relpos, trapvec := contWord bs 8, wdogLim := lim, ls := ls, marks := marks, slots := slots
    nextTkt := BitVec.ofNat 16 (fld w3 8 16), clean := clean, imgLen := image.length, cycle := old.cycle, free := old.free, seq := old.seq
    reports := old.reports, ueHours := old.ueHours, droop := old.droop, issueAt := now }
  { c with pend := pends.map fun p => Pend.ofBytes p old.now marked }

/-! ### Local store (R347) -/

/-- The kept bytes of a core: the image range when it is not clean, and the keep regions, in ascending address. -/
def Group.keptRanges (g : Group) (c : Core) : List (Nat × Nat) :=
  let rs := (g.regions.filter fun r => r.kind == 0).map fun r => (r.base, r.size)
  let all := if c.clean then rs else (0, g.imgLen) :: rs
  all.mergeSort fun a b => decide (a.1 ≤ b.1)

/-- The kept bytes of a core in order. -/
def Group.keptBytes (g : Group) (c : Core) : List Byte := (g.keptRanges c).flatMap fun r => c.rdBytes r.1 r.2

/-- The marked words of a core that a capture holds: those of kept bytes and of the channel queues. -/
def Group.keptMarks (g : Group) (c : Core) : List Nat :=
  c.marks.filter fun w => (decide (0xF4000 ≤ 8 * w) && decide (8 * w < 0xFC000))
    || (g.keptRanges c).any fun r => decide (r.1 < 8 * w + 8) && decide (8 * w < r.1 + r.2)

/-- The LOCAL section: index records, kept bytes, and then one word for each marked word: core number above bit 32, word number below. -/
def Group.localBytes (g : Group) (cs : List Core) : List Byte :=
  let parts := cs.map g.keptBytes
  let base := 16 * cs.length
  let idx := (parts.foldl (fun (a : Nat × List Byte) p => (a.1 + p.length, a.2 ++ w64 (BitVec.ofNat 64 a.1) ++ w64 (BitVec.ofNat 64 p.length))) (base, [])).2
  let marks := (cs.zip (List.range cs.length)).flatMap fun e => (g.keptMarks e.1).flatMap fun w => w64 (BitVec.ofNat 64 (2 ^ 32 * e.2 + w))
  idx ++ parts.flatten ++ marks

/-- The kept bytes of core i as a memory: its ranges with their bytes. -/
def localMem (rs : List (Nat × Nat)) (bs : List Byte) : Mem :=
  (rs.foldl (fun (a : Mem × List Byte) r => (a.1.putBytes r.1 (a.2.take r.2), a.2.drop r.2)) ([], bs)).1

/-- The marked words of core i in a LOCAL section of n cores. -/
def localMarks (sec : List Byte) (n i : Nat) : List Nat :=
  let last := 16 * (n - 1)
  let from' := if n = 0 then 0 else numAt sec last 8 + numAt sec (last + 8) 8
  ((List.range ((sec.length - from') / 8)).map fun j => numAt sec (from' + 8 * j) 8).filterMap fun x =>
    if x / 2 ^ 32 = i then some (x % 2 ^ 32) else none

/-! ### Tokens (R243, R348) -/

/-- A token record in parts: OUT, PORT, ORD, SREL, DREL, the message, and for a hold-buffer record the words that its operation needs. -/
structure TokenRec where
  out : Bool
  port : Nat
  order : Nat
  srel : BitVec 32
  drel : BitVec 32
  msg : Msg
  info : List Word
  deriving DecidableEq, Repr

/-- The record's bytes. -/
def TokenRec.bytes (t : TokenRec) : List Byte :=
  let w0 : Word := BitVec.ofNat 64 (t.srel.toNat + 2 ^ 32 * (t.order % 65536) + 2 ^ 60 * t.port + (if t.out then 2 ^ 63 else 0))
  let n := t.msg.payload.length
  w64 w0 ++ w64 (t.drel.setWidth 64) ++ natBytes t.msg.flit.toNat 32 ++ padTo ((n + 31) / 32 * 32) (t.msg.payload.map Prod.fst)

/-- The TOKEN section: the records; then entries of two words: a marked payload byte of record i, as (4 i, byte), and the words of a hold-buffer record, as (4 i + 1, word) in order. -/
def tokenSection (ts : List TokenRec) : List Byte :=
  let it := ts.zip (List.range ts.length)
  let marks := it.flatMap fun e => ((List.range e.1.msg.payload.length).filter fun j => (e.1.msg.payload[j]?).any Prod.snd).flatMap fun j =>
    w64 (BitVec.ofNat 64 (4 * e.2)) ++ w64 (BitVec.ofNat 64 j)
  let infos := it.flatMap fun e => e.1.info.flatMap fun w => w64 (BitVec.ofNat 64 (4 * e.2 + 1)) ++ w64 w
  ts.flatMap TokenRec.bytes ++ marks ++ infos

/-- The records of a TOKEN section, without marks and words, and the offset after them. -/
def parseTokens : Nat → Nat → List Byte → List TokenRec × Nat
  | 0, o, _ => ([], o)
  | n + 1, o, sec =>
    let w0 := contWord sec o
    let f : BitVec 256 := BitVec.ofNat 256 (numAt sec (o + 16) 32)
    let len := flitPayload f
    let t : TokenRec := ⟨fld w0 63 1 == 1, fld w0 60 3, fld w0 32 16, BitVec.ofNat 32 (fld w0 0 32), BitVec.ofNat 32 (numAt sec (o + 8) 4),
      Msg.ofFlit f ((slice sec (o + 48) len).map fun b => (b, false)), []⟩
    let r := parseTokens n (o + 48 + (len + 31) / 32 * 32) sec
    (t :: r.1, r.2)

/-- The records of a TOKEN section whose count the section table gives. -/
def tokensOfSection (count : Nat) (sec : List Byte) : List TokenRec :=
  let r := parseTokens count 0 sec
  let extra := (List.range ((sec.length - r.2) / 16)).map fun j => (numAt sec (r.2 + 16 * j) 8, contWord sec (r.2 + 16 * j + 8))
  (r.1.zip (List.range count)).map fun e =>
    let marks := (extra.filter fun x => x.1 == 4 * e.2).map fun x => x.2.toNat
    let bs := (e.1.msg.payload.zip (List.range e.1.msg.payload.length)).map fun b => (b.1.1, marks.contains b.2)
    { e.1 with msg := { e.1.msg with payload := bs }, info := (extra.filter fun x => x.1 == 4 * e.2 + 1).map Prod.snd }

/-! ### Trees, debts and islands (R291, R348, R349) -/

/-- A tree record. -/
def Tree.bytes (t : Tree) : List Byte :=
  let scs := ((t.entries.find? fun e => e.router == t.root).map Entry.sc).getD []
  padTo 128 (padTo 96 (t.desc.flatMap w64 ++ scs.map fun x => x) ++ w64 (BitVec.ofNat 64 t.step))

/-- The descriptor, scales and step count of a tree record. -/
def treeOfBytes (bs : List Byte) : List Word × List (BitVec 8) × Nat :=
  let d := (List.range 8).map fun i => contWord bs (8 * i)
  (d, (slice bs 64 32).take (descPositions d), numAt bs 96 8)

/-- A debt record of a stream store (R349). -/
def debtBytes (stat : Nat) (cause : BitVec 12) (srel : BitVec 32) (dest : Word) (ctx : BitVec 2) (batch : BitVec 16) : List Byte :=
  w64 (BitVec.ofNat 64 (srel.toNat + 2 ^ 44 * 13 + 2 ^ 48 * cause.toNat + 2 ^ 60 * stat)) ++ w64 dest
    ++ w64 (BitVec.ofNat 64 (65536 * batch.toNat + 2 ^ 33 * ctx.toNat)) ++ w64 0

/-- A landing entry: value, source and target; data; side word. -/
def Landing.bytes (x : Landing) : List Byte :=
  padTo 128 (w64 (x.val.setWidth 64) ++ w64 (BitVec.ofNat 64 (x.src.toNat + 2 ^ 32 * x.target.toNat + 2 ^ 34 * x.col.toNat + 2 ^ 39 * x.tw.toNat + 2 ^ 42 * x.ty.code.toNat))
    ++ natBytes x.data.toNat 64 ++ natBytes x.side.toNat 16)

/-- The landing entry in 128 bytes. After the capture every entry is in its buffer. -/
def Landing.ofBytes (bs : List Byte) : Landing :=
  let w := contWord bs 8
  ⟨BitVec.ofNat 48 (numAt bs 0 6), BitVec.ofNat 32 (fld w 0 32), BitVec.ofNat 2 (fld w 32 2), BitVec.ofNat 5 (fld w 34 5), BitVec.ofNat 3 (fld w 39 3),
    Ty.ofCode (BitVec.ofNat 4 (fld w 42 4)), BitVec.ofNat 512 (numAt bs 16 64), BitVec.ofNat 128 (numAt bs 80 16), [], 0, none, true⟩

/-- A member of an exactly captured island: relative address, whether it has released, the context that ran, the schedule value from which it may issue, and its landing entries. -/
structure IslMember where
  rel : BitVec 32
  released : Bool
  run : Option (BitVec 2)
  ready : BitVec 48
  land : List Landing
  deriving DecidableEq, Repr

/-- An exactly captured island: id, pad, whether it is recorded unbound, schedule counter and members. -/
structure IslCap where
  iid : BitVec 16
  pad : BitVec 8
  unbound : Bool
  scnt : BitVec 48
  members : List IslMember
  deriving DecidableEq, Repr

/-- A member's bytes. -/
def IslMember.bytes (m : IslMember) : List Byte :=
  let run := match m.run with
    | some k => 4 + k.toNat
    | none => 0
  w64 (BitVec.ofNat 64 (m.rel.toNat + 2 ^ 32 * m.land.length + 2 ^ 48 * run + (if m.released then 2 ^ 56 else 0))) ++ w64 (m.ready.setWidth 64) ++ m.land.flatMap Landing.bytes

/-- An island's bytes: a word with the id, the pad and the number of members, the members, and the schedule counter. -/
def IslCap.bytes (i : IslCap) : List Byte :=
  w64 (BitVec.ofNat 64 (i.iid.toNat + 2 ^ 16 * i.pad.toNat + (if i.unbound then 2 ^ 24 else 0) + 2 ^ 32 * i.members.length)) ++ i.members.flatMap IslMember.bytes ++ w64 (i.scnt.setWidth 64)

/-- Read members of an island; the offset after them. -/
def parseMembers : Nat → Nat → List Byte → List IslMember × Nat
  | 0, o, _ => ([], o)
  | n + 1, o, sec =>
    let w := contWord sec o
    let k := fld w 32 16
    let run := fld w 48 8
    let m : IslMember := ⟨BitVec.ofNat 32 (fld w 0 32), fld w 56 1 == 1, if 4 ≤ run then some (BitVec.ofNat 2 run) else none,
      BitVec.ofNat 48 (numAt sec (o + 8) 6), (List.range k).map fun i => Landing.ofBytes (slice sec (o + 16 + 128 * i) 128)⟩
    let r := parseMembers n (o + 16 + 128 * k) sec
    (m :: r.1, r.2)

/-- Read the islands of a section. -/
def parseIslands : Nat → Nat → List Byte → List IslCap
  | 0, _, _ => []
  | n + 1, o, sec =>
    let w := contWord sec o
    let r := parseMembers (fld w 32 32) (o + 8) sec
    ⟨BitVec.ofNat 16 (fld w 0 16), BitVec.ofNat 8 (fld w 16 8), fld w 24 1 == 1, BitVec.ofNat 48 (numAt sec r.2 6), r.1⟩ :: parseIslands n (r.2 + 8) sec

/-! ### The object (R342 to R344) -/

/-- A section: kind, record count and bytes. -/
abbrev Sect := Nat × Nat × List Byte

/-- The section table and the sections, laid out from byte 512. -/
def layout (ss : List Sect) : List Byte × List Byte :=
  let r := ss.foldl (fun (a : Nat × List Byte × List Byte) s =>
    let off := a.1
    let body := pad64 s.2.2
    (off + body.length,
     a.2.1 ++ w64 (BitVec.ofNat 64 (2 ^ 56 * s.1 + off)) ++ w64 (BitVec.ofNat 64 (2 ^ 48 * (s.2.1 % 65536) + s.2.2.length)),
     a.2.2 ++ body)) (512, [], [])
  (padTo 256 r.2.1, r.2.2)

/-- Where section kind k lies: count, offset and length. -/
def sectAt (bs : List Byte) (k : Nat) : Option (Nat × Nat × Nat) :=
  match (List.range 16).find? fun e => fld (contWord bs (256 + 16 * e)) 56 8 == k with
  | some e => some (fld (contWord bs (264 + 16 * e)) 48 16, fld (contWord bs (256 + 16 * e)) 0 48, fld (contWord bs (264 + 16 * e)) 0 48)
  | none => none

/-- The bytes of a section with its count. -/
def sectOf (bs : List Byte) (k : Nat) : Nat × List Byte :=
  match sectAt bs k with
  | some (n, o, l) => (n, slice bs o l)
  | none => (0, [])

/-- SIZE of a header. -/
def sprigSize (bs : List Byte) : Nat := fld (contWord bs 128) 0 48

/-- The header reads as a sprig of a supported layout version (R344). -/
def headerOk (bs : List Byte) : Bool :=
  let es := List.range 16
  let kinds := es.filterMap fun e => let k := fld (contWord bs (256 + 16 * e)) 56 8; if k = 0 then none else some k
  fld (contWord bs 0) 32 32 == 0x56580002 && fld (contWord bs 0) 16 16 == 1 && kinds.all (fun k => decide (k ≤ 9)) && allDistinct kinds
    && es.all fun e => fld (contWord bs (256 + 16 * e)) 56 8 == 0
        || decide (fld (contWord bs (256 + 16 * e)) 0 48 + fld (contWord bs (264 + 16 * e)) 0 48 ≤ sprigSize bs)

/-- The bytes that DIG covers (R343): 64 onward, with DIG itself and the STAT and CAUSE fields of the debts read as zero. -/
def digBytes (bs : List Byte) : List Byte :=
  let zero (l : List Byte) (o n : Nat) : List Byte := l.take o ++ List.replicate n 0 ++ l.drop (o + n)
  let bs := zero bs 224 32
  let bs := match sectAt bs 7 with
    | some (n, o, _) => (List.range n).foldl (fun l i => zero l (o + 32 * i + 6) 2) bs
    | none => bs
  bs.drop 64

/-- Line 0 of a header. -/
def line0 (st : Nat) (stamp : Word) (rights : BitVec 6) (ndebt : Nat) (ldom : BitVec 16) : List Byte :=
  padTo 64 (w64 (BitVec.ofNat 64 (0x5658000200010000 + st)) ++ w64 stamp ++ w64 (rights.setWidth 64) ++ w64 (BitVec.ofNat 64 ndebt) ++ w64 (ldom.setWidth 64))

end Sys2Proof.Machine
end

