-- ==== Sys2Proof/Machine/Suspend.lean ====
section
/-! DEFINITION. Suspension (R206, R219, R277, R290, R341, R350, R351): the marker, the capture, sealing, and debts. -/
namespace Sys2Proof.Machine

/-! ### The memory of sprigs -/

/-- Write bytes at a system physical address, line by line; none where a line cannot be written. -/
def State.spaWriteGo : Nat → Nat → List Byte → State → Option State
  | 0, _, _, s => some s
  | fuel + 1, a, bs, s =>
    if bs.isEmpty then some s
    else if s.edge.dead a then none
    else
      let line := bs.take (64 - a % 64)
      State.spaWriteGo fuel (a + line.length) (bs.drop line.length) (s.seqWriteLine a (line.map fun b => (b, false)))

/-- Write bytes at a system physical address. -/
def State.spaWrite (s : State) (a : Nat) (bs : List Byte) : Option State := State.spaWriteGo (bs.length / 64 + 2) a bs s

/-- Write bytes of a sprig: at a virtual address, or in the compaction area; none where the write is not performed. -/
def State.objWrite (s : State) (phys : Bool) (asid : BitVec 16) (a : Nat) (bs : List Byte) : Option State :=
  if phys then s.spaWrite a bs else s.vaWrite asid a (bs.map fun b => (b, false))

/-- Read bytes of a sprig; none after a fault or poison. -/
def State.objRead (s : State) (phys : Bool) (asid : BitVec 16) (a n : Nat) : Option (State × List Byte) :=
  match (if phys then some (s.spaRead a n) else s.vaRead asid a n) with
  | some r => if anyMark r.2 then none else some (r.1, r.2.map Prod.fst)
  | none => none

/-- The room that a group's sprig may take: its fixed sections, its kept bytes with a word for each mark, and 64 KiB of tokens for each core (log 9). -/
def Group.sprigRoom (g : Group) : Nat :=
  let keep := ((g.regions.filter fun r => r.kind == 0).map Region.size).sum + g.imgLen
  1536 + g.pages.length * (32 + 64 * 576 + 128 * (112128 + 16 + 2 * keep + 65536))

/-- The parts of the compaction area in use: base and bytes. -/
def State.compUsed (s : State) : List (Nat × Nat) :=
  s.seq.resumes.map (fun e => (e.addr, e.room))
    ++ s.seq.groups.filterMap fun g => g.susp.bind fun x => if x.phys && !x.isSealed then some (x.addr, x.room) else none

/-- Free bytes of the compaction area. -/
def State.compFree (s : State) : Nat := s.boot.compSize.toNat - (s.compUsed.map Prod.snd).sum

/-- The lowest place in the compaction area beside the parts in use, at a multiple of 4,096. -/
def State.compSpot (s : State) (used : List (Nat × Nat)) (n : Nat) : Option Nat :=
  let base := s.boot.compAddr.toNat
  let ends := base :: (used.map fun u => (u.1 + u.2 + 4095) / 4096 * 4096)
  let fits (a : Nat) : Bool := decide (a + n ≤ base + s.boot.compSize.toNat) && used.all fun u => decide (a + n ≤ u.1) || decide (u.1 + u.2 ≤ a)
  (ends.mergeSort fun a b => decide (a ≤ b)).find? fits

/-- The lowest place in the compaction area with room. -/
def State.compPlace (s : State) (n : Nat) : Option Nat := s.compSpot s.compUsed n

/-- Sprigs of these sizes find their places one after another. -/
def State.compFits (s : State) : List (Nat × Nat) → List Nat → Bool
  | _, [] => true
  | used, n :: ns =>
    match s.compSpot used n with
    | some a => State.compFits s ((a, n) :: used) ns
    | none => false

/-! ### Beginning a suspension (R350, stage 1) -/

/-- A new stamp (R352): the serial rises by one. -/
def State.newStamp (s : State) : State × Word :=
  let ser := s.seq.serial + 1
  ({ s with seq := { s.seq with serial := ser } }, s.modId ++ (ser ++ 0#20))

/-- Line 0 is written with STATE 0; none where it cannot be. -/
def State.beginSuspension (s : State) (g : Group) (why : SuspWhy) (addr : Nat) (phys : Bool) (rights : BitVec 6) (event : Option (BitVec 16))
    (limit room : Nat) : Option State :=
  let r := s.newStamp
  (r.1.objWrite phys g.asid addr (line0 0 r.2 rights 0 g.dom)).map fun s =>
    s.modGroup g.gid fun g => { g with
      wantSusp := none
      susp := some ⟨why, addr, phys, rights, event, limit, none, r.2, [], [], [], room, false⟩ }

/-- 100 µs in cycles. -/
def us100 : Nat := 330000

/-- A suspension to make room is given up: the group runs on, and the head of queue q, for which it was made, waits for pages again (log 9). -/
def State.giveUp (s : State) (g : Group) (q : Option (BitVec 4)) : State :=
  let s := s.modGroup g.gid fun g => { g with wantSusp := none }
  match q with
  | some q => (s.endMaking q).setQueue q { s.queueAt q with why := 2 }
  | none => s

/-- A suspension that the sequencer wants begins. With no room in the compaction area a retirement ends the group with RETIRE (R341), a compaction or pre-emption is given up once no other group is under suspension for it, and a halted island waits for room; none then (log 9). -/
def State.beginWanted (s : State) (g : Group) (why : SuspWhy) : Option State :=
  let under (q : BitVec 4) : Bool := s.seq.groups.any fun x => x.susp.any fun y => SuspWhy.isFor q y.why
  let stop : Option State :=
    match why with
    | .retire => some (s.endGroup g .retire)
    | .halt => none
    | .compaction q => if under q then none else some (s.giveUp g (some q))
    | .preemption q => if under q then none else some (s.giveUp g (some q))
    | _ => some (s.giveUp g none)
  match s.compPlace g.sprigRoom with
  | none => stop
  | some a =>
    match s.beginSuspension g why a true 1 none us100 g.sprigRoom with
    | some t => some t
    | none => stop

/-- A request joins a suspension under way: s[D] of its context is SBUSY (R207). -/
def State.joinSuspension (s : State) (r : SeqReq) : State :=
  let c := s.coreAt r.core
  let x := c.ctxAt r.site.ctx
  s.setCoreAt r.core (c.setCtxAt r.site.ctx { x with regs := x.regs.wrS ((r.words.headD 0).setWidth 5) ((Cause.code .sbusy).setWidth 64) false })

/-- SUSPEND_REQUEST n (R206, R207, R279): it waits while a probe runs; a group under suspension already takes it as joined. -/
def execSuspendRequest (n : Nat) (s : State) : Out :=
  match s.seqReq? n .suspend with
  | none => .refused (.notEnabled "SUSPEND_REQUEST")
  | some r =>
    match s.group? r.gid with
    | none => .next (s.dropReq n)
    | some g =>
      if g.probe.isSome then .refused (.notEnabled "SUSPEND_REQUEST")
      else if g.susp.isSome then .next ((s.dropReq n).joinSuspension r)
      else if g.ended.isSome then .next (s.dropReq n)
      else
        let us := if r.c = 0 then 100 else r.c.toNat
        let ev := if r.b.getLsbD 31 then some (r.b.extractLsb' 0 16) else none
        let s := s.dropReq n
        match s.beginSuspension g .program r.a.toNat false (r.b.extractLsb' 16 6) ev (us * 3300) 0 with
        | some t => seqMove s t
        | none =>
          let c := s.coreAt r.core
          .next ((s.setCoreAt r.core { c with stopping := false }).seqReport (Cause.code .xlat) 2 g.gid r.a r.a)

/-! ### Capture (R219, R291, R350, R351) -/

/-- No context runs, or the running one stalls at issue. -/
def Core.mayCapture (c : Core) : Bool := c.ctxs.toList.all (fun x => x.st != .running) || c.stalled || c.sync.isSome

/-- A range lies wholly in a scratch region of the group (R351). -/
def Group.inScratch (g : Group) (a n : Nat) : Bool := g.regions.any fun r => r.kind == 2 && decide (r.base ≤ a) && decide (a + n ≤ r.base + r.size)

/-- An item that member k has taken before its capture no longer goes there. -/
def CDown.without (x : CDown) (k : Nat) : CDown :=
  if x.router = k then { x with todo := x.todo.filter fun p => p != 5 } else { x with served := x.served ++ [k] }

/-- The item is still to reach member k: it stands there, or above it on the route from the root. -/
def CDown.reaches (x : CDown) (t : Tree) (k : Nat) : Bool :=
  x.tid == t.tid && !x.served.contains k
    && (if x.router = k then x.todo.contains 5
        else ((routeTo k t.root).zip ((routeTo k t.root).drop 1)).any fun h => h.2 == x.router && x.todo.contains (portToward h.2 h.1))

/-- Hand one item of a released step to member k before its capture: in place, or as a token where its channel refuses the message (R351). -/
def State.handOver (s : State) (g : Group) (k : Nat) (x : CDown) : State :=
  match s.entryOf x.tid k with
  | none => s
  | some (t, e) =>
    let asked := ((s.coreAt k).treeMem t.tid).opens.find? fun o => o.step == x.step
    let kept := (e.hand.filter fun h => h.1 == x.step).map Prod.snd
    let h := (kept.orElse fun _ => s.handing t k x.step).getD (if asked.any OpenStep.ip then .place else .message)
    match s.deliver t e x h true with
    | some s => s
    | none =>
      let bs := e.got ++ x.bytes.getD []
      let root := s.coreAt t.root
      let m : Msg := { Core.streamMsg root t.root 1 (s.coreAt k).addr .system 0 (descCh t.desc) bs.length bs with home := none }
      ((s.token g k m).modEntry t.tid k fun e => { e with hand := none, got := [], prog := none }).closeStep t k x true

/-- The released results for a member are delivered before its capture, wherever they stand in its trees (R351). -/
def State.deliverAll (s : State) (g : Group) (k : Nat) : State :=
  (s.trees.filter fun t => t.members.contains k).foldl (fun s t =>
    let here := (s.downs ++ t.rel).filter fun x => x.reaches t k
    let out (xs : List CDown) : List CDown := (xs.map fun x => if x.reaches t k then x.without k else x).filter fun x => !x.todo.isEmpty
    let rel (xs : List CDown) : List CDown := xs.map fun x => if x.reaches t k then x.without k else x
    let s := ({ s with downs := out s.downs }.modTree t.tid fun t => { t with rel := rel t.rel }).pumpDown t.tid
    (here.mergeSort fun a b => decide (a.step < b.step) || (a.step == b.step && decide (a.pos ≤ b.pos))).foldl (fun s x => s.handOver g k x) s) s

/-- Work of a captured member whose destination lies wholly in a scratch region is cancelled: a GET on its way completes with ABORT, and a stream command ends (R351). What still lies in the hold buffer becomes a token instead (R350). -/
def Core.cancelScratch (c : Core) (g : Group) : Core :=
  let gets := c.ops.filter fun o => o.kind == 3#6 && o.st == .sent && g.inScratch (o.opa.extractLsb' 0 20).toNat o.opb.toNat
  let c := gets.foldl (fun c o =>
    let c := match o.tkt with
      | some t => c.completeTicket t (Cause.code .abort) false 0
      | none => c
    c.freeOp o.id) c
  let reach (x : Stream) : Bool :=
    x.isLocal && x.kind != .sfq && x.kind != .sbar && x.held.isNone && (match x.dstPat with
      | some p => g.inScratch ((x.dstBase : Int) + (patBounds p).1).toNat ((patBounds p).2 - (patBounds p).1).toNat
      | none => g.inScratch x.dstBase x.total)
  { c with streams := c.streams.filter fun x => !reach x }

/-- The licence of a captured member is recorded and released, and its request is dropped; with it one that an MXFR of this member gave to its twin after the twin's capture (R320). -/
def State.takeLicence (s : State) (g : Group) (k : Nat) : State :=
  let q := s.quernAt (quernOf k)
  let me := isRunner k
  let twinToo := q.holder == some (!me) && g.susp.any fun x => x.recorded.contains (twinOf k)
  if q.held me || twinToo then
    ((s.setQuernAt (quernOf k) ({ q with holder := none, rreq := none }.setReq me none)).addPool (fieldOf k) 1).modGroup g.gid fun g =>
      { g with susp := g.susp.map fun x => { x with lmap := x.lmap ++ [(quernOf k, if twinToo then !me else me)] } }
  else s.setQuernAt (quernOf k) (q.setReq me none)

/-- A member that has stopped is recorded as captured. -/
def State.record (s : State) (g : Group) (k : Nat) : State :=
  let s := if (s.quernAt (quernOf k)).hand.isSome then s.migrate (quernOf k) else s
  let c := s.coreAt k
  let s := s.setCoreAt k { c with captured := false }
  let s := s.deliverAll g k
  let s := s.setCoreAt k (((if c.captured then s.coreAt k else (s.coreAt k).freeze false).cancelScratch g))
  let s := s.setCoreAt k { s.coreAt k with stopping := true, captured := true }
  (s.takeLicence g k).modGroup g.gid fun g => { g with susp := g.susp.map fun x => { x with recorded := x.recorded ++ [k], lastCap := some s.cycle } }

/-- A unit of core k has performed some lines of an operation, and not all: they belong to before the capture (R351, R361). -/
def State.midst (s : State) (k : Nat) : Bool := s.flight.any fun m => m.prog.isSome && keyOfAddr m.dst == k

/-- The marker at a member of a group under suspension. -/
def State.markAt (s : State) (g : Group) (k : Nat) : Out :=
  let c := s.coreAt k
  if g.susp.any (fun x => x.isSealed || x.recorded.contains k) || s.midst k then .refused (.notEnabled "SPRIG_MARKER")
  else if c.captured then .next (s.record g k)
  else
    match s.islandOf k with
    | some i => .next ((s.haltIsland i none none).record g k)
    | none =>
      if c.mayCapture && c.landing.isEmpty then .next (s.record g k)
      else if c.stopping then .refused (.notEnabled "SPRIG_MARKER")
      else .next (s.setCoreAt k { c with stopping := true })

/-- SPRIG_MARKER at core k (R350): a suspension that the sequencer wants begins with its first marker, once no probe runs or is due (R279); then the member stops selecting, and captures at a boundary or at a stalled instruction. -/
def execSprigMarker (k : Nat) (s : State) : Out :=
  match s.owner? (pageOf k) with
  | none => .refused (.notEnabled "SPRIG_MARKER")
  | some g =>
    if g.susp.isSome then s.markAt g k
    else
      match g.wantSusp with
      | some why =>
        if g.probe.isSome || g.ended.isSome || s.mayHaveEnded g then .refused (.notEnabled "SPRIG_MARKER")
        else
          match s.beginWanted g why with
          | some t => seqMove s t
          | none => .refused (.notEnabled "SPRIG_MARKER")
      | none => .refused (.notEnabled "SPRIG_MARKER")

/-! ### Drain (R351) -/

/-- A stream command of a captured core could still start. -/
def Core.startable (c : Core) (x : Stream) : Bool :=
  !x.started && x.kind != .sbar && x.held.isNone && c.queueReady x && c.barrierReady x && c.heldReady x

/-- A started command has nothing left to do but to await a CXL store. -/
def Stream.onlyStore (x : Stream) : Bool := !x.wrOut.isEmpty && { x with wrOut := [] }.ran && x.dstSp == 1#2

/-- Nothing more of a stream command happens before the seal: it has finished, but for stores that captured members recorded or, with `late`, CXL stores; or it can neither start nor, as a barrier, finish (R351). -/
def Core.streamDrained (c : Core) (late : Bool) (y : Stream) : Bool :=
  if y.kind = .sbar then c.streams.any fun x => x.ctx == y.ctx && x.kind != .sbar && decide (x.id < y.id)
  else if y.started then (y.ran && y.owed != 0) || (late && y.onlyStore)
  else !c.startable y

/-- An operation that has been sent and was refused or found a stale name: it stands in the hold buffer again, and its PORT 6 record counts in place of its acceptance (R350). -/
def Core.sentBack (c : Core) (o : Op) : Bool :=
  o.op != 0xA3#8 && o.cls == 0#2 && (o.st == .refused || o.st == .stale || (o.st == .held && o.resend)) && c.inGroup o.dst

/-- The work of a captured core has run out; with `late`, CXL stores may be left. -/
def State.coreDrained (s : State) (x : Susp) (late : Bool) (k : Nat) : Bool :=
  let c := s.coreAt k
  (c.streams.all (c.streamDrained late))
    && (c.ops.all fun o => o.st != .sent || o.kind == 0x35#6 || x.tokens.any fun t => t.msg.why == .op o.id && t.msg.home == some k)
    && (c.slots.all fun e => e.2.done || c.ops.any fun o => o.tkt == some e.2.tkt)
    && (s.seqIn.all fun r => r.core != k) && (s.seq.jobs.all fun j => j.req.core != k || j.req.peer.isSome) && s.seq.binds.all fun b => b.core != k

/-- Every member is captured, and the messages of the group are accepted or recorded (R350, stage 3). -/
def State.drained (s : State) (g : Group) (x : Susp) : Bool :=
  let late := x.lastCap.any fun n => decide (n + x.limit ≤ s.cycle)
  let cs := g.cores.map s.coreAt
  let recorded := (x.tokens.filter fun t => t.msg.inGroup (s.coreAt t.core)).length + (cs.map fun c => (c.ops.filter c.sentBack).length).sum
  g.cores.all x.recorded.contains && (s.flight.all fun m => m.kind != 0x34#6 || m.grp != g.gid) && (cs.map Core.sent).sum == (cs.map Core.accepted).sum + recorded && g.cores.all (s.coreDrained x late)

/-! ### Sealing (R342 to R349) -/

/-- The relative address of a core of the group, 0 for another. -/
def Group.relOf (g : Group) (k : Nat) : BitVec 32 :=
  if g.pages.contains (pageOf k) then (relposOf k (g.pages.idxOf (pageOf k))).extractLsb' 0 32 else 0

/-- A stream command that has not started, or that awaits stores which captured members recorded, as bytes of the model's own. -/
def Stream.bytes (x : Stream) : List Byte :=
  let kind := match x.kind with
    | .scpy => 0
    | .sgth => 1
    | .sfq => 2
    | .sbar => 3
  let bit (b : Bool) (n : Nat) : Nat := if b then 2 ^ n else 0
  w64 (BitVec.ofNat 64 x.id)
    ++ w64 (BitVec.ofNat 64 (x.ctx.toNat + 4 * kind + 16 * x.sn.toNat + 128 * x.mask.toNat + 2 ^ 15 * x.srcSp.toNat + 2 ^ 17 * x.dstSp.toNat
        + bit x.dstPat.isSome 19 + bit x.eosPsn 20 + bit x.remote 21 + bit x.held.isSome 22 + bit x.started 26 + 2 ^ 23 * x.cl.toNat + 2 ^ 32 * x.batch.toNat))
    ++ w64 x.src ++ w64 x.dst ++ natBytes x.srcPat.toNat 64 ++ natBytes (x.dstPat.getD 0).toNat 64
    ++ w64 (BitVec.ofNat 64 x.total) ++ w64 (BitVec.ofNat 64 x.list.toNat) ++ w64 (BitVec.ofNat 64 x.count) ++ w64 (BitVec.ofNat 64 x.row) ++ w64 x.eos ++ x.site.words.flatMap w64
    ++ w64 (BitVec.ofNat 64 x.owed)

/-- The command in those bytes; `op` is its operation when it is held. -/
def Stream.ofBytes (bs : List Byte) (op : Nat) : Stream :=
  let w := contWord bs 8
  let at' := Site.ofWords [contWord bs 200, contWord bs 208]
  let ran := fld w 26 1 == 1
  { prv := at'.prv, pc := at'.pc, word := at'.word, id := numAt bs 0 8, ctx := BitVec.ofNat 2 (fld w 0 2), batch := BitVec.ofNat 16 (fld w 32 16), sn := BitVec.ofNat 3 (fld w 4 3)
    kind := match fld w 2 2 with
      | 0 => .scpy
      | 1 => .sgth
      | 2 => .sfq
      | _ => .sbar
    mask := BitVec.ofNat 8 (fld w 7 8), srcSp := BitVec.ofNat 2 (fld w 15 2), dstSp := BitVec.ofNat 2 (fld w 17 2), src := contWord bs 16
    dst := contWord bs 24, srcPat := BitVec.ofNat 512 (numAt bs 32 64), dstPat := if fld w 19 1 = 1 then some (BitVec.ofNat 512 (numAt bs 96 64)) else none
    total := numAt bs 160 8, list := BitVec.ofNat 20 (numAt bs 168 8), count := numAt bs 176 8, row := numAt bs 184 8, idx := [], badIdx := []
    eos := contWord bs 192, eosPsn := fld w 20 1 == 1, cl := BitVec.ofNat 3 (fld w 23 3), remote := fld w 21 1 == 1
    held := if fld w 22 1 = 1 then some op else none, started := ran, rpos := if ran then numAt bs 160 8 else 0, wpos := if ran then numAt bs 160 8 else 0
    pieces := [], rdOut := [], wrOut := [], owed := numAt bs 216 8, nextReq := 0, sentBytes := [], again := none, redo := [], eosDone := ran, failed := none }

/-- The stream command that an operation owes a store to, as at most one word. -/
def owesWords (x : Option Nat) : List Word := x.toList.map fun i => BitVec.ofNat 64 i

/-- The words that restore an operation: its code, flags and operands, and whether its destination is a member, since DREL is 0 for relative core 0 too. -/
def Core.opInfo (c : Core) (o : Op) : List Word :=
  let bit (b : Bool) (n : Nat) : Nat := if b then 2 ^ n else 0
  let ip := (c.trees.flatMap fun t => t.2.opens).any fun x => x.op == o.id && x.ip
  let acked := o.after.acked.any fun i => c.ops.any fun x => x.id == i
  let strm := o.after.streams.any fun i => c.streams.any fun x => x.id == i
  [BitVec.ofNat 64 (o.op.toNat + 2 ^ 8 * o.fn.toNat + 2 ^ 14 * o.ctx.toNat + bit o.prv 16 + bit o.tkt.isSome 17 + bit o.rel.isSome 18 + bit o.psn 19
      + 2 ^ 20 * o.ty.code.toNat + bit ip 24 + bit acked 25 + bit strm 26 + bit (o.cls == 0#2 && c.inGroup o.dst) 27 + 2 ^ 32 * (o.rel.getD 0).toNat), o.opa, o.opb, o.opc] ++ o.site.words ++ owesWords o.owes

/-- The hold-buffer records of a captured core, and its stream commands that could not start or await recorded stores, as PORT 6 records in issue order (R350). -/
def State.holdRecords (s : State) (g : Group) (x : Susp) (k : Nat) : List TokenRec :=
  let c := s.coreAt k
  let left (o : Op) : Bool := o.op != 0xA3#8 && !(o.st == .sent && x.tokens.any fun t => t.msg.why == .op o.id && t.msg.home == some k)
  let drel (o : Op) : BitVec 32 := if wordMod o.dst = s.modId then g.relOf (keyOfAddr (wordAddr o.dst)) else 0
  let ofOp (o : Op) : TokenRec :=
    let m := c.opMsg k o
    ⟨false, 6, 0, g.relOf k, drel o, { m with cls := o.cls }, c.opInfo o⟩
  let ofStream (y : Stream) : TokenRec :=
    let bs : List MByte := y.bytes.map fun b => (b, false)
    let m := { Core.streamMsg c k 0x36 0 .system 0 0 bs.length bs with dmod := 0 }
    ⟨false, 6, 0, g.relOf k, 0, m, (c.ops.find? fun o => some o.id == y.held).map c.opInfo |>.getD []⟩
  let ops := (c.ops.filter left).map fun o => (o.id, ofOp o)
  let strs := (c.streams.filter fun y => !y.started || y.owed != 0).map fun y => (y.held.getD c.nextOp, ofStream y)
  ((ops ++ strs).mergeSort fun a b => decide (a.1 ≤ b.1)).map Prod.snd

/-- The join tokens of a captured core, as records of the model's own: the sender, the member channel, the word, and in LADDR its ring slot. -/
def State.joinRecords (s : State) (g : Group) (k : Nat) : List TokenRec :=
  let c := s.coreAt k
  c.tokens.map fun t =>
    let bs : List MByte := (natBytes t.data.toNat 8).map fun b => (b, t.psn)
    let m := { Core.streamMsg c k 0x38 c.addr .system (BitVec.ofNat 20 t.pos) t.ch 8 bs with src := wordAddr t.sender, smod := wordMod t.sender }
    ⟨true, 5, 0, 0, g.relOf k, m, []⟩

/-- What a member's message needs beside its bytes to be on its way again: the stream command whose store it is (R351). -/
def State.sentInfo (s : State) (m : Msg) : List Word :=
  let c := s.coreAt (m.home.getD 0)
  match m.why with
  | .op id => match c.ops.find? fun o => o.id == id with
    | some o => owesWords o.owes
    | none => []
  | .store id _ => owesWords (some id)
  | _ => []

/-- The token records of the messages that a captured core has received. -/
def State.gotRecords (s : State) (g : Group) (x : Susp) (k : Nat) : List TokenRec :=
  (x.tokens.filter fun t => t.core == k).map fun t =>
    let own := t.msg.grp == g.gid && t.msg.smod == s.modId
    ⟨!own, t.port, 0, if own then g.relOf (keyOfAddr t.msg.src) else 0, g.relOf k, t.msg, if own then s.sentInfo t.msg else []⟩

/-- The TOKEN records of the group: per core hold records, join tokens, then messages, numbered in that order. -/
def State.allRecords (s : State) (g : Group) (x : Susp) : List TokenRec :=
  g.cores.flatMap fun k =>
    let ts := s.holdRecords g x k ++ s.joinRecords g k ++ s.gotRecords g x k
    (ts.zip (List.range ts.length)).map fun e => { e.1 with order := e.2 }

/-- The stores of a captured core that become debts: command, request and virtual address. -/
def Core.debtStores (c : Core) : List (Stream × Nat × Nat) :=
  c.streams.flatMap fun x => if x.dstSp = 1#2 then x.wrOut.map fun w => (x, w.1, ((x.dstBase : Int) + (x.dstAt w.2.1).1).toNat) else []

/-- An island as its exact capture records it (R291): each member with the schedule value from which its next instruction may issue, which an ISFLT leaves out. -/
def State.islCap (s : State) (g : Group) (i : Island) : IslCap :=
  ⟨i.iid, i.pad, i.unbound, (i.members.head?.map fun k => (s.coreAt k).scnt).getD 0,
    i.members.map fun k =>
      let c := s.coreAt k
      ⟨g.relOf k, i.released.contains k, c.frozen, if i.unbound then 0 else c.readyAt, c.landing⟩⟩

/-- The sections of a sprig. -/
def State.sections (s : State) (g : Group) (x : Susp) : List Sect :=
  let cs := g.cores.map s.coreAt
  let querns := g.pages.flatMap pageQuerns
  let quernBytes (q : Nat) : List Byte :=
    let y := s.quernAt q
    padTo 576 ((y.tw.toList.flatMap fun v => natBytes v.toNat 64) ++ natBytes y.twp.toNat 1)
  let lic (q : Nat) : Nat := match x.lmap.find? fun e => e.1 == q with
    | some e => if e.2 then 2 else 1
    | none => 0
  let lmapBytes (p : Nat) : List Byte := natBytes (((pageQuerns p).zip (List.range 64)).foldl (fun n e => n + lic e.1 * 4 ^ e.2) 0) 16
  let toks := s.allRecords g x
  let debts := g.cores.flatMap fun k => (s.coreAt k).debtStores.map fun d => debtBytes 0 0 (g.relOf k) (BitVec.ofNat 64 d.2.2) d.1.ctx d.1.batch
  let trees := s.trees.filter fun t => t.gid == g.gid && !descXm t.desc
  let isls := s.seq.islands.filter fun i => i.gid == g.gid && i.members.all fun k => (s.coreAt k).captured
  let map (p : Nat) : List Byte := w64 ((mapEntry (s.genOf p) p).setWidth 64) ++ w64 0
  [(1, g.pages.length, g.pages.flatMap map), (2, cs.length, cs.flatMap Core.block), (3, querns.length, querns.flatMap quernBytes),
   (4, g.pages.length, g.pages.flatMap lmapBytes), (5, cs.length, g.localBytes cs)]
    ++ (if toks.isEmpty then [] else [(6, toks.length, tokenSection toks)])
    ++ (if debts.isEmpty then [] else [(7, debts.length, debts.flatten)])
    ++ (if trees.isEmpty then [] else [(8, trees.length, trees.flatMap Tree.bytes)])
    ++ (if g.halted then [(9, isls.length, isls.flatMap fun i => (s.islCap g i).bytes)] else [])

/-- The whole object with STATE 0, and where its debts lie. -/
def State.sprigBytes (s : State) (g : Group) (x : Susp) : List Byte :=
  let lay := layout (s.sections g x)
  let size := 512 + lay.2.length
  let bit (b : Bool) (n : Nat) : Nat := if b then 2 ^ n else 0
  let shape := (if g.sct then 2 ^ 26 else 0) + 2 ^ 16 * (g.pages.length - 1) + (if g.sct then 0 else 32 * g.wid + g.hgt)
  let xm := s.trees.any fun t => t.gid == g.gid && descXm t.desc
  let own := x.why != .program
  let flags := bit own 0 + bit g.halted 1 + bit (x.why == .retire) 2 + bit xm 3
  let hdr (dig : Nat) : List Byte :=
    line0 0 x.stamp x.rights 0 g.dom
      ++ w64 (g.dom ++ (g.gid ++ (0#12 ++ s.modId))) ++ w64 (s.boot.bootCnt ++ (0#16 ++ g.asid)) ++ w64 (BitVec.ofNat 64 shape)
      ++ w64 ((recImg g.words).setWidth 64) ++ natBytes g.cdig.toNat 32
      ++ w64 (BitVec.ofNat 64 size) ++ w64 (BitVec.ofNat 64 (2 ^ 32 * x.lmap.length)) ++ w64 (BitVec.ofNat 64 s.cycle) ++ w64 (BitVec.ofNat 64 flags)
      ++ List.replicate 64 0 ++ natBytes dig 32 ++ lay.1
  let bs := hdr 0 ++ lay.2
  hdr (digest256 (digBytes bs)).toNat ++ lay.2

/-- The debts of a sealed sprig. -/
def State.newDebts (s : State) (g : Group) (x : Susp) (bs : List Byte) : List Debt :=
  match sectAt bs 7 with
  | none => []
  | some (_, o, _) =>
    let ds := g.cores.flatMap fun k => (s.coreAt k).debtStores.map fun d => (k, d.1.id, d.2.1)
    (ds.zip (List.range ds.length)).map fun e => ⟨g.gid, g.asid, x.phys, x.addr, x.addr + o + 32 * e.2, e.1.1, e.1.2.1, e.1.2.2⟩

/-- The entry of the resume list for a sprig of the sequencer's own (R278, R359). -/
def Group.resumeEnt (g : Group) (x : Susp) : ResumeEnt :=
  ⟨g.gid, x.addr, x.room, g.queue, g.words, g.nfail, g.faddr, g.tstart, g.pages, x.why == .retire,
    match x.why with | .compaction q => some q | _ => none⟩

/-- The group is sealed: its trees and islands go, its pages are renamed, and what waits for the sprig goes on (R350, stages 4 and 5). -/
def State.afterSeal (s : State) (g : Group) (x : Susp) (ds : List Debt) : State :=
  let s := match x.event with
    | some e => s.raise e.toNat 1
    | none => s
  let s := (s.trees.filter fun t => t.gid == g.gid).foldl (fun s t => (s.removeTree t.tid).tellGone t) s
  let s := s.dropIslands g
  let s := { s with seq := { s.seq with debts := s.seq.debts ++ ds, resumes := if x.phys then s.seq.resumes ++ [g.resumeEnt x] else s.seq.resumes } }
  let s := s.modGroup g.gid fun g => { g with susp := some { x with isSealed := true, tokens := [] } }
  let s := s.askAdvance g.pages none false
  s.finishRetire g.gid (s.retiringOf g)

/-- SEAL_SPRIG of a group (R350, stage 4): the object is written, line 0 last. Where it cannot be written that is a failed store of the group, which ends with STFAIL (log 25). -/
def execSealSprig (gid : BitVec 16) (s : State) : Out :=
  match s.group? gid with
  | none => .refused (.notEnabled "SEAL_SPRIG")
  | some g =>
    match g.susp with
    | none => .refused (.notEnabled "SEAL_SPRIG")
    | some x =>
      if x.isSealed || !s.drained g x then .refused (.notEnabled "SEAL_SPRIG")
      else
        let bs := s.sprigBytes g x
        let ds := s.newDebts g x bs
        let l0 := line0 (if ds.isEmpty then 1 else 2) x.stamp x.rights ds.length g.dom
        match (s.objWrite x.phys g.asid (x.addr + 64) (bs.drop 64)).bind fun s => s.objWrite x.phys g.asid x.addr l0 with
        | some t => seqMove s (t.afterSeal g x ds)
        | none =>
          let va : Word := BitVec.ofNat 64 x.addr
          let s := s.modGroup gid fun g => g.failStore va
          .next (((s.group? gid).map fun g => s.endGroup g .stfail).getD s |>.seqReport (Cause.code .xlat) 2 gid va va)

/-! ### Debts (R349, R351) -/

/-- DEBT_RESOLUTION of debt n (R351): the store has been acknowledged, with cause 0, or has failed. The record takes STAT and CAUSE; NDEBT falls, and at 0 an indebted sprig becomes sealed. -/
def execDebtResolution (n : Nat) (cause : BitVec 12) (s : State) : Out :=
  match s.seq.debts[n]? with
  | none => .refused (.notEnabled "DEBT_RESOLUTION")
  | some d =>
    let c := s.coreAt d.core
    let x := c.streams.find? fun y => y.id == d.stream
    let open' := x.any fun y => y.wrOut.any fun w => w.1 == d.req
    if open' || (x.bind Stream.failed).getD 0 != cause then .refused (.notEnabled "DEBT_RESOLUTION")
    else
      let stat := if cause = 0 then 1 else 2
      let t := { s with seq := { s.seq with debts := s.seq.debts.eraseIdx n } }
      let r := (t.objWrite d.phys d.asid (d.recAddr + 6) (natBytes (cause.toNat + 4096 * stat) 2)).bind fun t =>
        (t.objRead d.phys d.asid d.base 64).bind fun r =>
          let l := r.2
          let left := numAt l 24 4 - 1
          let st := fld (contWord l 0) 0 3
          let st := if left = 0 ∧ st = 2 then 1 else st
          let l := w64 (BitVec.ofNat 64 ((contWord l 0).toNat / 8 * 8 + st)) ++ slice l 8 16 ++ w64 (BitVec.ofNat 64 left) ++ l.drop 32
          r.1.objWrite d.phys d.asid d.base l
      seqMove s (r.getD t)

end Sys2Proof.Machine
end

