-- ==== Sys2Proof/Machine/Faults.lean ====
section
/-! DEFINITION. Errors: correctable (R322), detected transients and replay (R330 to R332), uncorrectable errors (R112, R156, R339), and retirement (R340, R341). -/
namespace Sys2Proof.Machine

/-- CORRECTABLE_ERROR (R322): corrected in place, and counted. -/
def execCorrectableError (s : State) : Out := .next { s with boot := { s.boot with correctable := satInc s.boot.correctable } }

/-- A core of no group is retired by the field agents alone; a group is suspended first, as soon as no probe runs (R341). -/
def State.retireNow (s : State) (k : Nat) : State :=
  match s.owner? (pageOf k) with
  | none => s.finishRetire 0 [k]
  | some g =>
    if g.ended.isSome || g.susp.any Susp.isSealed then s.finishRetire g.gid [k]
    else if g.susp.isSome then s
    else s.modGroup g.gid fun g => { g with wantSusp := some .retire }

/-- A permanent fault of core k (R340, R341, step 1): it stops issuing, and its uncommitted window is rolled back. -/
def State.retire (s : State) (k : Nat) (trig : BitVec 2) : State :=
  let c := s.coreAt k
  if c.retiring.isSome then s
  else
    let s := { s with boot := { s.boot with retirements := satInc s.boot.retirements } }
    let s := match s.islandOf k with
      | some i => if c.captured then s else s.haltIsland i none (some k)
      | none => s
    let c := s.coreAt k
    let runs := c.ctxs.toList.any fun x => x.st == .running
    let c := if runs then c.rollback.freeRetained else c
    let c := if runs then c.setCtx { c.ctx with st := .ready, wait := .none, since := c.cycle.toNat } else c
    (s.setCoreAt k { c with stopping := true, sync := none, retiring := some trig }).retireNow k

/-- RETIRE_CORE: a permanent fault of core k by a trigger of R340, numbered from 0 (R341). -/
def execRetireCore (k : Nat) (trig : BitVec 2) (s : State) : Out := .next (s.retire k trig)

/-- SELF_TEST_FAILURE of core k's field agent (R340). -/
def execSelfTestFailure (k : Nat) (s : State) : Out := .next (s.retire k 3)

/-- The open window is replayed: it takes 40 cycles and one for each journal record (R332). -/
def Core.replay (c : Core) (now : Nat) : Core :=
  let att := c.win.att
  let n := c.win.journal.length
  let c := c.rollback
  { c with win := { c.win with att := att + 1 }, issueAt := max c.issueAt (now + 40 + n), sync := none, stalled := false }

/-- A failed check of the remote-operation unit (`unit` 1) or the stream unit of core k: the same operation is performed again, and the fourth failure is a permanent fault (R333, R340). -/
def State.unitFailed (s : State) (k : Nat) (unit : BitVec 2) : State :=
  let c := s.coreAt k
  let n := if unit = 1 then c.remFails else c.strFails
  let put (m : Nat) : Core := if unit = 1 then { c with remFails := m } else { c with strFails := m }
  if 3 ≤ n then (s.setCoreAt k (put 0)).retire k 0
  else ({ s with boot := { s.boot with transients := satInc s.boot.transients } }).setCoreAt k (put (n + 1))

/-- DETECTED_TRANSIENT in core k (R322, R330, R332, R333). `place.1` = 0: it touches context `place.2` or no single one, and the open window is replayed, up to three times. 1 or 2: the unit performs its operation again. In a bound island the island halts instead (R290). -/
def execDetectedTransient (k : Nat) (place : BitVec 2 × Option (BitVec 2)) (s : State) : Out :=
  let c := s.coreAt k
  let unit := place.1
  let own := unit = 0 ∨ unit = 3
  let touched := (c.ctxAt c.run).st == .running && place.2.all fun y => y == c.run
  if own ∧ (!touched || c.captured) then .next s
  else
    match (if c.captured then none else s.islandOf k) with
    | some i => .next (s.haltIsland i (some .isflt) (some k))
    | none =>
      if !own then .next (s.unitFailed k unit)
      else if c.win.att = 3#2 then .next (s.retire k 0)
      else .next ({ s with boot := { s.boot with transients := satInc s.boot.transients } }.setCoreAt k (c.replay s.cycle))

/-- The router at the other end of a link (R241). -/
def linkEnd (r port : Nat) : Nat :=
  match port with
  | 0 => r - 256
  | 1 => r + 1
  | 2 => r + 256
  | 3 => r - 1
  | 4 => twinOf r
  | _ => r

/-- A timed message whose flits are on the link comes 8 cycles later, and the flits sent again; the link is busy so much longer (R286, R334). -/
def State.delayTimed (s : State) (r port : Nat) : State :=
  let hit (b : Nat × Nat) : Bool := b == (r, port)
  s.seq.islands.foldl (fun t i =>
    let late (x : Landing) : Landing := if x.on.any hit && decide (i.now < x.ready + 2) && !x.arrived then { x with ready := x.ready + 11 } else x
    let t := i.members.foldl (fun t k => let c := t.coreAt k; t.setCoreAt k { c with landing := c.landing.map late }) t
    t.setIsland { i with busy := i.busy.map fun b => if hit (b.1, b.2.1) then (b.1, b.2.1, b.2.2 + 11) else b }) s

/-- LINK_RETRY on a port of router r (R334): nothing is lost or reordered, and it counts as a detected transient replayed (R322, R409). After 16 failures of one flit the link has failed, and the core at its receiving end has a permanent fault (R340). -/
def execLinkRetry (r : Nat) (flit : BitVec 3 × Bool) (s : State) : Out :=
  let port := flit.1
  let again := flit.2
  let link := 8 * r + port.toNat
  let n := (if again then (NMap.get? s.linkFails link).getD 0 else 0) + 1
  let s := s.delayTimed r port.toNat
  .next (if n < 16 then { s with linkFails := NMap.set s.linkFails link n, boot := { s.boot with transients := satInc s.boot.transients } }
    else { s with linkFails := NMap.del s.linkFails link }.retire (linkEnd r port.toNat) 1)

/-- Eight uncorrectable errors within 24 operating hours (R340). -/
def Core.tooManyUe (c : Core) (hour : Nat) : Bool := decide (8 ≤ (c.ueHours.filter fun h => decide (hour < h + 24)).length)

/-- UNCORRECTABLE_ERROR in core k: a word of local store is marked (R112), or with no address the MMA in flight is hit (R156, R339). -/
def execUncorrectableError (k : Nat) (wa : Option (BitVec 20)) (s : State) : Out :=
  let c := s.coreAt k
  let hour := (s.fieldAt (fieldOf k)).hoursNow
  let go (c : Core) : Out :=
    let c := { c with ueHours := (hour :: c.ueHours).take 8 }
    let s := ({ s with boot := { s.boot with uncorrectable := satInc s.boot.uncorrectable } }).setCoreAt k c
    .next (if c.tooManyUe hour then s.retire k 2 else s)
  match wa with
  | some a => go (c.setMark (a.toNat / 8) true)
  | none =>
    match c.mma with
    | some m =>
      let o := c.unitOrigin .mmaue m.pc
      go { c with mma := some { m with hit := some o }, win := { c.win with hit := (m.acc, o) :: c.win.hit } }
    | none => .refused (.notEnabled "UNCORRECTABLE_ERROR")

end Sys2Proof.Machine
end

