-- ==== Sys2Proof/Machine/Resume.lean ====
section
/-! DEFINITION. RESUME, COPY and DISCARD at the launch sequencer (R208 to R210, R353 to R355), the restoring of a group (R356 to R359, R292), compaction and pre-emption (R277, R278). -/
namespace Sys2Proof.Machine

/-! ### The indivisible step (R208, R353) -/

/-- SprigStep on line 0: the line after it, or the cause. -/
def sprigStep (op : SeqOp) (l : List Byte) (xs : Word) (f : Bool) (dom : BitVec 16) : Except Cause (List Byte) :=
  let st := fld (contWord l 0) 0 3
  let stamp := contWord l 8
  let rights := contWord l 16
  let ldom := BitVec.ofNat 16 (numAt l 32 2)
  let put (st' : Nat) (rights' : Word) : List Byte :=
    w64 (BitVec.ofNat 64 ((contWord l 0).toNat / 8 * 8 + st')) ++ w64 (stamp + 1) ++ w64 rights' ++ l.drop 24
  if stamp ≠ xs then .error .dres
  else if st = 0 then .error .nseal
  else if !rights.getLsbD 4 ∧ ldom ≠ dom then .error .domn
  else
    match op with
    | .resume =>
      if !rights.getLsbD 0 then .error .right
      else if st = 1 ∨ (f ∧ rights.getLsbD 5 ∧ (st = 2 ∨ st = 3)) then .ok (put 3 rights)
      else .error .dres
    | .copy => if !rights.getLsbD 1 then .error .right else if st ≠ 1 then .error .nseal else .ok l
    | _ => if !rights.getLsbD 2 then .error .right else if st = 4 then .error .dres else .ok (put 4 0)

/-- The placement word of R209 has no reserved bit set. -/
def placementOk (w : Word) : Bool := w.extractLsb' 49 15 == 0 && w.extractLsb' 21 11 == 0

/-- An operation on a sprig ends with a cause (R209, R210): its ticket, its event, and in the plain form a report. -/
def State.finishSprig (s : State) (r : SeqReq) (cause : BitVec 12) : State :=
  match r.peer with
  | some m =>
    let flags : Word := BitVec.ofNat 64 ((if r.quiet then 1 else 0) + (if r.prv then 2 else 0))
    { s with laneOut := s.laneOut ++ [{ LaneMsg.to m .resumed 0 with count := cause.toNat, desc := [r.gid.setWidth 64, r.a, r.c, flags] ++ r.site.words, tkt := r.tkt, core := r.core }] }
  | none =>
    let s := if r.op = .resume ∧ placementOk r.c ∧ r.c.getLsbD 48 then s.raise (r.c.extractLsb' 32 16).toNat 1 else s
    let c := s.coreAt r.core
    if c.gid ≠ r.gid then s
    else
      let c := c.completeTicket r.tkt cause false 0
      s.setCoreAt r.core (if cause ≠ 0 ∧ !r.quiet then c.report2 cause r.site 0 r.a r.tkt else c)

/-! ### Requests (R209, R354, R356) -/

/-- A group as a sprig's header describes it, on some pages. -/
def groupOf (bs : List Byte) (img : Image) (bytes : List Byte) (gid : BitVec 16) (pages : List Nat) (words : List Word) (queue : BitVec 4) : Group :=
  let sh := contWord bs 80
  ⟨gid, BitVec.ofNat 16 (fld (contWord bs 72) 0 16), BitVec.ofNat 16 (fld (contWord bs 64) 48 16), pages, fld sh 26 1 == 1, fld sh 5 5, fld sh 0 5, words, queue,
    img.imgLen, img.enda, img.regions, img.isls, img.dig, bytes, 0, 0, none, 0, none, none, 0, none, none, false⟩

/-- The words of a launch record for a group that a program resumes: ASID, IMG and DOM; the header records no others (log 8). -/
def headerRecord (bs : List Byte) : List Word :=
  [BitVec.ofNat 64 (2 ^ 48 * fld (contWord bs 72) 0 16) ||| (contWord bs 88 &&& 0x0000FFFFFFFFF000), BitVec.ofNat 64 (2 ^ 48 * fld (contWord bs 64) 48 16), 0, 0, 0, 0, 0, 0]

/-- Pages for a sprig's shape (R209). -/
def State.placeSprig (s : State) (bs : List Byte) : Option (List Nat) :=
  let sh := contWord bs 80
  placeShape (s.allocatable none) (fld sh 26 1 == 1) (fld sh 16 10 + 1) (fld sh 5 5 + 1) (fld sh 0 5 + 1)

/-- The tree records of a sprig. -/
def sprigTrees (bs : List Byte) : List (List Word × List (BitVec 8) × Nat) :=
  let r := sectOf bs 8
  (List.range r.1).map fun i => treeOfBytes (slice r.2 (128 * i) 128)

/-- Build the recorded trees of a group: the first cause, or the state with them (R356). -/
def State.buildTrees (s : State) (g : Group) (ts : List (List Word × List (BitVec 8) × Nat)) : Except Cause State :=
  ts.foldlM (fun s t =>
    (s.buildTree g t.1).map fun s =>
      let s := s.modTree (descTid t.1) fun x => { x with step := t.2.2, entries := x.entries.map fun e => { e with step := t.2.2, sc := t.2.1 } }
      (g.members t.1).foldl (fun s k =>
        let c := s.coreAt k
        s.setCoreAt k (c.setTreeMem (descTid t.1) (.new t.2.2))) s) s

/-- The container of a sprig, where it can be read and has the digest CDIG, after its lines have been read. -/
def State.sprigImage (s : State) (bs : List Byte) : State × Option (Image × List Byte) :=
  match s.fetchImage (BitVec.ofNat 16 (fld (contWord bs 72) 0 16)) ((contWord bs 88).extractLsb' 0 48 &&& 0xFFFFFFFFF000) with
  | some (t, cont) => (t, (parseImage cont).bind fun img => if natBytes img.dig.toNat 32 = slice bs 96 32 then some (img, cont) else none)
  | none => (s, none)

/-- The object matches its digest and its line-0 domain (R354). -/
def sprigClean (bs : List Byte) : Bool :=
  numAt bs 224 32 == (digest256 (digBytes bs)).toNat && numAt bs 32 2 == fld (contWord bs 64) 48 16

/-- Reserve the recorded trees of a sprig on some pages, under group number 0: the first cause, or the state and the identifiers (R356, step 1). -/
def State.reserveTrees (s : State) (bs : List Byte) (pages : List Nat) : Except Cause (State × List (BitVec 12)) :=
  let ds := (sprigTrees bs).map Prod.fst
  (ds.foldlM (fun (s : State) d => s.buildTree (groupOf bs Image.none [] 0 pages (headerRecord bs) 0) d) s).map fun s => (s, ds.map descTid)

/-- A reservation of trees is returned. -/
def State.returnTrees (s : State) (tids : List (BitVec 12)) : State := tids.foldl State.removeTree s

/-- The checks of a request whose object has been read (R209, R354, R356, step 1): the pages and trees reserved, or the cause. An object that its digest or its domain does not match ends with BADARG before anything that it describes is looked at. -/
def State.checkObject (s : State) (op : SeqOp) (bs : List Byte) : Except Cause (State × List Nat × List (BitVec 12)) :=
  if !(contWord bs 16).getLsbD 3 && !sprigClean bs then .error .badarg
  else if op = .copy then .ok (s, [], [])
  else
    match s.placeSprig bs with
    | none => .error .nopage
    | some ps => (s.reserveTrees bs ps).map fun r => (r.1, ps, r.2)

/-- The checks before the indivisible step, of the header alone for DISCARD (R208), else of the object: the cause, or the pages and trees reserved, with the state after the lines read. -/
def State.checkSprig (s : State) (r : SeqReq) (asid : BitVec 16) : State × Except Cause (List Nat × List (BitVec 12)) :=
  match s.objRead false asid r.a.toNat 512 with
  | none => (s, .error .badarg)
  | some (s, hd) =>
    if !headerOk hd then (s, .error .badarg)
    else if r.op = .discard then (s, .ok ([], []))
    else
      match s.objRead false asid r.a.toNat (sprigSize hd) with
      | none => (s, .error .badarg)
      | some (s, bs) =>
        match s.checkObject r.op bs with
        | .error c => (s, .error c)
        | .ok x => (x.1, .ok x.2)

/-- A request on a sprig is served here: its checks, and then it waits for its step. -/
def State.serveSprig (s : State) (r : SeqReq) (asid dom : BitVec 16) : State :=
  match s.checkSprig r asid with
  | (s, .error c) => s.finishSprig r c.code
  | (s, .ok x) => { s with seq := { s.seq with jobs := s.seq.jobs ++ [⟨r, asid, dom, x.1, x.2⟩] } }

/-- The request in a RESUME from another module (R209). -/
def LaneMsg.request (m : LaneMsg) : SeqReq :=
  let w (i : Nat) : Word := m.desc.getD i 0
  ⟨.resume, m.core, (w 0).extractLsb' 0 16, m.tkt, w 1, w 2, w 3, [], (w 4).getLsbD 1, Site.ofWords (m.desc.drop 5), (w 4).getLsbD 0, (w 4).getLsbD 2, some m.peer⟩

/-- The first request of a kind at an index. -/
def State.sprigReq? (s : State) (n : Nat) : Option SeqReq :=
  match s.seqReq? n .resume, s.seqReq? n .copy, s.seqReq? n .discard with
  | some r, _, _ => some r
  | _, some r, _ => some r
  | _, _, some r => some r
  | _, _, _ => none

/-- A RESUME goes to the module that its placement word names. -/
def State.forwardResume (s : State) (r : SeqReq) (asid dom : BitVec 16) : State :=
  let flags : Word := BitVec.ofNat 64 ((if r.quiet then 1 else 0) + (if r.prv then 2 else 0) + (if r.force then 4 else 0) + 2 ^ 16 * asid.toNat + 2 ^ 32 * dom.toNat)
  { s with laneOut := s.laneOut ++ [{ LaneMsg.to (r.c.extractLsb' 0 20) .resume 0 with
    desc := [r.gid.setWidth 64, r.a, r.b, r.c, flags] ++ r.site.words, tkt := r.tkt, core := r.core }] }

/-- The answer to a RESUME that went to another module ends it here. -/
def State.takeAnswer (s : State) (m : LaneMsg) : State :=
  let w (i : Nat) : Word := m.desc.getD i 0
  s.finishSprig ⟨.resume, m.core, (w 0).extractLsb' 0 16, m.tkt, w 1, 0, w 2, [], (w 3).getLsbD 1, Site.ofWords (m.desc.drop 4), (w 3).getLsbD 0, false, none⟩ (BitVec.ofNat 12 m.count)

/-- SPRIG_OPERATION_REQUEST n (R209): request n of this module's cores; from the number of those on, a message of another module that asks for or answers a RESUME. -/
def execSprigOperationRequest (n : Nat) (s : State) : Out :=
  match s.sprigReq? n with
  | some r =>
    let s := s.dropReq n
    match s.group? r.gid with
    | none => .next s
    | some g =>
      if r.op = .resume ∧ !placementOk r.c then .next (s.finishSprig r (Cause.code .badarg))
      else if r.op = .resume ∧ !r.c.getLsbD 20 ∧ r.c.extractLsb' 0 20 ≠ s.modId then .next (s.forwardResume r g.asid g.dom)
      else seqMove s (s.serveSprig r g.asid g.dom)
  | none =>
    let i := n - s.seqIn.length
    match (if s.seqIn.length ≤ n then s.laneIn[i]? else none) with
    | some m =>
      let t := { s with laneIn := s.laneIn.eraseIdx i }
      match m.kind with
      | .resume =>
        let w := m.desc.getD 4 0
        seqMove s (t.serveSprig m.request (w.extractLsb' 16 16) (w.extractLsb' 32 16))
      | .resumed => .next (t.takeAnswer m)
      | _ => .refused (.notEnabled "SPRIG_OPERATION_REQUEST")
    | none => .refused (.notEnabled "SPRIG_OPERATION_REQUEST")

/-! ### Restoring a group (R356) -/

/-- The core at a recorded relative address. -/
def Group.keyAt (g : Group) (rel : BitVec 32) : Nat := (g.keyOfRel rel).getD 0

/-- An operation of a hold-buffer record (R356, step 7). Its place in the order is kept by the order of the records; one that waited for acknowledgements waits for those of the earlier records. -/
def restoreOp (c : Core) (g : Group) (s : State) (t : TokenRec) : Core :=
  let w := t.info.getD 0 0
  let hasRel := fld w 18 1 == 1
  let rel : BitVec 32 := BitVec.ofNat 32 (fld w 32 32)
  let inside := hasRel ∨ fld w 27 1 = 1
  let k' := g.keyAt (if hasRel then rel else t.drel)
  let dst := if t.msg.cls = 0#2 ∧ inside then namedWord s.modId ((s.nameOf k').extractLsb' 0 32) else namedWord t.msg.dmod t.msg.dst
  let kind := t.msg.kind
  let pay := if kind = 3#6 ∨ kind = 4#6 then [] else t.msg.payload
  c.pushOp { c.newOp (BitVec.ofNat 8 (fld w 0 8)) (BitVec.ofNat 6 (fld w 8 6)) with
    ctx := BitVec.ofNat 2 (fld w 14 2), tkt := if fld w 17 1 = 1 then some t.msg.tkt else none, cls := t.msg.cls, kind := kind, ch := t.msg.ch, dst := dst
    rel := if hasRel then some rel else none, laddr := t.msg.laddr, opa := t.info.getD 1 0, opb := t.info.getD 2 0, opc := t.info.getD 3 0
    psn := fld w 19 1 == 1, ty := Ty.ofCode (BitVec.ofNat 4 (fld w 20 4)), payload := pay, prv := fld w 16 1 == 1, committed := true
    pc := (Site.ofWords (t.info.drop 4)).pc, word := (Site.ofWords (t.info.drop 4)).word, owes := (t.info[6]?).map BitVec.toNat
    after := ⟨if fld w 26 1 = 1 then c.streams.map Stream.id else [], [], if fld w 25 1 = 1 then (c.ops.filter fun o => o.kind != 0x35#6).map Op.id else []⟩ }

/-- A PORT 6 record at its core: an operation, a stream command, or a CTRB, which finds no tree when its tree was not recorded (R348, R195). -/
def State.restoreHold (s : State) (g : Group) (t : TokenRec) : State :=
  let k := g.keyAt t.srel
  let c := s.coreAt k
  if t.msg.kind = 0x36#6 then
    let bs := t.msg.payload.map Prod.fst
    let x := Stream.ofBytes bs c.nextOp
    let c := if x.held.isSome then c.pushOp { c.newOp 0xA3 0 with ctx := x.ctx, opa := x.src, opb := x.dst, dst := if x.toCore then c.streamCore x else x.dst, committed := true } else c
    let y := c.ctxAt x.ctx
    let c := if x.batch = y.regs.openBatch then c.setCtxAt x.ctx { y with regs := { y.regs with batchUsed := true } } else c
    s.setCoreAt k { c with streams := c.streams ++ [x], nextStream := max c.nextStream (x.id + 1) }
  else if t.msg.kind = 0x35#6 then
    let tid := (t.info.getD 1 0).extractLsb' 0 12
    match s.tree? tid with
    | none => s.setCoreAt k (c.completeTicket t.msg.tkt (Cause.code .tnomem) false 0)
    | some _ =>
      let id := c.nextOp
      let c := restoreOp c g s t
      let m := c.treeMem tid
      s.setCoreAt k (c.setTreeMem tid { m with issued := m.issued + 1
                                               inPlace := fld (t.info.getD 0 0) 24 1 == 1
                                               opens := m.opens ++ [⟨m.issued, (t.info.getD 2 0).extractLsb' 0 20, fld (t.info.getD 0 0) 24 1 == 1, t.msg.tkt, id⟩] })
  else s.setCoreAt k (restoreOp c g s t)

/-- The operation of another group, in this module, that a recorded message came from: the one in flight to that name with that kind, channel and ticket. -/
def State.senderOp (s : State) (m : Msg) : Option (Nat × Nat) :=
  if m.smod ≠ s.modId then none
  else
    let k := keyOfAddr m.src
    ((s.coreAt k).ops.find? fun o => o.st == .sent && o.kind == m.kind && o.ch == m.ch && o.tkt.getD 0 == m.tkt && wordAddr o.dst == m.dst).map fun o => (k, o.id)

/-- A recorded message is on its way again (R356, step 7), with no instruction at hand (log 26): from a member, its operation stands at the sender; from outside, the sender still waits. -/
def State.reinject (s : State) (g : Group) (t : TokenRec) : State :=
  let k := g.keyAt t.drel
  let name (k : Nat) : BitVec 32 := (s.nameOf k).extractLsb' 0 32
  if t.msg.kind = 0x38#6 then
    let c := s.coreAt k
    let w := firstWord t.msg.payload
    s.setCoreAt k { c with tokens := c.tokens ++ [⟨t.msg.ch, w.1, w.2, namedWord t.msg.smod t.msg.src, t.msg.laddr.toNat⟩] }
  else if t.msg.kind = 0x34#6 then
    let m := { t.msg with dst := name k, dmod := s.modId, grp := g.gid, replay := true }
    s.post (if t.out ∨ m.src = 0 then m else { m with src := name (g.keyAt t.srel), smod := s.modId, home := some (g.keyAt t.srel) })
  else if t.out then
    let src := s.senderOp t.msg
    let m := { t.msg with dst := name k, dmod := s.modId, replay := true }
    match src with
    | some (j, id) => s.post { m with home := some j, why := .op id }
    | none => if t.msg.smod = s.modId then s.post m else s.post { m with home := some k }
  else
    let j := g.keyAt t.srel
    let c := s.coreAt j
    let word (i : Nat) : Word := BitVec.ofNat 64 (leNat (((t.msg.payload.drop (8 * i)).take 8).map Prod.fst))
    let ra := t.msg.kind == 4#6
    let o : Op := { c.newOp 0xA0 0 with
      tkt := if t.msg.kind = 2#6 ∨ ra then some t.msg.tkt else none, kind := t.msg.kind, ch := t.msg.ch, dst := namedWord s.modId (name k), rel := some t.drel
      laddr := t.msg.laddr, opa := if ra then word 0 else 0, opb := if ra then word 1 else 0, psn := ra && anyMark t.msg.payload
      fn := t.msg.aux.extractLsb' 4 6, ty := Ty.ofCode (t.msg.aux.extractLsb' 0 4), payload := if ra then [] else t.msg.payload, committed := true
      ctx := 0, prv := false, pc := 0, word := 0, owes := t.info.head?.map BitVec.toNat }
    let id := c.nextOp
    let c := (c.pushOp o).modOp id fun o => { o with st := .sent }
    (s.setCoreAt j { c with sent := c.sent + 1 }).post
      { t.msg with src := name j, smod := s.modId, dst := name k, dmod := s.modId, grp := g.gid, home := some j, why := .op id, replay := true }

/-- The fence of a context whose earlier operations were recorded stays in force: later operations wait for them. -/
def Core.fenceAll (c : Core) : Core :=
  if c.ops.isEmpty then c
  else { c with ctxs := Vector.ofFn fun i => let x := c.ctxs[i.val]'(i.isLt); { x with fence := ⟨[], c.ops.map Op.id, []⟩ } }

/-- A core of the resumed group from its block. -/
def State.restoreCore (s : State) (g : Group) (img : Image) (bs : List Byte) (n i k pg : Nat) : State :=
  let old := s.coreAt k
  let core := sectOf bs 2
  let loc := (sectOf bs 5).2
  let blk := slice core.2 (112128 * i) 112128
  let kept := slice loc (numAt loc (16 * i) 8) (numAt loc (16 * i + 8) 8)
  let clean := fld (contWord blk 24) 0 1 == 1
  let ranges := g.keptRanges { old with clean := clean }
  let c := coreOfBlock old g.grpid (s.nameOf k) (relposOf k pg) img.image (s.pageMap g) (localMem ranges kept) (localMarks loc n i) s.cycle blk
  s.setCoreAt k c

/-- A context parked on AWAIT.LIC queues its request again, as AWAIT.LIC does where its core does not hold the licence (R180, R320). -/
def State.requeue (s : State) (k : Nat) : State :=
  if ((s.coreAt k).ctxs.toList.any fun x => x.st == .parked && x.wait == .lic) && !(s.quernAt (quernOf k)).held (isRunner k) then
    s.setQuernAt (quernOf k) ((s.quernAt (quernOf k)).ask (isRunner k) s.cycle)
  else s

/-- Restore a quern: its twin window, and its licence, whatever the pool holds (R320). -/
def State.restoreQuern (s : State) (q : Nat) (tw : List Byte) (lic : Nat) : State :=
  let x := s.quernAt q
  let x := { x with
    tw := Vector.ofFn fun i => BitVec.ofNat 512 (numAt tw (64 * i.val) 64)
    twp := BitVec.ofNat 8 (numAt tw 512 1) }
  let s := s.setQuernAt q x
  if lic = 0 then s
  else (s.setQuernAt q (x.give (lic == 2) s.cycle)).addPool (fieldOf q) (-1)

/-- An exactly captured island at resume (R292): bound again, so that the next cycle of its clock has the captured schedule value, with the captured readable values, when the pad still covers every hop, else every member is unbound and ISUNB is posted. -/
def State.restoreIsland (s : State) (g : Group) (i : IslCap) : State :=
  let ms := i.members.map fun m => (m, g.keyAt m.rel)
  let ks := ms.map Prod.snd
  if i.unbound || s.padTooSmall ks i.pad.toNat then s.seqReport (Cause.code .isunb) 2 g.gid 0 0
  else
    let routes := ks.map (s.timedRoutes ks)
    let s := (ms.zip routes).foldl (fun s m =>
      let e := m.1
      let c := s.coreAt e.2
      let c := { c with
        islBnd := !e.1.released, islIid := i.iid, islPad := i.pad, scnt := i.scnt - 1, landing := e.1.land, routes := m.2
        issueAt := s.cycle + 1 + (e.1.ready - i.scnt).toNat }
      let c := match e.1.run with
        | some x => c.runCtx x (c.ctxAt x)
        | none => c
      s.setCoreAt e.2 c) s
    { s with seq := { s.seq with islands := s.seq.islands ++
      [⟨g.gid, i.iid, i.pad, ks, (ms.filter fun e => e.1.released).map Prod.snd, 0, [], false, false⟩] } }

/-- The debts that a resume finds: a failed one counts as a failed store, and a forced resume takes an outstanding one as of unknown outcome (R351, R358). -/
def State.restoreDebt (s : State) (g : Group) (d : List Byte) : State :=
  let w := contWord d 0
  let dest := contWord d 8
  let stat := fld w 60 4
  let fail (s : State) : State := s.modGroup g.gid fun g => g.failStore dest
  if stat = 2 then fail s
  else if stat = 0 then
    let k := g.keyAt (BitVec.ofNat 32 (fld w 0 32))
    let tkt : BitVec 16 := BitVec.ofNat 16 (fld (contWord d 16) 48 16)
    let s := if fld w 44 4 = 13 then s else s.finishTicket k tkt (Cause.code .stfail)
    s.seqReport (Cause.code .stfail) 2 g.gid 0 dest
  else s

/-- The number of the group that a sprig was made of, on this module (R343). -/
def State.sprigGid (s : State) (bs : List Byte) : Option (BitVec 16) :=
  if BitVec.ofNat 20 (fld (contWord bs 64) 0 20) = s.modId then some (BitVec.ofNat 16 (fld (contWord bs 64) 32 16)) else none

/-- The arms of a suspended group go to the group that a resume of its sprig makes, unless a group has that number (R216; log 26). -/
def State.adoptArms (s : State) (bs : List Byte) (g : Group) : State :=
  match s.sprigGid bs with
  | some old =>
    if old = g.gid then s.claimArms old g
    else
      match s.group? old with
      | some o => if o.susp.any Susp.isSealed then (s.parkArms o).claimArms old g else s
      | none => s.claimArms old g
  | none => s

/-- The sprig is one of the sequencer's own (SEQM = 1), and the number of its group is free: the group keeps it (R356). -/
def State.keptGid (s : State) (bs : List Byte) : Option (BitVec 16) :=
  (s.sprigGid bs).filter fun n => fld (contWord bs 152) 0 1 == 1 && n != 0 && (s.group? n).isNone && s.seq.resumes.all fun e => e.gid != n

/-- Restore the group of a sprig on some pages (R356), with the identifier that it had where `kept` (R269). -/
def State.restore (s : State) (bs : List Byte) (img : Image) (g : Group) (kept : Bool) : State :=
  let s := { s with seq := { s.seq with groups := s.seq.groups ++ [g], lastGid := if kept then s.seq.lastGid else g.gid }, edge := s.edge.forget g.gid }
  let s := g.pages.foldl (fun s p => s.setPage p { s.pageAt p with digest := some img.dig }) s
  let ks := g.cores
  let s := (ks.zip (List.range ks.length)).foldl (fun s e => s.restoreCore g img bs ks.length e.2 e.1 (g.pages.idxOf (pageOf e.1))) s
  let qs := g.pages.flatMap pageQuerns
  let lmap := (sectOf bs 4).2
  let quern := (sectOf bs 3).2
  let s := (qs.zip (List.range qs.length)).foldl (fun s e =>
    s.restoreQuern e.1 (slice quern (576 * e.2) 576) (numAt lmap (16 * (e.2 / 64)) 16 / 4 ^ (e.2 % 64) % 4)) s
  let s := ks.foldl State.requeue s
  let s := match s.buildTrees g (sprigTrees bs) with
    | .ok s => s
    | .error _ => s
  let isl := sectOf bs 9
  let s := (parseIslands isl.1 0 isl.2).foldl (fun s i => s.restoreIsland g i) s
  let toks := let r := sectOf bs 6; tokensOfSection r.1 r.2
  let s := (toks.filter fun t => t.port != 6).foldl (fun s t => s.reinject g t) s
  let s := (toks.filter fun t => t.port == 6).foldl (fun s t => s.restoreHold g t) s
  let s := ks.foldl (fun s k => s.setCoreAt k (s.coreAt k).fenceAll) s
  let debts := sectOf bs 7
  ((List.range debts.1).foldl (fun s i => s.restoreDebt g (slice debts.2 (32 * i) 32)) s).adoptArms bs g

/-- The last step of a resume is done once every record of the group has been offered, and what may leave its cores' hold buffers has left (R356, step 7). -/
def State.reinjected (s : State) (g : Group) : Bool :=
  (s.flight.all fun m => !(m.replay && m.dmod == s.modId && g.pages.contains (pageOf (keyOfAddr m.dst))))
    && g.cores.all fun k => (s.coreAt k).ops.all fun o => !(s.coreAt k).mayLeave o

/-- Resumes whose last step is done, or whose group has gone, end here: activations are selectable, and the ticket of a RESUME is done (R209, R356). -/
def State.settleResumes (s : State) : State :=
  s.seq.resuming.foldl (fun s e =>
    if (s.group? e.1).all fun g => g.ended.isSome || s.reinjected g then
      let s := { s with seq := { s.seq with resuming := s.seq.resuming.filter fun x => x.1 != e.1 } }
      (e.2.map fun r => s.finishSprig r 0).getD s
    else s) s

/-- A group is being resumed. -/
def State.resume (s : State) (gid : BitVec 16) (r : Option SeqReq) : State := { s with seq := { s.seq with resuming := s.seq.resuming ++ [(gid, r)] } }

/-! ### Steps (R208, R355) -/

/-- COPY: the new object, line 0 last (R355). -/
def State.copySprig (s : State) (asid : BitVec 16) (bs : List Byte) (dst : Nat) : Option State :=
  let r := s.newStamp
  let rights := (contWord bs 16).extractLsb' 0 6
  let ldom := BitVec.ofNat 16 (numAt bs 32 2)
  (r.1.objWrite false asid dst (line0 0 r.2 rights 0 ldom)).bind fun s =>
    (s.objWrite false asid (dst + 64) (bs.drop 64)).bind fun s => s.objWrite false asid dst (line0 1 r.2 rights 0 ldom)

/-- RESUME restores the group on the pages of its job and writes line 0; it ends when activations of the group are selectable. A container that cannot be read or has another digest than CDIG gives BADARG (log 26), and trees that an object altered since its check no longer reserves give their cause; the sprig is then untouched. -/
def State.resumeSprig (s : State) (j : SprigJob) (l bs : List Byte) : State :=
  let r := s.sprigImage bs
  match r.2, r.1.reserveTrees bs j.pages with
  | none, _ => r.1.finishSprig j.req (Cause.code .badarg)
  | _, .error c => r.1.finishSprig j.req c.code
  | some x, .ok _ =>
    match r.1.objWrite false j.asid j.req.a.toNat l with
    | none => r.1.finishSprig j.req (Cause.code .badarg)
    | some t =>
      let gid := (t.keptGid bs).getD t.nextGid
      (t.restore bs x.1 (groupOf bs x.1 x.2 gid j.pages (headerRecord bs) 0) (t.keptGid bs).isSome).resume gid (some j.req)

/-- What a step whose conditions hold does (R208): RESUME restores the group, COPY writes the new object, DISCARD writes line 0. An object that cannot be written gives BADARG, with the sprig untouched (log 26). -/
def State.applySprig (s : State) (j : SprigJob) (l bs : List Byte) : State :=
  let done (t : Option State) : State := (t.map fun t => t.finishSprig j.req 0).getD (s.finishSprig j.req (Cause.code .badarg))
  match j.req.op with
  | .resume => s.resumeSprig j l (l ++ bs.drop 64)
  | .copy => done (s.copySprig j.asid bs j.req.c.toNat)
  | _ => done (s.objWrite false j.asid j.req.a.toNat l)

/-- SPRIG_STEP of job n (R208), after the earlier ones on its header. -/
def execSprigStep (n : Nat) (s : State) : Out :=
  match s.seq.jobs[n]? with
  | none => .refused (.notEnabled "SPRIG_STEP")
  | some j =>
    if (s.seq.jobs.take n).any fun i => i.asid == j.asid && i.req.a == j.req.a then .refused (.notEnabled "SPRIG_STEP")
    else
      let t := { s with seq := { s.seq with jobs := s.seq.jobs.eraseIdx n } }.returnTrees j.trees
      match t.objRead false j.asid j.req.a.toNat 512 with
      | none => seqMove s (t.finishSprig j.req (Cause.code .badarg))
      | some (t, hd) =>
        if !headerOk hd then seqMove s (t.finishSprig j.req (Cause.code .badarg))
        else
          match sprigStep j.req.op (hd.take 64) j.req.b j.req.force j.dom with
          | .error c => seqMove s (t.finishSprig j.req c.code)
          | .ok l =>
            match t.objRead false j.asid j.req.a.toNat (if j.req.op = .discard then 512 else sprigSize hd) with
            | none => seqMove s (t.finishSprig j.req (Cause.code .badarg))
            | some (t, bs) => seqMove s (t.applySprig j l bs)

/-! ### The sequencer's own resumes (R277, R278, R359) -/

/-- The pages that a group still holds when it is resumed elsewhere are held under number 0 until they are renamed and released (R350, R359). -/
def State.vacate (s : State) (gid : BitVec 16) : State :=
  match s.group? gid with
  | some g => s.parkArms g |>.modGroup gid fun g => { g with gid := 0 }
  | none => s

/-- AUTO_RESUME of entry n of the resume list (R359): once its sprig is sealed and pages fit, though its old pages may not have been released, for a retirement once the affected pages have advanced, and after a compaction once the head has been placed (R277). -/
def execAutoResume (n : Nat) (s : State) : Out :=
  match s.seq.resumes[n]? with
  | none => .refused (.notEnabled "AUTO_RESUME")
  | some e =>
    let moving := e.retired && s.advances.any fun a => a.pages.any fun p => e.pages.contains p
    let after := e.moved.any fun q => s.seq.making.any fun m => m.1 == q
    if moving || after then .refused (.notEnabled "AUTO_RESUME")
    else
      match s.objRead true 0 e.addr 512 with
      | none => .refused (.notEnabled "AUTO_RESUME")
      | some (t, hd) =>
        match t.objRead true 0 e.addr (sprigSize hd) with
        | none => if t.edge.blocked then seqMove s t else .refused (.notEnabled "AUTO_RESUME")
        | some (t, bs) =>
          let r := t.sprigImage bs
          let t := r.1
          let waits : Out := if t.edge.blocked then seqMove s t else .refused (.notEnabled "AUTO_RESUME")
          match sprigStep .resume (bs.take 64) (contWord bs 8) false (BitVec.ofNat 16 (numAt bs 32 2)), t.placeSprig bs, r.2 with
          | .ok l, some ps, some (img, cont) =>
            let g := { groupOf bs img cont e.gid ps e.words e.queue with nfail := e.nfail, faddr := e.faddr, tstart := e.tstart }
            match (if sprigClean bs && (t.reserveTrees bs ps).isOk then t.spaWrite e.addr l else none) with
            | some t =>
              let t := t.vacate e.gid
              seqMove s ({ t with seq := { t.seq with resumes := t.seq.resumes.eraseIdx n } }.restore bs img g true |>.resume e.gid none)
            | none => waits
          | _, _, _ => waits

/-! ### Compaction and pre-emption (R277, R278) -/

/-- The container of a queue's head, once the head has waited 100 µs for pages and nothing goes before it. -/
def State.waitingHead (s : State) (q : BitVec 4) : Option Image :=
  match (s.queueAt q).recs.head? with
  | some r =>
    let late := r.placeSince.any fun n => decide (n + us100 ≤ s.cycle)
    if (s.queueAt q).why = 2#3 ∧ late ∧ s.seq.making.isNone ∧ s.barred q = false then r.image.bind parseImage else none
  | none => none

/-- The groups that own a page among some. -/
def State.ownersOf (s : State) (ps : List Nat) : List Group := s.seq.groups.filter fun g => g.pages.any ps.contains

/-- The rectangle that compaction clears: every owned page's group has NMV = 0, the fewest owned pages, the lowest origin (R277). -/
def State.compactRect (s : State) (w h : Nat) : Option (List Nat) :=
  let rects := (List.range (33 - h)).flatMap fun oy => (List.range (33 - w)).map fun ox => rectPages oy ox w h
  let usable (ps : List Nat) : Bool :=
    ps.all (fun p => !(s.pageAt p).retired && !(s.fieldAt (fieldOfPage p)).due && s.seq.jobs.all fun j => !j.pages.contains p)
      && (s.ownersOf ps).all fun g => !recNmv g.words
  let owned (ps : List Nat) : Nat := (ps.filter fun p => (s.owner? p).isSome).length
  (rects.filter usable).foldl (fun b ps => match b with
    | some x => if owned ps < owned x then some ps else some x
    | none => some ps) none

/-- The compaction area takes the sprigs of these groups and of those whose suspension is wanted already, one after another, and keeps the retirement reserve (R277). -/
def State.roomFor (s : State) (gs : List Group) : Bool :=
  let gs := gs ++ s.seq.groups.filter fun g => g.wantSusp.isSome
  let need := (gs.map fun g => (g.sprigRoom + 4095) / 4096 * 4096).sum
  let reserve := (s.seq.groups.map Group.sprigRoom).foldl max 0
  decide (need + reserve ≤ s.compFree) && s.compFits s.compUsed (gs.map Group.sprigRoom)

/-- Groups that are not already leaving their pages. -/
def Group.staying (g : Group) : Bool := g.susp.isNone && g.ended.isNone && g.wantSusp.isNone

/-- Suspensions that the sequencer wants. -/
def State.wantAll (s : State) (gs : List Group) (why : SuspWhy) : State :=
  gs.foldl (fun s g => s.modGroup g.gid fun g => if g.staying then { g with wantSusp := some why } else g) s

/-- What compaction for a head would clear: the rectangle and the groups to move; none where it does not start (R277). -/
def State.compactPlan (s : State) (img : Image) : Option (List Nat × List Group) :=
  let free := ((List.range 1024).filter (s.allocatable none)).length
  if img.sct || decide (free < img.pages) then none
  else
    (s.compactRect img.w img.h).bind fun ps =>
      let gs := (s.ownersOf ps).filter Group.staying
      if s.roomFor gs then some (ps, gs) else none

/-- COMPACTION for the head of queue q (R277). -/
def execCompaction (q : BitVec 4) (s : State) : Out :=
  match (s.waitingHead q).bind s.compactPlan with
  | some (ps, gs) =>
    let s := s.setQueue q { s.queueAt q with why := 3 }
    .next ({ s with seq := { s.seq with making := some (q, ps) } }.wantAll gs (.compaction q))
  | none => .refused (.notEnabled "COMPACTION")

/-- The resident groups of a field that is due for rotation leave it (R259): one that may be moved, has room in the compaction area and fits on other pages is suspended, and resumed elsewhere (log 29). -/
def State.clearField (s : State) (f : Nat) : Option State :=
  if (s.fieldAt f).due && s.seq.making.isNone then
    (s.seq.groups.find? fun g => g.staying && !recNmv g.words && (g.pages.any fun p => fieldOfPage p == f) && s.roomFor [g]
      && (placeShape (s.allocatable none) g.sct g.pages.length (g.wid + 1) (g.hgt + 1)).isSome).map fun g => s.wantAll [g] .sequencer
  else none

/-- The groups that pre-emption may take for queue q, in its order (R278). -/
def State.victims (s : State) (q : BitVec 4) : List Group :=
  (s.seq.groups.filter fun g => decide (q < g.queue) && !recNmv g.words && g.staying).mergeSort fun a b =>
    decide (b.queue < a.queue) || (a.queue == b.queue && decide (b.pages.length ≤ a.pages.length))

/-- The page is allocatable once some groups have left it. -/
def State.freedBy (s : State) (gs : List Group) (p : Nat) : Bool :=
  s.allocatable none p || ((gs.any fun g => g.pages.contains p) && !(s.pageAt p).retired && !(s.fieldAt (fieldOfPage p)).due)

/-- Take groups until the head can be placed (R278). -/
def State.takeVictims (s : State) (img : Image) : List Group → List Group → Option (List Nat × List Group)
  | gs, [] => (placeShape (s.freedBy gs) img.sct img.pages img.w img.h).map fun ps => (ps, gs)
  | gs, v :: vs =>
    match placeShape (s.freedBy gs) img.sct img.pages img.w img.h with
    | some ps => some (ps, gs)
    | none => State.takeVictims s img (gs ++ [v]) vs

/-- PREEMPTION for the head of queue q, which compaction cannot place (R278). -/
def execPreemption (q : BitVec 4) (s : State) : Out :=
  match s.waitingHead q with
  | none => .refused (.notEnabled "PREEMPTION")
  | some img =>
    if (s.compactPlan img).isSome then .refused (.notEnabled "PREEMPTION")
    else
      match s.takeVictims img [] (s.victims q) with
      | some (_, gs) =>
        if gs.isEmpty || !s.roomFor gs || decide (1024 < s.seq.resumes.length + gs.length) then .refused (.notEnabled "PREEMPTION")
        else
          let s := s.setQueue q { s.queueAt q with why := 3 }
          .next ({ s with seq := { s.seq with making := some (q, []) } }.wantAll gs (.preemption q))
      | none => .refused (.notEnabled "PREEMPTION")

end Sys2Proof.Machine
end

