-- ==== Sys2Proof/Machine/Crypto.lean ====
section
/-! DEFINITION. What the Yunavy ports need of the standards that R396 to R399 name: AES-256-GCM (FIPS 197, SP 800-38D), the Internet checksum, the Ethernet FCS; and, as constants without a value, XMSS, ML-KEM-1024 and the formats that the spec does not give. -/
namespace Sys2Proof

/-! ### AES-256 -/

/-- Multiplication by x in GF(2^8). -/
def xtime (a : Nat) : Nat := if 128 ≤ a then (2 * a) % 256 ^^^ 0x1B else 2 * a

/-- Multiplication in GF(2^8), on 8 bits of `b` from the top. -/
def gmul (a b : Nat) : Nat := (List.range 8).foldl (fun r i => xtime r ^^^ (if b.testBit (7 - i) then a else 0)) 0

/-- The inverse in GF(2^8), 0 for 0: the 254th power. -/
def ginv (a : Nat) : Nat :=
  let a2 := gmul a a
  let a4 := gmul a2 a2
  let a8 := gmul a4 a4
  let a16 := gmul a8 a8
  let a32 := gmul a16 a16
  let a64 := gmul a32 a32
  let a128 := gmul a64 a64
  gmul a128 (gmul a64 (gmul a32 (gmul a16 (gmul a8 (gmul a4 a2)))))

/-- The S-box at one byte. -/
def sboxOf (a : Nat) : Nat :=
  let b := ginv a
  let rot (n : Nat) : Nat := (b * 2 ^ n) % 256 ||| b / 2 ^ (8 - n)
  b ^^^ rot 1 ^^^ rot 2 ^^^ rot 3 ^^^ rot 4 ^^^ 0x63

/-- The S-box. -/
def sboxTable : List Nat := (List.range 256).map sboxOf

/-- The S-box, by table. -/
def subByte (t : List Nat) (a : Nat) : Nat := t.getD a 0

/-- The round constants of the key expansion. -/
def aesRcon : List Nat := [1, 2, 4, 8, 16, 32, 64]

/-- The next word of the key schedule, newest word first in `ws`. -/
def keyWord (t : List Nat) (ws : List (List Nat)) : List Nat :=
  let i := ws.length
  let prev := ws.headD []
  let w :=
    if i % 8 = 0 then
      match (prev.drop 1 ++ prev.take 1).map (subByte t) with
      | x :: xs => (x ^^^ aesRcon.getD (i / 8 - 1) 0) :: xs
      | [] => []
    else if i % 8 = 4 then prev.map (subByte t)
    else prev
  List.zipWith (· ^^^ ·) (ws.getD 7 []) w

/-- The 60 words of the key schedule, in order. -/
def keySchedule (t : List Nat) (key : List Byte) : List (List Nat) :=
  let ks := key.map BitVec.toNat
  let first := (List.range 8).map fun i => (ks.drop (4 * i)).take 4
  ((List.range 52).foldl (fun ws _ => keyWord t ws :: ws) first.reverse).reverse

/-- MixColumns on one column. -/
def mixColumn (c : List Nat) : List Nat :=
  let g (i : Nat) : Nat := c.getD (i % 4) 0
  (List.range 4).map fun i => xtime (g i) ^^^ (xtime (g (i + 1)) ^^^ g (i + 1)) ^^^ g (i + 2) ^^^ g (i + 3)

/-- ShiftRows on the 16 bytes, column by column. -/
def shiftRows (s : List Nat) : List Nat := (List.range 16).map fun i => s.getD ((i + 4 * (i % 4)) % 16) 0

/-- AES-256 of one block under a key schedule. -/
def aesBlock (t : List Nat) (ks : List (List Nat)) (block : List Byte) : List Byte :=
  let rk (r : Nat) : List Nat := ((ks.drop (4 * r)).take 4).flatten
  let s0 := List.zipWith (· ^^^ ·) (block.map BitVec.toNat) (rk 0)
  let s13 := (List.range 13).foldl (fun s r =>
    let x := shiftRows (s.map (subByte t))
    List.zipWith (· ^^^ ·) ((List.range 4).flatMap fun c => mixColumn ((x.drop (4 * c)).take 4)) (rk (r + 1))) s0
  (List.zipWith (· ^^^ ·) (shiftRows (s13.map (subByte t))) (rk 14)).map fun b => BitVec.ofNat 8 b

/-! ### GCM -/

/-- The big-endian number of some bytes. -/
def beNat (bs : List Byte) : Nat := leNat bs.reverse

/-- The low `n` bytes of a number, big-endian. -/
def beBytes (x n : Nat) : List Byte := (natBytes x n).reverse

/-- Multiplication in GF(2^128), with the bit order of SP 800-38D. -/
def ghMul (x y : BitVec 128) : BitVec 128 :=
  ((List.range 128).foldl (fun (a : BitVec 128 × BitVec 128) i =>
    (if x.getMsbD i then a.1 ^^^ a.2 else a.1, if a.2.getLsbD 0 then (a.2 >>> 1) ^^^ 0xE1000000000000000000000000000000 else a.2 >>> 1)) (0, y)).1

/-- The 16-byte pieces of some bytes, the last padded with zeros. -/
def blocks16 (bs : List Byte) : List (List Byte) :=
  (List.range ((bs.length + 15) / 16)).map fun i =>
    let b := (bs.drop (16 * i)).take 16
    b ++ List.replicate (16 - b.length) 0

/-- GHASH. -/
def ghash (h : BitVec 128) (bs : List (List Byte)) : BitVec 128 :=
  bs.foldl (fun y b => ghMul (y ^^^ BitVec.ofNat 128 (beNat b)) h) 0

/-- The key stream from counter 2 on, over some bytes. -/
def gcmStream (t : List Nat) (ks : List (List Nat)) (nonce bs : List Byte) : List Byte :=
  ((List.range ((bs.length + 15) / 16)).flatMap fun i =>
    List.zipWith (· ^^^ ·) ((bs.drop (16 * i)).take 16) (aesBlock t ks (nonce ++ beBytes (i + 2) 4)))

/-- The tag over the additional data and the ciphertext. -/
def gcmTag (t : List Nat) (ks : List (List Nat)) (nonce aad ct : List Byte) : List Byte :=
  let h := BitVec.ofNat 128 (beNat (aesBlock t ks (List.replicate 16 0)))
  let lens := beBytes (8 * aad.length) 8 ++ beBytes (8 * ct.length) 8
  let s := ghash h (blocks16 aad ++ blocks16 ct ++ [lens])
  List.zipWith (· ^^^ ·) (beBytes s.toNat 16) (aesBlock t ks (nonce ++ beBytes 1 4))

/-- Encrypt: the ciphertext with the 16-byte tag after it (R396, R397). -/
def gcmSeal (key nonce aad pt : List Byte) : List Byte :=
  let t := sboxTable
  let ks := keySchedule t key
  let ct := gcmStream t ks nonce pt
  ct ++ gcmTag t ks nonce aad ct

/-- Decrypt: the bytes, or none where the tag fails. -/
def gcmOpen (key nonce aad ct : List Byte) : Option (List Byte) :=
  let t := sboxTable
  let ks := keySchedule t key
  let n := ct.length - 16
  if ct.length < 16 ∨ gcmTag t ks nonce aad (ct.take n) ≠ ct.drop n then none else some (gcmStream t ks nonce (ct.take n))

/-! ### Checksums (R396) -/

/-- The ones' complement sum of some bytes as 16-bit words in network order. -/
def inetSum (bs : List Byte) : Nat :=
  let fold (x : Nat) : Nat := x % 65536 + x / 65536
  fold (fold (((List.range ((bs.length + 1) / 2)).map fun i =>
    256 * (bs.getD (2 * i) 0).toNat + (bs.getD (2 * i + 1) 0).toNat).sum))

/-- The UDP checksum over the pseudo-header and the datagram; one that comes to 0 is sent as 0xFFFF. -/
def udpSum (src dst dgram : List Byte) : Nat :=
  let x := inetSum (src ++ dst ++ beBytes dgram.length 4 ++ [0, 0, 0, 17] ++ dgram)
  if x = 65535 then 65535 else 65535 - x

/-- The register of the Ethernet FCS after one byte. -/
def crcByte (c : BitVec 32) (b : Byte) : BitVec 32 :=
  (List.range 8).foldl (fun c _ => if c.getLsbD 0 then (c >>> 1) ^^^ 0xEDB88320 else c >>> 1) (c ^^^ b.setWidth 32)

/-- The Ethernet FCS of some bytes, least significant byte first. -/
def etherFcs (bs : List Byte) : List Byte := natBytes (~~~(bs.foldl crcByte 0xFFFFFFFF)).toNat 4

/-! ### A handshake message (R399) -/

/-- What a handshake message holds: of the initiator (an encapsulation key) or of the responder (a ciphertext), the sender's nonce, resume position and session index, and the signature. -/
structure HsMsg where
  initiator : Bool
  modu : BitVec 20
  nonce : List Byte
  key : List Byte
  pos : Nat
  sidx : BitVec 8
  sig : List Byte
  deriving DecidableEq, Repr

namespace Config

/-- The bytes of a handshake message without its signature (R399 gives its contents, not their layout). -/
opaque hsBody : HsMsg → List Byte

/-- The bytes of a handshake message with its signature. -/
opaque hsBytes : HsMsg → List Byte

/-- The handshake message that some bytes hold. -/
opaque hsParse : List Byte → Option HsMsg

/-- The 32-byte nonce drawn at a step (R399). -/
opaque hsNonce : Nat → List Byte

/-- The XMSS signature with an operational key and a one-time index over some bytes (R399, R407). -/
opaque xmssSign : Nat → Nat → List Byte → List Byte

/-- The check of a module's XMSS signature over some bytes against the trust store's digests (R399, R404). -/
opaque xmssCheck : List (List Byte) → BitVec 20 → List Byte → List Byte → Bool

/-- The ML-KEM-1024 encapsulation key made at a step. -/
opaque kemKey : Nat → List Byte

/-- The ciphertext and the shared secret of an encapsulation to a key at a step. -/
opaque kemEncap : Nat → List Byte → List Byte × List Byte

/-- The shared secret of a ciphertext under the key made at a step. -/
opaque kemDecap : Nat → List Byte → List Byte

/-- The Ethernet and IPv6 addresses of a peer, the VLAN tags and the hop limit that a port uses toward it (R396 says that system software configures tags; no file says where these come from). -/
opaque peerNet : Nat → BitVec 20 → List Byte × List Byte × List Byte × Byte

/-- The credits that a lane of a session starts with (R393). -/
opaque laneCredits : Nat → Nat

/-- The smoothed round-trip time after a sample (R397). -/
opaque smooth : Nat → Nat → Nat

/-- The 16-bit check code of a link flit (R394). -/
opaque linkCheck : List Byte → BitVec 16

/-- The cipher of the records of a local-mode port (R395, R399): key, record position, bytes. -/
opaque localSeal : BitVec 256 → Nat → List Byte → List Byte

/-- Its inverse. -/
opaque localOpen : BitVec 256 → Nat → List Byte → List Byte

/-- The payload bytes of a control-lane message between two launch sequencers (R209 and R400 give its contents, not their layout). -/
opaque laneBytes : Machine.LaneMsg → List Byte

/-- The message that the payload bytes of a control-lane message from a module hold. -/
opaque laneMessage : BitVec 20 → List Byte → Option Machine.LaneMsg

/-- The combine flits, each with its two poison marks (R299), of a message between the parts of a spanning tree (R401 and R402 give its contents, not its form). -/
opaque combineFlits : Machine.LaneMsg → List (BitVec 128 × BitVec 2)

/-- The message that the combine flits from a module make when they are whole. -/
opaque combineMessage : BitVec 20 → List (BitVec 128 × BitVec 2) → Option Machine.LaneMsg

end Config
end Sys2Proof
end

