-- ==== Sys2Proof/Machine/Yunavy.lean ====
section
/-! DEFINITION. Yunavy ports (R390 to R399): routes, link records, local mode, wide-area frames, sessions and keys. -/
namespace Sys2Proof.Machine

/-! ### Ports (R390) -/

/-- The port is enabled. -/
def YPort.enabled (x : YPort) : Bool := fld x.w[0] 63 1 == 1 && (fld x.w[0] 61 2 == 1 || fld x.w[0] 61 2 == 2)

/-- The port runs in local mode. -/
def YPort.isLocal (x : YPort) : Bool := fld x.w[0] 61 2 == 1

/-- Encryption is on. -/
def YPort.enc (x : YPort) : Bool := fld x.w[0] 60 1 == 1

/-- The module that a local-mode port is cabled to. -/
def YPort.peer (x : YPort) : BitVec 20 := x.w[0].extractLsb' 32 20

/-- The session timeout in cycles. -/
def YPort.tout (x : YPort) : Nat := fld x.w[0] 0 16 * 3300000

/-- A new session, closed. -/
def Session.new (m : BitVec 20) (sidx : BitVec 8) : Session :=
  { peer := m, st := .closed, sidx := sidx, peerIdx := 0, txKey := 0, rxKey := 0, txSalt := 0, rxSalt := 0, txSeq := 0, rxSeq := 0,
    unacked := [], txq := [], rxPos := 0, txPos := 0, skip := 0, credit := Vector.replicate 4 0, owed := Vector.replicate 4 0,
    part := Vector.replicate 4 [], ackAt := 0, lastRx := 0, lastUse := 0, openedAt := 0, rtt := 0, hs := none }

/-- The session for a module. -/
def YPort.session? (x : YPort) (m : BitVec 20) : Option Session := x.sessions.find? fun e => e.peer == m

/-- Replace the session for a module, or add it. -/
def YPort.putSession (x : YPort) (e : Session) : YPort :=
  if x.sessions.any fun y => y.peer == e.peer then { x with sessions := x.sessions.map fun y => if y.peer = e.peer then e else y }
  else { x with sessions := x.sessions ++ [e] }

/-- Put something on the wire. -/
def YPort.send (x : YPort) (ws : List Wire) : YPort := { x with out := x.out ++ ws }

/-- Change the session for a module. -/
def State.modSession (s : State) (p : Nat) (m : BitVec 20) (f : Session → Session) : State :=
  let x := s.portAt p
  s.setPort p { x with sessions := x.sessions.map fun e => if e.peer = m then f e else e }

/-- Put something on the wire of a port. -/
def State.wire (s : State) (p : Nat) (ws : List Wire) : State := s.setPort p ((s.portAt p).send ws)

/-! ### Routes (R391, R392) -/

/-- The port that the route table gives for a module, where the route is valid. -/
def State.yunRoute (s : State) (m : BitVec 20) : Option Nat :=
  let key := if m.extractLsb' 8 12 = s.modId.extractLsb' 8 12 then 4096 + (m.extractLsb' 0 8).toNat else (m.extractLsb' 8 12).toNat
  let e := (NMap.get? s.boot.routes key).getD 0
  let p := (e.extractLsb' 0 6).toNat
  let x := s.portAt p
  if e.getLsbD 15 && decide (p < 48) && x.enabled && (!x.isLocal || x.peer == m) then some p else none

/-- Records of a lane that a port has taken toward a module and that the module has not acknowledged. -/
def Session.holds (e : Session) (lane : BitVec 2) : Bool :=
  e.txq.any (fun r => r.lane == lane) || e.unacked.any fun f => f.recs.any fun r => r.lane == lane

/-- Another port still has records of the lane for the module (R392). -/
def State.oldRoute (s : State) (p : Nat) (m : BitVec 20) (lane : BitVec 2) : Bool :=
  s.yun.any fun e => e.1 != p && e.2.sessions.any fun y => y.peer == m && y.holds lane

/-! ### Link records (R394) -/

/-- A data-plane message as another module sees it: an answer without data carries none, and only the fields that its kind uses. -/
def Msg.onLink (m : Msg) : Msg :=
  if m.cls ≠ 1#2 then m
  else
    let bs := if m.kind = 0x10#6 ∨ m.kind = 0x11#6 ∨ m.kind = 0x12#6 ∨ m.kind = 0x14#6 then m.payload else []
    { m with payload := bs, len := BitVec.ofNat 12 bs.length, ch := 0, laddr := 0, aux := if m.kind = 0x15#6 then m.aux else 0 }

/-- The record of one payload flit. -/
def payRec (lane : BitVec 2) (bs : List MByte) : Rec :=
  ⟨BitVec.ofNat 256 (leNat (bs.map Prod.fst)), bitsOf 4 fun i => anyMark ((bs.drop (8 * i)).take 8), lane⟩

/-- The records of a message: its header flit, then its payload in flits of 32 bytes. -/
def Msg.records (m : Msg) : List Rec :=
  let m := m.onLink
  ⟨m.flit, 0, m.cls⟩ :: (List.range ((m.payload.length + 31) / 32)).map fun i => payRec m.cls ((m.payload.drop (32 * i)).take 32)

/-- The 34 bytes of a record, with a number in its last byte. -/
def Rec.bytes (r : Rec) (seq : BitVec 8) : List Byte := natBytes r.data.toNat 32 ++ [0#2 ++ (r.lane ++ r.marks), seq]

/-- The record of 34 bytes; one whose mark byte has bits [7:6] set is none. -/
def Rec.ofBytes (bs : List Byte) : Option Rec :=
  let b := bs.getD 32 0
  if bs.length = 34 ∧ b.extractLsb' 6 2 = 0#2 then some ⟨BitVec.ofNat 256 (leNat (bs.take 32)), b.extractLsb' 0 4, b.extractLsb' 4 2⟩ else none

/-- The lane of a message between the parts of a spanning tree or two sequencers: control for a join, its answer, its end and a RESUME, else combine (R400, R401). -/
def LaneMsg.lane (m : LaneMsg) : BitVec 2 :=
  match m.kind with
  | .join => 2
  | .joined => 2
  | .leave => 2
  | .resume => 2
  | .resumed => 2
  | .part => 3
  | .rnq => 3
  | .rnm => 3
  | .result => 3
  | .abort => 3

/-- The control-lane message of a module's sequencer to another's: the header of R243 with KIND 0x34 and a payload (R244; log 23). -/
def LaneMsg.control (own : BitVec 20) (m : LaneMsg) : Msg :=
  let bs := (Config.laneBytes m).take 2048
  { kind := 0x34, cls := 2, smod := own, src := 0, dmod := m.peer, dst := 0, grp := 0, tkt := m.tkt, len := BitVec.ofNat 12 bs.length, ch := 0
    laddr := 0, aux := 0, payload := bs.map fun b => (b, false), why := .system, back := 0, home := none }

/-- The records of such a message: those of its control message, or one for each combine flit, in the low 16 bytes above which are zeros (R394). -/
def LaneMsg.records (own : BitVec 20) (m : LaneMsg) : List Rec :=
  if m.lane = 2#2 then (m.control own).records else (Config.combineFlits m).map fun f => ⟨f.1.setWidth 256, f.2.setWidth 4, m.lane⟩

/-- The bytes and marks of payload flits. -/
def recPayload (rs : List Rec) : List MByte :=
  rs.flatMap fun r => ((natBytes r.data.toNat 32).zip (List.range 32)).map fun e => (e.1, r.marks.getLsbD (e.2 / 8))

/-- The data-plane message that the records of a lane make when they are whole. -/
def wholeMsg (rs : List Rec) : Option Msg :=
  match rs with
  | [] => none
  | h :: t =>
    let n := flitPayload h.data
    if t.length = (n + 31) / 32 then some (Msg.ofFlit h.data ((recPayload t).take n)) else none

/-! ### Sessions (R398) -/

/-- The trust store's digests. -/
def State.trustStore (s : State) : List (List Byte) := (List.range 256).map fun i => (s.edge.read (s.boot.trust.toNat + 32 * i) 32).map Prod.fst

/-- A Yunavy header of 32 bytes (R396). -/
def yunHeader (type seq ack : Nat) (smod dmod : BitVec 20) (nf : Nat) (sidx : BitVec 8) (cr : Vector Nat 4) : List Byte :=
  natBytes (2 ^ 60 + 2 ^ 56 * type + seq % 2 ^ 48) 8 ++ natBytes (ack % 2 ^ 48) 8
    ++ natBytes (2 ^ 44 * smod.toNat + 2 ^ 24 * dmod.toNat + 2 ^ 16 * nf + sidx.toNat) 8
    ++ natBytes (cr[0] % 65536 + 65536 * (cr[1] % 65536) + 2 ^ 32 * (cr[2] % 65536) + 2 ^ 48 * (cr[3] % 65536)) 8

/-- The GCM nonce of a frame (R397). -/
def gcmNonce (salt : BitVec 32) (seq : Nat) : List Byte := natBytes salt.toNat 4 ++ natBytes seq 8

/-- An Ethernet frame of a wide-area port around a Yunavy frame (R396). -/
def YPort.ether (x : YPort) (p : Nat) (m : BitVec 20) (body : List Byte) : List Byte :=
  let net := Config.peerNet p m
  let own := beBytes x.w[1].toNat 8 ++ beBytes x.w[2].toNat 8
  let port := beBytes (fld x.w[0] 16 16) 2
  let len := 8 + body.length
  let udp (c : Nat) : List Byte := port ++ port ++ beBytes len 2 ++ beBytes c 2 ++ body
  let f := net.1 ++ beBytes (fld x.w[3] 0 48) 6 ++ net.2.2.1 ++ [0x86, 0xDD, 0x60, 0, 0, 0] ++ beBytes len 2 ++ [17, net.2.2.2] ++ own ++ net.2.1
    ++ udp (udpSum own net.2.1 (udp 0))
  f ++ etherFcs f

/-- The bytes of a wire item of a Yunavy frame: whole in local mode, in its Ethernet frame in wide-area mode. -/
def YPort.pack (x : YPort) (p : Nat) (m : BitVec 20) (body : List Byte) : Wire :=
  .frame (if x.isLocal then body else x.ether p m body)

/-- VLAN tags taken off the front. -/
def dropTags : Nat → List Byte → List Byte
  | 0, bs => bs
  | n + 1, bs => if bs.take 2 = [0x81, 0x00] then dropTags n (bs.drop 4) else bs

/-- The Yunavy frame inside an Ethernet frame for this port: FCS, addresses, IPv6 without extension headers or fragments, UDP with its checksum (R396). -/
def YPort.unpack (x : YPort) (bs : List Byte) : Option (List Byte) :=
  let n := bs.length - 4
  let f := bs.take n
  let ip := (dropTags 4 (f.drop 12)).drop 2
  let et := (dropTags 4 (f.drop 12)).take 2
  let own := beBytes x.w[1].toNat 8 ++ beBytes x.w[2].toNat 8
  let src := (ip.drop 8).take 16
  let dst := (ip.drop 24).take 16
  let len := beNat ((ip.drop 4).take 2)
  let udp := (ip.drop 40).take len
  let port := beBytes (fld x.w[0] 16 16) 2
  if bs.length < 4 ∨ etherFcs f ≠ bs.drop n then none
  else if f.take 6 ≠ beBytes (fld x.w[3] 0 48) 6 ∨ et ≠ [0x86, 0xDD] then none
  else if (ip.getD 0 0).extractLsb' 4 4 ≠ 6#4 ∨ ip.getD 6 0 ≠ 17#8 ∨ dst ≠ own ∨ 9000 < len ∨ udp.length ≠ len ∨ len < 8 then none
  else if udp.take 2 ≠ port ∨ (udp.drop 2).take 2 ≠ port ∨ beNat ((udp.drop 4).take 2) ≠ len then none
  else if udpSum src dst (udp.take 6 ++ [0, 0] ++ udp.drop 8) ≠ beNat ((udp.drop 6).take 2) then none
  else some (udp.drop 8)

/-- Add record counts per lane. -/
def laneCount (rs : List Rec) (l : Nat) : Nat := (rs.filter fun r => r.lane.toNat == l).length

/-- A frame of an open session goes out (R396, R397): its header carries the ACK and the credits owed, and the sender keeps it. -/
def State.emitFrame (s : State) (p : Nat) (e : Session) (type : Nat) (recs : List Rec) : State :=
  let x := s.portAt p
  let h := yunHeader type e.txSeq e.rxSeq s.modId e.peer recs.length e.peerIdx e.owed
  let body := h ++ gcmSeal (natBytes e.txKey.toNat 32) (gcmNonce e.txSalt e.txSeq) h (recs.flatMap fun r => r.bytes 0)
  let w := match x.pack p e.peer body with | .frame bs => bs | _ => []
  let e := { e with
    txSeq := e.txSeq + 1, unacked := e.unacked ++ [⟨e.txSeq, recs, s.cycle, w⟩], txPos := e.txPos + recs.length
    owed := Vector.replicate 4 0, ackAt := s.cycle, credit := Vector.ofFn fun i => e.credit[i] - laneCount recs i.val }
  s.setPort p ((x.putSession e).send [.frame w])

/-- The notice that a module is gone, for each tree that it shares (R403). -/
def State.leaveTrees (s : State) (m : BitVec 20) : State :=
  let ts := s.trees.filter fun t => descXm t.desc && ((descRmod t.desc == m && m != s.modId) || t.joined m)
  { s with laneIn := s.laneIn ++ ts.map fun t => LaneMsg.to m .leave t.tid }

/-- A session closes: its keys go, its positions and unacknowledged records stay (R398). -/
def State.endSession (s : State) (p : Nat) (m : BitVec 20) (st : SessSt) : State :=
  (s.modSession p m fun e => { e with st := st, txKey := 0, rxKey := 0, txSalt := 0, rxSalt := 0, hs := none }).leaveTrees m

/-- The records that have not been acknowledged go to the front of the queue again, from a position on. -/
def Session.rewind (e : Session) (pos : Nat) : Session :=
  let rs := e.unacked.flatMap Frame.recs
  let base := e.txPos - rs.length
  { e with unacked := [], txq := rs.drop (pos - base) ++ e.txq, txPos := pos, txSeq := 0, rxSeq := 0 }

/-- A session opens, with keys of 72 bytes of SHAKE256 (R399): `mine` where this module is the initiator; `stated` is the position that this module stated. -/
def Session.openWith (e : Session) (ks : List Byte) (mine : Bool) (pos stated now : Nat) (idx : BitVec 8) : Session :=
  let part (o n : Nat) : Nat := leNat ((ks.drop o).take n)
  let e := e.rewind pos
  { e with
    st := .opened, peerIdx := idx, hs := none, skip := e.rxPos - stated
    txKey := BitVec.ofNat 256 (part (if mine then 0 else 32) 32), rxKey := BitVec.ofNat 256 (part (if mine then 32 else 0) 32)
    txSalt := BitVec.ofNat 32 (part (if mine then 64 else 68) 4), rxSalt := BitVec.ofNat 32 (part (if mine then 68 else 64) 4)
    credit := Vector.ofFn fun i => Config.laneCredits i.val, owed := Vector.replicate 4 0
    ackAt := now, lastRx := now, lastUse := now, openedAt := now }

/-- The initiator's message goes out (R399): the security core signs it. -/
def State.sayHello (s : State) (p : Nat) (e : Session) : State :=
  let x := s.portAt p
  let b := s.boot.spendIndex
  let h : HsMsg := ⟨true, s.modId, Config.hsNonce s.tick, Config.kemKey s.tick, e.rxPos, e.sidx, []⟩
  let h := { h with sig := Config.xmssSign b.opKey b.otsUsed (Config.hsBody h) }
  let body := yunHeader 2 0 0 s.modId e.peer 0 0 (Vector.replicate 4 0) ++ Config.hsBytes h
  let w := x.pack p e.peer body
  let e := { e with hs := some ⟨Config.hsBody h, s.tick, e.rxPos, w, s.cycle⟩ }
  { s with boot := b }.setPort p ((x.putSession e).send [w])

/-- A session index that no session of the port uses. -/
def YPort.freeIdx (x : YPort) : Option (BitVec 8) :=
  ((List.range 256).find? fun i => x.sessions.all fun e => e.st == .closed || e.sidx != BitVec.ofNat 8 i).map (BitVec.ofNat 8)

/-- The session in use that was used least recently and has no unacknowledged frame (R398); a barred one keeps its place. -/
def YPort.evictable (x : YPort) : Option Session :=
  (x.sessions.filter fun e => (e.st == .opened || e.st == .opening) && e.unacked.isEmpty).foldl (fun b e =>
    match b with
    | some y => if e.lastUse < y.lastUse then some e else b
    | none => some e) none

/-- Room for a session with a module: the state, with the session closed and an index of its own; none when every session has unacknowledged frames. -/
def State.sessionRoom (s : State) (p : Nat) (m : BitVec 20) : Option State :=
  let x := s.portAt p
  let put (s : State) (i : BitVec 8) : State :=
    let x := s.portAt p
    s.setPort p (x.putSession { (x.session? m).getD (Session.new m i) with sidx := i, lastUse := s.cycle })
  match x.freeIdx with
  | some i => some (put s i)
  | none =>
    match x.evictable with
    | none => none
    | some y => some (put ((if y.st = .opened then s.emitFrame p y 3 [] else s).endSession p y.peer .closed) y.sidx)

/-- Open a session: without encryption at once, else by a handshake (R398, R399). -/
def State.openSession (s : State) (p : Nat) (m : BitVec 20) : Option State :=
  (s.sessionRoom p m).map fun s =>
    let x := s.portAt p
    match x.session? m with
    | none => s
    | some e =>
      if x.isLocal && !x.enc then
        { s with yun := NMap.set s.yun p ({ x with down := false }.putSession (e.openWith [] true (e.txPos - (e.unacked.flatMap Frame.recs).length) e.rxPos s.cycle 0)) }
      else s.sayHello p { e with st := .opening, lastRx := s.cycle }

/-! ### Leaving the module (R391, R392, R398) -/

/-- Queue records in a session. -/
def State.queueRecs (s : State) (p : Nat) (m : BitVec 20) (rs : List Rec) : State :=
  s.modSession p m fun e => { e with txq := e.txq ++ rs, lastUse := s.cycle }

/-- Outbox message n meets its egress router: none while it must wait. -/
def State.egress (s : State) (n : Nat) : Option State :=
  match s.outbox[n]? with
  | none => none
  | some m =>
    let drop := { s with outbox := s.outbox.eraseIdx n }
    let back (kind : BitVec 6) (aux : BitVec 12) : State :=
      if m.cls = 0#2 then { drop with flight := s.flight ++ [m.answer m.grp kind aux []] } else drop
    if (s.outbox.take n).any fun y => y.cls == m.cls && y.dmod == m.dmod then none
    else
      match s.yunRoute m.dmod with
      | none => some (back 0x15 (Cause.code .nochn))
      | some p =>
        if s.oldRoute p m.dmod m.cls then none
        else
          match ((s.portAt p).session? m.dmod).map Session.st with
          | some .barred => some (back 0x15 (Cause.code .nochn))
          | some .opened => some (drop.queueRecs p m.dmod m.records)
          | some .opening => some (if m.cls = 0#2 then back 0x13 0 else drop.queueRecs p m.dmod m.records)
          | some .closing => some (if m.cls = 0#2 then back 0x13 0 else drop.queueRecs p m.dmod m.records)
          | _ =>
            match drop.openSession p m.dmod with
            | none => if m.cls = 0#2 then some (back 0x13 0) else none
            | some t =>
              if m.cls ≠ 0#2 ∨ ((t.portAt p).session? m.dmod).any (fun e => e.st == .opened) then some (t.queueRecs p m.dmod m.records)
              else some { t with flight := t.flight ++ [m.answer m.grp 0x13 0 []] }

/-- A message between trees or sequencers that cannot go: a join or a RESUME ends with NOCHN, another is lost with its session. -/
def State.laneFail (s : State) (m : LaneMsg) : State :=
  let nochn := (Cause.code .nochn).toNat
  match m.kind with
  | .join => { s with laneIn := s.laneIn ++ [{ m with kind := .joined, count := nochn }] }
  | .resume =>
    let flags : Word := (m.desc.getD 4 0) &&& 3
    { s with laneIn := s.laneIn ++ [{ m with kind := .resumed, count := nochn, desc := [m.desc.getD 0 0, m.desc.getD 1 0, m.desc.getD 3 0, flags] ++ m.desc.drop 5 }] }
  | _ => s

/-- Lane message n goes to its port: none while it must wait. -/
def State.laneEgress (s : State) (n : Nat) : Option State :=
  match s.laneOut[n]? with
  | none => none
  | some m =>
    let drop := { s with laneOut := s.laneOut.eraseIdx n }
    if (s.laneOut.take n).any fun y => y.lane == m.lane && y.peer == m.peer then none
    else
      match s.yunRoute m.peer with
      | none => some (drop.laneFail m)
      | some p =>
        if s.oldRoute p m.peer m.lane then none
        else
          match ((s.portAt p).session? m.peer).map Session.st with
          | some .barred => some (drop.laneFail m)
          | some .closed => (drop.openSession p m.peer).map fun t => t.queueRecs p m.peer (m.records s.modId)
          | none => (drop.openSession p m.peer).map fun t => t.queueRecs p m.peer (m.records s.modId)
          | some _ => some (drop.queueRecs p m.peer (m.records s.modId))

/-- The records that may be framed now, at most n: each in its lane's order while the lane has credit; and the rest. -/
def takeRecs (credit : Nat → Nat) (n : Nat) : List Rec → List Rec × List Rec
  | [] => ([], [])
  | r :: q =>
    let l := r.lane.toNat
    if n = 0 then ([], r :: q)
    else if 0 < credit l then
      let t := takeRecs (fun i => if i = l then credit i - 1 else credit i) (n - 1) q
      (r :: t.1, t.2)
    else
      let t := takeRecs (fun i => if i = l then 0 else credit i) n q
      (t.1, r :: t.2)

/-- The 36 bytes of a link flit (R394, R395). -/
def linkFlit (x : YPort) (e : Session) (r : Rec) : List Byte :=
  let body := r.bytes (BitVec.ofNat 8 e.txSeq)
  let body := if x.enc then Config.localSeal e.txKey e.txPos (body.take 33) ++ body.drop 33 else body
  body ++ natBytes (Config.linkCheck body).toNat 2

/-- A session sends its next frame, or in local mode its next link flit: none while it must wait. A closed session with records to send opens (R398). -/
def State.sendNext (s : State) (p : Nat) (m : BitVec 20) : Option State :=
  let x := s.portAt p
  match x.session? m with
  | none => none
  | some e =>
    if !x.enabled then none
    else if e.st = .closed then (if e.txq.isEmpty && e.unacked.all (fun f => f.recs.isEmpty) then none else s.openSession p m)
    else if e.st ≠ .opened then none
    else if x.isLocal then
      match takeRecs (fun l => (e.credit.toList.getD l 0)) 1 e.txq with
      | ([r], q) =>
        if 128 ≤ e.unacked.length ∨ x.retrain.isSome ∨ x.down then none
        else
          let bs := linkFlit x e r
          let e := { e with
            txq := q, txSeq := e.txSeq + 1, txPos := e.txPos + 1, unacked := e.unacked ++ [⟨e.txSeq, [r], s.cycle, bs⟩]
            credit := Vector.ofFn fun i => e.credit[i] - laneCount [r] i.val }
          some (s.setPort p ((x.putSession e).send [.flit bs]))
      | _ => none
    else
      match takeRecs (fun l => (e.credit.toList.getD l 0)) 240 e.txq with
      | ([], _) => none
      | (rs, q) => if 4095 ≤ e.unacked.length ∨ 2 ^ 40 ≤ e.txSeq + 1 then none else some (s.emitFrame p { e with txq := q } 0 rs)

/-! ### Entering the module (R390, R397) -/

/-- A data-plane message enters at the port's ingress router; an answer finds the operation that it belongs to (R246, R253). Only XSEND messages and their answers cross modules. -/
def State.ingress (s : State) (p : Nat) (m : Msg) : State :=
  let n := m.kind.toNat
  if !listedKind m.kind then s.badKind
  else if m.dmod ≠ s.modId ∨ m.smod = s.modId ∨ !([1, 0x10, 0x13, 0x14, 0x15].contains n) then s
  else if m.cls = 1#2 then
    let k := keyOfAddr m.dst
    let c := s.coreAt k
    let mine (o : Op) : Bool := o.st == .sent && o.cls == 0#2 && sameCore o.dst (namedWord m.smod m.src)
    match c.ops.find? mine with
    | some o => { s with flight := s.flight ++ [{ m with home := some k, why := .op o.id, tkt := o.tkt.getD 0 }] }
    | none => s
  else s.route (portKey p) { m with home := some (portKey p) }

/-- A control-lane message of module m: a KIND that R244 does not list is discarded and counted, and one of the launch, event and management traffic goes to the sequencer. -/
def State.control (s : State) (m : BitVec 20) (x : Msg) : State :=
  if !listedKind x.kind then s.badKind
  else if x.kind = 0x34#6 ∧ x.smod = m ∧ x.dmod = s.modId then
    match Config.laneMessage m (x.payload.map Prod.fst) with
    | some y => { s with laneIn := s.laneIn ++ [{ y with peer := m }] }
    | none => s
  else s

/-- A record of a session arrives: one that was received before is passed over, and one that completes a message delivers it. Its buffer is free at once. -/
def State.landRec (s : State) (p : Nat) (m : BitVec 20) (r : Rec) : State :=
  match (s.portAt p).session? m with
  | none => s
  | some e =>
    let l : Fin 4 := ⟨r.lane.toNat, r.lane.isLt⟩
    let e := { e with owed := e.owed.set l (e.owed[l] + 1) }
    if 0 < e.skip then s.modSession p m fun _ => { e with skip := e.skip - 1 }
    else
      let rs := e.part[l] ++ [r]
      let keep (rs : List Rec) : State := s.modSession p m fun _ => { e with rxPos := e.rxPos + 1, part := e.part.set l rs }
      if r.lane = 3#2 then
        match Config.combineMessage m (rs.map fun r => (r.data.setWidth 128, r.marks.setWidth 2)) with
        | some x => { keep [] with laneIn := s.laneIn ++ [{ x with peer := m }] }
        | none => keep rs
      else
        match wholeMsg rs with
        | some x => if r.lane = 2#2 then (keep []).control m x else (keep []).ingress p x
        | none => keep rs

/-- A frame that does not belong is discarded and counted (R397). -/
def State.badFrame (s : State) : State := { s with boot := { s.boot with frames := satInc s.boot.frames } }

/-- Frames that an ACK covers are forgotten; the newest of them gives a sample of the round trip. -/
def Session.acked (e : Session) (ack now : Nat) : Session :=
  let gone := e.unacked.filter fun f => decide (f.seq < ack)
  { e with unacked := e.unacked.filter fun f => !decide (f.seq < ack)
           rtt := match gone.getLast? with
             | some f => Config.smooth e.rtt (now - f.at')
             | none => e.rtt }

/-- The records of a frame's plain bytes. -/
def frameRecs (n : Nat) (bs : List Byte) : Option (List Rec) :=
  let rs := (List.range n).filterMap fun i => Rec.ofBytes ((bs.drop (34 * i)).take 34)
  if bs.length = 34 * n ∧ rs.length = n then some rs else none

/-! ### Handshakes (R399) -/

/-- A peer fails authentication: its session is barred. -/
def State.bar (s : State) (p : Nat) (m : BitVec 20) : State :=
  match (s.portAt p).session? m with
  | some _ => s.endSession p m .barred
  | none =>
    match s.sessionRoom p m with
    | some s => s.endSession p m .barred
    | none => s

/-- The responder answers an initiator and opens the session. -/
def State.respond (s : State) (p : Nat) (e : Session) (h : HsMsg) : State :=
  let x := s.portAt p
  let b := s.boot.spendIndex
  let kem := Config.kemEncap s.tick h.key
  let r : HsMsg := ⟨false, s.modId, Config.hsNonce s.tick, kem.1, e.rxPos, e.sidx, []⟩
  let script := Config.hsBody { h with sig := [] } ++ Config.hsBody r
  let r := { r with sig := Config.xmssSign b.opKey b.otsUsed script }
  let body := yunHeader 2 0 0 s.modId e.peer 0 0 (Vector.replicate 4 0) ++ Config.hsBytes r
  let e := e.openWith (shake256 (kem.2 ++ script) 72) false h.pos e.rxPos s.cycle h.sidx
  { s with boot := b }.setPort p (({ x with down := false }.putSession e).send [x.pack p e.peer body])

/-- A TYPE 2 frame of a module arrives, its handshake message in `body`. -/
def State.takeHandshake (s : State) (p : Nat) (m : BitVec 20) (body : List Byte) : State :=
  let x := s.portAt p
  match Config.hsParse body with
  | none => s
  | some h =>
    let bare := Config.hsBody { h with sig := [] }
    if h.modu ≠ m ∨ (x.session? m).any (fun e => e.st == .barred) ∨ (x.isLocal ∧ x.peer ≠ m) then s
    else if h.initiator then
      if (x.session? m).any (fun e => e.hs.isSome) ∧ s.modId < m then s
      else if !Config.xmssCheck s.trustStore m bare h.sig then s.bar p m
      else
        let s? := if (x.session? m).any fun e => e.st == .opened || e.st == .opening then some s else s.sessionRoom p m
        match s? with
        | none => s
        | some s =>
          match (s.portAt p).session? m with
          | none => s
          | some e => s.respond p e h
    else
      match (x.session? m).bind fun e => e.hs.map fun o => (e, o) with
      | none => s
      | some (e, o) =>
        let script := o.script ++ bare
        if !Config.xmssCheck s.trustStore m script h.sig then s.bar p m
        else
          let ks := shake256 (Config.kemDecap o.made h.key ++ script) 72
          s.setPort p ({ x with down := false }.putSession (e.openWith ks true h.pos o.stated s.cycle h.sidx))

/-! ### Frames and flits that arrive -/

/-- A Yunavy frame of wide-area mode arrives (R396, R397). -/
def State.takeFrame (s : State) (p : Nat) (bs : List Byte) : State :=
  let x := s.portAt p
  let w0 := contWord bs 0
  let w1 := contWord bs 8
  let w2 := contWord bs 16
  let w3 := contWord bs 24
  let smod : BitVec 20 := w2.extractLsb' 44 20
  let seq := fld w0 0 48
  let nf := fld w2 16 8
  let type := fld w0 56 4
  if bs.length < 32 ∨ fld w0 60 4 ≠ 1 ∨ 3 < type then s
  else if type = 2 then (if w2.extractLsb' 24 20 = s.modId then s.takeHandshake p smod (bs.drop 32) else s.badFrame)
  else
    match (x.session? smod) with
    | none => s.badFrame
    | some e =>
      if e.st ≠ .opened ∨ e.sidx ≠ w2.extractLsb' 0 8 ∨ w2.extractLsb' 24 20 ≠ s.modId ∨ seq ≠ e.rxSeq then s.badFrame
      else
        match (gcmOpen (natBytes e.rxKey.toNat 32) (gcmNonce e.rxSalt seq) (bs.take 32) (bs.drop 32)).bind (frameRecs nf) with
        | none => s.badFrame
        | some rs =>
          let e := (e.acked (fld w1 0 48) s.cycle)
          let e := { e with rxSeq := e.rxSeq + 1, lastRx := s.cycle, lastUse := if rs.isEmpty then e.lastUse else s.cycle
                            credit := Vector.ofFn fun i => e.credit[i] + fld w3 (16 * i.val) 16
                            st := if type = 3 then .closing else e.st }
          rs.foldl (fun s r => s.landRec p smod r) (s.modSession p smod fun _ => e)

/-- A link flit of local mode arrives (R395): one whose check fails is discarded and asked for again, and every one after it is discarded until that number comes. A flit counts as the failed one failing again where its number byte says so (log 23). -/
def State.takeFlit (s : State) (p : Nat) (bs : List Byte) : State :=
  let x := s.portAt p
  match x.session? x.peer with
  | none => s
  | some e =>
    let body := bs.take 34
    let want := BitVec.ofNat 8 e.rxSeq
    if e.st ≠ .opened ∨ x.retrain.isSome ∨ x.down then s
    else if x.rxFails ≠ 0 ∧ body.getD 33 0 ≠ want then s
    else if bs.length ≠ 36 ∨ natBytes (Config.linkCheck body).toNat 2 ≠ bs.drop 34 then
      s.setPort p ({ x with rxFails := x.rxFails + 1 }.send [.retry want])
    else if body.getD 33 0 ≠ want then s
    else
      let plain := if x.enc then Config.localOpen e.rxKey e.rxPos (body.take 33) ++ body.drop 33 else body
      let s := s.setPort p (({ x with rxFails := 0 }.putSession { e with rxSeq := e.rxSeq + 1, lastRx := s.cycle, lastUse := s.cycle }).send [.ack (want + 1)])
      match Rec.ofBytes plain with
      | some r => s.landRec p x.peer r
      | none => s

/-- FRAME_RECEIVE at port p (R395 to R397): a wide-area frame, or in local mode a link flit. -/
def execFrameReceive (p : Nat) (frame : List (BitVec 8)) (s : State) : Out :=
  let x := s.portAt p
  if 48 ≤ p ∨ !x.enabled then .next s
  else if x.isLocal then .next (s.takeFlit p frame)
  else
    match x.unpack frame with
    | some bs => .next (s.takeFrame p bs)
    | none => .next s

/-- HANDSHAKE at port p (R399): a TYPE 2 frame; in local mode it comes without the Ethernet frame. -/
def execHandshake (p : Nat) (frame : List (BitVec 8)) (s : State) : Out :=
  let x := s.portAt p
  if 48 ≤ p ∨ !x.enabled ∨ (x.isLocal ∧ !x.enc) then .next s
  else
    match (if x.isLocal then some frame else x.unpack frame) with
    | some bs => if fld (contWord bs 0) 56 4 = 2 then .next (s.takeFrame p bs) else .next s
    | none => .next s

/-! ### Timers (R395, R397 to R399) -/

/-- FRAME_RESEND (R397): every unacknowledged frame goes out again, oldest first. -/
def execFrameResend (p : Nat) (m : BitVec 20) (s : State) : Out :=
  let x := s.portAt p
  match x.session? m with
  | some e =>
    match e.unacked with
    | [] => .refused (.notEnabled "FRAME_RESEND")
    | f :: _ =>
      if e.st = .opened ∧ !x.isLocal ∧ f.at' + max 165000 (2 * e.rtt) ≤ s.cycle then
        .next (s.setPort p ((x.putSession { e with unacked := e.unacked.map fun f => { f with at' := s.cycle } }).send (e.unacked.map fun f => .frame f.bytes)))
      else .refused (.notEnabled "FRAME_RESEND")
  | none => .refused (.notEnabled "FRAME_RESEND")

/-- ACK_TIMER (R397): 10 µs have passed without a frame that carries the ACK. -/
def execAckTimer (p : Nat) (m : BitVec 20) (s : State) : Out :=
  let x := s.portAt p
  match x.session? m with
  | some e =>
    if e.st = .opened ∧ !x.isLocal ∧ e.ackAt + 33000 ≤ s.cycle ∧ e.unacked.length < 4096 ∧ e.txSeq + 1 < 2 ^ 40 then .next (s.emitFrame p e 1 [])
    else .refused (.notEnabled "ACK_TIMER")
  | none => .refused (.notEnabled "ACK_TIMER")

/-- SESSION_CLOSE (R398): the session that a close frame has set closing is closed. -/
def execSessionClose (p : Nat) (m : BitVec 20) (s : State) : Out :=
  match ((s.portAt p).session? m).map Session.st with
  | some .closing => .next (s.endSession p m .closed)
  | _ => .refused (.notEnabled "SESSION_CLOSE")

/-- SESSION_TIMEOUT (R398): no valid frame for TOUT, or in local mode nothing of the peer's link at all. -/
def execSessionTimeout (p : Nat) (m : BitVec 20) (s : State) : Out :=
  let x := s.portAt p
  match x.session? m with
  | some e =>
    if (e.st = .opening ∨ e.st = .opened) ∧ e.lastRx + x.tout ≤ s.cycle then .next (s.endSession p m .closed)
    else .refused (.notEnabled "SESSION_TIMEOUT")
  | none => .refused (.notEnabled "SESSION_TIMEOUT")

/-- REKEY (R399): a fresh handshake before SEQ reaches 2^40, or one hour after the session opened; one that has had no answer for TOUT goes out again (log 22). -/
def execRekey (p : Nat) (m : BitVec 20) (s : State) : Out :=
  let x := s.portAt p
  match x.session? m with
  | some e =>
    if e.st = .opened ∧ (!x.isLocal ∨ x.enc) ∧ (2 ^ 40 - 65536 ≤ e.txSeq ∨ e.openedAt + hourCycles ≤ s.cycle) then
      match e.hs with
      | none => .next (s.sayHello p e)
      | some o =>
        if o.sentAt + x.tout ≤ s.cycle then .next (s.setPort p ((x.putSession { e with hs := some { o with sentAt := s.cycle } }).send [o.wire]))
        else .refused (.notEnabled "REKEY")
    else .refused (.notEnabled "REKEY")
  | none => .refused (.notEnabled "REKEY")

/-- The peer's link has been heard. -/
def Session.heard (e : Session) (now : Nat) : Session := { e with lastRx := now }

/-- LOCAL_RETRY (R395): the peer asks for everything again from a link flit. -/
def execLocalRetry (p : Nat) (seq : BitVec 8) (s : State) : Out :=
  let x := s.portAt p
  match x.session? x.peer with
  | some e =>
    let again := e.unacked.dropWhile fun f => BitVec.ofNat 8 f.seq != seq
    if !x.isLocal || again.isEmpty || x.retrain.isSome then .next s
    else
      .next (s.setPort p { (x.putSession (e.heard s.cycle)).send (again.map fun f => .flit f.bytes) with
        fails := if x.failSeq = seq ∧ x.fails ≠ 0 then x.fails + 1 else 1, failSeq := seq })
  | none => .next s

/-- LOCAL_LINK_ACK (R395): the peer has every link flit before `seq`; each returns its lane's credit. -/
def execLocalLinkAck (p : Nat) (seq : BitVec 8) (s : State) : Out :=
  let x := s.portAt p
  match x.session? x.peer with
  | some e =>
    let rest := e.unacked.dropWhile fun f => BitVec.ofNat 8 f.seq != seq
    if !x.isLocal || (rest.isEmpty && BitVec.ofNat 8 e.txSeq != seq) then .next s
    else
      let gone := (e.unacked.take (e.unacked.length - rest.length)).flatMap Frame.recs
      let e := { e.heard s.cycle with unacked := rest, credit := Vector.ofFn fun i => e.credit[i] + laneCount gone i.val }
      .next (s.setPort p { x.putSession e with fails := if gone.isEmpty then x.fails else 0 })
  | none => .next s

/-- RETRAINING (R395): one link flit has failed 16 times in a row. -/
def execRetraining (p : Nat) (s : State) : Out :=
  let x := s.portAt p
  if x.isLocal && x.retrain.isNone && !x.down && (decide (16 ≤ x.fails) || decide (16 ≤ x.rxFails)) then .next (s.setPort p { x with retrain := some s.cycle })
  else .refused (.notEnabled "RETRAINING")

/-- RETRAINING_COMPLETE (R395), within 10 ms: what is kept goes out again. -/
def execRetrainingComplete (p : Nat) (s : State) : Out :=
  let x := s.portAt p
  match x.retrain with
  | some n =>
    if s.cycle ≤ n + 33000000 then
      .next (s.setPort p ({ x with retrain := none, fails := 0, rxFails := 0 }.send (((x.session? x.peer).map Session.unacked).getD [] |>.map fun (f : Frame) => Wire.flit f.bytes)))
    else .refused (.notEnabled "RETRAINING_COMPLETE")
  | none => .refused (.notEnabled "RETRAINING_COMPLETE")

/-- LINK_DOWN (R395, R398): the link has not retrained within TOUT; its session closes. -/
def execLinkDown (p : Nat) (s : State) : Out :=
  let x := s.portAt p
  match x.retrain with
  | some n =>
    if n + x.tout ≤ s.cycle then .next ((s.setPort p { x with retrain := none, down := true, fails := 0, rxFails := 0 }).endSession p x.peer .closed)
    else .refused (.notEnabled "LINK_DOWN")
  | none => .refused (.notEnabled "LINK_DOWN")

/-- CLEAR_BAR (R398): system software clears the bar; a session without one is left alone. -/
def execClearBar (p : Nat) (m : BitVec 20) (s : State) : Out :=
  .next (s.modSession p m fun e => if e.st = .barred then { e with st := .closed } else e)

end Sys2Proof.Machine
end

