-- ==== Sys2Proof/Machine/Dispatch.lean ====
section
/-! DEFINITION. The meaning of every operation: one arm for each constructor. -/
namespace Sys2Proof.Machine

/-- The meaning of an operation in a state. -/
def exec (i : Instr) (s : State) : Host.Outcome State Fault Refusal :=
  match i with
  | .add p d a b => Sys2Proof.Machine.execAdd p d a b s
  | .sub p d a b => Sys2Proof.Machine.execSub p d a b s
  | .and p d a b => Sys2Proof.Machine.execAnd p d a b s
  | .or p d a b => Sys2Proof.Machine.execOr p d a b s
  | .xor p d a b => Sys2Proof.Machine.execXor p d a b s
  | .andn p d a b => Sys2Proof.Machine.execAndn p d a b s
  | .shl p d a b => Sys2Proof.Machine.execShl p d a b s
  | .shr p d a b => Sys2Proof.Machine.execShr p d a b s
  | .sra p d a b => Sys2Proof.Machine.execSra p d a b s
  | .ror p d a b => Sys2Proof.Machine.execRor p d a b s
  | .min p d a b => Sys2Proof.Machine.execMin p d a b s
  | .max p d a b => Sys2Proof.Machine.execMax p d a b s
  | .minn p d a b => Sys2Proof.Machine.execMinn p d a b s
  | .maxn p d a b => Sys2Proof.Machine.execMaxn p d a b s
  | .addi p d a im => Sys2Proof.Machine.execAddi p d a im s
  | .andi p d a im => Sys2Proof.Machine.execAndi p d a im s
  | .ori p d a im => Sys2Proof.Machine.execOri p d a im s
  | .xori p d a im => Sys2Proof.Machine.execXori p d a im s
  | .shli p d a k => Sys2Proof.Machine.execShli p d a k s
  | .shri p d a k => Sys2Proof.Machine.execShri p d a k s
  | .srai p d a k => Sys2Proof.Machine.execSrai p d a k s
  | .mul p d a b => Sys2Proof.Machine.execMul p d a b s
  | .mulh p d a b => Sys2Proof.Machine.execMulh p d a b s
  | .mulhn p d a b => Sys2Proof.Machine.execMulhn p d a b s
  | .div p d a b => Sys2Proof.Machine.execDiv p d a b s
  | .divn p d a b => Sys2Proof.Machine.execDivn p d a b s
  | .rem p d a b => Sys2Proof.Machine.execRem p d a b s
  | .remn p d a b => Sys2Proof.Machine.execRemn p d a b s
  | .cmpEq p gd a b => Sys2Proof.Machine.execCmpEq p gd a b s
  | .cmpNe p gd a b => Sys2Proof.Machine.execCmpNe p gd a b s
  | .cmpLt p gd a b => Sys2Proof.Machine.execCmpLt p gd a b s
  | .cmpGe p gd a b => Sys2Proof.Machine.execCmpGe p gd a b s
  | .cmpLo p gd a b => Sys2Proof.Machine.execCmpLo p gd a b s
  | .cmpHs p gd a b => Sys2Proof.Machine.execCmpHs p gd a b s
  | .cmpiEq p gd a im => Sys2Proof.Machine.execCmpiEq p gd a im s
  | .cmpiNe p gd a im => Sys2Proof.Machine.execCmpiNe p gd a im s
  | .cmpiLt p gd a im => Sys2Proof.Machine.execCmpiLt p gd a im s
  | .cmpiGe p gd a im => Sys2Proof.Machine.execCmpiGe p gd a im s
  | .cmpiLo p gd a im => Sys2Proof.Machine.execCmpiLo p gd a im s
  | .cmpiHs p gd a im => Sys2Proof.Machine.execCmpiHs p gd a im s
  | .fcmpEq p gd a b ty => Sys2Proof.Machine.execFcmpEq p gd a b ty s
  | .fcmpLt p gd a b ty => Sys2Proof.Machine.execFcmpLt p gd a b ty s
  | .fcmpLe p gd a b ty => Sys2Proof.Machine.execFcmpLe p gd a b ty s
  | .fcmpUn p gd a b ty => Sys2Proof.Machine.execFcmpUn p gd a b ty s
  | .gand p gd a b => Sys2Proof.Machine.execGand p gd a b s
  | .gor p gd a b => Sys2Proof.Machine.execGor p gd a b s
  | .gxor p gd a b => Sys2Proof.Machine.execGxor p gd a b s
  | .gandn p gd a b => Sys2Proof.Machine.execGandn p gd a b s
  | .gset p gd v => Sys2Proof.Machine.execGset p gd v s
  | .grd p d => Sys2Proof.Machine.execGrd p d s
  | .fadd p d a b ty rm => Sys2Proof.Machine.execFadd p d a b ty rm s
  | .fsub p d a b ty rm => Sys2Proof.Machine.execFsub p d a b ty rm s
  | .fmul p d a b ty rm => Sys2Proof.Machine.execFmul p d a b ty rm s
  | .fdiv p d a b ty rm => Sys2Proof.Machine.execFdiv p d a b ty rm s
  | .fsqrt p d a ty rm => Sys2Proof.Machine.execFsqrt p d a ty rm s
  | .fma p d a b c ty rm => Sys2Proof.Machine.execFma p d a b c ty rm s
  | .fmin p d a b ty rm => Sys2Proof.Machine.execFmin p d a b ty rm s
  | .fmax p d a b ty rm => Sys2Proof.Machine.execFmax p d a b ty rm s
  | .cvt p d a ty ty2 rnd => Sys2Proof.Machine.execCvt p d a ty ty2 rnd s
  | .clz p d a => Sys2Proof.Machine.execClz p d a s
  | .ctz p d a => Sys2Proof.Machine.execCtz p d a s
  | .popc p d a => Sys2Proof.Machine.execPopc p d a s
  | .bext p d a b => Sys2Proof.Machine.execBext p d a b s
  | .bins p d a b => Sys2Proof.Machine.execBins p d a b s
  | .mov p d a => Sys2Proof.Machine.execMov p d a s
  | .sel p d a b k => Sys2Proof.Machine.execSel p d a b k s
  | .movi p d im => Sys2Proof.Machine.execMovi p d im s
  | .movih p d im => Sys2Proof.Machine.execMovih p d im s
  | .adr p d im => Sys2Proof.Machine.execAdr p d im s
  | .ldI8 p d a im => Sys2Proof.Machine.execLdI8 p d a im s
  | .ldI16 p d a im => Sys2Proof.Machine.execLdI16 p d a im s
  | .ldI32 p d a im => Sys2Proof.Machine.execLdI32 p d a im s
  | .ldI64 p d a im => Sys2Proof.Machine.execLdI64 p d a im s
  | .ldN8 p d a im => Sys2Proof.Machine.execLdN8 p d a im s
  | .ldN16 p d a im => Sys2Proof.Machine.execLdN16 p d a im s
  | .ldN32 p d a im => Sys2Proof.Machine.execLdN32 p d a im s
  | .stI8 p d a im => Sys2Proof.Machine.execStI8 p d a im s
  | .stI16 p d a im => Sys2Proof.Machine.execStI16 p d a im s
  | .stI32 p d a im => Sys2Proof.Machine.execStI32 p d a im s
  | .stI64 p d a im => Sys2Proof.Machine.execStI64 p d a im s
  | .amAdd p d a b ty => Sys2Proof.Machine.execAmAdd p d a b ty s
  | .amAnd p d a b ty => Sys2Proof.Machine.execAmAnd p d a b ty s
  | .amOr p d a b ty => Sys2Proof.Machine.execAmOr p d a b ty s
  | .amXor p d a b ty => Sys2Proof.Machine.execAmXor p d a b ty s
  | .amMin p d a b ty => Sys2Proof.Machine.execAmMin p d a b ty s
  | .amMax p d a b ty => Sys2Proof.Machine.execAmMax p d a b ty s
  | .amSwp p d a b ty => Sys2Proof.Machine.execAmSwp p d a b ty s
  | .amCas p d a b c ty => Sys2Proof.Machine.execAmCas p d a b c ty s
  | .br p im => Sys2Proof.Machine.execBr p im s
  | .call p im => Sys2Proof.Machine.execCall p im s
  | .jmp p a => Sys2Proof.Machine.execJmp p a s
  | .callr p a => Sys2Proof.Machine.execCallr p a s
  | .ret p a => Sys2Proof.Machine.execRet p a s
  | .loop p a im => Sys2Proof.Machine.execLoop p a im s
  | .crr p d idx => Sys2Proof.Machine.execCrr p d idx s
  | .crw p idx a => Sys2Proof.Machine.execCrw p idx a s
  | .crs p d idx a => Sys2Proof.Machine.execCrs p d idx a s
  | .crc p d idx a => Sys2Proof.Machine.execCrc p d idx a s
  | .pmapcInv p a => Sys2Proof.Machine.execPmapcInv p a s
  | .islcfgUnbind p a => Sys2Proof.Machine.execIslcfgUnbind p a s
  | .vaddI p d a b ty l => Sys2Proof.Machine.execVaddI p d a b ty l s
  | .vsubI p d a b ty l => Sys2Proof.Machine.execVsubI p d a b ty l s
  | .vmulI p d a b ty l => Sys2Proof.Machine.execVmulI p d a b ty l s
  | .vmulh p d a b ty l => Sys2Proof.Machine.execVmulh p d a b ty l s
  | .vminI p d a b ty l => Sys2Proof.Machine.execVminI p d a b ty l s
  | .vmaxI p d a b ty l => Sys2Proof.Machine.execVmaxI p d a b ty l s
  | .vand p d a b ty l => Sys2Proof.Machine.execVand p d a b ty l s
  | .vor p d a b ty l => Sys2Proof.Machine.execVor p d a b ty l s
  | .vxor p d a b ty l => Sys2Proof.Machine.execVxor p d a b ty l s
  | .vshl p d a sh ty l => Sys2Proof.Machine.execVshl p d a sh ty l s
  | .vshr p d a sh ty l => Sys2Proof.Machine.execVshr p d a sh ty l s
  | .vsra p d a sh ty l => Sys2Proof.Machine.execVsra p d a sh ty l s
  | .vabsI p d a ty l => Sys2Proof.Machine.execVabsI p d a ty l s
  | .vnegI p d a ty l => Sys2Proof.Machine.execVnegI p d a ty l s
  | .vadds p d a b ty l => Sys2Proof.Machine.execVadds p d a b ty l s
  | .vsubs p d a b ty l => Sys2Proof.Machine.execVsubs p d a b ty l s
  | .vaddF p d a b ty rm l => Sys2Proof.Machine.execVaddF p d a b ty rm l s
  | .vsubF p d a b ty rm l => Sys2Proof.Machine.execVsubF p d a b ty rm l s
  | .vmulF p d a b ty rm l => Sys2Proof.Machine.execVmulF p d a b ty rm l s
  | .vminF p d a b ty l => Sys2Proof.Machine.execVminF p d a b ty l s
  | .vmaxF p d a b ty l => Sys2Proof.Machine.execVmaxF p d a b ty l s
  | .vabsF p d a ty l => Sys2Proof.Machine.execVabsF p d a ty l s
  | .vnegF p d a ty l => Sys2Proof.Machine.execVnegF p d a ty l s
  | .vfma p d a b c ty rm l => Sys2Proof.Machine.execVfma p d a b c ty rm l s
  | .vfms p d a b c ty rm l => Sys2Proof.Machine.execVfms p d a b c ty rm l s
  | .vfnma p d a b c ty rm l => Sys2Proof.Machine.execVfnma p d a b c ty rm l s
  | .vdot p d a b c ty l => Sys2Proof.Machine.execVdot p d a b c ty l s
  | .vcmpEq p d a b ty l => Sys2Proof.Machine.execVcmpEq p d a b ty l s
  | .vcmpNe p d a b ty l => Sys2Proof.Machine.execVcmpNe p d a b ty l s
  | .vcmpLt p d a b ty l => Sys2Proof.Machine.execVcmpLt p d a b ty l s
  | .vcmpGe p d a b ty l => Sys2Proof.Machine.execVcmpGe p d a b ty l s
  | .vcmpLo p d a b ty l => Sys2Proof.Machine.execVcmpLo p d a b ty l s
  | .vcmpHs p d a b ty l => Sys2Proof.Machine.execVcmpHs p d a b ty l s
  | .vcmpEqF p d a b ty l => Sys2Proof.Machine.execVcmpEqF p d a b ty l s
  | .vcmpLtF p d a b ty l => Sys2Proof.Machine.execVcmpLtF p d a b ty l s
  | .vcmpLeF p d a b ty l => Sys2Proof.Machine.execVcmpLeF p d a b ty l s
  | .vcmpUnF p d a b ty l => Sys2Proof.Machine.execVcmpUnF p d a b ty l s
  | .mand p d a b => Sys2Proof.Machine.execMand p d a b s
  | .mor p d a b => Sys2Proof.Machine.execMor p d a b s
  | .mxor p d a b => Sys2Proof.Machine.execMxor p d a b s
  | .mandn p d a b => Sys2Proof.Machine.execMandn p d a b s
  | .mpopc p d a => Sys2Proof.Machine.execMpopc p d a s
  | .mfirst p d a => Sys2Proof.Machine.execMfirst p d a s
  | .mtos p d a => Sys2Proof.Machine.execMtos p d a s
  | .mfroms p d a => Sys2Proof.Machine.execMfroms p d a s
  | .vperm p d a b ty l => Sys2Proof.Machine.execVperm p d a b ty l s
  | .vbcast p d a ty l => Sys2Proof.Machine.execVbcast p d a ty l s
  | .vins p d a k ty l => Sys2Proof.Machine.execVins p d a k ty l s
  | .vext p d a k ty => Sys2Proof.Machine.execVext p d a k ty s
  | .vslide p d a b k ty l => Sys2Proof.Machine.execVslide p d a b k ty l s
  | .vslided p d a b k ty l => Sys2Proof.Machine.execVslided p d a b k ty l s
  | .vcomp p d a ty l => Sys2Proof.Machine.execVcomp p d a ty l s
  | .vexpd p d a ty l => Sys2Proof.Machine.execVexpd p d a ty l s
  | .vzip p d a b h ty l => Sys2Proof.Machine.execVzip p d a b h ty l s
  | .vunzip p d a b o ty l => Sys2Proof.Machine.execVunzip p d a b o ty l s
  | .vredAdd p d a ty rm mk => Sys2Proof.Machine.execVredAdd p d a ty rm mk s
  | .vredMin p d a ty mk => Sys2Proof.Machine.execVredMin p d a ty mk s
  | .vredMax p d a ty mk => Sys2Proof.Machine.execVredMax p d a ty mk s
  | .vredAnd p d a ty mk => Sys2Proof.Machine.execVredAnd p d a ty mk s
  | .vredOr p d a ty mk => Sys2Proof.Machine.execVredOr p d a ty mk s
  | .vredXor p d a ty mk => Sys2Proof.Machine.execVredXor p d a ty mk s
  | .vcvt p d a ty ty2 rnd part l => Sys2Proof.Machine.execVcvt p d a ty ty2 rnd part l s
  | .badd p d a b ty rnd l => Sys2Proof.Machine.execBadd p d a b ty rnd l s
  | .bsub p d a b ty rnd l => Sys2Proof.Machine.execBsub p d a b ty rnd l s
  | .bmul p d a b ty rnd l => Sys2Proof.Machine.execBmul p d a b ty rnd l s
  | .bmin p d a b ty rnd l => Sys2Proof.Machine.execBmin p d a b ty rnd l s
  | .bmax p d a b ty rnd l => Sys2Proof.Machine.execBmax p d a b ty rnd l s
  | .bneg p d a ty rnd l => Sys2Proof.Machine.execBneg p d a ty rnd l s
  | .bscale p d a k ty rnd l => Sys2Proof.Machine.execBscale p d a k ty rnd l s
  | .bnorm p d a ty rnd l => Sys2Proof.Machine.execBnorm p d a ty rnd l s
  | .btof p d a ty ty2 rnd part l => Sys2Proof.Machine.execBtof p d a ty ty2 rnd part l s
  | .bfromf p d a b ty ty2 rnd k => Sys2Proof.Machine.execBfromf p d a b ty ty2 rnd k s
  | .brefmt p d a ty ty2 rnd part l => Sys2Proof.Machine.execBrefmt p d a ty ty2 rnd part l s
  | .bgeth p d a k => Sys2Proof.Machine.execBgeth p d a k s
  | .bseth p d a k => Sys2Proof.Machine.execBseth p d a k s
  | .vrcp p d a l => Sys2Proof.Machine.execVrcp p d a l s
  | .vrsq p d a l => Sys2Proof.Machine.execVrsq p d a l s
  | .vexp2 p d a l => Sys2Proof.Machine.execVexp2 p d a l s
  | .vlog2 p d a l => Sys2Proof.Machine.execVlog2 p d a l s
  | .vld p d a k l => Sys2Proof.Machine.execVld p d a k l s
  | .vst p d a k mk => Sys2Proof.Machine.execVst p d a k mk s
  | .vldx p d a b l => Sys2Proof.Machine.execVldx p d a b l s
  | .vstx p d a b mk => Sys2Proof.Machine.execVstx p d a b mk s
  | .bld p d a b ty k => Sys2Proof.Machine.execBld p d a b ty k s
  | .bst p d a b ty k => Sys2Proof.Machine.execBst p d a b ty k s
  | .fqpop p d q => Sys2Proof.Machine.execFqpop p d q s
  | .fqdrop p q => Sys2Proof.Machine.execFqdrop p q s
  | .fqmark p gd q msk => Sys2Proof.Machine.execFqmark p gd q msk s
  | .mma p d a b c ty h bl => Sys2Proof.Machine.execMma p d a b c ty h bl s
  | .mman p d a b c ty h bl => Sys2Proof.Machine.execMman p d a b c ty h bl s
  | .mmaTileWrite k => Sys2Proof.Machine.execMmaTileWrite k s
  | .accz p d t => Sys2Proof.Machine.execAccz p d t s
  | .accmode p d m => Sys2Proof.Machine.execAccmode p d m s
  | .accrd p d a row q ty rnd => Sys2Proof.Machine.execAccrd p d a row q ty rnd s
  | .accwr p d a row q ty => Sys2Proof.Machine.execAccwr p d a row q ty s
  | .accexp p d a row q ty rnd => Sys2Proof.Machine.execAccexp p d a row q ty rnd s
  | .accswp p d a => Sys2Proof.Machine.execAccswp p d a s
  | .accsc p d a => Sys2Proof.Machine.execAccsc p d a s
  | .accscFit p d => Sys2Proof.Machine.execAccscFit p d s
  | .accraw p d a row q => Sys2Proof.Machine.execAccraw p d a row q s
  | .accrawOrg p d a => Sys2Proof.Machine.execAccrawOrg p d a s
  | .macq p gd => Sys2Proof.Machine.execMacq p gd s
  | .mrel p => Sys2Proof.Machine.execMrel p s
  | .mxfr p => Sys2Proof.Machine.execMxfr p s
  | .mxfrMigrate p a b => Sys2Proof.Machine.execMxfrMigrate p a b s
  | .migrationDone q => Sys2Proof.Machine.execMigrationDone q s
  | .twr p d a => Sys2Proof.Machine.execTwr p d a s
  | .tww p d a => Sys2Proof.Machine.execTww p d a s
  | .xcht p d a => Sys2Proof.Machine.execXcht p d a s
  | .blld p d a b ty => Sys2Proof.Machine.execBlld p d a b ty s
  | .blmv p d a j ty => Sys2Proof.Machine.execBlmv p d a j ty s
  | .blclr p d => Sys2Proof.Machine.execBlclr p d s
  | .send p a b c ch => Sys2Proof.Machine.execSend p a b c ch s
  | .sendRel p a b c ch => Sys2Proof.Machine.execSendRel p a b c ch s
  | .xsend p a b c ch => Sys2Proof.Machine.execXsend p a b c ch s
  | .xsendRel p a b c ch => Sys2Proof.Machine.execXsendRel p a b c ch s
  | .chbindWake p a ci => Sys2Proof.Machine.execChbindWake p a ci s
  | .chbindLand p d a ci => Sys2Proof.Machine.execChbindLand p d a ci s
  | .chbindFeed p d a ci => Sys2Proof.Machine.execChbindFeed p d a ci s
  | .jset p a b set prio x => Sys2Proof.Machine.execJset p a b set prio x s
  | .chunb p ch => Sys2Proof.Machine.execChunb p ch s
  | .chst p d ch => Sys2Proof.Machine.execChst p d ch s
  | .awaitCtr p a k => Sys2Proof.Machine.execAwaitCtr p a k s
  | .awaitBatch p a => Sys2Proof.Machine.execAwaitBatch p a s
  | .awaitLic p => Sys2Proof.Machine.execAwaitLic p s
  | .awaitTkt p a => Sys2Proof.Machine.execAwaitTkt p a s
  | .awaitChan p ch => Sys2Proof.Machine.execAwaitChan p ch s
  | .yield p => Sys2Proof.Machine.execYield p s
  | .endAct p => Sys2Proof.Machine.execEndAct p s
  | .slvl p d a b lv => Sys2Proof.Machine.execSlvl p d a b lv s
  | .scpy p d a b c sp dp st => Sys2Proof.Machine.execScpy p d a b c sp dp st s
  | .sgth p d a b c sp st => Sys2Proof.Machine.execSgth p d a b c sp st s
  | .sfq p d a c sp q cl st => Sys2Proof.Machine.execSfq p d a c sp q cl st s
  | .sfqRemote p d a b c cl st => Sys2Proof.Machine.execSfqRemote p d a b c cl st s
  | .sbar p mask => Sys2Proof.Machine.execSbar p mask s
  | .bseal p d => Sys2Proof.Machine.execBseal p d s
  | .waitb p n => Sys2Proof.Machine.execWaitb p n s
  | .bstat p d a => Sys2Proof.Machine.execBstat p d a s
  | .put p d a b c => Sys2Proof.Machine.execPut p d a b c s
  | .get p d a b c => Sys2Proof.Machine.execGet p d a b c s
  | .tkst p d a => Sys2Proof.Machine.execTkst p d a s
  | .tkstValue p d a => Sys2Proof.Machine.execTkstValue p d a s
  | .raAdd p d a b ty => Sys2Proof.Machine.execRaAdd p d a b ty s
  | .raAnd p d a b ty => Sys2Proof.Machine.execRaAnd p d a b ty s
  | .raOr p d a b ty => Sys2Proof.Machine.execRaOr p d a b ty s
  | .raXor p d a b ty => Sys2Proof.Machine.execRaXor p d a b ty s
  | .raMin p d a b ty => Sys2Proof.Machine.execRaMin p d a b ty s
  | .raMax p d a b ty => Sys2Proof.Machine.execRaMax p d a b ty s
  | .raSwp p d a b ty => Sys2Proof.Machine.execRaSwp p d a b ty s
  | .raCas p d a b c ty => Sys2Proof.Machine.execRaCas p d a b c ty s
  | .ctrb p d a b ip => Sys2Proof.Machine.execCtrb p d a b ip s
  | .tbuild p d a => Sys2Proof.Machine.execTbuild p d a s
  | .tfree p d a => Sys2Proof.Machine.execTfree p d a s
  | .tabort p a => Sys2Proof.Machine.execTabort p a s
  | .tqryStatus p d a => Sys2Proof.Machine.execTqryStatus p d a s
  | .tqryDoneBitmap p d a => Sys2Proof.Machine.execTqryDoneBitmap p d a s
  | .tqryQuorumCount p d a => Sys2Proof.Machine.execTqryQuorumCount p d a s
  | .fenceCtx p => Sys2Proof.Machine.execFenceCtx p s
  | .fenceCore p => Sys2Proof.Machine.execFenceCore p s
  | .fencePair p => Sys2Proof.Machine.execFencePair p s
  | .fenceGrp p => Sys2Proof.Machine.execFenceGrp p s
  | .fenceMod p => Sys2Proof.Machine.execFenceMod p s
  | .fenceSys p => Sys2Proof.Machine.execFenceSys p s
  | .acset p a k => Sys2Proof.Machine.execAcset p a k s
  | .acadd p d a k => Sys2Proof.Machine.execAcadd p d a k s
  | .acrd p d k => Sys2Proof.Machine.execAcrd p d k s
  | .suspend p d a b c => Sys2Proof.Machine.execSuspend p d a b c s
  | .resume p d a b c f => Sys2Proof.Machine.execResume p d a b c f s
  | .resumeSt p d a b c f => Sys2Proof.Machine.execResumeSt p d a b c f s
  | .copy p d a b c => Sys2Proof.Machine.execCopy p d a b c s
  | .copySt p d a b c => Sys2Proof.Machine.execCopySt p d a b c s
  | .discard p d a b => Sys2Proof.Machine.execDiscard p d a b s
  | .discardSt p d a b => Sys2Proof.Machine.execDiscardSt p d a b s
  | .trap p code => Sys2Proof.Machine.execTrap p code s
  | .bkpt p code => Sys2Proof.Machine.execBkpt p code s
  | .tretReissue p => Sys2Proof.Machine.execTretReissue p s
  | .tretNext p => Sys2Proof.Machine.execTretNext p s
  | .tretTarget p a => Sys2Proof.Machine.execTretTarget p a s
  | .isbind p d a => Sys2Proof.Machine.execIsbind p d a s
  | .isrel p => Sys2Proof.Machine.execIsrel p s
  | .isendLatch p a b bl j ty => Sys2Proof.Machine.execIsendLatch p a b bl j ty s
  | .isendTwin p a b tw => Sys2Proof.Machine.execIsendTwin p a b tw s
  | .issync p a => Sys2Proof.Machine.execIssync p a s
  | .scheduleValueReached k => Sys2Proof.Machine.execScheduleValueReached k s
  | .launch p d a b => Sys2Proof.Machine.execLaunch p d a b s
  | .evsig p a b => Sys2Proof.Machine.execEvsig p a b s
  | .evarm p a b ch => Sys2Proof.Machine.execEvarm p a b ch s
  | .evrd p d a b => Sys2Proof.Machine.execEvrd p d a b s
  | .psnqScalar p d a => Sys2Proof.Machine.execPsnqScalar p d a s
  | .psnqVector p d a half k => Sys2Proof.Machine.execPsnqVector p d a half k s
  | .psnqAcc p d a half => Sys2Proof.Machine.execPsnqAcc p d a half s
  | .psnqTwin p d a half => Sys2Proof.Machine.execPsnqTwin p d a half s
  | .psncls p d => Sys2Proof.Machine.execPsncls p d s
  | .psnclv p d => Sys2Proof.Machine.execPsnclv p d s
  | .psncla p d => Sys2Proof.Machine.execPsncla p d s
  | .selectActivation k => Sys2Proof.Machine.execSelectActivation k s
  | .conditionMet k c => Sys2Proof.Machine.execConditionMet k c s
  | .watchdogExpiry k => Sys2Proof.Machine.execWatchdogExpiry k s
  | .messageOffer n => Sys2Proof.Machine.execMessageOffer n s
  | .reoffer k id => Sys2Proof.Machine.execReoffer k id s
  | .putPerform n => Sys2Proof.Machine.execPutPerform n s
  | .getServe n => Sys2Proof.Machine.execGetServe n s
  | .raPerform n => Sys2Proof.Machine.execRaPerform n s
  | .streamStorePerform n => Sys2Proof.Machine.execStreamStorePerform n s
  | .streamReadServe n => Sys2Proof.Machine.execStreamReadServe n s
  | .acknowledgement n => Sys2Proof.Machine.execAcknowledgement n s
  | .getData n => Sys2Proof.Machine.execGetData n s
  | .refusal n => Sys2Proof.Machine.execRefusal n s
  | .staleName n => Sys2Proof.Machine.execStaleName n s
  | .retranslateCheck k id => Sys2Proof.Machine.execRetranslateCheck k id s
  | .deliveryFailure n => Sys2Proof.Machine.execDeliveryFailure n s
  | .unlistedKind n => Sys2Proof.Machine.execUnlistedKind n s
  | .streamStart k id => Sys2Proof.Machine.execStreamStart k id s
  | .streamFinish k id => Sys2Proof.Machine.execStreamFinish k id s
  | .timedLanding k n => Sys2Proof.Machine.execTimedLanding k n s
  | .islandBind gid iid => Sys2Proof.Machine.execIslandBind gid iid s
  | .isto gid iid => Sys2Proof.Machine.execIsto gid iid s
  | .droopTrip k => Sys2Proof.Machine.execDroopTrip k s
  | .droopClear k => Sys2Proof.Machine.execDroopClear k s
  | .epochStep f => Sys2Proof.Machine.execEpochStep f s
  | .launchEnqueue n => Sys2Proof.Machine.execLaunchEnqueue n s
  | .recordSlotWrite q w data => Sys2Proof.Machine.execRecordSlotWrite q w data s
  | .startGroup q => Sys2Proof.Machine.execStartGroup q s
  | .eventSignal n => Sys2Proof.Machine.execEventSignal n s
  | .evrdResponse n => Sys2Proof.Machine.execEvrdResponse n s
  | .faultRecordPost n => Sys2Proof.Machine.execFaultRecordPost n s
  | .treeBuild n => Sys2Proof.Machine.execTreeBuild n s
  | .treeRemove n => Sys2Proof.Machine.execTreeRemove n s
  | .terminationProbe gid => Sys2Proof.Machine.execTerminationProbe gid s
  | .probeWave gid => Sys2Proof.Machine.execProbeWave gid s
  | .pageRelease gid => Sys2Proof.Machine.execPageRelease gid s
  | .scrubDone page => Sys2Proof.Machine.execScrubDone page s
  | .compaction q => Sys2Proof.Machine.execCompaction q s
  | .preemption q => Sys2Proof.Machine.execPreemption q s
  | .sprigMarker k => Sys2Proof.Machine.execSprigMarker k s
  | .sealSprig gid => Sys2Proof.Machine.execSealSprig gid s
  | .debtResolution n cause => Sys2Proof.Machine.execDebtResolution n cause s
  | .sprigStep n => Sys2Proof.Machine.execSprigStep n s
  | .autoResume n => Sys2Proof.Machine.execAutoResume n s
  | .generationClose a r => Sys2Proof.Machine.execGenerationClose a r s
  | .drainMarker a r port cls => Sys2Proof.Machine.execDrainMarker a r port cls s
  | .allDrained a => Sys2Proof.Machine.execAllDrained a s
  | .generationOpen a r => Sys2Proof.Machine.execGenerationOpen a r s
  | .rotationDue f => Sys2Proof.Machine.execRotationDue f s
  | .rotate f => Sys2Proof.Machine.execRotate f s
  | .detectedTransient k c => Sys2Proof.Machine.execDetectedTransient k c s
  | .uncorrectableError k wa => Sys2Proof.Machine.execUncorrectableError k wa s
  | .correctableError => Sys2Proof.Machine.execCorrectableError s
  | .linkRetry r port => Sys2Proof.Machine.execLinkRetry r port s
  | .retireCore k trig => Sys2Proof.Machine.execRetireCore k trig s
  | .cxlAccess n => Sys2Proof.Machine.execCxlAccess n s
  | .cxlCompletion n ok => Sys2Proof.Machine.execCxlCompletion n ok s
  | .cxlTimeout n => Sys2Proof.Machine.execCxlTimeout n s
  | .walkComplete n => Sys2Proof.Machine.execWalkComplete n s
  | .hostAccess h line kind data => Sys2Proof.Machine.execHostAccess h line kind data s
  | .birsp h line dirty => Sys2Proof.Machine.execBirsp h line dirty s
  | .xinv w range => Sys2Proof.Machine.execXinv w range s
  | .eventWordAdd e v => Sys2Proof.Machine.execEventWordAdd e v s
  | .clrf e => Sys2Proof.Machine.execClrf e s
  | .msixArm j w => Sys2Proof.Machine.execMsixArm j w s
  | .faultLogEmpty q => Sys2Proof.Machine.execFaultLogEmpty q s
  | .mgmtLogEmpty => Sys2Proof.Machine.execMgmtLogEmpty s
  | .treeSlotSelect w => Sys2Proof.Machine.execTreeSlotSelect w s
  | .routeUpdate near j v => Sys2Proof.Machine.execRouteUpdate near j v s
  | .mgmtWrite off v => Sys2Proof.Machine.execMgmtWrite off v s
  | .go => Sys2Proof.Machine.execGo s
  | .rst => Sys2Proof.Machine.execRst s
  | .moduleReset => Sys2Proof.Machine.execModuleReset s
  | .nonceWrite j v => Sys2Proof.Machine.execNonceWrite j v s
  | .attestReady => Sys2Proof.Machine.execAttestReady s
  | .thermalTrip f => Sys2Proof.Machine.execThermalTrip f s
  | .combineUnit n => Sys2Proof.Machine.execCombineUnit n s
  | .rnq n => Sys2Proof.Machine.execRnq n s
  | .rnm n => Sys2Proof.Machine.execRnm n s
  | .resultDelivery n => Sys2Proof.Machine.execResultDelivery n s
  | .quorumWait r gid tid pos => Sys2Proof.Machine.execQuorumWait r gid tid pos s
  | .quorumDeadline gid tid => Sys2Proof.Machine.execQuorumDeadline gid tid s
  | .treeJoin n => Sys2Proof.Machine.execTreeJoin n s
  | .treePartial n => Sys2Proof.Machine.execTreePartial n s
  | .detach m gid tid => Sys2Proof.Machine.execDetach m gid tid s
  | .frameReceive p frame => Sys2Proof.Machine.execFrameReceive p frame s
  | .frameResend p m => Sys2Proof.Machine.execFrameResend p m s
  | .ackTimer p m => Sys2Proof.Machine.execAckTimer p m s
  | .handshake p frame => Sys2Proof.Machine.execHandshake p frame s
  | .sessionClose p m => Sys2Proof.Machine.execSessionClose p m s
  | .sessionTimeout p m => Sys2Proof.Machine.execSessionTimeout p m s
  | .rekey p m => Sys2Proof.Machine.execRekey p m s
  | .localRetry p seq => Sys2Proof.Machine.execLocalRetry p seq s
  | .retraining p => Sys2Proof.Machine.execRetraining p s
  | .linkDown p => Sys2Proof.Machine.execLinkDown p s
  | .killGroup gid => Sys2Proof.Machine.execKillGroup gid s
  | .suspendRequest n => Sys2Proof.Machine.execSuspendRequest n s
  | .sprigOperationRequest n => Sys2Proof.Machine.execSprigOperationRequest n s
  | .advanceSpacingElapsed page => Sys2Proof.Machine.execAdvanceSpacingElapsed page s
  | .localLinkAck p seq => Sys2Proof.Machine.execLocalLinkAck p seq s
  | .retrainingComplete p => Sys2Proof.Machine.execRetrainingComplete p s
  | .selfTestFailure k => Sys2Proof.Machine.execSelfTestFailure k s
  | .powerLoss => Sys2Proof.Machine.execPowerLoss s
  | .clearBar p m => Sys2Proof.Machine.execClearBar p m s
  | .firmwareUpdate ver sigOk => Sys2Proof.Machine.execFirmwareUpdate ver sigOk s
  | .raiseFusedMinimum v sigOk => Sys2Proof.Machine.execRaiseFusedMinimum v sigOk s

end Sys2Proof.Machine
end

