-- ==== Sys2Proof/Machine/Moves.lean ====
section
/-! DEFINITION. The moves of the module: fetching and issuing an instruction (R22, R43, R70, R77), time (R213, R285, R288, R314), the operations that may take place in a state, and what the outside world may do. -/
namespace Sys2Proof.Machine

/-! ### Issue -/

/-- Core k may issue its running context's next instruction now: the module runs, the core's clock runs, the issue cycle has come, no ISSYNC waits, the watchdog has not expired, and the core is not captured. -/
def State.mayIssue (s : State) (k : Nat) : Bool :=
  let c := s.coreAt k
  s.boot.phase == 4#4 && c.ctx.st == .running && !c.captured && c.sync.isNone && decide (c.ctx.wd < c.ctx.wdLimit) && decide (c.issueAt ≤ s.cycle)
    && s.clockRuns k

/-- The core in focus fetches the word at its pc and runs the instruction that it decodes to; a word that is no instruction traps ILL, and a fetch outside the program range BADADDR (R43, R70, R77). -/
noncomputable def State.runWord (s : State) : Out :=
  let pc := s.core.regs.pc
  if 0xF0000 ≤ pc.toNat then .next (s.takeAt s.cur ⟨.badaddr, pc.setWidth 64⟩ 0)
  else
    match decode s.core.fetchWord with
    | .ok i => exec i s
    | .error _ => .next (s.take (trap0 .ill))

/-- The instruction transfers control, so that registers left as they were are no stall. -/
def transfers (w : Word) : Bool := w.extractLsb' 52 8 == 0x18#8 || w.extractLsb' 52 8 == 0x19#8

/-- The stall at this word is one that R219 lists: not one for room in the hold buffer, which a capture may not cut short. -/
def Core.listedStall (c : Core) (w : Word) : Bool :=
  match (w.extractLsb' 52 8).toNat with
  | 0xA0 => false
  | 0xA3 => !(c.streamRoom && c.sbarRoom)
  | 0xA5 | 0xA6 | 0xC2 => c.ticketBusy
  | 0xC0 => c.ticketBusy || w.extractLsb' 46 6 == 0#6
  | 0xC3 => c.ticketBusy && w.extractLsb' 46 6 != 1#6 && w.extractLsb' 46 6 != 2#6
  | _ => true

/-- What issuing at core k leaves behind: the next instruction issues in a later cycle, an instruction that waits leaves the registers as they were (R219), and the group's first instruction has its cycle recorded (R266). -/
def State.afterIssue (s : State) (k : Nat) (old : Core) : State :=
  let c := s.coreAt k
  let stalled := c.run == old.run && c.ctx.st == .running && decide (c.regs = old.regs) && !transfers old.fetchWord && c.listedStall old.fetchWord
  let s := s.setCoreAt k { c with issueAt := max c.issueAt (s.cycle + 1), stalled := stalled, beside := [] }
  match s.owner? (pageOf k) with
  | some g => if g.tstart.isNone then s.modGroup g.gid fun g => { g with tstart := some s.cycle } else s
  | none => s

/-- Core k issues. -/
noncomputable def State.issueAt (s : State) (k : Nat) : Out :=
  if s.mayIssue k then
    let s := { s with cur := k }
    match s.runWord with
    | .next t => .next (t.afterIssue k s.core)
    | .fault f => .fault f
    | .refused r => .refused r
  else .refused (.notEnabled "ISSUE")

/-! ### Moves -/

/-- The operations that the outside world performs: hosts, system software, the devices behind a port, the cables, and the physical world. -/
def external : Instr → Bool
  | .rst | .moduleReset | .powerLoss | .go | .firmwareUpdate .. | .raiseFusedMinimum .. | .nonceWrite .. | .treeSlotSelect .. | .routeUpdate ..
  | .mgmtWrite .. | .mgmtLogEmpty | .faultLogEmpty .. | .recordSlotWrite .. | .hostAccess .. | .birsp .. | .xinv .. | .eventWordAdd .. | .clrf ..
  | .msixArm .. | .killGroup .. | .clearBar .. | .frameReceive .. | .handshake .. | .localRetry .. | .localLinkAck .. | .retrainingComplete ..
  | .droopTrip .. | .droopClear .. | .thermalTrip .. | .detectedTransient .. | .uncorrectableError .. | .correctableError | .linkRetry ..
  | .retireCore .. | .selfTestFailure .. | .cxlCompletion .. => true
  | _ => false

/-- The inputs that are writes of software; the others are of devices, cables and the physical world (R9). -/
def software : Instr → Bool
  | .rst | .moduleReset | .go | .firmwareUpdate .. | .raiseFusedMinimum .. | .nonceWrite .. | .treeSlotSelect .. | .routeUpdate ..
  | .mgmtWrite .. | .mgmtLogEmpty | .faultLogEmpty .. | .recordSlotWrite .. | .hostAccess .. | .xinv .. | .eventWordAdd .. | .clrf ..
  | .msixArm .. | .killGroup .. | .clearBar .. => true
  | _ => false

/-- The inputs that act at the start of a cycle of a core's clock: a fault that replays, halts or retires (R290, R330, R341). -/
def strikes : Instr → Bool
  | .detectedTransient .. | .retireCore .. | .selfTestFailure .. | .uncorrectableError .. => true
  | _ => false

/-- The inputs that reach the launch sequencer or a Yunavy link, both of which GO starts (R406). -/
def afterGo : Instr → Bool
  | .recordSlotWrite .. | .eventWordAdd .. | .clrf .. | .msixArm .. | .killGroup .. | .frameReceive .. | .handshake .. | .localRetry .. | .localLinkAck ..
  | .retrainingComplete .. => true
  | _ => false

/-- The inputs that act on a halted module (R404, R406, R410): resets, and what the security core and the management window serve. -/
def unclocked : Instr → Bool
  | .rst | .moduleReset | .powerLoss | .firmwareUpdate .. | .raiseFusedMinimum .. | .nonceWrite .. | .treeSlotSelect .. | .routeUpdate .. | .mgmtWrite ..
  | .mgmtLogEmpty => true
  | _ => false

/-- A completion at a CXL port is an operation of the outside world for a line of memory, where a walk's table reads and the sequencer's accesses then fail or succeed (R335; log 34). One that names an access of this module is a move of its own. -/
def State.fromOutside (s : State) (i : Instr) : Bool :=
  external i && match i with
    | .cxlCompletion n _ => decide (s.edge.accs.length ≤ n)
    | _ => true

/-- Without power only the power-on acts, and on a halted module only what needs none of its clocks (R410). Before GO what reaches the launch sequencer and a frame that arrives have no effect (R406; DEDUCED, log 14). -/
def State.hears (s : State) (i : Instr) : Bool :=
  s.fromOutside i && (s.boot.power || i == .moduleReset) && (!afterGo i || s.boot.phase == 4#4) && (s.boot.phase != 5#4 || unclocked i)

/-- A move that may be impossible now. -/
def orRefuse (name : String) : Option State → Out
  | some s => .next s
  | none => .refused (.notEnabled name)

/-- Operation `id` of core k leaves its core (R169, R225): to the sequencer, to the combine plane, or as a message. -/
def State.injectOp (s : State) (k id : Nat) : Option State :=
  let c := s.coreAt k
  match c.ops.find? fun o => o.id == id with
  | none => none
  | some o =>
    if !c.mayLeave o then none
    else if o.kind = 0x35#6 then some (s.leaveCtrb k o)
    else
      match c.seqReq k o with
      | some r => some { s.setCoreAt k (c.freeOp id) with seqIn := s.seqIn ++ [r] }
      | none => some (s.sendOp k o (!o.resend))

/-- A started stream command has an access that it can make now. -/
def State.streamWork (s : State) (k id : Nat) : Bool := (s.streamRead k id).isSome || (s.streamWrite k id).isSome

/-- The stream unit serves command `id` now (R232): round-robin from the command after the last one served, past those that have no access to make, and up to four accesses of the one it serves. -/
def State.inServiceOrder (s : State) (k id : Nat) : Bool :=
  let c := s.coreAt k
  let ids := (c.streams.filter Stream.started).map Stream.id
  let order := (ids.filter fun i => decide (c.served.1 < i)) ++ ids.filter fun i => decide (i ≤ c.served.1)
  (id == c.served.1 && decide (c.served.2 < 4)) || (order.find? (s.streamWork k)) == some id

/-- A stream access of command `id`, in its turn. -/
def State.serveStream (s : State) (k id : Nat) (f : Nat → Nat → Option State) : Option State :=
  if s.inServiceOrder k id then
    (f k id).map fun t =>
      let c := t.coreAt k
      t.setCoreAt k { c with strFails := 0, served := if c.served.1 = id ∧ c.served.2 < 4 then (id, c.served.2 + 1) else (id, 1) }
  else none

/-- A join set of core k fires, where it has a token on every member (R177). -/
def State.fireSet (s : State) (k : Nat) (set : BitVec 4) : Option State :=
  let c := s.coreAt k
  if c.captured then none else (c.fireJoin set).map (s.setCoreAt k)

/-- The next input. One that cannot take place, or that is no operation of the outside world, is lost. -/
def State.takeInput (s : State) : Out :=
  match s.inputs with
  | [] => .refused (.notEnabled "INPUT")
  | i :: is =>
    let s := { s with inputs := is }
    if s.hears i then
      match exec i s with
      | .next t => .next t
      | .fault f => .fault f
      | .refused _ => .next s
    else .next s

/-- Make a move that is fixed. -/
noncomputable def State.makeNow (s : State) : Move → Out
  | .issue k => s.issueAt k
  | .input => s.takeInput
  | .event i => exec i s
  | .inject k id => orRefuse "INJECT" (s.injectOp k id)
  | .join k set => orRefuse "JOIN_FIRE" (s.fireSet k set)
  | .streamRead k id => orRefuse "STREAM_READ" (s.serveStream k id s.streamRead)
  | .streamWrite k id => orRefuse "STREAM_WRITE" (s.serveStream k id s.streamWrite)
  | .edge n => orRefuse "CXL_ARRIVAL" (s.atEdge n)
  | .home n => orRefuse "CXL_HOME" (s.xHome n)
  | .walkRead n => orRefuse "WALK_READ" (s.walkRead n)
  | .egress n => orRefuse "EGRESS" (s.egress n)
  | .frame p m => orRefuse "FRAME" (s.sendNext p m)
  | .lane n => orRefuse "LANE" (s.laneEgress n)
  | .hop n p => orRefuse "HOP" (s.hop n p)
  | .clearField f => orRefuse "CLEAR_FIELD" (s.clearField f)
  | .boot => orRefuse "BOOT" s.bootStep

/-- The core whose local store a unit reads or writes in a move. -/
def State.unitAt (s : State) : Move → Option Nat
  | .streamRead k _ => some k
  | .streamWrite k _ => some k
  | .event i =>
    let atDst (n : Nat) : Option Nat := (s.flight[n]?).map fun m => keyOfAddr m.dst
    match i with
    | .messageOffer n => atDst n
    | .putPerform n => atDst n
    | .getServe n => atDst n
    | .raPerform n => atDst n
    | .streamStorePerform n => atDst n
    | .streamReadServe n => atDst n
    | .getData n => atDst n
    | .resultDelivery n => (s.downs[n]?).map CDown.router
    | .evrdResponse n => (s.seqIn[n]?).map SeqReq.core
    | .faultRecordPost n => ((s.posts[n]?).bind fun r => s.group? r.gid).map Group.rel0
    | _ => none
  | _ => none

/-- A unit of core k acts before a free number of the last store accesses of the core's instruction, and so comes between them (R22, R144, R145, R362). -/
def State.amid (s : State) (k : Nat) (f : State → Out) : Out :=
  let c := s.coreAt k
  if c.late.isEmpty || c.captured then f s
  else
    let r := c.hide (Config.late k s.tick % (c.late.length + 1))
    match f (s.setCoreAt k r.1) with
    | .next t => .next (t.setCoreAt k ((t.coreAt k).unhide r.2))
    | .fault e => .fault e
    | .refused e => .refused e

/-- Make a move. -/
noncomputable def State.make (s : State) (m : Move) : Out :=
  match s.unitAt m with
  | some k => s.amid k fun s => s.makeNow m
  | none => s.makeNow m

/-! ### Time -/

/-- The clocks of the module run: it has power and is not halted (R406, R410). -/
def Boot.clocks (b : Boot) : Bool := b.power && b.phase != 5#4

/-- The place of core k's instruction in a cycle: named order, the bedstone before the runner (R164, R166, R315). -/
def issueStage (k : Nat) : Nat := 1 + 2 * (k % 65536) + k / 65536

/-- The stage of the cycle in which a move takes place (R9, R157, R166, R215, R315). -/
def State.stageOf (s : State) : Move → Nat
  | .input => if (s.inputs.head?).any fun i => software i || strikes i then 0 else deviceStage
  | .issue k => issueStage k
  | .event (.watchdogExpiry k) => issueStage k
  | .event (.scheduleValueReached k) => issueStage k
  | .event (.timedLanding _ _) => landStage
  | _ => deviceStage

/-- What core k must do in this very cycle, by its stage: an ISSYNC that its schedule counter has reached, and landings (R215, R286). -/
def State.dueOf (s : State) (k : Nat) (c : Core) : Option Nat :=
  if c.captured || !s.clockRuns k then none
  else if c.sync == some c.scnt && c.ctx.st == .running && decide (c.ctx.wd < c.ctx.wdLimit) then some (issueStage k)
  else if c.landing.any fun x => x.val == c.scnt && x.arrived then some landStage
  else none

/-- The first stage of this cycle at which something must happen before time passes: what the cores must do, and the decisions of the governor (R314). -/
def State.due (s : State) : Option Nat :=
  if s.boot.phase != 4#4 then none
  else
    let cs := s.cores.filterMap fun e => s.dueOf e.1 e.2
    let gov := if (List.range 64).any fun f => (s.fieldAt f).decideAt.any fun n => decide (n ≤ s.cycle) then [deviceStage] else []
    (cs ++ gov).min?

/-- A parked context whose condition holds at a cycle's end is READY in the next (R180, R280, R311). -/
def State.wake (s : State) (k : Nat) : State :=
  ([0, 1, 2, 3] : List (BitVec 2)).foldl (fun s x =>
    match execConditionMet k x s with
    | .next t => t
    | _ => s) s

/-- One module cycle ends and the next begins: clocks, islands, the governor's samples, and the conditions of parked contexts. -/
def State.clock (s : State) : State :=
  if s.boot.clocks then
    let cores := s.cores.map fun e => (e.1, if s.clockRuns e.1 then e.2.clock ((s.islandOf e.1).isSome || !e.2.landing.isEmpty) else e.2)
    let run (t : State) (f : Nat) : State :=
      let x := s.fieldAt f
      t.setFieldAt f { x with ran := if x.runs s.cycle then x.ran + 1 else x.ran, gate := x.gateNew }
    let ran := s.seq.islands.filter fun i => i.members.head?.any s.clockRuns
    let t : State := { (List.range 64).foldl run s with cores := cores, cycle := s.cycle + 1, stage := 0 }
    let t := ran.foldl (fun t i => t.islandCycle i.gid i.iid) t
    let t := (List.range 64).foldl State.sampleField t
    let t := (t.seq.queues.map fun e => BitVec.ofNat 4 e.1).foldl State.meetHead t
    (t.cores.map Prod.fst).foldl State.wake t
  else { s with cycle := s.cycle + 1, stage := 0 }

/-- Up to n module cycles: none passes while something is due. -/
def State.pass : Nat → State → State
  | 0, s => s
  | n + 1, s => if s.due.isSome then s else State.pass n s.clock

/-- Reports of the cores reach the plane that carries them (R326), and resumes that are done end. -/
def State.collect (s : State) : State :=
  let s := s.settleResumes
  State.spill { s with
    posts := s.posts ++ s.cores.flatMap fun e => e.2.reports
    cores := s.cores.map fun e => (e.1, { e.2 with reports := [] }) }

/-! ### The moves that may be open -/

/-- Indices of a list. -/
def indices {α : Type} (l : List α) : List Nat := List.range l.length

/-- Moves of one core. -/
noncomputable def Core.moves (c : Core) (k : Nat) : List Move :=
  [.issue k, .event (.selectActivation k), .event (.watchdogExpiry k), .event (.scheduleValueReached k), .event (.sprigMarker k)]
    ++ ([0, 1, 2, 3] : List (BitVec 2)).map (fun x => .event (.conditionMet k x))
    ++ c.ops.flatMap (fun o => [.inject k o.id, .event (.reoffer k o.id), .event (.retranslateCheck k o.id)])
    ++ (List.range 16).map (fun i => .join k (BitVec.ofNat 4 i))
    ++ c.streams.flatMap (fun x => [.event (.streamStart k x.id), .streamRead k x.id, .streamWrite k x.id, .event (.streamFinish k x.id)])
    ++ (indices c.landing).map fun n => .event (.timedLanding k n)

/-- Moves of messages between cores. -/
noncomputable def State.messageMoves (s : State) : List Move :=
  (indices s.flight).flatMap fun n =>
    [.event (.messageOffer n), .event (.putPerform n), .event (.getServe n), .event (.raPerform n), .event (.streamStorePerform n),
     .event (.streamReadServe n), .event (.acknowledgement n), .event (.getData n), .event (.refusal n), .event (.staleName n),
     .event (.deliveryFailure n), .event (.unlistedKind n), .edge n]

/-- The numbers of the launch queues. -/
def queueNumbers : List (BitVec 4) := (List.range 16).map (BitVec.ofNat 4)

/-- Moves of the launch sequencer. -/
noncomputable def State.sequencerMoves (s : State) : List Move :=
  (indices s.seqIn).flatMap (fun n =>
      [.event (.launchEnqueue n), .event (.eventSignal n), .event (.evrdResponse n), .event (.treeBuild n), .event (.treeRemove n),
       .event (.suspendRequest n)])
    ++ (List.range (s.seqIn.length + s.laneIn.length)).map (fun n => .event (.sprigOperationRequest n))
    ++ queueNumbers.flatMap (fun q => [.event (.startGroup q), .event (.compaction q), .event (.preemption q)])
    ++ s.seq.groups.flatMap (fun g =>
      [.event (.terminationProbe g.gid), .event (.probeWave g.gid), .event (.pageRelease g.gid), .event (.sealSprig g.gid)])
    ++ (s.seq.pages.filter fun p => p.2.scrubbing).map (fun p => .event (.scrubDone p.1))
    ++ (s.seqIn.filter fun r => r.op == .isbind).map (fun r => .event (.islandBind r.gid (r.a.extractLsb' 0 16)))
    ++ s.seq.binds.flatMap (fun b => [.event (.islandBind b.gid b.iid), .event (.isto b.gid b.iid)])
    ++ (indices s.seq.jobs).map (fun n => .event (.sprigStep n))
    ++ (indices s.seq.resumes).map (fun n => .event (.autoResume n))
    ++ (s.seq.debts.zip (indices s.seq.debts)).map (fun d =>
      .event (.debtResolution d.2 ((((s.coreAt d.1.core).streams.find? fun x => x.id == d.1.stream).bind Stream.failed).getD 0)))
    ++ (indices s.posts).map fun n => .event (.faultRecordPost n)

/-- Moves of the fabric's agents and of the governor. -/
noncomputable def State.fabricMoves (s : State) : List Move :=
  s.advances.flatMap (fun a =>
      .event (.allDrained a.id) :: (a.pages.map fun p => .event (.advanceSpacingElapsed p))
        ++ routers.flatMap fun r => .event (.generationClose a.id r) :: .event (.generationOpen a.id r)
          :: (inputPorts r).flatMap fun q => drainClasses.map fun c => .event (.drainMarker a.id r (BitVec.ofNat 3 q.1) c))
    ++ (List.range 64).flatMap (fun f => [.event (.epochStep f), .event (.rotationDue f), .event (.rotate f), .clearField f])
    ++ (s.querns.filter fun q => q.2.hand.isSome).map fun q => .event (.migrationDone q.1)

/-- Moves of the combine plane. -/
noncomputable def State.combineMoves (s : State) : List Move :=
  (indices s.cunits).map (fun n => .event (.combineUnit n))
    ++ (indices s.rnqs).map (fun n => .event (.rnq n))
    ++ (indices s.rnms).map (fun n => .event (.rnm n))
    ++ (indices s.downs).map (fun n => .event (.resultDelivery n))
    ++ (indices s.downs).flatMap (fun n => ([0, 1, 2, 3, 4] : List Nat).map fun p => .hop n p)
    ++ s.trees.flatMap (fun t =>
      .event (.quorumDeadline t.gid t.tid) :: t.entries.flatMap fun e => e.since.map fun x => .event (.quorumWait e.router t.gid t.tid x.1))
    ++ (s.laneIn.zip (indices s.laneIn)).flatMap (fun m =>
      if m.1.kind = .leave then (s.trees.filter fun t => t.tid == m.1.tid).map fun t => .event (.detach m.1.peer t.gid t.tid)
      else [.event (.treeJoin m.2), .event (.treePartial m.2)])

/-- Moves of the edge, the ports and the security core. -/
noncomputable def State.edgeMoves (s : State) : List Move :=
  (indices s.edge.accs).flatMap (fun n =>
      [.home n, .event (.cxlAccess n), .event (.cxlCompletion n true), .event (.cxlCompletion n false), .event (.cxlTimeout n)])
    ++ (indices s.edge.walks).flatMap (fun n => [.walkRead n, .event (.walkComplete n)])
    ++ (indices s.outbox).map .egress
    ++ (indices s.laneOut).map .lane
    ++ s.yun.flatMap (fun e => [.event (.retraining e.1), .event (.linkDown e.1)]
      ++ e.2.sessions.flatMap fun x => [.frame e.1 x.peer, .event (.frameResend e.1 x.peer), .event (.ackTimer e.1 x.peer),
          .event (.sessionClose e.1 x.peer), .event (.sessionTimeout e.1 x.peer), .event (.rekey e.1 x.peer)])
    ++ [.event .attestReady]

/-- The moves that may be open: the next input first. Until GO the boot runs, without clocks only the outside world acts. -/
noncomputable def State.moves (s : State) : List Move :=
  let ins : List Move := if s.inputs.isEmpty then [] else [.input]
  if s.boot.phase = 4#4 ∧ s.boot.clocks then
    ins ++ s.cores.flatMap (fun e => e.2.moves e.1) ++ s.messageMoves ++ s.sequencerMoves ++ s.fabricMoves ++ s.combineMoves ++ s.edgeMoves
  else if s.boot.clocks then ins ++ [.boot, .event .attestReady]
  else ins

/-- The core at which a move takes place, where it takes place at one. -/
def State.coreOf (s : State) : Move → Option Nat
  | .issue k => some k
  | .inject k _ => some k
  | .join k _ => some k
  | .streamRead k _ => some k
  | .streamWrite k _ => some k
  | .event i =>
    let atDst (n : Nat) : Option Nat := (s.flight[n]?).bind fun m => if m.dmod == s.modId && m.kind != 7#6 then some (keyOfAddr m.dst) else none
    match i with
    | .selectActivation k => some k
    | .watchdogExpiry k => some k
    | .scheduleValueReached k => some k
    | .conditionMet k _ => some k
    | .reoffer k _ => some k
    | .retranslateCheck k _ => some k
    | .streamStart k _ => some k
    | .streamFinish k _ => some k
    | .timedLanding k _ => some k
    | .messageOffer n => atDst n
    | .putPerform n => atDst n
    | .getServe n => atDst n
    | .raPerform n => atDst n
    | .streamStorePerform n => atDst n
    | .streamReadServe n => atDst n
    | .acknowledgement n => atDst n
    | .getData n => atDst n
    | .refusal n => atDst n
    | .staleName n => atDst n
    | .evrdResponse n => (s.seqIn[n]?).map SeqReq.core
    | .faultRecordPost n =>
      ((s.posts[n]?).bind fun r => s.group? r.gid).bind fun g => if recFcv g.words && g.ended.isNone then some g.rel0 else none
    | .resultDelivery n => (s.downs[n]?).map CDown.router
    | .cxlCompletion n _ => (s.edge.accs[n]?).map XAcc.core
    | .migrationDone q => some q
    | _ => none
  | _ => none

/-- The clock of the core at which a move takes place runs, so its pipeline, its units and its local-store ports can make it (R288, R289, R314); what a captured core does is the sequencer's work. -/
def State.clocked (s : State) (m : Move) : Bool := (s.coreOf m).all fun k => s.clockRuns k || (s.coreAt k).captured

/-- The stage of a move has not passed in this cycle, and nothing that is due stands before it. -/
def State.inTurn (s : State) (m : Move) : Bool := decide (s.stage ≤ s.stageOf m) && s.due.all fun r => decide (s.stageOf m ≤ r)

/-- The move can be made. -/
noncomputable def State.canMake (s : State) (m : Move) : Bool :=
  s.inTurn m && s.clocked m && match s.make m with
    | .next _ => true
    | _ => false

/-- Time passes, and one of the open moves is made, if there is one. -/
noncomputable def State.advance (s : State) : Out :=
  let s := { (s.pass (Config.elapsed s.tick)).collect with tick := s.tick + 1 }
  let ms := s.moves.filter s.canMake
  match ms[Config.choose s.tick % ms.length]? with
  | some m => ({ s with stage := s.stageOf m }).make m
  | none => .next s

/-- The module is without power or halted, and no input is left. -/
def State.dead (s : State) : Bool := !s.boot.clocks && s.inputs.isEmpty

/-- One step: the move that is fixed, or time and a move. -/
noncomputable def State.go (s : State) : Out :=
  match s.turn with
  | some m => ({ s with turn := none }).make m
  | none => if s.dead then .fault .idle else s.advance

/-- A core that runs from address 0 in context 0, with some bytes there. -/
def Core.ready (c : Core) (bs : List Byte) : Core :=
  { (c.setCtxAt 0 { c.ctxAt 0 with st := .running }) with run := 0, ls := c.ls.putBytes 0 bs }

/-- The state in which core 0 is about to issue the instruction whose bytes these are. -/
def State.place (s : State) (bs : List Byte) : State :=
  let c := (s.coreAt 0).ready bs
  { s.setCoreAt 0 (c.setRegs { c.regs with pc := 0 }) with turn := some (.issue 0), boot := { s.boot with phase := 4 } }

end Sys2Proof.Machine
end

