-- ==== Sys2Proof/Machine/Step.lean ====
section
/-! DEFINITION. The step of the module, and the state in which the next step runs a given word. -/
namespace Sys2Proof.Machine

/-- One step. -/
noncomputable def step (s : State) : Host.Outcome State Fault Refusal := s.go

/-- The state with an instruction's word where core 0 fetches next. An instruction is one word of 64 bits (R70). -/
def State.withFetchWord (s : State) (nbits w : Nat) : State := if nbits ≤ 64 then s.place (natBytes w 8) else s

end Sys2Proof.Machine
end

