-- ==== Sys2Proof/Safety.lean ====
section
/-! DEFINITION. The terms of the statements about the machine: completing, running safely, the parts of the state that an operation leaves alone, and the legal boot status. -/
namespace Sys2Proof.Machine

/-! ### Completing and safe runs -/

/-- The operation completes with the state t. -/
def Gives (i : Instr) (s t : State) : Prop := exec i s = .next t

/-- The operation completes. -/
def Completes (i : Instr) (s : State) : Prop := ∃ t, Gives i s t

/-- No number of steps from the state ends in a fault or a refusal. -/
def Safe (s : State) : Prop := ∀ n : Nat, ∃ t : State, Host.Core.run Sys2Proof.core n s = .next t

/-! ### The core in focus -/

/-- The registers of the running context of the core in focus are replaced; nothing else of the machine changes. -/
def State.withRegs (s : State) (r : Regs) : State := s.setCore (s.core.setRegs r)

/-- The registers of the running context of the core in focus. -/
def State.regs (s : State) : Regs := s.core.regs

/-- An instruction with this guard executes (R75). -/
def State.executes (s : State) (p : Pred) : Prop := s.regs.guard p = true

/-- None of these scalar registers is poisoned. -/
def State.clean (s : State) (is : List Reg) : Prop := ∀ i ∈ is, s.regs.psn i = false

/-- Some of these scalar registers is poisoned. -/
def State.tainted (s : State) (is : List Reg) : Prop := ∃ i ∈ is, s.regs.psn i = true

/-! ### Memory -/

/-- A byte of the local store of the core at a position. -/
def State.lsByte (s : State) (k a : Nat) : Byte := (s.coreAt k).ls.byte a

/-- A byte of system memory, by system physical address. -/
def State.sysByte (s : State) (a : Nat) : Byte := s.edge.mem.byte a

/-- All of memory reads as before, save the local store of one core. -/
def SameMemoryBut (k : Nat) (s t : State) : Prop :=
  (∀ j, j ≠ k → ∀ a, t.lsByte j a = s.lsByte j a) ∧ ∀ a, t.sysByte a = s.sysByte a

/-- All of memory reads as before. -/
def SameMemory (s t : State) : Prop := (∀ j a, t.lsByte j a = s.lsByte j a) ∧ ∀ a, t.sysByte a = s.sysByte a

/-- Nothing but the core in focus changes. -/
def OnlyCore (s t : State) : Prop := t = s.setCore t.core

/-! ### Boot status (R405) -/

/-- A legal BOOTST: PHASE and FAIL hold values that R405 lists, and the module is halted exactly when FAIL names a failure (R406). -/
def Boot.legal (b : Boot) : Prop := b.phase.toNat ≤ 5 ∧ b.fail.toNat ≤ 4 ∧ (b.phase = 5#4 ↔ b.fail ≠ 0#4)

/-! ### Shapes of statements about scalar results (R92) -/

/-- Scalar D receives x, not poisoned, and the pc advances; nothing else of the machine changes. A write to s0 is discarded (R12). -/
def State.putS (s : State) (d : Reg) (x : Word) : State := s.withRegs ((s.regs.wrS d x false).adv)

/-- D receives a poisoned value: the poison bit is set, ASTAT gains PSN and no other flag, and the pc advances (R92). -/
def State.putPoison (s : State) (d : Reg) (x : Word) : State := s.withRegs (((s.regs.wrS d x true).flag fPSN).adv)

/-- D receives x, ASTAT gains the flags, and the pc advances; nothing else of the machine changes. -/
def State.putF (s : State) (d : Reg) (x : FRes) : State := s.withRegs (((s.regs.wrS d x.bits false).flag x.flags).adv)

/-- An instruction of two scalar sources puts f of them into D. -/
def RegRule (mk : Pred → Reg → Reg → Reg → Instr) (f : Word → Word → Word) : Prop :=
  ∀ p d a b s, s.executes p → s.clean [a, b] → exec (mk p d a b) s = .next (s.putS d (f (s.regs.rdS a) (s.regs.rdS b)))

/-- An instruction of one scalar source and an immediate puts f of them into D. -/
def ImmRule {n : Nat} (mk : Pred → Reg → Reg → BitVec n → Instr) (f : Word → BitVec n → Word) : Prop :=
  ∀ p d a im s, s.executes p → s.clean [a] → exec (mk p d a im) s = .next (s.putS d (f (s.regs.rdS a) im))

/-- An instruction of two scalar sources puts into D a value that stands in a relation to them. -/
def RegRel (mk : Pred → Reg → Reg → Reg → Instr) (P : Word → Word → Word → Prop) : Prop :=
  ∀ p d a b s, s.executes p → s.clean [a, b] → ∃ x, P (s.regs.rdS a) (s.regs.rdS b) x ∧ exec (mk p d a b) s = .next (s.putS d x)

/-- An instruction of one scalar source puts into D a value that stands in a relation to it. -/
def UnRel (mk : Pred → Reg → Reg → Instr) (P : Word → Word → Prop) : Prop :=
  ∀ p d a s, s.executes p → s.clean [a] → ∃ x, P (s.regs.rdS a) x ∧ exec (mk p d a) s = .next (s.putS d x)

/-- With a poisoned source, the instruction puts the poisoned value 0 into D. -/
def Poisons (mk : Pred → Reg → Instr) (srcs : List Reg) : Prop :=
  ∀ p d s, s.executes p → s.tainted srcs → exec (mk p d) s = .next (s.putPoison d 0)

/-! ### Shapes of statements about guards (R76) -/

/-- What a compare writes to its two guards under CMB, from the guards before it (R76). -/
def cmbValues (m : Cmb) (x y c : Bool) : Bool × Bool :=
  match m with
  | .plain => (c, !c)
  | .and => (x && c, y && !c)
  | .or => (x || c, y || !c)
  | .andor => (x && c, y || !c)

/-- The registers after a condition went to two different guards, or to g0; a write to g0 is discarded. -/
def Regs.condition (r : Regs) (gd : GDst) (c : Bool) (r' : Regs) : Prop :=
  let v := cmbValues gd.cmb (r.rdG gd.pd1) (r.rdG gd.pd2) c
  (∀ i : BitVec 3, r'.rdG i = if i = 0#3 then true else if i = gd.pd2 then v.2 else if i = gd.pd1 then v.1 else r.rdG i) ∧
    r' = { r with g := r'.g, pc := r.pc + 8 }

/-- A compare-type instruction puts its condition into its guards, and changes nothing else but the pc. -/
def GuardRule (mk : Pred → GDst → Instr) (srcs : List Reg) (c : Regs → Bool) : Prop :=
  ∀ p gd s, s.executes p → s.clean srcs → ∃ r, s.regs.condition gd (c s.regs) r ∧ exec (mk p gd) s = .next (s.withRegs r)

/-- A compare whose scalar sources are poisoned traps PSNUSE with the first of them, and writes nothing (R93). -/
def GuardTraps (mk : Pred → GDst → Instr) (srcs : List Reg) : Prop :=
  ∀ p gd s, s.executes p → ∀ pre r post, srcs = pre ++ r :: post → s.clean pre → s.regs.psn r = true →
    exec (mk p gd) s = .next (s.take ⟨.psnuse, r.setWidth 64⟩)

/-- A floating-point compare also raises IOE where its rule says. -/
def GuardRuleF (mk : Pred → GDst → Instr) (srcs : List Reg) (c ioe : Regs → Bool) : Prop :=
  ∀ p gd s, s.executes p → s.clean srcs →
    ∃ r, s.regs.condition gd (c s.regs) r ∧ exec (mk p gd) s = .next (s.withRegs (r.flag (if ioe s.regs then fIOE else 0)))

/-! ### Local store as R42 lays it out -/

/-- A byte of the local store of the core in focus. -/
def State.byte (s : State) (a : Nat) : Byte := s.core.ls.byte a

/-- The word that holds an address carries a poison mark (R112). -/
def State.mark (s : State) (a : Nat) : Bool := s.core.marks.contains (a / 8)

/-- The bytes from ea lie between two addresses. -/
def within (ea : Int) (n lo hi : Nat) : Prop := (lo : Int) ≤ ea ∧ ea + n ≤ hi

/-- The ranges of R42 that only privilege may read. -/
def systemRows : List (Nat × Nat) :=
  [(0xF0000, 0xF2000), (0xF2000, 0xF4000), (0xF4000, 0xFC000), (0xFD000, 0xFD800), (0xFD800, 0xFE000), (0xFE000, 0xFF000), (0xFF000, 0x100000)]

/-- R42 and R109 let the running context read these bytes. -/
def State.readable (s : State) (ea : Int) (n : Nat) : Prop :=
  within ea n 0 0xF0000 ∨ within ea n 0xFC000 0xFD000 ∨
  (within ea n 0xF4000 0xFC000 ∧ within ea n s.core.ctx.copyAddr.toNat (s.core.ctx.copyAddr.toNat + s.core.ctx.copyLen.toNat)) ∨
  (s.core.prv = true ∧ ∃ r ∈ systemRows, within ea n r.1 r.2)

/-- R42 and R109 let the running context write these bytes. -/
def State.writable (s : State) (ea : Int) (n : Nat) : Prop :=
  within ea n 0 0xF0000 ∨ (s.core.prv = true ∧ (within ea n 0xFC000 0xFD000 ∨ ∃ r ∈ systemRows, within ea n r.1 r.2))

/-- R42 discards writes to this address: the journal, the hold buffer, tickets and retained inputs. -/
def discarded (a : Int) : Prop := (0xF0000 ≤ a ∧ a < 0xF4000) ∨ (0xFE000 ≤ a ∧ a < 0xFF000)

/-- The address that a load or store forms (R108): an unbounded sum. -/
def State.ea (s : State) (a : Reg) (im : BitVec 32) : Int := (s.regs.rdS a).toNat + im.toInt

/-- The number that n bytes hold, lowest address least significant (R5). -/
def State.number (s : State) (a n : Nat) : Nat := leNat ((List.range n).map fun i => s.byte (a + i))

/-- A byte that a store to ea does not write: as before, but zero where the store changed a binding record and no layout names the byte any longer (R223). -/
def State.kept (s t : State) (ea x : Nat) : Byte := if lsRow ea = 6 ∧ t.core.unnamed x = true then 0 else s.byte x

/-- Local store after n bytes at ea were written: those bytes as given, as far as their range takes them (RO and reserved bits of system records, trap records and unnamed channel bytes ignore writes: R7, R8, R39, R223, R227, R324), and every byte outside them as before, but for the ranges that the core itself keeps: the journal (0xF0000), the hold buffer, and the retained inputs from 0xFE800. When the journal has room, only the record's own eight bytes of it change. -/
def Stored (s t : State) (ea n : Nat) (f : Nat → Byte) : Prop :=
  (∀ i, i < n → t.byte (ea + i) = s.core.blend (ea + i) (f i)) ∧
  (∀ x, (x < ea ∨ ea + n ≤ x) → (x < 0xF0000 ∨ (0xF4000 ≤ x ∧ x < 0xFE800)) → t.byte x = s.kept t ea x) ∧
  (s.core.win.fits 1 8 = true → ∀ x, (x < ea ∨ ea + n ≤ x) →
    (x < 0xF0000 + s.core.win.jbytes ∨ 0xF0000 + s.core.win.jbytes + 8 ≤ x) → t.byte x = s.kept t ea x)

/-- The mark of the written word: poisoned data sets it, a clean write of the whole word clears it, and a smaller clean write leaves it; every other mark stays (R112). -/
def Marked (s t : State) (ea n : Nat) (p : Bool) : Prop :=
  ∀ x, t.mark x = if x / 8 = ea / 8 then (p || (s.mark x && decide (n ≠ 8))) else s.mark x

/-- Beside local store, its marks, the commit window with the stores that units may still come before, the page-map cache, the image-clean bit and the registers, the core keeps what it held. -/
def StoreFrame (s t : State) : Prop :=
  OnlyCore s t ∧ (s.core.win.fits 1 8 = true → ∃ pm cl win,
    t.core = { s.core with ls := t.core.ls, marks := t.core.marks, pmCache := pm, clean := cl, win := win, late := t.core.late }.setRegs t.regs)

/-- A load of n bytes with an extension: the value, or the poisoned value when the word is marked (R108, R112). -/
def LoadRule (mk : Pred → Reg → Reg → BitVec 32 → Instr) (n : Nat) (ext : Nat → Word) : Prop :=
  ∀ p d a im s, s.executes p → s.clean [a] → s.readable (s.ea a im) n → s.ea a im % (n : Int) = 0 →
    let x := ext (s.number (s.ea a im).toNat n)
    exec (mk p d a im) s = .next (if s.mark (s.ea a im).toNat then s.putPoison d x else s.putS d x)

/-- The core as a store finds it: with no room for its journal record, the commit window closes first (R111). -/
def State.journalled (s : State) : Core := s.core.roomForJournal 1 8

/-- A store of the low n bytes of s[D] (R108, R111, R112). -/
def StoreRule (mk : Pred → Reg → Reg → BitVec 32 → Instr) (n : Nat) : Prop :=
  ∀ p d a im s, s.executes p → s.clean [a] → s.writable (s.ea a im) n → s.ea a im % (n : Int) = 0 →
    let psn := if s.regs.psn d then fPSN else 0
    ∃ t, exec (mk p d a im) s = .next t ∧ StoreFrame s t ∧
      (discarded (s.ea a im) → t = s.withRegs ((s.regs.flag psn).adv)) ∧
      (¬ discarded (s.ea a im) → t.regs = (s.journalled.regs.flag psn).adv ∧
        Stored s t (s.ea a im).toNat n (fun i => (s.regs.rdS d).extractLsb' (8 * i) 8) ∧ Marked s t (s.ea a im).toNat n (s.regs.psn d))

/-- The step of a local atomic (R113): `new` computes the word from the old one, the low bits of s[B] and those of the compare register. -/
def AtomicRule (mk : Pred → Reg → Reg → Reg → Reg → Ty → Instr) (more : Reg → List Reg) (new : Ty → BitVec 64 → BitVec 64 → BitVec 64 → BitVec 64) : Prop :=
  ∀ p d a b x ty s, ty ∈ [Ty.i32, Ty.i64, Ty.n32, Ty.n64] → s.executes p → s.clean [a] →
    let n := ty.width / 8
    let ea := (s.regs.rdS a).toNat
    s.writable ea n → ea % n = 0 →
    let old := BitVec.ofNat 64 (s.number ea n)
    let y := new ty old (ty.low (s.regs.rdS b)) (ty.low (s.regs.rdS x))
    let bad := (b :: more x).any fun i => s.regs.psn i
    let writes : Prop := ¬ discarded ea ∧ (bad = true ∨ y ≠ old ∨ n = 8)
    let put (r : Regs) : Regs := ((r.wrS d (ty.extend old) (s.mark ea)).flag (if s.mark ea || bad then fPSN else 0)).adv
    ∃ t, exec (mk p d a b x ty) s = .next t ∧ StoreFrame s t ∧
      (¬ writes → t = s.withRegs (put s.regs)) ∧
      (writes → t.regs = put s.journalled.regs ∧ Stored s t ea n (fun i => if bad then 0 else y.extractLsb' (8 * i) 8) ∧ Marked s t ea n bad)

/-! ### Control transfers and control registers -/

/-- Control goes to a target; nothing else changes. -/
def State.jump (s : State) (t : Int) : State := s.withRegs { s.regs with pc := BitVec.ofInt 20 t }

/-- Control goes to a target, s31 receives the address after the instruction, and the return stack gains it, losing its oldest entry when it holds four (R97, R114). -/
def State.call (s : State) (t : Int) : State :=
  let link : Word := BitVec.ofNat 64 (s.regs.pc.toNat + 8)
  let s := s.withRegs ({ s.regs with pc := BitVec.ofInt 20 t }.wrS 31 link false)
  s.setCore (s.core.setCtx { s.core.ctx with rstack := (link :: s.core.ctx.rstack).take 4 })

/-- Control goes to a target, and the return stack loses its top entry (R97). -/
def State.ret (s : State) (t : Int) : State :=
  let s := s.jump t
  s.setCore (s.core.setCtx { s.core.ctx with rstack := s.core.ctx.rstack.drop 1 })

/-- A target that R115 accepts: aligned, and a program address. -/
def legalTarget (t : Int) : Prop := 0 ≤ t ∧ t ≤ 0xEFFF8 ∧ t % 8 = 0

/-- A transfer to a target: done, or BADADDR with the target. -/
def Transfers (i : Instr) (s : State) (t : Int) (done : State) : Prop :=
  (legalTarget t → exec i s = .next done) ∧ (¬ legalTarget t → exec i s = .next (s.take ⟨.badaddr, BitVec.ofInt 64 t⟩))

/-- A transfer to the address in a register: a poisoned one traps PSNUSE first. -/
def TransfersTo (i : Instr) (s : State) (a : Reg) (done : Int → State) : Prop :=
  (s.regs.psn a = true → exec i s = .next (s.take ⟨.psnuse, a.setWidth 64⟩)) ∧
  (s.regs.psn a = false → Transfers i s (s.regs.rdS a).toNat (done (s.regs.rdS a).toNat))

/-- CRW, CRS and CRC of a register with RW fields in a mask, by the value read and the way a value is stored (R117); the old value goes into the commit window's journal first (R119, R224). -/
def CrRule (idx : BitVec 12) (mask : Word) (get : Core → Word) (put : Core → Word → Core) : Prop :=
  ∀ p d a s, s.executes p → (crPriv idx = true → s.core.prv = true) → s.clean [a] →
    let v := s.regs.rdS a
    let old := get s.core
    let c := s.core.journalCr idx old
    let keep := old &&& ~~~mask
    exec (.crw p idx a) s = .next (s.setCore (put c (keep ||| (v &&& mask))).adv) ∧
    exec (.crs p d idx a) s = .next (s.setCore ((put c (keep ||| ((old ||| v) &&& mask))).modRegs fun r => (r.wrS d old false).adv)) ∧
    exec (.crc p d idx a) s = .next (s.setCore ((put c (keep ||| ((old &&& ~~~v) &&& mask))).modRegs fun r => (r.wrS d old false).adv))

/-! ### Vector operands and results (R13, R120 to R125) -/

/-- The A operand and the core that an instruction finds when it has read it: a register, or the head of a feed queue, which is then consumed (R124, R125). -/
def readsA (c : Core) (a : VSrc) (x : VVal) (c' : Core) : Prop :=
  match a with
  | .reg i => x = c.regs.rdVV i ∧ c' = c
  | .fq q => ∃ e es, (c.ctx.feed q).live = e :: es ∧ x = ⟨e.data, e.side⟩ ∧ c' = c.consume q

/-- Vector D receives a value with its side word, ASTAT gains flags, and the pc advances; nothing else of the core or the machine changes. -/
def State.putV (s : State) (c : Core) (d : Reg) (x : VVal) (fl : Flags) : State := s.setCore (c.modRegs fun r => ((r.wrVV d x).flag fl).adv)

/-- Lane i stays as it was: the instruction does not write it, or it is masked off under MA = 0 (R122). -/
def Regs.stays (r : Regs) (l : Lane) (keep : Nat → Bool) (i : Nat) : Bool := keep i || (!r.active l i && !l.ag)

/-- Lane i is computed (R122). -/
def Regs.computed (r : Regs) (l : Lane) (keep : Nat → Bool) (i : Nat) : Bool := r.active l i && !keep i

/-- The data and flags of a lane result: a computed lane holds its value, a lane that stays its old data, and any other zero; the flags are those of the computed lanes (R122). -/
def LaneData (r : Regs) (old : VVal) (l : Lane) (w n : Nat) (keep : Nat → Bool) (f : Nat → FRes) (data : VData) (fl : Flags) : Prop :=
  (∀ i, i < n → VVal.lane ⟨data, 0⟩ w i =
    if r.computed l keep i then BitVec.ofNat 64 ((f i).bits.toNat % 2 ^ w) else if r.stays l keep i then old.lane w i else 0) ∧
  ∀ b, fl.getLsbD b = (List.range n).any fun i => r.computed l keep i && (f i).flags.getLsbD b

/-- No poison is met: no source is poisoned in whole, which has no masked-off lanes (R67), and there is none in the inputs of a computed lane and none in a lane of the old destination that stays (R123). -/
def LanesClean (r : Regs) (old : VVal) (l : Lane) (w n : Nat) (keep : Nat → Bool) (xs : List VVal) (clean : Nat → Prop) : Prop :=
  (∀ x ∈ xs, x.whole = false) ∧ ∀ i, i < n → (r.computed l keep i = true → clean i) ∧ (r.stays l keep i = true → old.poisonAt (w * i) w = [])

/-- The instruction completes with lane results in D and a side word of zero (R120, R122). -/
def LaneResult (i : Instr) (s : State) (c : Core) (d : Reg) (l : Lane) (w n : Nat) (keep : Nat → Bool) (f : Nat → FRes) : Prop :=
  ∃ data fl, LaneData c.regs (c.regs.rdVV d) l w n keep f data fl ∧ exec i s = .next (s.putV c d ⟨data, 0⟩ fl)

/-- The types of lanes (R120). -/
def laneTypes : List Ty := [.i8, .i16, .i32, .i64, .n8, .n16, .n32, .n64, .f16, .bf16, .f32]

/-- No lane is left out but by the mask. -/
def everyLane (_ : Nat) : Bool := false

/-- An element-wise instruction of one vector source. -/
def VecRule1 (mk : Pred → Reg → VSrc → Ty → Lane → Instr) (f : Ty → BitVec 64 → FRes) : Prop :=
  ∀ p d a ty l s x c, ty ∈ laneTypes → s.executes p → readsA s.core a x c →
    LanesClean c.regs (c.regs.rdVV d) l ty.width ty.lanes everyLane [x] (fun i => x.poisonAt (ty.width * i) ty.width = []) →
    LaneResult (mk p d a ty l) s c d l ty.width ty.lanes everyLane fun i => f ty (x.lane ty.width i)

/-- An element-wise instruction of two vector sources. -/
def VecRule2 (mk : Pred → Reg → VSrc → Reg → Ty → Lane → Instr) (f : Ty → BitVec 64 → BitVec 64 → FRes) : Prop :=
  ∀ p d a b ty l s x c, ty ∈ laneTypes → s.executes p → readsA s.core a x c →
    let y := c.regs.rdVV b
    LanesClean c.regs (c.regs.rdVV d) l ty.width ty.lanes everyLane [x, y]
      (fun i => x.poisonAt (ty.width * i) ty.width = [] ∧ y.poisonAt (ty.width * i) ty.width = []) →
    LaneResult (mk p d a b ty l) s c d l ty.width ty.lanes everyLane fun i => f ty (x.lane ty.width i) (y.lane ty.width i)

/-- An element-wise instruction of three vector sources. -/
def VecRule3 (mk : Pred → Reg → VSrc → Reg → Reg → Ty → Lane → Instr) (f : Ty → BitVec 64 → BitVec 64 → BitVec 64 → FRes) : Prop :=
  ∀ p d a b e ty l s x c, ty ∈ laneTypes → s.executes p → readsA s.core a x c →
    let y := c.regs.rdVV b
    let z := c.regs.rdVV e
    LanesClean c.regs (c.regs.rdVV d) l ty.width ty.lanes everyLane [x, y, z]
      (fun i => x.poisonAt (ty.width * i) ty.width = [] ∧ y.poisonAt (ty.width * i) ty.width = [] ∧ z.poisonAt (ty.width * i) ty.width = []) →
    LaneResult (mk p d a b e ty l) s c d l ty.width ty.lanes everyLane fun i =>
      f ty (x.lane ty.width i) (y.lane ty.width i) (z.lane ty.width i)

/-- The poison of the old destination's lanes that stay (R123). -/
def keptOrgs (r : Regs) (d : Reg) (l : Lane) (w n : Nat) (keep : Nat → Bool) : List Org :=
  (List.range n).flatMap fun i => if r.stays l keep i then (r.rdVV d).poisonAt (w * i) w else []

/-- The poison that an element-wise instruction meets: of a source poisoned in whole, of the computed lanes of every source, and of the lanes of the old destination that stay (R67, R123). -/
def poisonMet (r : Regs) (d : Reg) (l : Lane) (w n : Nat) (keep : Nat → Bool) (xs : List VVal) : List Org :=
  wholePoison xs ++ ((List.range n).flatMap fun i => if r.computed l keep i then xs.flatMap fun x => x.poisonAt (w * i) w else []) ++
    keptOrgs r d l w n keep

/-- With poison met, the whole of D becomes poison with the winning origin of all of it, and PSN alone is set (R65 to R67, R123). -/
def PoisonsAll (i : Instr) (s : State) (c : Core) (d : Reg) (met : List Org) : Prop :=
  met ≠ [] → ∃ o, orgWinner met = some o ∧ exec i s = .next (s.putV c d (poisonReg o) fPSN)

/-- The poison of a scalar source (R66), or of a stochastic rounding's seed (R82). -/
def scalarPoison (c : Core) (is : List Reg) : List Org := if is.any fun i => c.regs.psn i then [c.ownOrigin .spsn] else []

/-- A lane value from an integer, wrapping to the type's width (R46). -/
def wrapLane (ty : Ty) (x : Int) : FRes := ⟨BitVec.ofNat 64 (x % 2 ^ ty.width).toNat, 0⟩

/-- A lane value from an integer clamped to the range of the type, with SAT when it clamps (R46). -/
def clampLane (ty : Ty) (x : Int) : FRes :=
  let lo : Int := if ty.isSigned then -2 ^ (ty.width - 1) else 0
  let hi : Int := if ty.isSigned then 2 ^ (ty.width - 1) - 1 else 2 ^ ty.width - 1
  if x < lo then ⟨(wrapLane ty lo).bits, fSAT⟩ else if hi < x then ⟨(wrapLane ty hi).bits, fSAT⟩ else wrapLane ty x

/-- A lane read as signed. -/
def signedLane (ty : Ty) (x : BitVec 64) : Int := if 2 ^ (ty.width - 1) ≤ x.toNat then (x.toNat : Int) - 2 ^ ty.width else x.toNat

/-- A permute: lane i of the result is the lane of A or of B that `f` picks, or zero; `ix` says that every lane also reads B, as VPERM does for its indices. A source is read in full if any lane of it is read, and one that no lane reads is not read at all (R133): so a source that an active lane reads is clean, and one poisoned in whole is read by no lane (R67). With poison in such a source or in a lane of D that stays, D becomes poison. -/
def PermRule (mk : Pred → Reg → VSrc → Reg → Ty → Lane → Instr) (ix : Bool) (f : Ty → (Nat → BitVec 64) → Nat → PermSrc) : Prop :=
  ∀ p d a b ty l s x c, ty ∈ laneTypes → s.executes p → readsA s.core a x c →
    let y := c.regs.rdVV b
    let pick := f ty (y.lane ty.width)
    let ofB (i : Nat) : Bool := ix || (pick i).readsB
    let read (v : VVal) (rd : Nat → Bool) : List Org :=
      if (List.range ty.lanes).any fun i => (v.whole || c.regs.active l i) && rd i then v.poisonAll else []
    PoisonsAll (mk p d a b ty l) s c d (read x (fun i => (pick i).readsA) ++ read y ofB ++ keptOrgs c.regs d l ty.width ty.lanes everyLane) ∧
    ((∀ i, i < ty.lanes → ((pick i).readsA = true → x.whole = false) ∧ (ofB i = true → y.whole = false)) →
    LanesClean c.regs (c.regs.rdVV d) l ty.width ty.lanes everyLane []
      (fun i => ((pick i).readsA = true → x.poisonAll = []) ∧ (ofB i = true → y.poisonAll = [])) →
    LaneResult (mk p d a b ty l) s c d l ty.width ty.lanes everyLane fun i => ⟨(pick i).value x y ty.width, 0⟩)

/-- A compare into a mask: an active lane puts its condition, a masked-off one keeps its bit under MA = 0 and puts 0 otherwise, and bits at and above the lane count become 0 (R13, R122, R131). -/
def MaskRule (mk : Pred → BitVec 3 → VSrc → Reg → Ty → Lane → Instr) (f : Ty → BitVec 64 → BitVec 64 → Bool × Flags) : Prop :=
  ∀ p d a b ty l s x c, ty ∈ laneTypes → s.executes p → readsA s.core a x c →
    let y := c.regs.rdVV b
    let v (i : Nat) := f ty (x.lane ty.width i) (y.lane ty.width i)
    x.whole = false → y.whole = false →
    (∀ i, i < ty.lanes → c.regs.active l i = true → x.poisonAt (ty.width * i) ty.width = [] ∧ y.poisonAt (ty.width * i) ty.width = []) →
    ∃ m fl, exec (mk p d a b ty l) s = .next (s.setCore (c.modRegs fun r => ((r.wrM d m).flag fl).adv)) ∧
      (∀ i, m.getLsbD i = (decide (i < ty.lanes) && if c.regs.active l i then (v i).1 else !l.ag && (c.regs.rdM d).getLsbD i)) ∧
      ∀ b, fl.getLsbD b = (List.range ty.lanes).any fun i => c.regs.active l i && (v i).2.getLsbD b

/-- The lanes that a reduction takes (R135). -/
def Regs.reduced (r : Regs) (mk : BitVec 3) (ty : Ty) (x : VVal) : List (BitVec 64) :=
  ((List.range ty.lanes).filter fun i => (r.rdM mk).getLsbD i).map (x.lane ty.width)

/-- A reduction of the active lanes into a scalar; poison in one of them, or in the whole register, poisons it (R67, R92, R135). -/
def RedRule (mk : Pred → Reg → VSrc → Ty → BitVec 3 → Instr) (P : Ty → List (BitVec 64) → FRes → Prop) : Prop :=
  ∀ p d a ty k s x c, ty ∈ laneTypes → s.executes p → readsA s.core a x c →
    let bad : Prop := x.whole = true ∨ ∃ i, i < ty.lanes ∧ (c.regs.rdM k).getLsbD i = true ∧ x.poisonAt (ty.width * i) ty.width ≠ []
    (bad → exec (mk p d a ty k) s = .next (s.setCore (c.modRegs fun q => ((q.wrS d 0 true).flag fPSN).adv))) ∧
    (¬ bad → ∃ r : FRes, P ty (c.regs.reduced k ty x) r ∧
      exec (mk p d a ty k) s = .next (s.setCore (c.modRegs fun q => ((q.wrS d r.bits false).flag r.flags).adv)))

/-! ### Blocks (R53 to R56, R123, R137) -/

/-- The block formats (R53). -/
def blockTypes : List Ty := [.vb4, .vb8, .vb16]

/-- The exact values of the 32 elements of block k (R54). -/
def elements (x : VVal) (ty : Ty) (k : Nat) : List (Int × Int) := (List.range 32).map fun j => dyOf ((x.blk ty k).elem ty j)

/-- A result of blocks: a computed block is what ToBlock writes of its values, one that stays is the old block, and any other is zero; a header that the format does not use is zero; the flags are those of the computed blocks (R14, R56, R122, R137). -/
def BlockData (c : Core) (old : VVal) (l : Lane) (ty : Ty) (keep : Nat → Bool) (mode : Nat → RMode) (vals : Nat → List XVal) (z : VVal) (fl : Flags) : Prop :=
  let res (k : Nat) := c.blockResult ty (fun i => mode (32 * k + i)) (vals k)
  (∀ k, k < ty.blocks → z.blk ty k =
    if c.regs.computed l keep k then (res k).1 else if c.regs.stays l keep k then old.blk ty k else ⟨0, 0⟩) ∧
  (∀ k, ty.blocks ≤ k → k < 4 → sideHdr z.side k = 0) ∧
  ∀ b, fl.getLsbD b = (List.range ty.blocks).any fun k => c.regs.computed l keep k && (res k).2.getLsbD b

/-- No poison is met: no source is poisoned in whole (R67), and there is none in the inputs of a computed block and none in a block of the old destination that stays (R123). -/
def BlocksClean (r : Regs) (old : VVal) (l : Lane) (ty : Ty) (keep : Nat → Bool) (xs : List VVal) (inp : Nat → List Org) : Prop :=
  (∀ x ∈ xs, x.whole = false) ∧ ∀ k, k < ty.blocks → (r.computed l keep k = true → inp k = []) ∧ (r.stays l keep k = true → old.poisonAt (ty.blockBits * k) ty.blockBits = [])

/-- The instruction completes with blocks in D. -/
def BlockResult (i : Instr) (s : State) (c : Core) (d : Reg) (l : Lane) (ty : Ty) (keep : Nat → Bool) (mode : Nat → RMode) (vals : Nat → List XVal) : Prop :=
  ∃ z fl, BlockData c (c.regs.rdVV d) l ty keep mode vals z fl ∧ exec i s = .next (s.putV c d z fl)

/-- With poison met in a seed, a source, the inputs of a computed block or a block of the old destination that stays, every computed block becomes a poison block with the winning origin, and PSN alone is set (R67, R82, R123). A block that stays is as it was; each block of an old destination that was poisoned in whole takes the winning origin too (the model's reading, log 11). -/
def BlocksPoisoned (i : Instr) (s : State) (c : Core) (d : Reg) (l : Lane) (ty : Ty) (keep : Nat → Bool) (fix : List Org) (inp : Nat → List Org) : Prop :=
  let old := c.regs.rdVV d
  let met := fix ++ (List.range ty.blocks).flatMap fun k => if c.regs.computed l keep k then inp k
    else if c.regs.stays l keep k then old.poisonAt (ty.blockBits * k) ty.blockBits else []
  met ≠ [] → ∃ o, ∃ z : VVal, orgWinner met = some o ∧ exec i s = .next (s.putV c d z fPSN) ∧
    (∀ k, k < ty.blocks → z.blk ty k =
      if c.regs.computed l keep k = true ∨ (c.regs.stays l keep k = true ∧ old.whole = true) then poisonBlk ty o
      else if c.regs.stays l keep k then old.blk ty k else ⟨0, 0⟩) ∧
    ∀ k, ty.blocks ≤ k → k < 4 → sideHdr z.side k = 0

/-- A stochastic rounding finds its seed clean. -/
def seedClean (r : Regs) (rnd : Rnd) : Prop := ∀ i ∈ rnd.srcs, r.psn i = false

/-- Block arithmetic on one source. -/
def BlkRule1 (mk : Pred → Reg → VSrc → Ty → Rnd → Lane → Instr) (f : Int × Int → Int × Int) : Prop :=
  ∀ p d a ty rnd l s x c, ty ∈ blockTypes → s.executes p → readsA s.core a x c →
    BlocksPoisoned (mk p d a ty rnd l) s c d l ty everyLane (scalarPoison c rnd.srcs ++ wholePoison [x]) (x.blkPoison ty (c.ownOrigin .fmt)) ∧
    (seedClean c.regs rnd → BlocksClean c.regs (c.regs.rdVV d) l ty everyLane [x] (x.blkPoison ty (c.ownOrigin .fmt)) →
    BlockResult (mk p d a ty rnd l) s c d l ty everyLane (rnd.mode (c.regs.rdS rnd.seed)) fun k => (elements x ty k).map fun u => dyX (f u))

/-- Block arithmetic on two sources. -/
def BlkRule2 (mk : Pred → Reg → VSrc → Reg → Ty → Rnd → Lane → Instr) (f : Int × Int → Int × Int → Int × Int) : Prop :=
  ∀ p d a b ty rnd l s x c, ty ∈ blockTypes → s.executes p → readsA s.core a x c →
    let y := c.regs.rdVV b
    BlocksPoisoned (mk p d a b ty rnd l) s c d l ty everyLane (scalarPoison c rnd.srcs ++ wholePoison [x, y])
      (fun k => x.blkPoison ty (c.ownOrigin .fmt) k ++ y.blkPoison ty (c.ownOrigin .fmt) k) ∧
    (seedClean c.regs rnd → BlocksClean c.regs (c.regs.rdVV d) l ty everyLane [x, y] (fun k => x.blkPoison ty (c.ownOrigin .fmt) k ++ y.blkPoison ty (c.ownOrigin .fmt) k) →
    BlockResult (mk p d a b ty rnd l) s c d l ty everyLane (rnd.mode (c.regs.rdS rnd.seed)) fun k =>
      (List.range 32).map fun j => dyX (f ((elements x ty k).getD j (0, 0)) ((elements y ty k).getD j (0, 0))))

/-! ### Feed queues (R124, R125, R230) -/

/-- The instruction waits on an empty queue: the pc stays; a window that retains entries of the queue commits (R124, R230). -/
def State.feedWait (s : State) (q : BitVec 1) : State := if (s.core.ctx.feed q).kept = [] then s.setCore s.core else s.setCore s.core.commit

/-! ### Vector and block accesses (R143 to R146) -/

/-- The address of a vector or block access: an unbounded sum. -/
def State.ea10 (s : State) (a : Reg) (size : Nat) (k : BitVec 10) : Int := (s.regs.rdS a).toNat + size * k.toInt

/-- The core as an access that journals finds it: with no room for its records, the commit window closes first (R111, R146). -/
def State.roomed (s : State) (records bytes : Nat) : Core := s.core.roomForJournal records bytes

/-- An address outside the ranges that the core itself keeps: the journal, the hold buffer and the retained inputs. -/
def ownedByNone (x : Nat) : Prop := x < 0xF0000 ∨ (0xF4000 ≤ x ∧ x < 0xFE800)

/-- Local store after stores made in this order, each at an address that says its range and with the bytes that it gives: those are written as far as their range takes them, and every other byte is as before, but zero where the store changed a binding record and no layout names the byte any longer (R7, R8, R223). -/
def StoreChain (c : Core) (t : Mem) : List (Nat × (Nat → Option Byte)) → Prop
  | [] => ∀ x, ownedByNone x → t.byte x = c.ls.byte x
  | (a, f) :: rest => ∃ ls, (∀ x, ownedByNone x → Mem.byte ls x =
      match f x with
      | some b => c.blend x b
      | none => if lsRow a = 6 ∧ { c with ls := ls }.unnamed x = true then 0 else c.ls.byte x) ∧ StoreChain { c with ls := ls } t rest

/-- Local store after stores in this order; of the ranges that the core itself keeps, only the journal records' own bytes change when the journal has room. -/
def StoredMap (s t : State) (records bytes : Nat) (stores : List (Nat × (Nat → Option Byte))) : Prop :=
  StoreChain (s.roomed records bytes) t.core.ls stores ∧
  (s.core.win.fits records bytes = true → ∀ x, ¬ ownedByNone x → (∀ e ∈ stores, e.2 x = none) →
    (x < 0xF0000 + s.core.win.jbytes ∨ 0xF0000 + s.core.win.jbytes + bytes ≤ x) → t.byte x = s.byte x)

/-- A byte as an access sees it that falls before the last k lines that a unit of the core wrote since the context last issued (R22, R144, R145). -/
def State.byteBefore (s : State) (k a : Nat) : Byte := (s.core.before (s.core.after k) a).1

/-- The number of n bytes at an address, as such an access sees it. -/
def State.numberBefore (s : State) (k a n : Nat) : Nat := leNat ((List.range n).map fun i => s.byteBefore k (a + i))

/-- A word of these bytes is marked as such an access sees it. -/
def State.markBefore (s : State) (k a n : Nat) : Bool := (List.range n).any fun i => (s.core.before (s.core.after k) (a + i)).2

/-- Beside local store, its marks, the commit window with the stores that units may still come before, the page-map cache, the image-clean bit and the registers, the core keeps what it held; nothing else of the machine changes. -/
def StoresOnly (s t : State) (records bytes : Nat) : Prop :=
  OnlyCore s t ∧ (s.core.win.fits records bytes = true → ∃ pm cl win,
    t.core = { s.core with ls := t.core.ls, marks := t.core.marks, pmCache := pm, clean := cl, win := win, late := t.core.late }.setRegs t.regs)

/-- Byte i of a number, lowest first (R5). -/
def byteOf {n : Nat} (x : BitVec n) (i : Nat) : Byte := x.extractLsb' (8 * i) 8

/-! ### The matrix array (R149 to R167) -/

/-- The types of an MMA and of a latch (R151). -/
def latchTypes : List Ty := [.vb4, .vb8, .vb16, .bf16, .f16]

/-- Nothing of the quern is on its way: no hand-over and no MMA of this core (R153, R164). -/
def State.settled (s : State) : Prop := s.quern.hand = none ∧ s.core.mma = none

/-- The core holds the matrix licence: it is the holder, and no hand-over is in progress, as the licence stood before this cycle (R33, R164, R165, R311). -/
def State.licensed (s : State) : Prop := (s.quern.view s.cycle).holder = some (isRunner s.cur) ∧ (s.quern.view s.cycle).hand = none

/-- The instruction completes with accumulator k and the registers as given; the window keeps the accumulator's old contents (R168), and nothing else changes. -/
def AccResult (i : Instr) (s : State) (k : BitVec 2) (a : Acc) (r : Regs) : Prop := exec i s = .next (s.setCore ((s.core.putAcc k a).setRegs r))

/-- The core after flags were raised in an accumulator's ACCST; without flags, nothing is written. -/
def State.raised (s : State) (k : BitVec 2) (fl : Flags) : Core :=
  if fl = 0 then s.core else s.core.putAcc k { s.core.accAt k with flags := (s.core.accAt k).flags ||| fl }

/-- Block slot q of D is replaced, every other block and header stays (R140, R161). -/
def OneBlock (ty : Ty) (old z : VVal) (q : Nat) (b : Blk) : Prop :=
  (∀ j, j < ty.blocks → z.blk ty j = if j = q then b else old.blk ty j) ∧ ∀ j, ty.blocks ≤ j → j < 4 → sideHdr z.side j = sideHdr old.side j

/-- The value of a twin-window register at the start of the cycle: the oldest one that a write of this cycle replaced, or what it holds (R166). -/
def TwinValue (s : State) (k : BitVec 3) (x : VData) (bad : Bool) : Prop :=
  (∃ es e fs, s.quern.twCycle = s.cycle ∧ s.quern.twLog = es ++ e :: fs ∧ (∀ f ∈ es, f.reg ≠ k) ∧ e.reg = k ∧ x = e.old ∧ bad = e.oldPsn) ∨
  ((s.quern.twCycle = s.cycle → ∀ e ∈ s.quern.twLog, e.reg ≠ k) ∧ x = s.quern.tw[k.toNat] ∧ bad = s.quern.twp.getLsbD k.toNat)

/-- The twin has written this twin-window register in this cycle. -/
def State.twinWrote (s : State) (k : BitVec 3) : Prop :=
  s.quern.twCycle = s.cycle ∧ ∃ e ∈ s.quern.twLog, e.reg = k ∧ e.runner ≠ isRunner s.cur

/-- A vector register goes into a twin-window register, or its winning origin; the runner's value stays when both cores write in one cycle, and TWC is then set in both cores (R24, R166, R167). -/
def TwinWritten (s t : State) (k : BitVec 3) (x : VVal) : Prop :=
  let keeps := s.twinWrote k ∧ isRunner s.cur = false
  (keeps → t.quern.tw = s.quern.tw ∧ t.quern.twp = s.quern.twp) ∧
  (¬ keeps →
    (∀ j : BitVec 3, j ≠ k → t.quern.tw[j.toNat] = s.quern.tw[j.toNat] ∧ t.quern.twp.getLsbD j.toNat = s.quern.twp.getLsbD j.toNat) ∧
    (x.poisonAll = [] → t.quern.tw[k.toNat] = x.data ∧ t.quern.twp.getLsbD k.toNat = false) ∧
    ∀ o, orgWinner x.poisonAll = some o → t.quern.tw[k.toNat] = (orgClean o).setWidth 512 ∧ t.quern.twp.getLsbD k.toNat = true) ∧
  (s.twinWrote k → t.core.twc = true ∧ (t.coreAt (twinOf s.cur)).twc = true) ∧
  (¬ s.twinWrote k → t.core.twc = s.core.twc ∧ t.coreAt (twinOf s.cur) = s.coreAt (twinOf s.cur)) ∧
  t.quern.holder = s.quern.holder

/-! ### Outbound operations (R169, R170, R193) -/

/-- An operation goes to the send hold buffer. Where it does not fit, the window commits at the instruction, and where it does not fit even then, the instruction waits at its address (R169). -/
def Sends (i : Instr) (s : State) (c : Core) (mk : Core → Op) : Prop :=
  let fits (c : Core) := c.holdRoom (recordSize (mk c).payload.length)
  let c' := if fits c then c else c.commit
  exec i s = .next (s.setCore (if fits c' then (c'.pushOp (mk c')).adv else c'))

/-- An operation with a ticket: its slot becomes outstanding, and D receives its number. It also waits while the next ticket's slot is outstanding (R193). -/
def SendsTicketed (i : Instr) (s : State) (c : Core) (d : Reg) (kind : BitVec 4) (mk : Core → Op) : Prop :=
  let fits (c : Core) := c.holdRoom (recordSize (mk c).payload.length) && !c.ticketBusy
  let c' := if fits c then c else c.commit
  let x := c'.allocTicket kind
  exec i s = .next (s.setCore (if fits c' then
    (x.1.pushOp { mk x.1 with tkt := some x.2 }).modRegs fun r => (r.wrS d (x.2.setWidth 64) false).adv else c'))

/-- A relative core address is translated through the page map: the page stands in the group and its entry is valid; the named address takes generation, row and column of the page from the entry (R37 to R40). -/
def NamedFrom (c : Core) (rel : BitVec 32) (c' : Core) (w : Word) : Prop :=
  let pg := rel.extractLsb' 16 10
  let r := c.pageLookup pg
  rel.extractLsb' 26 6 = 0 ∧ rel.extractLsb' 7 9 = 0 ∧ pg.toNat ≤ c.npg ∧ r.2.getLsbD 10 = true ∧ c' = r.1 ∧
    w = 0#12 ++ (c.name.extractLsb' 32 20 ++ (r.2.extractLsb' 24 8 ++ (0#7 ++ (rel.extractLsb' 6 1 ++
      ((r.2.extractLsb' 5 5 ++ rel.extractLsb' 3 3) ++ (r.2.extractLsb' 0 5 ++ rel.extractLsb' 0 3))))))

/-- A remote endpoint word whose reserved bits are zero, translated (R170). -/
def Endpoint (c : Core) (w : Word) (c' : Core) (dst : Word) : Prop :=
  w.extractLsb' 26 6 = 0 ∧ w.extractLsb' 58 6 = 0 ∧ NamedFrom c (0#6 ++ w.extractLsb' 32 26) c' dst

/-- For each line of what an instruction reads, how many of the lines that units of the core wrote since it last issued that read precedes: any number (R22, R362). -/
def State.lags (s : State) (k : Nat → Nat) : Prop := ∀ i, k i ≤ s.core.beside.length

/-- Bytes of local store with the marks of their words, each line of them as a read before the last k lines that units wrote sees it. -/
def State.seenBy (s : State) (k : Nat → Nat) (a n : Nat) : List MByte :=
  (List.range n).map fun j => s.core.before (s.core.after (k ((a + j) / 64 - a / 64))) (a + j)

/-- A payload that the context may read, or none (R172, R191). -/
def State.payloadOk (s : State) (b c : Reg) : Prop :=
  (s.regs.rdS c).toNat ≤ 2048 ∧ (s.regs.rdS c = 0 ∨ (s.readable (s.regs.rdS b).toNat (s.regs.rdS c).toNat ∧ (s.regs.rdS b).toNat % 8 = 0))

/-- A ticket's slot holds exactly this ticket (R193). -/
def State.slot (s : State) (t : BitVec 16) (x : Slot) : Prop := NMap.get? s.core.slots (t.toNat % 256) = some x ∧ x.tkt = t

/-! ### Channels, boundaries, streams -/

/-- The running context leaves the core: the window commits, HandlerActive ends, and the context is READY where its condition holds and PARKED where it does not (R20, R180, R182). -/
def State.leaves (s : State) (w : Wait) (met : Bool) : State :=
  let c := (s.core.modRegs fun r => { r.adv with handler := false }).commit
  s.setCore { c.setCtx { c.ctx with st := if met then .ready else .parked, wait := w, since := c.cycle.toNat } with last := c.run }

/-- The core with bytes written, then the pc advanced and the window committed (R175, R178). -/
def State.binds (s : State) (c : Core) : State := s.setCore c.adv.commit

/-- Word 0 of a binding record (R227). -/
def bindingWord (entry : Nat) (set : BitVec 4) (x pin : Bool) (ctx : BitVec 2) (prio : BitVec 3) (mode : Nat) : Word :=
  BitVec.ofNat 64 (1 + 2 ^ 4 * mode + 2 ^ 8 * prio.toNat + 2 ^ 12 * ctx.toNat + (if pin then 2 ^ 14 else 0) + (if x then 2 ^ 15 else 0) +
    2 ^ 16 * set.toNat + 2 ^ 20 * (entry / 8))

/-- The four words of a binding record at its place in local store (R227); bytes of the queues that no layout names any longer become zero (R223). -/
def Core.writeBinding (c : Core) (ch : Nat) (w0 w1 w2 : Word) : Core :=
  (c.wrBytes (0xFD800 + 32 * ch) ((List.range 32).map fun i => byteOf (([w0, w1, w2, 0].getD (i / 8) 0)) (i % 8))).tidy

/-- A channel's number may be used: the system channels take privilege (R175). -/
def State.mayBind (s : State) (ch : BitVec 6) : Prop := ch.toNat < 56 ∨ s.core.prv = true

/-- A task entry (R115, R175). -/
def entryOk (x : Word) : Prop := x.toNat ≤ 0xEFFF8 ∧ x.toNat % 8 = 0

/-- A stream command joins the stream unit in the open batch; off the core, it is also an operation of the hold buffer. With no slot or no room the window commits at it, and with none even then it waits (R169, R189, R190, R231). -/
def Streams (i : Instr) (s : State) (c : Core) (fn : BitVec 6) (mk : Core → Stream) (fl : Flags) : Prop :=
  let off (x : Stream) : Bool := (x.dstSp != 0 || x.remote) && x.kind != .sbar
  let free (c : Core) : Bool :=
    let mine := c.streams.filter fun x => x.ctx == c.run
    if (mk c).kind = .sbar then decide ((mine.filter fun x => x.kind == .sbar).length < 8)
    else decide ((mine.filter fun x => x.kind != .sbar).length < 32) && (!off (mk c) || c.holdRoom 32)
  let c' := if free c then c else c.commit
  exec i s = .next (s.setCore (if free c' then
    let x := { mk c' with held := if off (mk c') then some c'.nextOp else none }
    let k := if off x then c'.pushOp { c'.newOp 0xA3 fn with opa := x.src, opb := x.dst, dst := if x.dstSp == 2 || x.remote then c'.streamCore x else x.dst } else c'
    { k with streams := k.streams ++ [x], nextStream := k.nextStream + 1 }.modRegs fun r => ({ r.adv with batchUsed := true }).flag fl
    else c'))

/-- The bytes that a pattern touches from a base lie in the program range (R184). -/
def patternFits (base : Nat) (p : VData) : Prop :=
  patTotal p = 0 ∨ ∀ n, n < patTotal p → 0 ≤ (base : Int) + patOffset p n ∧ (base : Int) + patOffset p n < 0xF0000

/-- An endpoint of a stream command: local store, attached memory, or another core's store with its endpoint word translated and its local address a program address (R170, R184). -/
def StreamEnd (c : Core) (sp : BitVec 2) (w : Word) (c' : Core) : Prop :=
  if sp = 2 then w.toNat % 2 ^ 20 < 0xF0000 ∧ ∃ dst, Endpoint c w c' dst else c' = c

/-- The local address of an endpoint whose range is checked at issue. -/
def endPlace (sp : BitVec 2) (w : Word) : Nat := if sp = 2 then (w.setWidth 20).toNat else w.toNat

/-! ### Traps, islands, poison inspection -/

/-- Local store is as before but for the bytes that a function gives. -/
def Written (s t : State) (f : Nat → Option Byte) : Prop := ∀ x, t.byte x = (f x).getD (s.byte x)

/-- The words of a trap record, field by field (R324, R325). -/
def RecordOf (s : State) (x : Trap) (kind : BitVec 2) (ws : List Word) : Prop :=
  ∃ w0 : Word, ws = [w0, s.core.fetchWord, x.info, BitVec.ofNat 64 (s.core.name.toNat % 2 ^ 52),
      BitVec.ofNat 64 (2 ^ 48 * (s.core.grpid.toNat % 2 ^ 16)), 0, s.core.cycle, BitVec.ofNat 64 s.core.seq.toNat] ∧
    w0.extractLsb' 0 20 = s.regs.pc ∧ w0.extractLsb' 20 24 = 0 ∧ w0.getLsbD 44 = s.core.prv ∧ w0.getLsbD 45 = s.regs.handler ∧
    w0.extractLsb' 46 2 = s.core.win.att ∧ w0.extractLsb' 48 2 = s.core.run ∧ w0.extractLsb' 50 2 = kind ∧ w0.extractLsb' 52 12 = x.cause.code

/-- The core in focus leaves its island: its BND becomes 0, and an island that all members have left is gone; what is to land is as before while another member remains, and has arrived once the island is gone (R214). -/
def Released (s t : State) : Prop :=
  (∃ ls, t.core = { s.core with islBnd := false, landing := ls }.adv ∧
    (∀ x ∈ ls, ∃ y ∈ s.core.landing, x = y ∨ x = { y with path := [], on := none, arrived := true }) ∧
    ((∀ j ∈ s.seq.islands, s.cur ∈ j.members → ∃ m ∈ j.members, m ≠ s.cur ∧ m ∉ j.released) → ls = s.core.landing)) ∧
  ∀ i, i ∈ t.seq.islands ↔ ∃ j ∈ s.seq.islands,
    i = (if s.cur ∈ j.members ∧ s.cur ∉ j.released then { j with released := j.released ++ [s.cur] } else j) ∧ ∃ m ∈ i.members, m ∉ i.released

/-- The distance of two positions in named hops, a change of tier counting one (R215). -/
def hopCount (j k : Nat) : Nat :=
  ((j / 256 % 256 : Nat) - (k / 256 % 256 : Nat) : Int).natAbs + ((j % 256 : Nat) - (k % 256 : Nat) : Int).natAbs + (if j / 65536 = k / 65536 then 0 else 1)

/-! ### What happens at a core without an instruction: selection, messages, remote operations -/

/-- The core at a position, after a change. -/
def State.upd (s : State) (k : Nat) (f : Core → Core) : State := s.setCoreAt k (f (s.coreAt k))

/-- Message m, number n in flight, is a request that its destination core k of this module may take now: it is its turn at its unit (R247, R356, R369), a group that has not ended owns the page, and the core is not captured (R192, R247, R351). -/
def State.delivers (s : State) (n : Nat) (m : Msg) (k : Nat) : Prop :=
  s.arrive n = some m ∧ m.dmod = s.modId ∧ k = m.dst.toNat % 2 ^ 17 ∧ (s.serving? (pageOf k)).isSome = true ∧ (s.coreAt k).captured = false

/-- Answer n in flight has come back to core k (R244). -/
def State.returns (s : State) (n : Nat) (m : Msg) (k : Nat) (kind : BitVec 6) : Prop :=
  s.arrive n = some m ∧ m.dmod = s.modId ∧ m.home = some k ∧ m.kind = kind

/-- The message is gone, the core is changed, and an answer is on its way (R244). -/
def State.answers (s : State) (n : Nat) (m : Msg) (k : Nat) (f : Core → Core) (kind : BitVec 6) (aux : BitVec 12) (bs : List MByte) : State :=
  ((s.dropMsg n).upd k fun c => (f c).countIn m).post (m.answer (s.coreAt k).gid kind aux bs)

/-- The core after an operation of its hold buffer is gone. -/
def Core.without (c : Core) (id : Nat) : Core := { c with ops := c.ops.filter fun o => o.id != id }

/-- A core's stream command changes. -/
def Core.withStream (c : Core) (id : Nat) (f : Stream → Stream) : Core := { c with streams := c.streams.map fun x => if x.id = id then f x else x }

/-- One core is what an event changes. -/
def State.onlyAt (s t : State) (k : Nat) : Prop := t = s.setCoreAt k (t.coreAt k)

/-- The ring of a LAND channel after bytes were written from an offset on, wrapping (R173, R237). -/
def RingWritten (c c' : Core) (base size off : Nat) (bs : List MByte) : Prop :=
  (∀ i, i < bs.length → bs.length ≤ size → c'.ls.byte (base + (off + i) % size) = (bs.getD i (0, false)).1) ∧
  ∀ x, (x < base ∨ base + size ≤ x) → c'.ls.byte x = c.ls.byte x

/-! ### The combine plane -/

/-- A tree and its entry at a router. -/
def State.treeAt (s : State) (tid : BitVec 12) (r : Nat) (t : Tree) (e : Entry) : Prop :=
  s.tree? tid = some t ∧ t.entries.find? (fun e => e.router == r) = some e

/-- A request at an index of the sequencer's list, first of its core (R436). -/
def State.requested (s : State) (n : Nat) (op : SeqOp) (r : SeqReq) : Prop := s.seqReq? n op = some r

/-- The request is done: it has left the list and its core's ticket holds a cause (R193). -/
def State.ends (s : State) (n : Nat) (r : SeqReq) (cause : BitVec 12) : State := (s.dropReq n).finishTicket r.core r.tkt cause

/-- The sum of a list of integer vectors of one length. -/
def sumAt (xs : List (List Int)) (i : Nat) : Int := (xs.map fun x => x.getD i 0).foldr (· + ·) 0

/-! ### The launch sequencer -/

/-- What a move of the launch sequencer or of an edge block leaves: where it stores to a line that a host holds, it only asks for that line now (R385); else all of t. -/
def State.unlessHeld (s t : State) : State := if t.edge.blocked then { s with edge := { s.edge with snoops := t.edge.snoops } } else t

/-- Record r at the head of queue q has passed its checks, now or before: the state with its container read, the container, and its image (R264). -/
def State.checked (s : State) (q : BitVec 4) (r : QRec) (u : State) (bs : List Byte) (img : Image) : Prop :=
  (r.image = some bs ∧ parseImage bs = some img ∧ u = s) ∨
  (r.image = none ∧ recOk r.words = true ∧ parseImage bs = some img ∧ ∃ t, s.fetchImage (recAsid r.words) (recImg r.words) = some (t, bs) ∧
    t.everPlaced img.sct img.pages img.w img.h = true ∧ ¬ (recDept r.words ≠ 0 ∧ (t.eventAt (recDepe r.words)).fail = true) ∧
    u = t.modHead q fun h => { h with image := some bs, dep := if recDept r.words = 0 ∨ recDept r.words ≤ (t.eventAt (recDepe r.words)).count then some true else none })

/-- The arms that event e satisfies at a count, of groups that are on their pages (R216; that those of a group suspended and sealed wait is the model's reading, log 26). -/
def State.dueArms (s : State) (e : Nat) (n : BitVec 32) : List Arm := s.seq.arms.filter fun a => a.ev.toNat == e && decide (a.thr ≤ n) && s.present a.gid

/-- Event e has this counter, every other event and every FAIL bit is as in s; the arms that it satisfies have fired, once each, and are gone (R216, R265). -/
def State.Raised (s t : State) (e : Nat) (n : BitVec 32) : Prop :=
  (t.eventAt e).count = n ∧ (t.eventAt e).fail = (s.eventAt e).fail ∧ (∀ j, j ≠ e → t.eventAt j = s.eventAt j) ∧
  (∀ a, a ∈ t.seq.arms ↔ a ∈ s.seq.arms ∧ ¬ (a.ev.toNat = e ∧ a.thr ≤ n ∧ s.present a.gid = true)) ∧
  t.flight = s.flight ++ (s.dueArms e n).map fun a => armMsg s.modId (s.coreAt a.core).addr a.gid a.ch n

/-- A sum of a counter and an addend, saturating. -/
def satAdd (x : BitVec 32) (n : Nat) : BitVec 32 := BitVec.ofNat 32 (min (x.toNat + n) 0xFFFFFFFF)

/-! ### Suspension and sprigs -/

/-- A group with its suspension in progress: member k has not captured yet. -/
def State.marking (s : State) (g : Group) (x : Susp) (k : Nat) : Prop :=
  s.owner? (pageOf k) = some g ∧ g.susp = some x ∧ x.isSealed = false ∧ k ∉ x.recorded

/-- Line 0 of a sprig, as R343 lays it out: the state, the stamp, the rights and the domain. -/
def lineState (l : List Byte) : Nat := fld (contWord l 0) 0 3
/-- STAMP of line 0. -/
def lineStamp (l : List Byte) : Word := contWord l 8
/-- The rights word of line 0. -/
def lineRights (l : List Byte) : Word := contWord l 16
/-- LDOM of line 0. -/
def lineDom (l : List Byte) : BitVec 16 := BitVec.ofNat 16 (numAt l 32 2)

/-- The pages of a rectangle that a group owns. -/
def State.ownedIn (s : State) (ps : List Nat) : Nat := (ps.filter fun p => (s.owner? p).isSome).length

/-- A w × h rectangle that compaction may clear: its pages are neither retired nor due to rotate nor reserved, and the groups that own any of them have NMV = 0 (R277). -/
def State.clearable (s : State) (w h : Nat) (ps : List Nat) : Prop :=
  (∃ oy ox, oy + h ≤ 32 ∧ ox + w ≤ 32 ∧ ps = rectPages oy ox w h) ∧
  (∀ p ∈ ps, (s.pageAt p).retired = false ∧ (s.fieldAt (fieldOfPage p)).due = false ∧ ∀ j ∈ s.seq.jobs, p ∉ j.pages) ∧
  ∀ g ∈ s.seq.groups, (∃ p ∈ g.pages, p ∈ ps) → recNmv g.words = false

/-! ### System memory -/

/-- Access n has come to the owner of its line, and no earlier access of that line waits there (R371). -/
def State.owned (s : State) (n : Nat) (x : XAcc) (a : Nat) : Prop :=
  s.edge.accs[n]? = some x ∧ x.stage = .owner a ∧ ∀ y ∈ s.edge.accs.take n, ∀ b, y.stage = .owner b → b / 64 ≠ a / 64

/-- A stream command of a core in a state. -/
def State.stream? (s : State) (k id : Nat) : Option Stream := (s.coreAt k).streams.find? fun y => y.id == id

/-- The bytes at the place of an SPA, its port and device address, hold these, and every other byte of system memory is as before; an unmapped SPA has no place (R379). -/
def Edge.Wrote (e e' : Edge) (a : Nat) (bs : List MByte) : Prop :=
  (e.loc a = none → e'.mem = e.mem) ∧ ∀ p, e.loc a = some p →
    (∀ i, i < bs.length → e'.mem.byte (p + i) = (bs.getD i (0, false)).1) ∧ ∀ b, (b < p ∨ p + bs.length ≤ b) → e'.mem.byte b = e.mem.byte b

/-! ### Errors, repair, rotation and the governor -/

/-- An error in core k, in context x or in no single one, hits the core's open commit window (R330). -/
def State.hitsWindow (s : State) (k : Nat) (x : Option (BitVec 2)) : Prop :=
  (s.coreAt k).ctx.st = .running ∧ (s.coreAt k).captured = false ∧ ∀ y, x = some y → y = (s.coreAt k).run

/-- One more of an error count of management, saturating (R409). -/
def oneMore (x : Word) : Word := BitVec.ofNat 64 (min (x.toNat + 1) (2 ^ 64 - 1))

/-- A repair table keeps every named position off the faulty querns, and FLT says which rows skip a faulty one (R248, R249, R257). -/
def Field.sound (f : Field) : Prop :=
  f.rskip.toNat < 33 ∧ ∀ pr, pr < 33 → pr ≠ f.rskip.toNat → (f.row pr).cskip.toNat < 33 ∧
    (∀ pc, pc < 33 → f.healthy pr pc = false → pc = (f.row pr).cskip.toNat) ∧
    ((f.row pr).flt = true ↔ f.healthy pr (f.row pr).cskip.toNat = false)

/-- An advance has begun, each of its pages is listed once, and no other advance in progress names one of them (R255). -/
def State.advancing (s : State) (x : Advance) : Prop :=
  s.advances.find? (fun y => y.id == x.id && y.begun) = some x ∧ x.begun = true ∧ x.pages.Nodup ∧ (∀ p ∈ x.pages, p < 1024) ∧
    ∀ y ∈ s.advances, (y.id = x.id → y = x) ∧ (y.begun = true → y.id ≠ x.id → ∀ p ∈ x.pages, p ∉ y.pages)

/-! ### Boot and management -/

/-- A firmware slot that ROM may boot (R406). -/
def Boot.bootable (b : Boot) (x : FwSlot) : Prop := x.valid = true ∧ b.fusedMin ≤ x.ver

/-- Everything that a program leaves is gone: every core is as after reset, no group, message, tree or queued record is left; what memory and the nonvolatile store hold is kept (R406, R407), with the repair tables of the stored fault map, which for a field without a recorded fault are the faultless ones (R248). -/
def State.Wiped (s t : State) : Prop :=
  (∀ k, (t.coreAt k).ctxs = Vector.replicate 4 Ctx.reset ∧ (t.coreAt k).ls = [] ∧ (t.coreAt k).ops = [] ∧ (t.coreAt k).streams = []) ∧
  t.seq.groups = [] ∧ t.seq.queues = [] ∧ t.seq.events = [] ∧ t.flight = [] ∧ t.trees = [] ∧
  t.edge.mem = s.edge.mem ∧ t.edge.poison = s.edge.poison ∧ t.boot.fusedMin = s.boot.fusedMin ∧ t.boot.slot0 = s.boot.slot0 ∧ t.boot.slot1 = s.boot.slot1 ∧
  t.boot.correctable = s.boot.correctable ∧ t.boot.uncorrectable = s.boot.uncorrectable ∧ t.boot.retirements = s.boot.retirements ∧
  ∀ f,
    let x := s.settleRepairs.fieldAt f
    let y := t.fieldAt f
    y.faulty = x.faulty ∧
    (x.faulty ≠ [] → y.rskip = x.rskip ∧ y.rows = x.rows ∧ y.rot = x.rot ∧ y.nflt = x.nflt) ∧
    (x.faulty = [] → y.rskip = 32 ∧ y.rot = 0 ∧ y.nflt = 0 ∧ ∀ pr, y.row pr = ⟨32, false, false⟩)

/-! ### Yunavy ports -/

/-- Port p is enabled, in local mode or not, and has a session with module m. -/
def State.sessionAt (s : State) (p : Nat) (loc : Bool) (m : BitVec 20) (e : Session) : Prop :=
  p < 48 ∧ (s.portAt p).enabled = true ∧ (s.portAt p).isLocal = loc ∧ (s.portAt p).session? m = some e

/-- The session of port p with module m after an event. -/
def State.sess (s : State) (p : Nat) (m : BitVec 20) : Option Session := (s.portAt p).session? m

/-- A session whose keys are gone, with its positions and its unacknowledged records kept (R398). -/
def Session.Closed (e f : Session) (st : SessSt) : Prop :=
  f.st = st ∧ f.txKey = 0 ∧ f.rxKey = 0 ∧ f.rxPos = e.rxPos ∧ f.txPos = e.txPos ∧ f.unacked = e.unacked ∧ f.txq = e.txq

/-- The Yunavy header of a frame (R396). -/
def hdrType (bs : List Byte) : Nat := fld (contWord bs 0) 56 4
/-- SEQ. -/
def hdrSeq (bs : List Byte) : Nat := fld (contWord bs 0) 0 48
/-- SMOD. -/
def hdrSmod (bs : List Byte) : BitVec 20 := (contWord bs 16).extractLsb' 44 20
/-- The frame has version 1, a known type, and its addresses and index fit an open session that expects its number (R396, R397). -/
def State.fits (s : State) (e : Session) (bs : List Byte) : Prop :=
  e.st = .opened ∧ (contWord bs 16).extractLsb' 0 8 = e.sidx ∧ (contWord bs 16).extractLsb' 24 20 = s.modId ∧ hdrSeq bs = e.rxSeq

/-- The keys of R65 in their order. -/
def orgKeys (o : Org) : List Nat :=
  [((orgName o).extractLsb' 24 8).toNat, (orgMod o).toNat, ((orgName o).extractLsb' 0 24).toNat, (orgPc o).toNat, (orgCause o).toNat, (orgGroup o).toNat]

end Sys2Proof.Machine
end

