-- ==== Sys2Proof/Certificates/Slice0/Obligations.lean ====
section
/-! DEFINITION. The statements for the provers, in the order of OBLIGATIONS.json. A statement about a next state says with its equation that the operation completes. -/
open Sys2Proof Sys2Proof.Machine

/-- R71 to R83: the word of every well-formed instruction decodes to that instruction, whatever its operands. -/
def Obligations.DecodeOfEncode : Prop :=
∀ (i : Instr) (w : Word), i.wf = true → encode i = some w → decode w = .ok i

/-- R77: a word that the decoder takes is exactly the encoding of a well-formed instruction, so no reserved or unused bit of it is set. -/
def Obligations.DecodedWordIsAnEncoding : Prop :=
∀ (w : Word) (i : Instr), decode w = .ok i → i.wf = true ∧ encode i = some w

/-- R71, R72, R80, R81: words that the worked examples of the spec write out field by field. -/
def Obligations.DecodedWords : Prop :=
decode 0x00200840FFFFFFC0#64 = .ok (.addi ⟨false, 0⟩ 4 4 (-64)) ∧
  decode 0x0040903250000000#64 = .ok (.cmpLt ⟨false, 0⟩ ⟨2, .plain, 5⟩ 3 4) ∧
  decode 0x21800000FFFFFFFF#64 = .ok (.br ⟨false, 2⟩ (-1)) ∧
  decode 0x0100926000000000#64 = .ok (.ldI32 ⟨false, 0⟩ 9 6 0) ∧
  decode 0x0110D06000000000#64 = .ok (.stI64 ⟨false, 0⟩ 8 6 0) ∧
  decode 0x01900070FFFFFFFD#64 = .ok (.loop ⟨false, 0⟩ 7 (-3)) ∧
  decode 0x0480061103400000#64 = .ok (.badd ⟨false, 0⟩ 3 (.reg 1) 2 .vb8 .rne ⟨0, false⟩) ∧
  decode 0x04B2466383400002#64 = .ok (.bst ⟨false, 0⟩ 3 6 7 .vb8 2) ∧
  decode 0x0800006383400000#64 = .ok (.mma ⟨false, 0⟩ 0 6 7 0 .vb8 0 0) ∧
  decode 0x0811060003400000#64 = .ok (.accexp ⟨false, 0⟩ 3 0 0 0 .vb8 .rne) ∧
  decode 0x0820080020000000#64 = .ok (.macq ⟨false, 0⟩ ⟨1, .plain, 2⟩) ∧
  decode 0x0A0000852C000003#64 = .ok (.send ⟨false, 0⟩ 8 10 11 3) ∧
  decode 0x0A10140200000802#64 = .ok (.chbindLand ⟨false, 0⟩ 10 0 ⟨2, 0, true, false, 0⟩) ∧
  decode 0x0A30411584000014#64 = .ok (.scpy ⟨false, 0⟩ none 17 11 1 0 1 0) ∧
  decode 0x0A20006300000000#64 = .ok (.awaitTkt ⟨false, 0⟩ 6) ∧
  decode 0x0C10800000000005#64 = .ok (.bkpt ⟨false, 0⟩ 5) ∧
  decode 0x0C208061034000A1#64 = .ok (.isendLatch ⟨false, 0⟩ 6 2 1 5 .vb8) ∧
  decode 0x04500C1281C00000#64 = .ok (.vperm ⟨false, 0⟩ 6 (.reg 1) 5 .n32 ⟨0, false⟩) ∧
  decode 0x04A0D28002C30000#64 = .ok (.vlog2 ⟨false, 0⟩ 9 (.reg 8) ⟨1, true⟩) ∧
  decode 0x00484884A2400000#64 = .ok (.fcmpLt ⟨false, 0⟩ ⟨1, .plain, 2⟩ 8 9 .f16) ∧
  decode 0x0A70000500000000#64 = .ok (.fenceSys ⟨false, 0⟩) ∧
  decode 0x0C3040B600000000#64 = .ok (.evsig ⟨false, 0⟩ 11 12)

/-- R75: a false-guarded instruction only passes: the pc advances by 8 and nothing else changes. -/
def Obligations.FalseGuardOnlyPasses : Prop :=
∀ (i : Instr) (w : Word) (s : State), encode i = some w → s.regs.guard (wP w) = false →
    exec i s = .next (s.withRegs { s.regs with pc := s.regs.pc + 8 })

/-- R22, R70: when the next move issues core k, and the eight bytes at the pc decode to i, the step is i at that core, followed by what issue leaves behind. -/
def Obligations.StepRunsDecodedInstruction : Prop :=
∀ (s : State) (k : Nat) (i : Instr),
    let u : State := { s with turn := none, cur := k }
    s.turn = some (.issue k) → State.mayIssue { s with turn := none } k = true → u.regs.pc.toNat < 0xF0000 →
    decode (BitVec.ofNat 64 (leNat (u.core.ls.bytes u.regs.pc.toNat 8))) = .ok i →
    step s = match exec i u with
      | .next t => .next (t.afterIssue k u.core)
      | .fault f => .fault f
      | .refused r => .refused r

/-- R77, R43: a word that does not decode traps ILL, and a fetch outside the program range traps BADADDR; INFO is 0 and the pc. That the record of such a fetch has instruction word 0 is the model's reading (log 19). -/
def Obligations.IllegalFetchTraps : Prop :=
∀ (s : State) (k : Nat),
    let u : State := { s with turn := none, cur := k }
    s.turn = some (.issue k) → State.mayIssue { s with turn := none } k = true →
    (u.regs.pc.toNat < 0xF0000 → (∃ e, decode u.core.fetchWord = .error e) → step s = .next ((u.take ⟨.ill, 0⟩).afterIssue k u.core)) ∧
    (0xF0000 ≤ u.regs.pc.toNat →
      step s = .next ((u.takeAt k ⟨.badaddr, u.regs.pc.setWidth 64⟩ 0).afterIssue k u.core))

/-- R98, R99: the register and immediate forms of OP 0x01 and 0x02. Only D and the pc change; no flag is set.
R100: the products, quotients and remainders with their fixed edge cases.
R101: leading and trailing zeros, ones, and the extracted and inserted fields, bit by bit. -/
def Obligations.ScalarIntegers : Prop :=
  (
  RegRule .add (fun a b => BitVec.ofNat 64 (a.toNat + b.toNat)) ∧ RegRule .sub (fun a b => BitVec.ofInt 64 (a.toInt - b.toInt)) ∧
  RegRule .and (fun a b => a &&& b) ∧ RegRule .or (fun a b => a ||| b) ∧ RegRule .xor (fun a b => a ^^^ b) ∧
  RegRule .andn (fun a b => a &&& ~~~b) ∧
  RegRule .shl (fun a b => BitVec.ofNat 64 (a.toNat * 2 ^ (b.toNat % 64))) ∧
  RegRule .shr (fun a b => BitVec.ofNat 64 (a.toNat / 2 ^ (b.toNat % 64))) ∧
  RegRule .sra (fun a b => BitVec.ofInt 64 (a.toInt / 2 ^ (b.toNat % 64))) ∧
  RegRule .ror (fun a b => (a >>> (b.toNat % 64)) ||| (a <<< (64 - b.toNat % 64))) ∧
  RegRule .min (fun a b => if a.toInt ≤ b.toInt then a else b) ∧ RegRule .max (fun a b => if a.toInt ≤ b.toInt then b else a) ∧
  RegRule .minn (fun a b => if a.toNat ≤ b.toNat then a else b) ∧ RegRule .maxn (fun a b => if a.toNat ≤ b.toNat then b else a) ∧
  ImmRule .addi (fun a im => BitVec.ofInt 64 (a.toInt + im.toInt)) ∧ ImmRule .andi (fun a im => a &&& im.signExtend 64) ∧
  ImmRule .ori (fun a im => a ||| im.signExtend 64) ∧ ImmRule .xori (fun a im => a ^^^ im.signExtend 64) ∧
  ImmRule .shli (fun a n => BitVec.ofNat 64 (a.toNat * 2 ^ n.toNat)) ∧
  ImmRule .shri (fun a n => BitVec.ofNat 64 (a.toNat / 2 ^ n.toNat)) ∧
  ImmRule .srai (fun a n => BitVec.ofInt 64 (a.toInt / 2 ^ n.toNat))) ∧
  (
  RegRule .mul (fun a b => BitVec.ofNat 64 (a.toNat * b.toNat)) ∧
  RegRule .mulh (fun a b => (a.signExtend 128 * b.signExtend 128).extractLsb' 64 64) ∧
  RegRule .mulhn (fun a b => (a.setWidth 128 * b.setWidth 128).extractLsb' 64 64) ∧
  RegRule .div (fun a b => if b = 0 then 0xFFFFFFFFFFFFFFFF
    else if a.toInt = -2 ^ 63 ∧ b.toInt = -1 then a else BitVec.ofInt 64 (a.toInt.tdiv b.toInt)) ∧
  RegRule .divn (fun a b => if b = 0 then 0xFFFFFFFFFFFFFFFF else BitVec.ofNat 64 (a.toNat / b.toNat)) ∧
  RegRule .rem (fun a b => if b = 0 then a else if a.toInt = -2 ^ 63 ∧ b.toInt = -1 then 0
    else BitVec.ofInt 64 (a.toInt - b.toInt * a.toInt.tdiv b.toInt)) ∧
  RegRule .remn (fun a b => if b = 0 then a else BitVec.ofNat 64 (a.toNat % b.toNat))) ∧
  (
  UnRel .clz (fun a x => x.toNat ≤ 64 ∧ (∀ j, 64 - x.toNat ≤ j → a.getLsbD j = false) ∧ (x.toNat < 64 → a.getLsbD (63 - x.toNat) = true)) ∧
  UnRel .ctz (fun a x => x.toNat ≤ 64 ∧ (∀ j, j < x.toNat → a.getLsbD j = false) ∧ (x.toNat < 64 → a.getLsbD x.toNat = true)) ∧
  UnRel .popc (fun a x => x.toNat = (List.range 64).countP fun j => a.getLsbD j) ∧
  RegRel .bext (fun a b x => ∀ j, x.getLsbD j = (decide (j < b.toNat / 2 ^ 8 % 2 ^ 7) && a.getLsbD (b.toNat % 64 + j))) ∧
  ∀ p d a b s, s.executes p → s.clean [d, a, b] →
    ∃ x, exec (.bins p d a b) s = .next (s.putS d x) ∧
      ∀ j, j < 64 → x.getLsbD j =
        let pos := (s.regs.rdS b).toNat % 64
        let w := (s.regs.rdS b).toNat / 2 ^ 8 % 2 ^ 7
        if pos ≤ j ∧ j < pos + w then (s.regs.rdS a).getLsbD (j - pos) else (s.regs.rdS d).getLsbD j)

/-- R102, R105: moves and constants, with the poison bit they copy, and the guards as a scalar.
R103, R105, R76: the integer compares and the guard logic put their condition into two guards.
R93: a compare with a poisoned source traps PSNUSE and writes nothing. -/
def Obligations.ScalarMovesAndCompares : Prop :=
  (
  ∀ p s, s.executes p →
    (∀ d a, exec (.mov p d a) s = .next (if s.regs.psn a then s.putPoison d (s.regs.rdS a) else s.putS d (s.regs.rdS a))) ∧
    (∀ d a b k, exec (.sel p d a b k) s =
      let i := if s.regs.rdG k then a else b
      .next (if s.regs.psn i then s.putPoison d (s.regs.rdS i) else s.putS d (s.regs.rdS i))) ∧
    (∀ d im, exec (.movi p d im) s = .next (s.putS d (BitVec.ofInt 64 im.toInt))) ∧
    (∀ d im, exec (.movih p d im) s =
      let x := BitVec.ofNat 64 (2 ^ 32 * im.toNat + (s.regs.rdS d).toNat % 2 ^ 32)
      .next (if s.regs.psn d then s.putPoison d x else s.putS d x)) ∧
    (∀ d im, exec (.adr p d im) s = .next (s.putS d (BitVec.ofInt 64 (s.regs.pc.toNat + im.toInt)))) ∧
    ∀ d, ∃ x, exec (.grd p d) s = .next (s.putS d x) ∧ x.toNat < 256 ∧ ∀ i : BitVec 3, x.getLsbD i.toNat = s.regs.rdG i) ∧
  (
  (∀ a b,
    GuardRule (.cmpEq · · a b) [a, b] (fun r => decide ((r.rdS a).toNat = (r.rdS b).toNat)) ∧
    GuardRule (.cmpNe · · a b) [a, b] (fun r => decide ((r.rdS a).toNat ≠ (r.rdS b).toNat)) ∧
    GuardRule (.cmpLt · · a b) [a, b] (fun r => decide ((r.rdS a).toInt < (r.rdS b).toInt)) ∧
    GuardRule (.cmpGe · · a b) [a, b] (fun r => decide ((r.rdS b).toInt ≤ (r.rdS a).toInt)) ∧
    GuardRule (.cmpLo · · a b) [a, b] (fun r => decide ((r.rdS a).toNat < (r.rdS b).toNat)) ∧
    GuardRule (.cmpHs · · a b) [a, b] (fun r => decide ((r.rdS b).toNat ≤ (r.rdS a).toNat))) ∧
  (∀ a im,
    GuardRule (.cmpiEq · · a im) [a] (fun r => decide ((r.rdS a).toInt = im.toInt)) ∧
    GuardRule (.cmpiNe · · a im) [a] (fun r => decide ((r.rdS a).toInt ≠ im.toInt)) ∧
    GuardRule (.cmpiLt · · a im) [a] (fun r => decide ((r.rdS a).toInt < im.toInt)) ∧
    GuardRule (.cmpiGe · · a im) [a] (fun r => decide (im.toInt ≤ (r.rdS a).toInt)) ∧
    GuardRule (.cmpiLo · · a im) [a] (fun r => decide ((r.rdS a).toNat < (im.signExtend 64).toNat)) ∧
    GuardRule (.cmpiHs · · a im) [a] (fun r => decide ((im.signExtend 64).toNat ≤ (r.rdS a).toNat))) ∧
  (∀ a b : BitVec 3,
    GuardRule (.gand · · a b) [] (fun r => r.rdG a && r.rdG b) ∧ GuardRule (.gor · · a b) [] (fun r => r.rdG a || r.rdG b) ∧
    GuardRule (.gxor · · a b) [] (fun r => Bool.xor (r.rdG a) (r.rdG b)) ∧ GuardRule (.gandn · · a b) [] (fun r => r.rdG a && !r.rdG b)) ∧
  ∀ v : BitVec 1, GuardRule (.gset · · v) [] (fun _ => v.getLsbD 0)) ∧
  (
  (∀ a b, GuardTraps (.cmpEq · · a b) [a, b] ∧ GuardTraps (.cmpNe · · a b) [a, b] ∧ GuardTraps (.cmpLt · · a b) [a, b] ∧
    GuardTraps (.cmpGe · · a b) [a, b] ∧ GuardTraps (.cmpLo · · a b) [a, b] ∧ GuardTraps (.cmpHs · · a b) [a, b]) ∧
  ∀ a im, GuardTraps (.cmpiEq · · a im) [a] ∧ GuardTraps (.cmpiNe · · a im) [a] ∧ GuardTraps (.cmpiLt · · a im) [a] ∧
    GuardTraps (.cmpiGe · · a im) [a] ∧ GuardTraps (.cmpiLo · · a im) [a] ∧ GuardTraps (.cmpiHs · · a im) [a])

/-- R104: the floating-point compares; with a NaN, c is 0 for EQ, LT and LE and 1 for UN, and IOE is raised as the table says; a poisoned source traps PSNUSE (R93).
R106, R107: scalar floating point and conversion: D receives the value rounded once, ASTAT its flags, and nothing else changes but the pc.
R92: with a poisoned source, these write the poisoned value 0 to D and set PSN and no other flag. -/
def Obligations.ScalarFloats : Prop :=
  (
  ∀ a b ty,
    let x (r : Regs) := ty.unpack (r.rdS a)
    let y (r : Regs) := ty.unpack (r.rdS b)
    let nan (r : Regs) := (x r).isNan || (y r).isNan
    let snan (r : Regs) := (x r).isSnan || (y r).isSnan
    GuardRuleF (.fcmpEq · · a b ty) [a, b] (fun r => !nan r && (x r).eq (y r)) snan ∧
    GuardRuleF (.fcmpLt · · a b ty) [a, b] (fun r => !nan r && (x r).lt (y r)) nan ∧
    GuardRuleF (.fcmpLe · · a b ty) [a, b] (fun r => !nan r && ((x r).lt (y r) || (x r).eq (y r))) nan ∧
    GuardRuleF (.fcmpUn · · a b ty) [a, b] nan snan ∧
    GuardTraps (.fcmpEq · · a b ty) [a, b] ∧ GuardTraps (.fcmpLt · · a b ty) [a, b] ∧ GuardTraps (.fcmpLe · · a b ty) [a, b] ∧
    GuardTraps (.fcmpUn · · a b ty) [a, b]) ∧
  (
  ∀ p s, s.executes p →
    (∀ d a b ty rm, s.clean [a, b] →
      let x := ty.unpack (s.regs.rdS a)
      let y := ty.unpack (s.regs.rdS b)
      exec (.fadd p d a b ty rm) s = .next (s.putF d (ty.fadd rm.mode x y)) ∧
      exec (.fsub p d a b ty rm) s = .next (s.putF d (ty.fadd rm.mode x y.neg)) ∧
      exec (.fmul p d a b ty rm) s = .next (s.putF d (ty.fmul rm.mode x y)) ∧
      exec (.fdiv p d a b ty rm) s = .next (s.putF d (ty.fdiv rm.mode x y)) ∧
      exec (.fmin p d a b ty rm) s = .next (s.putF d (ty.fminmax false (ty.low (s.regs.rdS a)) (ty.low (s.regs.rdS b)))) ∧
      exec (.fmax p d a b ty rm) s = .next (s.putF d (ty.fminmax true (ty.low (s.regs.rdS a)) (ty.low (s.regs.rdS b))))) ∧
    (∀ d a ty rm, s.clean [a] → exec (.fsqrt p d a ty rm) s = .next (s.putF d (ty.fsqrt rm.mode (ty.unpack (s.regs.rdS a))))) ∧
    (∀ d a b c ty rm, s.clean [a, b, c] →
      exec (.fma p d a b c ty rm) s =
        .next (s.putF d (ty.fma rm.mode (ty.unpack (s.regs.rdS a)) (ty.unpack (s.regs.rdS b)) (ty.unpack (s.regs.rdS c))))) ∧
    ∀ d a ty ty2 rnd, s.clean (a :: rnd.srcs) →
      let x := convLane ty ty2 (rnd.mode (s.regs.rdS rnd.seed) 0) (ty2.low (s.regs.rdS a))
      exec (.cvt p d a ty ty2 rnd) s = .next (s.putF d ⟨ty.extend x.bits, x.flags⟩)) ∧
  (
  (∀ a b, Poisons (.add · · a b) [a, b] ∧ Poisons (.sub · · a b) [a, b] ∧ Poisons (.and · · a b) [a, b] ∧ Poisons (.or · · a b) [a, b] ∧
    Poisons (.xor · · a b) [a, b] ∧ Poisons (.andn · · a b) [a, b] ∧ Poisons (.shl · · a b) [a, b] ∧ Poisons (.shr · · a b) [a, b] ∧
    Poisons (.sra · · a b) [a, b] ∧ Poisons (.ror · · a b) [a, b] ∧ Poisons (.min · · a b) [a, b] ∧ Poisons (.max · · a b) [a, b] ∧
    Poisons (.minn · · a b) [a, b] ∧ Poisons (.maxn · · a b) [a, b] ∧ Poisons (.mul · · a b) [a, b] ∧ Poisons (.mulh · · a b) [a, b] ∧
    Poisons (.mulhn · · a b) [a, b] ∧ Poisons (.div · · a b) [a, b] ∧ Poisons (.divn · · a b) [a, b] ∧ Poisons (.rem · · a b) [a, b] ∧
    Poisons (.remn · · a b) [a, b] ∧ Poisons (.bext · · a b) [a, b]) ∧
  (∀ a im, Poisons (.addi · · a im) [a] ∧ Poisons (.andi · · a im) [a] ∧ Poisons (.ori · · a im) [a] ∧ Poisons (.xori · · a im) [a]) ∧
  (∀ a n, Poisons (.shli · · a n) [a] ∧ Poisons (.shri · · a n) [a] ∧ Poisons (.srai · · a n) [a]) ∧
  (∀ a, Poisons (.clz · · a) [a] ∧ Poisons (.ctz · · a) [a] ∧ Poisons (.popc · · a) [a]) ∧
  (∀ p d a b s, s.executes p → s.tainted [d, a, b] → exec (.bins p d a b) s = .next (s.putPoison d 0)) ∧
  (∀ a b ty rm, Poisons (.fadd · · a b ty rm) [a, b] ∧ Poisons (.fsub · · a b ty rm) [a, b] ∧ Poisons (.fmul · · a b ty rm) [a, b] ∧
    Poisons (.fdiv · · a b ty rm) [a, b] ∧ Poisons (.fmin · · a b ty rm) [a, b] ∧ Poisons (.fmax · · a b ty rm) [a, b]) ∧
  (∀ a ty rm, Poisons (.fsqrt · · a ty rm) [a]) ∧ (∀ a b c ty rm, Poisons (.fma · · a b c ty rm) [a, b, c]) ∧
  ∀ a ty ty2 rnd, Poisons (.cvt · · a ty ty2 rnd) (a :: rnd.srcs))

/-- R108, R110, R112: every load of a readable aligned address. Nothing but D, the pc and PSN changes.
R108, R111, R112: every store to a writable aligned address: the stored bytes, and every other byte as before.
R113: the eight local atomics. -/
def Obligations.MemoryAccesses : Prop :=
  (
  LoadRule .ldI8 1 (fun x => (BitVec.ofNat 8 x).signExtend 64) ∧ LoadRule .ldI16 2 (fun x => (BitVec.ofNat 16 x).signExtend 64) ∧
  LoadRule .ldI32 4 (fun x => (BitVec.ofNat 32 x).signExtend 64) ∧ LoadRule .ldI64 8 (fun x => BitVec.ofNat 64 x) ∧
  LoadRule .ldN8 1 (fun x => BitVec.ofNat 64 x) ∧ LoadRule .ldN16 2 (fun x => BitVec.ofNat 64 x) ∧ LoadRule .ldN32 4 (fun x => BitVec.ofNat 64 x)) ∧
  (
  StoreRule .stI8 1 ∧ StoreRule .stI16 2 ∧ StoreRule .stI32 4 ∧ StoreRule .stI64 8) ∧
  (
  AtomicRule (fun p d a b _ ty => .amAdd p d a b ty) (fun _ => []) (fun ty o b _ => ty.low (o + b)) ∧
  AtomicRule (fun p d a b _ ty => .amAnd p d a b ty) (fun _ => []) (fun _ o b _ => o &&& b) ∧
  AtomicRule (fun p d a b _ ty => .amOr p d a b ty) (fun _ => []) (fun _ o b _ => o ||| b) ∧
  AtomicRule (fun p d a b _ ty => .amXor p d a b ty) (fun _ => []) (fun _ o b _ => o ^^^ b) ∧
  AtomicRule (fun p d a b _ ty => .amMin p d a b ty) (fun _ => []) (fun ty o b _ => if ty.value o ≤ ty.value b then o else b) ∧
  AtomicRule (fun p d a b _ ty => .amMax p d a b ty) (fun _ => []) (fun ty o b _ => if ty.value b ≤ ty.value o then o else b) ∧
  AtomicRule (fun p d a b _ ty => .amSwp p d a b ty) (fun _ => []) (fun _ _ b _ => b) ∧
  AtomicRule (fun p d a b x ty => .amCas p d a b x ty) (fun x => [x]) (fun _ o b x => if o = x then b else o))

/-- R93, R94, R43, R108, R325: a poisoned base traps PSNUSE with its register; then an address that R42 forbids traps BADADDR and a misaligned one MISALN, with the address. The trap is taken with nothing else written. -/
def Obligations.AccessTraps : Prop :=
∀ p d a b x im ty n s, s.executes p →
    let loads := [(Instr.ldI8 p d a im, 1), (.ldI16 p d a im, 2), (.ldI32 p d a im, 4), (.ldI64 p d a im, 8), (.ldN8 p d a im, 1), (.ldN16 p d a im, 2), (.ldN32 p d a im, 4)]
    let stores := [(Instr.stI8 p d a im, 1), (.stI16 p d a im, 2), (.stI32 p d a im, 4), (.stI64 p d a im, 8)]
    let atomics := [Instr.amAdd p d a b ty, .amAnd p d a b ty, .amOr p d a b ty, .amXor p d a b ty, .amMin p d a b ty, .amMax p d a b ty,
      .amSwp p d a b ty, .amCas p d a b x ty]
    (s.regs.psn a = true →
      (∀ i, (i, n) ∈ loads ++ stores ∨ i ∈ atomics → exec i s = .next (s.take ⟨.psnuse, a.setWidth 64⟩))) ∧
    (s.regs.psn a = false →
      (∀ i, (i, n) ∈ loads →
        (¬ s.readable (s.ea a im) n → exec i s = .next (s.take ⟨.badaddr, BitVec.ofInt 64 (s.ea a im)⟩)) ∧
        (s.readable (s.ea a im) n → s.ea a im % (n : Int) ≠ 0 → exec i s = .next (s.take ⟨.misaln, BitVec.ofInt 64 (s.ea a im)⟩))) ∧
      (∀ i, (i, n) ∈ stores →
        (¬ s.writable (s.ea a im) n → exec i s = .next (s.take ⟨.badaddr, BitVec.ofInt 64 (s.ea a im)⟩)) ∧
        (s.writable (s.ea a im) n → s.ea a im % (n : Int) ≠ 0 → exec i s = .next (s.take ⟨.misaln, BitVec.ofInt 64 (s.ea a im)⟩))) ∧
      (∀ i, i ∈ atomics → ty ∈ [Ty.i32, Ty.i64, Ty.n32, Ty.n64] →
        let ea : Int := (s.regs.rdS a).toNat
        let n := ty.width / 8
        (¬ s.writable ea n → exec i s = .next (s.take ⟨.badaddr, BitVec.ofInt 64 ea⟩)) ∧
        (s.writable ea n → ea % (n : Int) ≠ 0 → exec i s = .next (s.take ⟨.misaln, BitVec.ofInt 64 ea⟩))))

/-- R115: the checks of every control transfer, and what each transfer does. -/
def Obligations.ControlTransfers : Prop :=
∀ p a im s,
    let here : Int := s.regs.pc.toNat
    (¬ s.executes p → ∀ i ∈ [Instr.br p im, .call p im, .jmp p a, .callr p a, .ret p a],
      exec i s = .next (s.withRegs { s.regs with pc := s.regs.pc + 8 })) ∧
    (s.executes p →
      Transfers (.br p im) s (here + 8 * im.toInt) (s.jump (here + 8 * im.toInt)) ∧
      Transfers (.call p im) s (here + 8 * im.toInt) (s.call (here + 8 * im.toInt)) ∧
      TransfersTo (.jmp p a) s a s.jump ∧ TransfersTo (.callr p a) s a s.call ∧ TransfersTo (.ret p a) s a s.ret)

/-- R116: LOOP of s0 only passes; else a poisoned count traps, and the count falls by one and control goes back unless it is then zero. A bad target traps before the count is written. -/
def Obligations.CountedLoop : Prop :=
∀ p a im s, s.executes p →
    let t := s.regs.rdS a - 1
    let target : Int := s.regs.pc.toNat + 8 * im.toInt
    (a = 0 → exec (.loop p a im) s = .next (s.withRegs { s.regs with pc := s.regs.pc + 8 })) ∧
    (s.regs.psn a = true → exec (.loop p a im) s = .next (s.take ⟨.psnuse, a.setWidth 64⟩)) ∧
    (a ≠ 0 → s.regs.psn a = false →
      (t = 0 → exec (.loop p a im) s = .next (s.putS a 0)) ∧
      (t ≠ 0 → Transfers (.loop p a im) s target (s.withRegs ({ s.regs with pc := BitVec.ofInt 20 target }.wrS a t false))))

/-- R25 to R36: CRR puts into D the register's value, laid out field by field; LICST is read as the licence stood before this cycle. With no MMA in flight and no hand-over in progress, nothing waits.
R7, R25, R27 to R36, R117: writes change the RW fields alone; CRW of a one clears a W1C flag, CRS and CRC leave it; INV empties the page-map cache; the read-only registers keep their values, and CRS and CRC read them as CRR does. That a write of CYCLE is journalled and changes nothing is the model's reading (log 27).
R34: ISLCFG takes IID and PAD only while BND is 0, a 1 written to BND is discarded, and a 0 written to it while it is 1 releases the island.
R25, R78, R93, R94: a write of a privileged register without privilege traps PRIV, before a poisoned source traps PSNUSE; neither writes anything. -/
def Obligations.ControlRegisters : Prop :=
  (
  ∀ p d s, s.executes p → s.core.mma = none → s.quern.hand = none →
    let c := s.core
    let reads (idx : BitVec 12) (x : Nat) : Prop := exec (.crr p d idx) s = .next (s.putS d (BitVec.ofNat 64 x))
    let b (x : Bool) : Nat := if x then 1 else 0
    let fq (q : FeedQ) : Nat := q.live.length % 32 + 2 ^ 8 * b (q.live.any fun e => e.marks.getLsbD 8)
    let me := isRunner s.cur
    let lic := s.quern.view s.cycle
    reads 0x000 (c.run.toNat + 2 ^ 2 * b c.prv + 2 ^ 8 * c.ctx.prio.toNat) ∧
    reads 0x001 c.grpid.toNat ∧ reads 0x002 c.name.toNat ∧ reads 0x003 (c.name.toNat / 2 ^ 24 % 2 ^ 8) ∧ reads 0x004 c.relpos.toNat ∧
    reads 0x010 c.regs.astat.toNat ∧ reads 0x020 c.trapvec.toNat ∧
    (∀ k, (h : k < 8) → reads (BitVec.ofNat 12 (0x028 + k)) (c.ctx.trapRec[k]).toNat) ∧
    reads 0x030 (2 * b (lic.holder == some me && lic.hand.isNone) + 2 ^ 2 * b (lic.holder == some (!me) || lic.hand.isSome) + 2 ^ 3 * b (lic.req me).isSome +
      2 ^ 4 * b (lic.rreq.isSome && lic.holder == some me && lic.hand.isNone) + 2 ^ 7 * b c.twc) ∧
    reads 0x031 (b c.islBnd + 2 ^ 8 * c.islPad.toNat + 2 ^ 32 * c.islIid.toNat + 2 ^ 48 * (c.scnt.toNat % 2 ^ 16)) ∧
    reads 0x040 (2 ^ 16 * (c.pmCache.length % 32) + 2 ^ 32 * c.pmMiss.toNat) ∧
    (∀ k : BitVec 2, reads (0x050 + k.setWidth 12)
      ((c.accAt k).flags.toNat + 2 ^ 8 * b (c.accAt k).ptl + 2 ^ 32 * b (c.accAt k).fp32 + 2 ^ 48 * (c.accAt k).t.toNat)) ∧
    reads 0x060 c.cycle.toNat ∧ reads 0x061 c.wdogLim.toNat ∧ reads 0x070 (fq c.ctx.fq0) ∧ reads 0x071 (fq c.ctx.fq1)) ∧
  (
  CrRule 0x001 0x00001F1F07FFFFFF Core.grpid (fun c x => { c with grpid := x }) ∧
  CrRule 0x002 0x000FFFFFFF01FFFF Core.name (fun c x => { c with name := x }) ∧
  CrRule 0x003 0xFF (fun c => BitVec.ofNat 64 (c.name.toNat / 2 ^ 24 % 2 ^ 8))
    (fun c x => { c with name := (c.name &&& ~~~(0xFF000000 : Word)) ||| ((x &&& (0xFF : Word)) <<< 24) }) ∧
  CrRule 0x004 0x03FF007F Core.relpos (fun c x => { c with relpos := x }) ∧
  CrRule 0x020 0xFFFF9 Core.trapvec (fun c x => { c with trapvec := x }) ∧
  CrRule 0x061 0xFFFFFFFF (fun c => c.wdogLim.setWidth 64) (fun c x => { c with wdogLim := x.setWidth 32 }) ∧
  (∀ p d a s, s.executes p → s.clean [a] → s.core.mma = none →
    let v := s.regs.rdS a
    exec (.crw p 0x010 a) s = .next (s.withRegs { s.regs with astat := s.regs.astat &&& ~~~(v.setWidth 7), pc := s.regs.pc + 8 }) ∧
    exec (.crs p d 0x010 a) s = .next (s.putS d (s.regs.astat.setWidth 64)) ∧
    exec (.crc p d 0x010 a) s = .next (s.putS d (s.regs.astat.setWidth 64)) ∧
    exec (.crw p 0x030 a) s = .next (s.setCore { s.core.journalCr 0x030 (s.licst s.cur) with twc := s.core.twc && !v.getLsbD 7 }.adv) ∧
    exec (.pmapcInv p a) s = .next (s.setCore
      (if v.getLsbD 0 then { s.core.journalCr 0x040 s.core.pmapc with pmCache := [] } else s.core.journalCr 0x040 s.core.pmapc).adv) ∧
    (∀ idx ∈ [0x000#12, 0x070#12, 0x071#12], exec (.crw p idx a) s = .next (s.withRegs { s.regs with pc := s.regs.pc + 8 })) ∧
    (s.core.prv = true → ∀ idx ∈ (List.range 8).map fun k => BitVec.ofNat 12 (0x028 + k),
      exec (.crw p idx a) s = .next (s.withRegs { s.regs with pc := s.regs.pc + 8 }))) ∧
  ∀ p d a s, s.executes p → s.clean [a] →
    let v := s.regs.rdS a
    let into (c : Core) (old : Word) : State := s.setCore (c.modRegs fun r => (r.wrS d old false).adv)
    (s.settled → ∀ k : BitVec 2,
      let idx : BitVec 12 := 0x050 + k.setWidth 12
      let x := s.core.accAt k
      let c (f : Flags) : Core := ((s.core.journalCr idx x.stWord).keepAcc k).setAcc k { x with flags := f }
      exec (.crw p idx a) s = .next (s.setCore (c (x.flags &&& ~~~(v.setWidth 7))).adv) ∧
      exec (.crs p d idx a) s = .next (into (c x.flags) x.stWord) ∧ exec (.crc p d idx a) s = .next (into (c x.flags) x.stWord)) ∧
    (let c := s.core.journalCr 0x040 s.core.pmapc
     exec (.crs p d 0x040 a) s = .next (into (if v.getLsbD 0 then { c with pmCache := [] } else c) s.core.pmapc) ∧
     exec (.crc p d 0x040 a) s = .next (into c s.core.pmapc)) ∧
    (let c := s.core.journalCr 0x030 (s.licst s.cur)
     exec (.crs p d 0x030 a) s = .next (into c (s.licst s.cur)) ∧ exec (.crc p d 0x030 a) s = .next (into c (s.licst s.cur))) ∧
    (∀ idx ∈ [0x000#12, 0x070#12, 0x071#12], exec (.crs p d idx a) s = exec (.crr p d idx) s ∧ exec (.crc p d idx a) s = exec (.crr p d idx) s) ∧
    (s.core.prv = true →
      (∀ idx ∈ (List.range 8).map fun k => BitVec.ofNat 12 (0x028 + k),
        exec (.crs p d idx a) s = exec (.crr p d idx) s ∧ exec (.crc p d idx a) s = exec (.crr p d idx) s) ∧
      (let c := s.core.journalCr 0x060 s.core.cycle
       exec (.crw p 0x060 a) s = .next (s.setCore c.adv) ∧
       exec (.crs p d 0x060 a) s = .next (into c s.core.cycle) ∧ exec (.crc p d 0x060 a) s = .next (into c s.core.cycle)) ∧
      let old := s.core.islcfg
      let c := s.core.journalCr 0x031 old
      let put (x : Word) : Core := { c with islIid := x.extractLsb' 32 16, islPad := x.extractLsb' 8 8 }
      exec (.crw p 0x031 a) s = exec (.islcfgUnbind p a) s ∧
      (s.core.islBnd = false →
        exec (.crs p d 0x031 a) s = .next (into (put (old ||| v)) old) ∧ exec (.crc p d 0x031 a) s = .next (into (put (old &&& ~~~v)) old)) ∧
      (s.core.islBnd = true →
        exec (.crs p d 0x031 a) s = .next (into c old) ∧
        (v.getLsbD 0 = false → exec (.crc p d 0x031 a) s = .next (into c old)) ∧
        (v.getLsbD 0 = true → ∃ t, exec (.crc p d 0x031 a) s = .next t ∧ Released (s.setCore (c.modRegs fun r => r.wrS d old false)) t)))) ∧
  (
  ∀ p d a idx s, s.executes p →
    let writes := [Instr.crw p idx a, .crs p d idx a, .crc p d idx a]
    let privileged := [0x001, 0x002, 0x003, 0x004, 0x028, 0x029, 0x02A, 0x02B, 0x02C, 0x02D, 0x02E, 0x02F, 0x031, 0x060, 0x061]
    (s.core.prv = false → idx.toNat ∈ privileged → ∀ i ∈ writes, exec i s = .next (s.take ⟨.priv, 0⟩)) ∧
    (s.core.prv = true ∨ idx.toNat ∉ privileged → s.regs.psn a = true → ∀ i ∈ writes, exec i s = .next (s.take ⟨.psnuse, a.setWidth 64⟩)) ∧
    (s.core.prv = false → exec (.islcfgUnbind p a) s = .next (s.take ⟨.priv, 0⟩)))

/-- R127, R46: the vector integer instructions, lane by lane.
R128 to R130, R142: the vector floating-point instructions, each lane rounded once.
R67, R123: with poison met, the shifts, VABS, VNEG and the floating-point instructions make the whole of D poison (the other integer instructions: VectorConversionAndPoison). -/
def Obligations.VectorArithmetic : Prop :=
  (
  VecRule2 .vaddI (fun ty a b => wrapLane ty (ty.value a + ty.value b)) ∧ VecRule2 .vsubI (fun ty a b => wrapLane ty (ty.value a - ty.value b)) ∧
  VecRule2 .vmulI (fun ty a b => wrapLane ty (ty.value a * ty.value b)) ∧
  VecRule2 .vmulh (fun ty a b => wrapLane ty (ty.value a * ty.value b / 2 ^ ty.width)) ∧
  VecRule2 .vminI (fun ty a b => ⟨if ty.value a ≤ ty.value b then a else b, 0⟩) ∧
  VecRule2 .vmaxI (fun ty a b => ⟨if ty.value b ≤ ty.value a then a else b, 0⟩) ∧
  VecRule2 .vand (fun _ a b => ⟨a &&& b, 0⟩) ∧ VecRule2 .vor (fun _ a b => ⟨a ||| b, 0⟩) ∧ VecRule2 .vxor (fun _ a b => ⟨a ^^^ b, 0⟩) ∧
  VecRule2 (fun p d a b ty l => .vshl p d a (.reg b) ty l) (fun ty x k => wrapLane ty (x.toNat * 2 ^ (k.toNat % ty.width))) ∧
  VecRule2 (fun p d a b ty l => .vshr p d a (.reg b) ty l) (fun ty x k => wrapLane ty (x.toNat / 2 ^ (k.toNat % ty.width))) ∧
  VecRule2 (fun p d a b ty l => .vsra p d a (.reg b) ty l) (fun ty x k => wrapLane ty (signedLane ty x / 2 ^ (k.toNat % ty.width))) ∧
  (∀ k : BitVec 6,
    VecRule1 (fun p d a ty l => .vshl p d a (.imm k) ty l) (fun ty x => wrapLane ty (x.toNat * 2 ^ k.toNat)) ∧
    VecRule1 (fun p d a ty l => .vshr p d a (.imm k) ty l) (fun ty x => wrapLane ty (x.toNat / 2 ^ k.toNat)) ∧
    VecRule1 (fun p d a ty l => .vsra p d a (.imm k) ty l) (fun ty x => wrapLane ty (signedLane ty x / 2 ^ k.toNat))) ∧
  VecRule1 .vabsI (fun ty a => wrapLane ty (ty.value a).natAbs) ∧ VecRule1 .vnegI (fun ty a => wrapLane ty (-ty.value a)) ∧
  VecRule2 .vadds (fun ty a b => clampLane ty (ty.value a + ty.value b)) ∧ VecRule2 .vsubs (fun ty a b => clampLane ty (ty.value a - ty.value b))) ∧
  (
  (∀ rm : Rz, VecRule2 (fun p d a b ty l => .vaddF p d a b ty rm l) (fun ty a b => ty.fadd rm.mode (ty.unpack a) (ty.unpack b)) ∧
    VecRule2 (fun p d a b ty l => .vsubF p d a b ty rm l) (fun ty a b => ty.fadd rm.mode (ty.unpack a) (ty.unpack b).neg) ∧
    VecRule2 (fun p d a b ty l => .vmulF p d a b ty rm l) (fun ty a b => ty.fmul rm.mode (ty.unpack a) (ty.unpack b)) ∧
    VecRule3 (fun p d a b e ty l => .vfma p d a b e ty rm l) (fun ty a b e => ty.fma rm.mode (ty.unpack a) (ty.unpack b) (ty.unpack e)) ∧
    VecRule3 (fun p d a b e ty l => .vfms p d a b e ty rm l) (fun ty a b e => ty.fma rm.mode (ty.unpack a) (ty.unpack b) (ty.unpack e).neg) ∧
    VecRule3 (fun p d a b e ty l => .vfnma p d a b e ty rm l) (fun ty a b e => ty.fma rm.mode (ty.unpack a).neg (ty.unpack b) (ty.unpack e))) ∧
  VecRule2 .vminF (fun ty a b => ty.fminmax false a b) ∧ VecRule2 .vmaxF (fun ty a b => ty.fminmax true a b) ∧
  VecRule1 .vabsF (fun ty a => match ty.unpack a with
    | .nan q => ty.nan q
    | _ => ⟨BitVec.ofNat 64 (a.toNat % 2 ^ (ty.width - 1)), 0⟩) ∧
  VecRule1 .vnegF (fun ty a => match ty.unpack a with
    | .nan q => ty.nan q
    | _ => ⟨BitVec.ofNat 64 ((a.toNat + 2 ^ (ty.width - 1)) % 2 ^ ty.width), 0⟩) ∧
  (∀ p d a l s x c, s.executes p → readsA s.core a x c →
    LanesClean c.regs (c.regs.rdVV d) l 32 16 everyLane [x] (fun i => x.poisonAt (32 * i) 32 = []) →
    LaneResult (.vrcp p d a l) s c d l 32 16 everyLane (fun i => vrcp (x.lane 32 i)) ∧
    LaneResult (.vrsq p d a l) s c d l 32 16 everyLane (fun i => vrsq (x.lane 32 i)) ∧
    LaneResult (.vexp2 p d a l) s c d l 32 16 everyLane (fun i => vexp2 (x.lane 32 i)) ∧
    LaneResult (.vlog2 p d a l) s c d l 32 16 everyLane (fun i => vlog2 (x.lane 32 i))) ∧
  ∀ p d a b e ty l s x c, s.executes p → readsA s.core a x c →
    let y := c.regs.rdVV b
    let z := c.regs.rdVV e
    LanesClean c.regs (c.regs.rdVV d) l 32 16 everyLane [x, y, z]
      (fun i => x.poisonAt (32 * i) 32 = [] ∧ y.poisonAt (32 * i) 32 = [] ∧ z.poisonAt (32 * i) 32 = []) →
    LaneResult (.vdot p d a b e ty l) s c d l 32 16 everyLane fun i =>
      vdotLane ty (z.lane 32 i) [(x.lane 16 (2 * i), y.lane 16 (2 * i)), (x.lane 16 (2 * i + 1), y.lane 16 (2 * i + 1))]) ∧
  (
  ∀ p d a b e k ty (rm : Rz) l s x c, ty ∈ laneTypes → s.executes p → readsA s.core a x c →
    let y := c.regs.rdVV b
    let z := c.regs.rdVV e
    let met := poisonMet c.regs d l ty.width ty.lanes everyLane
    let met32 := poisonMet c.regs d l 32 16 everyLane
    (∀ i ∈ [Instr.vshl p d a (.reg b) ty l, .vshr p d a (.reg b) ty l, .vsra p d a (.reg b) ty l, .vaddF p d a b ty rm l, .vsubF p d a b ty rm l,
      .vmulF p d a b ty rm l, .vminF p d a b ty l, .vmaxF p d a b ty l], PoisonsAll i s c d (met [x, y])) ∧
    (∀ i ∈ [Instr.vshl p d a (.imm k) ty l, .vshr p d a (.imm k) ty l, .vsra p d a (.imm k) ty l, .vabsI p d a ty l, .vnegI p d a ty l,
      .vabsF p d a ty l, .vnegF p d a ty l], PoisonsAll i s c d (met [x])) ∧
    (∀ i ∈ [Instr.vfma p d a b e ty rm l, .vfms p d a b e ty rm l, .vfnma p d a b e ty rm l], PoisonsAll i s c d (met [x, y, z])) ∧
    (∀ i ∈ [Instr.vrcp p d a l, .vrsq p d a l, .vexp2 p d a l, .vlog2 p d a l], PoisonsAll i s c d (met32 [x])) ∧
    PoisonsAll (.vdot p d a b e ty l) s c d (met32 [x, y, z]))

/-- R131, R122, R13: the compares of lanes into a mask.
R132: mask logic, counting, and moves between masks and scalars; a poisoned scalar traps. A write to m0 is discarded. -/
def Obligations.VectorMasks : Prop :=
  (
  MaskRule .vcmpEq (fun _ a b => (decide (a = b), 0)) ∧ MaskRule .vcmpNe (fun _ a b => (decide (a ≠ b), 0)) ∧
  MaskRule .vcmpLt (fun ty a b => (decide (signedLane ty a < signedLane ty b), 0)) ∧
  MaskRule .vcmpGe (fun ty a b => (decide (signedLane ty b ≤ signedLane ty a), 0)) ∧
  MaskRule .vcmpLo (fun _ a b => (decide (a.toNat < b.toNat), 0)) ∧ MaskRule .vcmpHs (fun _ a b => (decide (b.toNat ≤ a.toNat), 0)) ∧
  (let nan (ty : Ty) (a b : BitVec 64) := (ty.unpack a).isNan || (ty.unpack b).isNan
   let snan (ty : Ty) (a b : BitVec 64) := (ty.unpack a).isSnan || (ty.unpack b).isSnan
   let ioe (b : Bool) : Flags := if b then fIOE else 0
   MaskRule .vcmpEqF (fun ty a b => (!nan ty a b && (ty.unpack a).eq (ty.unpack b), ioe (snan ty a b))) ∧
   MaskRule .vcmpLtF (fun ty a b => (!nan ty a b && (ty.unpack a).lt (ty.unpack b), ioe (nan ty a b))) ∧
   MaskRule .vcmpLeF (fun ty a b => (!nan ty a b && ((ty.unpack a).lt (ty.unpack b) || (ty.unpack a).eq (ty.unpack b)), ioe (nan ty a b))) ∧
   MaskRule .vcmpUnF (fun ty a b => (nan ty a b, ioe (snan ty a b)))) ∧
  ∀ p d a b ty l s, s.executes p →
    let x := s.regs.rdVV a
    let y := s.regs.rdVV b
    let bad (z : VVal) := z.whole = true ∨ ∃ i, i < ty.lanes ∧ s.regs.active l i = true ∧ z.poisonAt (ty.width * i) ty.width ≠ []
    ∀ i ∈ [Instr.vcmpEq p d (.reg a) b ty l, .vcmpNe p d (.reg a) b ty l, .vcmpLt p d (.reg a) b ty l, .vcmpGe p d (.reg a) b ty l,
        .vcmpLo p d (.reg a) b ty l, .vcmpHs p d (.reg a) b ty l, .vcmpEqF p d (.reg a) b ty l, .vcmpLtF p d (.reg a) b ty l,
        .vcmpLeF p d (.reg a) b ty l, .vcmpUnF p d (.reg a) b ty l],
      (bad x → exec i s = .next (s.take ⟨.psnuse, a.setWidth 64⟩)) ∧
      (¬ bad x → bad y → exec i s = .next (s.take ⟨.psnuse, b.setWidth 64⟩))) ∧
  (
  ∀ p s, s.executes p →
    let r := s.regs
    let toMask (d : BitVec 3) (x : Word) : State := s.withRegs ((r.wrM d x).adv)
    (∀ d a b,
      exec (.mand p d a b) s = .next (toMask d (r.rdM a &&& r.rdM b)) ∧ exec (.mor p d a b) s = .next (toMask d (r.rdM a ||| r.rdM b)) ∧
      exec (.mxor p d a b) s = .next (toMask d (r.rdM a ^^^ r.rdM b)) ∧ exec (.mandn p d a b) s = .next (toMask d (r.rdM a &&& ~~~r.rdM b))) ∧
    (∀ d a, exec (.mtos p d a) s = .next (s.putS d (r.rdM a)) ∧
      exec (.mpopc p d a) s = .next (s.putS d (BitVec.ofNat 64 ((List.range 64).countP fun j => (r.rdM a).getLsbD j))) ∧
      ∃ n, exec (.mfirst p d a) s = .next (s.putS d (BitVec.ofNat 64 n)) ∧ n ≤ 64 ∧ (∀ j, j < n → (r.rdM a).getLsbD j = false) ∧
        (n < 64 → (r.rdM a).getLsbD n = true)) ∧
    ∀ d a, (r.psn a = false → exec (.mfroms p d a) s = .next (toMask d (r.rdS a))) ∧
      (r.psn a = true → exec (.mfroms p d a) s = .next (s.take ⟨.psnuse, a.setWidth 64⟩)))

/-- R133, R134: the permutes, lane by lane; a source that no lane reads does not poison the result, and one that any lane reads is read in full.
R135: the reductions of the active lanes.
R66, R67, R123: with poison in what is read or in a lane of D that stays, a permute makes the whole of D poison, and a reduction or VEXT poisons its scalar. -/
def Obligations.VectorRearrangement : Prop :=
  (
  PermRule .vperm true (fun ty y i => if (y i).toNat < ty.lanes then .ofA (y i).toNat else .zero) ∧
  (∀ k : BitVec 10,
    PermRule (fun p d a b ty l => .vslide p d a b k ty l) false
      (fun ty _ i => if i + k.toNat < ty.lanes then .ofA (i + k.toNat) else .ofB (i + k.toNat - ty.lanes)) ∧
    PermRule (fun p d a b ty l => .vslided p d a b k ty l) false
      (fun ty _ i => if k.toNat ≤ i then .ofA (i - k.toNat) else .ofB (ty.lanes - k.toNat + i))) ∧
  (∀ h : BitVec 1,
    PermRule (fun p d a b ty l => .vzip p d a b h ty l) false
      (fun ty _ i => if i % 2 = 0 then .ofA (i / 2 + h.toNat * (ty.lanes / 2)) else .ofB (i / 2 + h.toNat * (ty.lanes / 2))) ∧
    PermRule (fun p d a b ty l => .vunzip p d a b h ty l) false
      (fun ty _ i => if i < ty.lanes / 2 then .ofA (2 * i + h.toNat) else .ofB (2 * (i - ty.lanes / 2) + h.toNat))) ∧
  (∀ p d a k ty l s, ty ∈ laneTypes → s.executes p → s.clean [a] →
    let low : FRes := ⟨BitVec.ofNat 64 ((s.regs.rdS a).toNat % 2 ^ ty.width), 0⟩
    (LanesClean s.regs (s.regs.rdVV d) l ty.width ty.lanes everyLane [] (fun _ => True) →
      LaneResult (.vbcast p d a ty l) s s.core d l ty.width ty.lanes everyLane fun _ => low) ∧
    (LanesClean s.regs (s.regs.rdVV d) l ty.width ty.lanes (fun i => i != k.toNat) [] (fun _ => True) →
      LaneResult (.vins p d a k ty l) s s.core d l ty.width ty.lanes (fun i => i != k.toNat) fun _ => low)) ∧
  (∀ p d a k ty s x c, ty ∈ laneTypes → s.executes p → readsA s.core a x c →
    let v := if ty.isSigned then BitVec.ofInt 64 (signedLane ty (x.lane ty.width k.toNat)) else x.lane ty.width k.toNat
    exec (.vext p d a k ty) s = .next (s.setCore (c.modRegs fun r =>
      (if x.poisonAll = [] then r.wrS d v false else (r.wrS d 0 true).flag fPSN).adv))) ∧
  (∀ p d a k ty l s, ty ∈ laneTypes → s.executes p →
    let from' := scalarPoison s.core [a]
    PoisonsAll (.vbcast p d a ty l) s s.core d (from' ++ keptOrgs s.regs d l ty.width ty.lanes everyLane) ∧
    PoisonsAll (.vins p d a k ty l) s s.core d (from' ++ keptOrgs s.regs d l ty.width ty.lanes fun i => i != k.toNat)) ∧
  (∀ p d a ty l s x c, ty ∈ laneTypes → s.executes p → readsA s.core a x c →
    let m := c.regs.rdM l.mask
    let n := (List.range ty.lanes).countP fun j => m.getLsbD j
    let kept (f : Nat → Bool) : List Org :=
      (List.range ty.lanes).flatMap fun i => if f i && !l.ag then (c.regs.rdVV d).poisonAt (ty.width * i) ty.width else []
    PoisonsAll (.vcomp p d a ty l) s c d (x.poisonAll ++ kept fun i => decide (n ≤ i)) ∧
    PoisonsAll (.vexpd p d a ty l) s c d (x.poisonAll ++ kept fun i => !m.getLsbD i)) ∧
  ∀ p d a ty l s x c, ty ∈ laneTypes → s.executes p → readsA s.core a x c → x.poisonAll = [] →
    let m := c.regs.rdM l.mask
    let below (i : Nat) := (List.range i).countP fun j => m.getLsbD j
    let old := c.regs.rdVV d
    ((∀ i, i < ty.lanes → below ty.lanes ≤ i → l.ag = false → old.poisonAt (ty.width * i) ty.width = []) →
      ∃ data, exec (.vcomp p d a ty l) s = .next (s.putV c d ⟨data, 0⟩ 0) ∧
      ∀ i, i < ty.lanes →
        (∀ j, j < ty.lanes → m.getLsbD j = true → below j = i → VVal.lane ⟨data, 0⟩ ty.width i = x.lane ty.width j) ∧
        (below ty.lanes ≤ i → VVal.lane ⟨data, 0⟩ ty.width i = if l.ag then 0 else old.lane ty.width i)) ∧
    ((∀ i, i < ty.lanes → m.getLsbD i = false → l.ag = false → old.poisonAt (ty.width * i) ty.width = []) →
      ∃ data, exec (.vexpd p d a ty l) s = .next (s.putV c d ⟨data, 0⟩ 0) ∧
      ∀ i, i < ty.lanes → VVal.lane ⟨data, 0⟩ ty.width i =
        if m.getLsbD i then x.lane ty.width (below i) else if l.ag then 0 else old.lane ty.width i)) ∧
  (
  (∀ rm : Rz, RedRule (fun p d a ty k => .vredAdd p d a ty rm k) (fun ty xs r =>
    (ty.isInt = true → r = ⟨ty.extend (wrapLane ty ((xs.map ty.value).foldr (· + ·) 0)).bits, 0⟩) ∧
    (ty.isInt = false → r = exactSum ty rm.mode (xs.map ty.unpack)))) ∧
  RedRule .vredMin (fun ty xs r =>
    (ty.isInt = true → r.flags = 0 ∧ ∃ v, r.bits = ty.extend (wrapLane ty v).bits ∧ ty.minVal ≤ v ∧ v ≤ ty.maxVal ∧
      (∀ x ∈ xs, v ≤ ty.value x) ∧ (v = ty.maxVal ∨ ∃ x ∈ xs, v = ty.value x)) ∧
    (ty.isInt = false → r = redF ty false xs)) ∧
  RedRule .vredMax (fun ty xs r =>
    (ty.isInt = true → r.flags = 0 ∧ ∃ v, r.bits = ty.extend (wrapLane ty v).bits ∧ ty.minVal ≤ v ∧ v ≤ ty.maxVal ∧
      (∀ x ∈ xs, ty.value x ≤ v) ∧ (v = ty.minVal ∨ ∃ x ∈ xs, v = ty.value x)) ∧
    (ty.isInt = false → r = redF ty true xs)) ∧
  RedRule .vredAnd (fun ty xs r => r.flags = 0 ∧
    ∃ v, r.bits = ty.extend v ∧ v.toNat < 2 ^ ty.width ∧ ∀ j, j < ty.width → v.getLsbD j = xs.all fun x => x.getLsbD j) ∧
  RedRule .vredOr (fun ty xs r => r.flags = 0 ∧
    ∃ v, r.bits = ty.extend v ∧ v.toNat < 2 ^ ty.width ∧ ∀ j, j < ty.width → v.getLsbD j = xs.any fun x => x.getLsbD j) ∧
  RedRule .vredXor (fun ty xs r => r.flags = 0 ∧
    ∃ v, r.bits = ty.extend v ∧ v.toNat < 2 ^ ty.width ∧ ∀ j, j < ty.width → v.getLsbD j = decide (xs.countP (fun x => x.getLsbD j) % 2 = 1)))

/-- R107, R136: VCVT converts lane p m + i of one side into lane i of the other, or the reverse, m being the smaller lane count and p the part.
R67, R82, R123: with poison in a computed lane of a source, in a seed or in a lane of the destination that stays, VCVT or an element-wise integer instruction makes the whole of D poison, with the winning origin of all that it met, and sets PSN alone. -/
def Obligations.VectorConversionAndPoison : Prop :=
  (
  ∀ p d a ty ty2 rnd part l s x c, ty ∈ laneTypes → ty2 ∈ laneTypes → s.executes p → readsA s.core a x c →
    let m := min ty2.lanes ty.lanes
    let lo := BitVec.toNat part * m
    let keep (j : Nat) : Bool := decide (ty2.lanes < ty.lanes) && !(decide (lo ≤ j) && decide (j < lo + m))
    let src (j : Nat) : Nat := if ty2.lanes > ty.lanes then lo + j else if ty2.lanes < ty.lanes then j - lo else j
    c.regs.psn rnd.seed = false ∨ rnd.srcs = [] →
    LanesClean c.regs (c.regs.rdVV d) l ty.width ty.lanes keep [x] (fun j => x.poisonAt (ty2.width * src j) ty2.width = []) →
    LaneResult (.vcvt p d a ty ty2 rnd part l) s c d l ty.width ty.lanes keep fun j =>
      convLane ty ty2 (rnd.mode (c.regs.rdS rnd.seed) j) (x.lane ty2.width (src j))) ∧
  (
  ∀ p d a ty ty2 rnd part l s x c, ty ∈ laneTypes → ty2 ∈ laneTypes → s.executes p → readsA s.core a x c →
    let m := min ty2.lanes ty.lanes
    let lo := BitVec.toNat part * m
    let keep (j : Nat) : Bool := decide (ty2.lanes < ty.lanes) && !(decide (lo ≤ j) && decide (j < lo + m))
    let src (j : Nat) : Nat := if ty2.lanes > ty.lanes then lo + j else if ty2.lanes < ty.lanes then j - lo else j
    PoisonsAll (.vcvt p d a ty ty2 rnd part l) s c d (scalarPoison c rnd.srcs ++ wholePoison [x] ++
      ((List.range ty.lanes).flatMap fun j => if c.regs.computed l keep j then x.poisonAt (ty2.width * src j) ty2.width else []) ++
      keptOrgs c.regs d l ty.width ty.lanes keep)) ∧
  (
  ∀ p d a b ty l s x c, ty ∈ laneTypes → s.executes p → readsA s.core a x c →
    let w := ty.width
    let y := c.regs.rdVV b
    let met := wholePoison [x, y] ++ ((List.range ty.lanes).flatMap fun i => if c.regs.active l i then x.poisonAt (w * i) w ++ y.poisonAt (w * i) w else []) ++
      (List.range ty.lanes).flatMap fun i => if c.regs.stays l everyLane i then (c.regs.rdVV d).poisonAt (w * i) w else []
    met ≠ [] →
    ∃ o, orgWinner met = some o ∧
      ∀ i ∈ [Instr.vaddI p d a b ty l, .vsubI p d a b ty l, .vmulI p d a b ty l, .vmulh p d a b ty l, .vminI p d a b ty l, .vmaxI p d a b ty l,
        .vand p d a b ty l, .vor p d a b ty l, .vxor p d a b ty l, .vadds p d a b ty l, .vsubs p d a b ty l, .vminF p d a b ty l, .vmaxF p d a b ty l],
        exec i s = .next (s.putV c d (poisonReg o) fPSN))

/-- R137 to R139, R56: block arithmetic, block by block: exact element values, then ToBlock.
R57, R140: BTOF rounds elements of blocks into lanes; BFROMF writes one block of 32 lane values and leaves the other blocks.
R66, R67, R82, R123: with poison met, every computed block is a poison block, and a result of lanes is poison in whole. -/
def Obligations.BlockArithmetic : Prop :=
  (
  BlkRule2 .badd (fun a b => dyAdd a b) ∧ BlkRule2 .bsub (fun a b => dyAdd a (-b.1, b.2)) ∧
  BlkRule2 .bmul (fun a b => (a.1 * b.1, a.2 + b.2)) ∧
  BlkRule2 .bmin (fun a b => if dyLt b.1 b.2 a.1 a.2 then b else a) ∧ BlkRule2 .bmax (fun a b => if dyLt a.1 a.2 b.1 b.2 then b else a) ∧
  BlkRule1 .bneg (fun a => (-a.1, a.2)) ∧ (∀ k : BitVec 10, BlkRule1 (fun p d a ty rnd l => .bscale p d a k ty rnd l) fun a => (a.1, a.2 + k.toInt)) ∧
  BlkRule1 .bnorm (fun a => a) ∧
  ∀ p d a ty ty2 rnd part l s x c, ty ∈ blockTypes → ty2 ∈ blockTypes → s.executes p → readsA s.core a x c →
    let m := min ty2.blocks ty.blocks
    let lo := BitVec.toNat part * m
    let keep (j : Nat) : Bool := decide (ty2.blocks < ty.blocks) && !(decide (lo ≤ j) && decide (j < lo + m))
    let src (j : Nat) : Nat := if ty2.blocks > ty.blocks then lo + j else if ty2.blocks < ty.blocks then j - lo else j
    BlocksPoisoned (.brefmt p d a ty ty2 rnd part l) s c d l ty keep (scalarPoison c rnd.srcs ++ wholePoison [x])
      (fun k => x.blkPoison ty2 (c.ownOrigin .fmt) (src k)) ∧
    (seedClean c.regs rnd → BlocksClean c.regs (c.regs.rdVV d) l ty keep [x] (fun k => x.blkPoison ty2 (c.ownOrigin .fmt) (src k)) →
    BlockResult (.brefmt p d a ty ty2 rnd part l) s c d l ty keep (rnd.mode (c.regs.rdS rnd.seed)) fun k => (elements x ty2 (src k)).map dyX)) ∧
  (
  (∀ p d a ty ty2 rnd part l s x c, ty ∈ [Ty.f16, .bf16, .f32] → ty2 ∈ blockTypes → s.executes p → readsA s.core a x c →
    let at' (j : Nat) := BitVec.toNat part * ty.lanes + j
    let read (k : Nat) : Bool := (List.range ty.lanes).any fun j => c.regs.active l j && decide (at' j / 32 = k)
    PoisonsAll (.btof p d a ty ty2 rnd part l) s c d (scalarPoison c rnd.srcs ++ wholePoison [x] ++
      ((List.range ty2.blocks).flatMap fun k => if read k then x.blkPoison ty2 (c.ownOrigin .fmt) k else []) ++
      keptOrgs c.regs d l ty.width ty.lanes everyLane) ∧
    (seedClean c.regs rnd → LanesClean c.regs (c.regs.rdVV d) l ty.width ty.lanes everyLane [x]
      (fun j => at' j < 32 * ty2.blocks → x.blkPoison ty2 (c.ownOrigin .fmt) (at' j / 32) = []) →
    LaneResult (.btof p d a ty ty2 rnd part l) s c d l ty.width ty.lanes everyLane fun j =>
      if at' j < 32 * ty2.blocks then
        let v := (elements x ty2 (at' j / 32)).getD (at' j % 32) (0, 0)
        ty.round (rnd.mode (c.regs.rdS rnd.seed) j) false v.1 v.2
      else ⟨0, 0⟩)) ∧
  (∀ p d a b ty ty2 rnd k s, ty ∈ blockTypes → ty2 ∈ [Ty.f16, .bf16, .f32] → k.toNat < ty.blocks → s.executes p →
    let met := scalarPoison s.core rnd.srcs ++ (s.regs.rdVV a).poisonAll ++ if ty2 = .f32 then (s.regs.rdVV b).poisonAll else []
    met ≠ [] → ∃ o z, orgWinner met = some o ∧ exec (.bfromf p d a b ty ty2 rnd k) s = .next (s.putV s.core d z fPSN) ∧
      OneBlock ty (s.regs.rdVV d) z k.toNat (poisonBlk ty o)) ∧
  ∀ p d a b ty ty2 rnd k s, ty ∈ blockTypes → ty2 ∈ [Ty.f16, .bf16, .f32] → k.toNat < ty.blocks → s.executes p → seedClean s.regs rnd →
    let x := s.regs.rdVV a
    let y := s.regs.rdVV b
    let old := s.regs.rdVV d
    x.poisonAll = [] → (ty2 = .f32 → y.poisonAll = []) →
    let v (j : Nat) : FVal := ty2.unpack (if ty2 = .f32 then (if j < 16 then x.lane 32 j else y.lane 32 (j - 16)) else x.lane 16 j)
    let res := s.core.blockResult ty (fun i => rnd.mode (s.regs.rdS rnd.seed) (32 * k.toNat + i)) ((List.range 32).map fun j => (v j).toX)
    ∃ z : VVal, exec (.bfromf p d a b ty ty2 rnd k) s = .next (s.putV s.core d z res.2) ∧
      (∀ j, j < ty.blocks → z.blk ty j = if j = k.toNat then res.1 else old.blk ty j) ∧
      ∀ j, ty.blocks ≤ j → j < 4 → sideHdr z.side j = sideHdr old.side j)

/-- R54, R141, R92: BGETH reads a header as it stands; BSETH replaces one header, its two low bits zero, or poisons D from a poisoned scalar. That PSN is set where BGETH reads a poisoned register, and where BSETH reads or makes a poison block, is the model's reading (log 11).
R67, R124, R125, R147: FQPOP moves the head entry into a register, FQDROP drops it, FQMARK tests its marks and leaves it.
R124, R125, R230: an instruction that names an empty feed queue waits with nothing written. -/
def Obligations.BlockHeadersAndFeeds : Prop :=
  (
  (∀ p d a k s x c, s.executes p → readsA s.core a x c →
    exec (.bgeth p d a k) s = .next (s.setCore (c.modRegs fun r =>
      ((r.wrS d ((sideHdr x.side k.toNat).setWidth 64) false).flag (if x.poisoned then fPSN else 0)).adv))) ∧
  ∀ p d a k s, s.executes p →
    let old := s.regs.rdVV d
    (s.regs.psn a = true → exec (.bseth p d a k) s = .next (s.putV s.core d (poisonReg (s.core.ownOrigin .spsn)) fPSN)) ∧
    (s.regs.psn a = false → ∃ z : VVal, z.data = old.data ∧
      (∀ j, j < 4 → sideHdr z.side j = if j = k.toNat then (s.regs.rdS a).setWidth 32 &&& 0xFFFFFFFC else sideHdr old.side j) ∧
      exec (.bseth p d a k) s = .next (s.putV s.core d z (if old.poisoned || z.poisoned then fPSN else 0)))) ∧
  (
  (∀ p q s x c, s.executes p → readsA s.core (.fq q) x c →
    (∀ d, exec (.fqpop p d q) s = .next (s.putV c d x (if x.poisoned then fPSN else 0))) ∧ exec (.fqdrop p q) s = .next (s.setCore c.adv)) ∧
  ∀ p gd q msk s e es, s.executes p → (s.core.ctx.feed q).live = e :: es →
    ∃ r, s.regs.condition gd (decide (e.marks &&& msk ≠ 0)) r ∧ exec (.fqmark p gd q msk) s = .next (s.withRegs r)) ∧
  (
  ∀ p d b e ty ty2 rm rnd k n part m h gd msk q sh l s, s.executes p → (s.core.ctx.feed q).live = [] →
    let a := VSrc.fq q
    ∀ i ∈ [Instr.fqpop p d q, .fqdrop p q, .fqmark p gd q msk,
      .vaddI p d a b ty l, .vsubI p d a b ty l, .vmulI p d a b ty l, .vmulh p d a b ty l, .vminI p d a b ty l, .vmaxI p d a b ty l,
      .vand p d a b ty l, .vor p d a b ty l, .vxor p d a b ty l, .vshl p d a sh ty l, .vshr p d a sh ty l, .vsra p d a sh ty l,
      .vabsI p d a ty l, .vnegI p d a ty l, .vadds p d a b ty l, .vsubs p d a b ty l,
      .vaddF p d a b ty rm l, .vsubF p d a b ty rm l, .vmulF p d a b ty rm l, .vminF p d a b ty l, .vmaxF p d a b ty l, .vabsF p d a ty l,
      .vnegF p d a ty l, .vfma p d a b e ty rm l, .vfms p d a b e ty rm l, .vfnma p d a b e ty rm l, .vdot p d a b e ty l,
      .vrcp p d a l, .vrsq p d a l, .vexp2 p d a l, .vlog2 p d a l,
      .vcmpEq p m a b ty l, .vcmpNe p m a b ty l, .vcmpLt p m a b ty l, .vcmpGe p m a b ty l, .vcmpLo p m a b ty l, .vcmpHs p m a b ty l,
      .vcmpEqF p m a b ty l, .vcmpLtF p m a b ty l, .vcmpLeF p m a b ty l, .vcmpUnF p m a b ty l,
      .vperm p d a b ty l, .vslide p d a b k ty l, .vslided p d a b k ty l, .vzip p d a b h ty l, .vunzip p d a b h ty l,
      .vext p d a k ty, .vcomp p d a ty l, .vexpd p d a ty l,
      .vredAdd p d a ty rm m, .vredMin p d a ty m, .vredMax p d a ty m, .vredAnd p d a ty m, .vredOr p d a ty m, .vredXor p d a ty m,
      .vcvt p d a ty ty2 rnd part l, .badd p d a b ty rnd l, .bsub p d a b ty rnd l, .bmul p d a b ty rnd l, .bmin p d a b ty rnd l,
      .bmax p d a b ty rnd l, .bneg p d a ty rnd l, .bscale p d a k ty rnd l, .bnorm p d a ty rnd l, .btof p d a ty ty2 rnd part l,
      .brefmt p d a ty ty2 rnd part l, .bgeth p d a n],
      exec i s = .next (s.feedWait q))

/-- Where a unit of the core wrote lines since the context last issued, each lane or block access of VLDX and BLD falls before or after each of them (R22, R144, R145): which, is a free choice of the model (log 6). VSTX and BST make all their accesses; those that a unit may still come before are listed in `late` (log 6).
R143, R144, R122, R123: VLD loads the bytes of a line and VLDX 16 gathered words, under the mask; a mark in an active lane poisons D with cause LSPSN.
R143, R144, R112, R146: VST stores the active bytes of a line, and VSTX 16 scattered words in ascending order of lane; every other byte is as before. Poison in an active lane marks the words that are written, and clean data clears the words that it writes whole.
R145, R112, R146: BLD loads data and headers from their two places, a marked block as poison of cause LSPSN; that a poison block from unmarked memory sets no flag is the model's reading (log 11). BST stores both as they stand and clears the marks of the words that it writes whole. -/
def Obligations.VectorMemory : Prop :=
  (
  (∀ p d a k l s, s.executes p → s.clean [a] →
    let ea := s.ea10 a 64 k
    s.readable ea 64 → ea % 64 = 0 →
    (LanesClean s.regs (s.regs.rdVV d) l 8 64 everyLane [] (fun i => s.mark (ea.toNat + i) = false) →
      LaneResult (.vld p d a k l) s s.core d l 8 64 everyLane fun i => ⟨(s.byte (ea.toNat + i)).setWidth 64, 0⟩) ∧
    (LanesClean s.regs (s.regs.rdVV d) l 8 64 everyLane [] (fun _ => True) →
      (∃ i, i < 64 ∧ s.regs.active l i = true ∧ s.mark (ea.toNat + i) = true) →
      exec (.vld p d a k l) s = .next (s.putV s.core d (poisonReg (s.core.ownOrigin .lspsn)) fPSN))) ∧
  ∀ p d a b l s, s.executes p → s.clean [a] →
    let pos (i : Nat) : Int := (s.regs.rdS a).toNat + ((s.regs.rdVV b).lane 32 i).toNat
    (s.regs.rdVV b).whole = false →
    (∀ i, i < 16 → s.regs.active l i = true → (s.regs.rdVV b).poisonAt (32 * i) 32 = [] ∧ s.readable (pos i) 4 ∧ pos i % 4 = 0) →
    ∃ k : Nat → Nat, (∀ i, k i ≤ s.core.beside.length) ∧
    (LanesClean s.regs (s.regs.rdVV d) l 32 16 everyLane [] (fun i => s.markBefore (k i) (pos i).toNat 4 = false) →
      LaneResult (.vldx p d a b l) s s.core d l 32 16 everyLane fun i => ⟨BitVec.ofNat 64 (s.numberBefore (k i) (pos i).toNat 4), 0⟩) ∧
    (LanesClean s.regs (s.regs.rdVV d) l 32 16 everyLane [] (fun _ => True) →
      (∃ i, i < 16 ∧ s.regs.active l i = true ∧ s.markBefore (k i) (pos i).toNat 4 = true) →
      exec (.vldx p d a b l) s = .next (s.putV s.core d (poisonReg (s.core.ownOrigin .lspsn)) fPSN))) ∧
  (
  (∀ p d a k m s, s.executes p → s.clean [a] →
    let ea := s.ea10 a 64 k
    let e := ea.toNat
    let x := s.regs.rdVV d
    let act (i : Nat) : Bool := (s.regs.rdM m).getLsbD i
    let bad : Bool := x.whole || (List.range 64).any fun i => act i && !(x.poisonAt (8 * i) 8).isEmpty
    let psn := if bad then fPSN else 0
    s.writable ea 64 → ea % 64 = 0 →
    (discarded ea ∨ (∀ i, i < 64 → act i = false) → exec (.vst p d a k m) s = .next (s.withRegs ((s.regs.flag psn).adv))) ∧
    (¬ discarded ea → (∃ i, i < 64 ∧ act i = true) → ∃ t, exec (.vst p d a k m) s = .next t ∧ StoresOnly s t 1 64 ∧
      t.regs = ((s.roomed 1 64).regs.flag psn).adv ∧
      StoredMap s t 1 64 [(e, fun y => if e ≤ y ∧ y < e + 64 ∧ act (y - e) = true then some (byteOf x.data (y - e)) else none)] ∧
      ∀ y, t.mark y =
        let line := decide (e / 64 = y / 64)
        let w := y / 8 * 8 - e
        if bad then (line && (List.range 8).any fun i => act (w + i)) || s.mark y
        else s.mark y && !(line && (List.range 8).all fun i => act (w + i)))) ∧
  ∀ p d a b m s, s.executes p → s.clean [a] →
    let pos (i : Nat) : Int := (s.regs.rdS a).toNat + ((s.regs.rdVV b).lane 32 i).toNat
    let x := s.regs.rdVV d
    let act := (List.range 16).filter fun i => (s.regs.rdM m).getLsbD i
    let live := act.filter fun i => !discards (pos i).toNat
    let bad : Bool := x.whole || act.any fun i => !(x.poisonAt (32 * i) 32).isEmpty
    (s.regs.rdVV b).whole = false →
    (∀ i ∈ act, (s.regs.rdVV b).poisonAt (32 * i) 32 = [] ∧ s.writable (pos i) 4 ∧ pos i % 4 = 0) →
    ∃ t, exec (.vstx p d a b m) s = .next t ∧ StoresOnly s t live.length (8 * live.length) ∧
      t.regs = ((s.roomed live.length (8 * live.length)).regs.flag (if bad then fPSN else 0)).adv ∧
      StoredMap s t live.length (8 * live.length) (live.map fun i =>
        ((pos i).toNat, fun y => if (pos i).toNat ≤ y ∧ y < (pos i).toNat + 4 then some (byteOf (x.lane 32 i) (y - (pos i).toNat)) else none)) ∧
      (∀ e ∈ t.core.late, ∃ i ∈ live, e.addr = (pos i).toNat) ∧
      ∀ y, t.mark y = (s.mark y || (bad && live.any fun i => (pos i).toNat / 8 == y / 8))) ∧
  (
  ∀ p d a b ty k s, ty ∈ blockTypes → s.executes p → s.clean [a, b] →
    let nb := ty.blocks
    let size := ty.blockBits / 8
    let ma : Int := s.ea10 a 64 k
    let ha : Int := s.ea10 b (4 * nb) k
    let m := ma.toNat
    let h := ha.toNat
    ma % 64 = 0 → ha % ((4 * nb : Nat) : Int) = 0 →
    (s.readable ma 64 → s.readable ha (4 * nb) →
      ∃ k0 k1, k0 ≤ s.core.beside.length ∧ k1 ≤ s.core.beside.length ∧
      let raw : VVal := ⟨BitVec.ofNat 512 (s.numberBefore k0 m 64), BitVec.ofNat 128 (s.numberBefore k1 h (4 * nb)) &&& 0xFFFFFFFCFFFFFFFCFFFFFFFCFFFFFFFC⟩
      let hit (j : Nat) : Bool := s.markBefore k1 (h + 4 * j) 4 || s.markBefore k0 (m + size * j) size
      ∃ z : VVal, exec (.bld p d a b ty k) s = .next (s.putV s.core d z (if (List.range nb).any hit then fPSN else 0)) ∧
        (∀ j, nb ≤ j → j < 4 → sideHdr z.side j = 0) ∧
        ∀ j, j < nb → z.blk ty j =
          if hit j then
            poisonBlk ty (match (raw.blk ty j).read ty with
              | .poison o => orgMin (s.core.ownOrigin .lspsn) o
              | _ => s.core.ownOrigin .lspsn)
          else raw.blk ty j) ∧
    (s.writable ma 64 → s.writable ha (4 * nb) →
      let x := s.regs.rdVV d
      let keepM := !discards m
      let keepH := !discards h
      let hb := (h + 4 * nb + 7) / 8 * 8 - h / 8 * 8
      let n := (if keepM then 1 else 0) + (if keepH then 1 else 0)
      let bytes := (if keepM then 64 else 0) + (if keepH then hb else 0)
      ∃ t, exec (.bst p d a b ty k) s = .next t ∧ StoresOnly s t n bytes ∧
        t.regs = ((s.roomed n bytes).regs.flag (if x.poisoned then fPSN else 0)).adv ∧
        StoredMap s t n bytes
          ((if keepM then [(m, fun y => if m ≤ y ∧ y < m + 64 then some (byteOf x.data (y - m)) else none)] else []) ++
            if keepH then [(h, fun y => if h ≤ y ∧ y < h + 4 * nb then some (byteOf x.side (y - h)) else none)] else []) ∧
        (∀ e ∈ t.core.late, e.addr = m ∨ e.addr = h) ∧
        ∀ y, t.mark y = (s.mark y && !(keepM && decide (m / 64 = y / 64)) &&
          !(keepH && decide (h ≤ y / 8 * 8) && decide (y / 8 * 8 + 8 ≤ h + 4 * nb)))))

/-- R60: a tile update stops at the smallest scale at which every sum fits, or at 32,767, where the sums are clamped. -/
def Obligations.TileUpdateIsLeastScale : Prop :=
∀ (n : List Int) (t : Int) (sums : List (Int × Int)), n.length = sums.length → t ≤ 32767 →
    let r := tileUpdate n t sums
    let sum (tn : Int) (i : Nat) : Int :=
      let c := sums.getD i (0, 0)
      roundInt (n.getD i 0) (t - tn) .rne + (if c.1 = 0 then 0 else roundInt c.1 (c.2 - tn) .rne)
    let fits (tn : Int) : Prop := ∀ i, i < n.length → -2 ^ 47 ≤ sum tn i ∧ sum tn i ≤ 2 ^ 47 - 1
    t ≤ r.t ∧ r.t ≤ 32767 ∧ (∀ tn, t ≤ tn → tn < r.t → ¬ fits tn) ∧ r.n.length = n.length ∧
    (fits r.t → ∀ i, i < n.length → r.n.getD i 0 = sum r.t i) ∧
    (¬ fits r.t → r.t = 32767 ∧ ∀ i, i < n.length → r.n.getD i 0 = max (-(2 ^ 47 - 1)) (min (sum r.t i) (2 ^ 47 - 1)))

/-- R149 to R153, R155: an MMA that the checks admit is put in flight with its operands as they stand, also with a release request that is not yet due, and its tile write updates the accumulator and raises its flags in ACCST and ASTAT.
R152, R165, R325: the traps in their order: NOLIC without the licence; LREV past the deadline of a release request, with the licence given up before the handler; BLTAG, ACMD, PSNUSE, BADADDR and MISALN.
R164: one that names the accumulator of a tile on its way to the core waits until the tile has come, and then holds the licence. -/
def Obligations.MatrixMultiply : Prop :=
(∀ p d a b c ty h bl s, ty ∈ latchTypes → s.executes p →
    let here := ∃ m, s.quern.hand = some m ∧ m.toRunner = isRunner s.cur ∧ m.dst = d
    ∀ u : State, (here ∧ u = s.migrate (quernOf s.cur)) ∨ (¬ here ∧ s.licensed ∧ u = s) → u.core.mma = none →
    let n := if ty ∈ blockTypes then ty.blocks else 1
    let size := if ty ∈ blockTypes then 4 * ty.width else 32
    let st := if c = 0 then n else (u.regs.rdS c).toNat % 2 ^ 24
    let ma := (u.regs.rdS a).toNat
    let ha := (u.regs.rdS b).toNat
    let mk (neg : Bool) : Instr := if neg then .mman p d a b c ty h bl else .mma p d a b c ty h bl
    let traps (t : Trap) : Prop := ∀ neg, exec (mk neg) s = .next (u.take t)
    let tagged : Prop := (u.core.latchAt bl).tag = latchTag ty
    let mode : Prop := (u.core.accAt d).fp32 = true ↔ ty ∉ blockTypes
    let inA : Prop := ma + (31 * st + n) * size ≤ 0xF0000
    let inB : Prop := ty ∈ blockTypes → ha + (31 * st + n) * 4 ≤ 0xF0000
    (∀ r, u.quern.rreq = some r → r.2 < u.cycle →
      let q := u.quern.stamp u.cycle
      let twin := !isRunner u.cur
      ((q.req twin).isSome = true → ∀ neg, exec (mk neg) s =
        .next (((u.setCore u.core).setQuern { q.setReq twin none with holder := some twin, hand := none, grant := u.cycle }).take ⟨.lrev, r.1⟩)) ∧
      (q.req twin = none → ∀ neg, exec (mk neg) s =
        .next ((((u.setCore u.core).setQuern { q with holder := none, rreq := none }).addPool (fieldOf u.cur) 1).take ⟨.lrev, r.1⟩))) ∧
    ((∀ r, u.quern.rreq = some r → u.cycle ≤ r.2) →
      (¬ tagged → traps ⟨.bltag, 0⟩) ∧ (tagged → ¬ mode → traps ⟨.acmd, 0⟩) ∧
      (tagged → mode →
        (∀ pre r post, [a, b, c] = pre ++ r :: post → u.clean pre → u.regs.psn r = true → traps ⟨.psnuse, r.setWidth 64⟩) ∧
        (u.clean [a, b, c] →
          (¬ inA → traps ⟨.badaddr, u.regs.rdS a⟩) ∧ (inA → ¬ inB → traps ⟨.badaddr, u.regs.rdS b⟩) ∧
          (inA → inB → ma % size ≠ 0 → traps ⟨.misaln, u.regs.rdS a⟩) ∧
          (inA → inB → ma % size = 0 → ty ∈ blockTypes → ha % 4 ≠ 0 → traps ⟨.misaln, u.regs.rdS b⟩) ∧
          (inA → inB → ma % size = 0 → (ty ∈ blockTypes → ha % 4 = 0) → ∀ neg, ∃ job : MmaJob,
            exec (mk neg) s = .next (u.setCore { (u.core.keepAcc d).adv with mma := some job }) ∧
            job.ctx = u.core.run ∧ job.acc = d ∧ job.neg = neg ∧ job.ty = ty ∧ job.half = (h == 1) ∧ job.hit = none ∧
            job.units.length = 32 * n ∧ job.cols.length = 32 * n ∧
            ∀ i k, i < 32 → k < n →
              job.units[i * n + k]? = some (u.core.unit ty ma ha (i * st + k)) ∧
              job.cols[i * n + k]? = some (blkTaken ((u.core.latchAt bl).blk ty i k) ty (u.core.ownOrigin .fmt))))))) ∧
  (∀ k s m, (s.coreAt k).mma = some m → m.hit = none →
    let c := s.coreAt k
    let r := m.update (c.accAt m.acc)
    ∃ c', exec (.mmaTileWrite k) s = .next (s.setCoreAt k c') ∧ c'.mma = none ∧
      (∀ j, c'.accAt j = if j = m.acc then r.1.poison m.orgs r.2 else c.accAt j) ∧
      (∀ j, c'.ctxAt j = if j = m.ctx then { c.ctxAt j with regs := (c.ctxAt j).regs.flag (if m.orgs = [] then r.2 else r.2 ||| fPSN) } else c.ctxAt j) ∧
      c' = { c with acc := c'.acc, ctxs := c'.ctxs, mma := none }) ∧
  ∀ p d a b c ty h bl s, s.executes p → ¬ s.licensed → (∀ m, s.quern.hand = some m → ¬ (m.toRunner = isRunner s.cur ∧ m.dst = d)) →
    exec (.mma p d a b c ty h bl) s = .next (s.take ⟨.nolic, 0⟩) ∧ exec (.mman p d a b c ty h bl) s = .next (s.take ⟨.nolic, 0⟩)

/-- R158 to R163: the accumulator instructions, element by element; poison goes into the tile with its origin, and out of it into the result (R66 to R69, R160 to R163).
R166 to R168: TWR reads a twin-window register as the cycle began; TWW and XCHT write it and close the window. That a write of clean data alone sets no PSN is the model's reading (log 11; R167 says that any of these cases sets it).
R150, R157: BLLD fills a latch from local store, BLMV one column from a register, and BLCLR empties it; marked words and poison blocks become poison of the latch. -/
def Obligations.AccumulatorsAndLatches : Prop :=
  (
  ∀ p s, s.executes p → s.settled →
    let acc (k : BitVec 2) := s.core.accAt k
    let next := { s.regs with pc := s.regs.pc + 8 }
    (∀ d t, AccResult (.accz p d t) s d ⟨Vector.replicate 1024 0, if (acc d).fp32 then 0 else t.signExtend 16, (acc d).fp32, 0, false, 0⟩ next) ∧
    (∀ d m, AccResult (.accmode p d m) s d ⟨Vector.replicate 1024 0, 0, m == 1, 0, false, 0⟩ next) ∧
    (∀ d a, exec (.accswp p d a) s = .next (s.setCore (if d = a then s.core else (s.core.putAcc d (acc a)).putAcc a (acc d)).adv)) ∧
    (∀ d a row q ty rnd, ty ∈ [Ty.i64, .f32, .f16, .bf16] → (BitVec.toNat q + 1) * ty.lanes ≤ 32 →
      (let met := (if orgCause (acc a).org ≠ 0 ∨ (acc a).ptl = true then [(acc a).org] else []) ++ scalarPoison s.core rnd.srcs
       met ≠ [] → ∃ o, orgWinner met = some o ∧
        exec (.accrd p d a row q ty rnd) s = .next (s.setCore ((s.raised a fPSN).modRegs fun r => ((r.wrVV d (poisonReg o)).flag fPSN).adv))) ∧
      (orgCause (acc a).org = 0 → (acc a).ptl = false → seedClean s.regs rnd →
        let x (i : Nat) := (acc a).elem row.toNat (ty.lanes * q.toNat + i)
        let v (i : Nat) : FRes := (acc a).toFormat ty (rnd.mode (s.regs.rdS rnd.seed) i) (x i)
        ∃ data fl, exec (.accrd p d a row q ty rnd) s = .next (s.setCore ((s.raised a fl).modRegs fun r => ((r.wrVV d ⟨data, 0⟩).flag fl).adv)) ∧
          (∀ i, i < ty.lanes → VVal.lane ⟨data, 0⟩ ty.width i = BitVec.ofNat 64 ((v i).bits.toNat % 2 ^ ty.width)) ∧
          ∀ b, fl.getLsbD b = (List.range ty.lanes).any fun i => (v i).flags.getLsbD b)) ∧
    (∀ d a row q ty rnd, ty ∈ blockTypes → BitVec.toNat q < ty.blocks →
      let met := (if orgCause (acc a).org ≠ 0 ∨ (acc a).ptl = true then [(acc a).org] else []) ++ scalarPoison s.core rnd.srcs
      met ≠ [] → ∃ o, ∃ z : VVal, orgWinner met = some o ∧
        exec (.accexp p d a row q ty rnd) s = .next (s.setCore ((s.raised a fPSN).modRegs fun r => ((r.wrVV d z).flag fPSN).adv)) ∧
        OneBlock ty (s.regs.rdVV d) z q.toNat (poisonBlk ty o)) ∧
    (∀ d a row q ty rnd, ty ∈ blockTypes → BitVec.toNat q < ty.blocks → seedClean s.regs rnd → orgCause (acc a).org = 0 → (acc a).ptl = false →
      let res := s.core.blockResult ty (fun i => rnd.mode (s.regs.rdS rnd.seed) (32 * q.toNat + i))
        ((List.range 32).map fun j => (acc a).xval ((acc a).elem row.toNat j))
      ∃ z : VVal, exec (.accexp p d a row q ty rnd) s = .next (s.setCore ((s.raised a res.2).modRegs fun r => ((r.wrVV d z).flag res.2).adv)) ∧
        OneBlock ty (s.regs.rdVV d) z q.toNat res.1) ∧
    (∀ d v row q ty, ty ∈ [Ty.i64, .f32] → (BitVec.toNat q + 1) * ty.lanes ≤ 32 →
      ((acc d).fp32 = decide (ty = .i64) → exec (.accwr p d v row q ty) s = .next (s.take ⟨.acmd, 0⟩)) ∧
      ((acc d).fp32 ≠ decide (ty = .i64) → (s.regs.rdVV v).poisonAll ≠ [] →
        ∃ a', AccResult (.accwr p d v row q ty) s d a' ((s.regs.flag fPSN).adv) ∧
          a' = { acc d with n := a'.n, org := (s.regs.rdVV v).poisonAll.foldl orgMerge (acc d).org, flags := (acc d).flags ||| fPSN } ∧
          ∀ i j, i < 32 → j < 32 → a'.elem i j =
            if i = row.toNat ∧ ty.lanes * q.toNat ≤ j ∧ j < ty.lanes * q.toNat + ty.lanes then 0 else (acc d).elem i j) ∧
      ((acc d).fp32 ≠ decide (ty = .i64) → (s.regs.rdVV v).poisonAll = [] →
        let lane (i : Nat) := (s.regs.rdVV v).lane ty.width i
        let fits (i : Nat) : Bool := decide (-2 ^ 47 ≤ (lane i).toInt) && decide ((lane i).toInt ≤ 2 ^ 47 - 1)
        let fl := if ty = .i64 ∧ ∃ i, i < ty.lanes ∧ fits i = false then fSAT else 0
        ∃ a', AccResult (.accwr p d v row q ty) s d a' ((s.regs.flag fl).adv) ∧ a' = { acc d with n := a'.n, flags := (acc d).flags ||| fl } ∧
          ∀ i j, i < 32 → j < 32 → a'.elem i j =
            if i = row.toNat ∧ ty.lanes * q.toNat ≤ j ∧ j < ty.lanes * q.toNat + ty.lanes then
              let x := lane (j - ty.lanes * q.toNat)
              if ty = .i64 then BitVec.ofInt 48 (max (-2 ^ 47) (min x.toInt (2 ^ 47 - 1))) else x.setWidth 48
            else (acc d).elem i j)) ∧
    (∀ d a, (acc d).fp32 = false → s.regs.psn a = true →
      AccResult (.accsc p d a) s d { acc d with org := orgMerge (acc d).org (s.core.ownOrigin .spsn), flags := (acc d).flags ||| fPSN }
        ((s.regs.flag fPSN).adv)) ∧
    (∀ d a, (acc d).fp32 = false → s.regs.psn a = false →
      let t' : BitVec 16 := (s.regs.rdS a).setWidth 16
      let sh := (acc d).t.toInt - t'.toInt
      let exact (x : BitVec 48) : Int := x.toInt * 2 ^ sh.toNat
      ∃ a' fl, AccResult (.accsc p d a) s d a' ((s.regs.flag fl).adv) ∧ a' = { acc d with n := a'.n, t := t', flags := (acc d).flags ||| fl } ∧
        (∀ k, (h : k < 1024) → a'.n[k] = BitVec.ofInt 48 (if sh ≤ 0 then roundInt ((acc d).n[k]).toInt sh .rne
          else max (-(2 ^ 47 - 1)) (min (exact ((acc d).n[k])) (2 ^ 47 - 1)))) ∧
        (fl &&& ~~~(fINX ||| fRNM ||| fSAT) = 0) ∧
        (fl &&& fRNM ≠ 0 ↔ sh < 0) ∧ (fl &&& fINX ≠ 0 ↔ sh ≤ 0 ∧ ∃ x ∈ (acc d).n.toList, x.toInt % 2 ^ (-sh).toNat ≠ 0) ∧
        (fl &&& fSAT ≠ 0 ↔ 0 < sh ∧ ∃ x ∈ (acc d).n.toList, exact x < -(2 ^ 47 - 1) ∨ 2 ^ 47 - 1 < exact x)) ∧
    (∀ d a, (acc d).fp32 = true → exec (.accsc p d a) s = .next (s.take ⟨.acmd, 0⟩) ∧ exec (.accscFit p d) s = .next (s.take ⟨.acmd, 0⟩)) ∧
    (∀ d, (acc d).fp32 = false →
      ((∀ x ∈ (acc d).n.toList, x = 0) → exec (.accscFit p d) s = .next (s.setCore s.core.adv)) ∧
      ((∃ x ∈ (acc d).n.toList, x ≠ 0) → ∃ k a',
        let fits (k : Nat) : Prop := (∀ x ∈ (acc d).n.toList, -2 ^ 47 ≤ x.toInt * 2 ^ k ∧ x.toInt * 2 ^ k ≤ 2 ^ 47 - 1) ∧ -32768 ≤ (acc d).t.toInt - k
        AccResult (.accscFit p d) s d a' next ∧ fits k ∧ ¬ fits (k + 1) ∧
          a' = { acc d with n := a'.n, t := BitVec.ofInt 16 ((acc d).t.toInt - k) } ∧ ∀ j, (h : j < 1024) → (a'.n[j]).toInt = ((acc d).n[j]).toInt * 2 ^ k)) ∧
    (∀ d a row q,
      (s.core.prv = false → exec (.accraw p d a row q) s = .next (s.take ⟨.priv, 0⟩) ∧ exec (.accrawOrg p d a) s = .next (s.take ⟨.priv, 0⟩)) ∧
      (s.core.prv = true →
        (∃ data, exec (.accraw p d a row q) s = .next (s.putV s.core d ⟨data, 0⟩ 0) ∧ ∀ i, i < 8 →
          VVal.lane ⟨data, 0⟩ 64 i =
            let x := (acc a).elem row.toNat (8 * q.toNat + i)
            if (acc a).fp32 then (x.setWidth 32).setWidth 64 else x.signExtend 64) ∧
        exec (.accrawOrg p d a) s = .next (s.putV s.core d ⟨((acc a).stWord ++ (acc a).org).setWidth 512, 0⟩ 0)))) ∧
  (
  ∀ p s, s.executes p →
    (∀ d k x bad, TwinValue s k x bad →
      let v : VVal := if bad then poisonReg (x.setWidth 128) else ⟨x, 0⟩
      exec (.twr p d k) s = .next (s.putV s.core d v (if bad then fPSN else 0))) ∧
    (∀ k a, ∃ t, TwinWritten s t k (s.regs.rdVV a) ∧ exec (.tww p k a) s =
      .next (t.setCore (t.core.modRegs fun r => (r.flag (if (s.regs.rdVV a).poisonAll = [] then 0 else fPSN)).adv).commit)) ∧
    ∀ d k x bad, TwinValue s k x bad →
      let v : VVal := if bad then poisonReg (x.setWidth 128) else ⟨x, 0⟩
      let psn := bad || !(s.regs.rdVV d).poisonAll.isEmpty
      ∃ t, TwinWritten s t k (s.regs.rdVV d) ∧ exec (.xcht p d k) s =
        .next (t.setCore (t.core.modRegs fun r => ((r.wrVV d v).flag (if psn then fPSN else 0)).adv).commit)) ∧
  (
  ∀ p s, s.executes p →
    (∀ d, exec (.blclr p d) s = .next (s.setCore (s.core.putLatch d ⟨0, 0, 0⟩).adv)) ∧
    (∀ d a b ty, ty ∈ latchTypes → s.clean [a, b] →
      let blk : Prop := ty ∈ blockTypes
      let m := (s.regs.rdS a).toNat
      let h := (s.regs.rdS b).toNat
      let len := if ty ∈ blockTypes then 2048 else 1024
      let n := 32 * ty.blocks
      s.readable m len → m % 64 = 0 → (blk → s.readable h (4 * n) ∧ h % 64 = 0) →
      ∃ k : Nat → Nat, (∀ i, k i ≤ s.core.beside.length) ∧
      let bytes (i a n : Nat) : List Byte := (List.range n).map fun x => s.byteBefore (k (i + x / 64)) (a + x)
      let size := ty.blockBits / 8
      let raw : Latch := ⟨latchTag ty, BitVec.ofNat 16384 (leNat (bytes 0 m len)), if ty ∈ blockTypes then BitVec.ofNat 4096 (leNat (bytes 32 h (4 * n))) else 0⟩
      let hit (j : Nat) : Bool := s.markBefore (k (size * j / 64)) (m + size * j) size || s.markBefore (k (32 + 4 * j / 64)) (h + 4 * j) 4
      let own := s.core.ownOrigin .lspsn
      let poisoned (l : Latch) : Prop := exec (.blld p d a b ty) s = .next (s.setCore ((s.core.putLatch d l).modRegs fun r => (r.flag fPSN).adv)) ∧ l.tag = latchTag ty
      (blk → (∃ j, j < n ∧ hit j = true) → ∃ l, poisoned l ∧ ∀ j kb, j < 32 → kb < ty.blocks →
        l.blk ty j kb = if hit (j * ty.blocks + kb) then poisonBlk ty own else raw.blk ty j kb) ∧
      (¬ blk → (∃ i, i < 16 ∧ s.markBefore (k i) (m + 64 * i) 64 = true) → ∃ l, poisoned l ∧ l.data = raw.data ∧ l.record = some own) ∧
      ((∀ x, x < len → s.markBefore (k (x / 64)) (m + x) 1 = false) → (blk → ∀ x, x < 4 * n → s.markBefore (k (32 + x / 64)) (h + x) 1 = false) →
        exec (.blld p d a b ty) s = .next (s.setCore (s.core.putLatch d
          ⟨latchTag ty, BitVec.ofNat 16384 (leNat (bytes 0 m len)), if ty ∈ blockTypes then BitVec.ofNat 4096 (leNat (bytes 32 h (4 * n))) else 0⟩).adv))) ∧
    (∀ d a j ty, ty ∈ blockTypes → (s.regs.rdVV a).poisonAll = [] →
      ∃ l : Latch, exec (.blmv p d a j ty) s = .next (s.setCore (s.core.putLatch d l).adv) ∧ l.tag = latchTag ty ∧
        ∀ j' k, j' < 32 → k < ty.blocks → l.blk ty j' k = if j' = BitVec.toNat j then (s.regs.rdVV a).blk ty k
          else if (s.core.latchAt d).tag = latchTag ty then (s.core.latchAt d).blk ty j' k else ⟨0, 0⟩) ∧
    (∀ d a j ty, ty ∈ blockTypes → (s.regs.rdVV a).poisonAll ≠ [] →
      let x := s.regs.rdVV a
      ∃ l : Latch, exec (.blmv p d a j ty) s = .next (s.setCore ((s.core.putLatch d l).modRegs fun r => (r.flag fPSN).adv)) ∧ l.tag = latchTag ty ∧
        ∀ j' k, j' < 32 → k < ty.blocks → l.blk ty j' k = if j' = BitVec.toNat j then
            (match x.whole, orgWinner x.wholeOrgs with
              | true, some o => poisonBlk ty o
              | _, _ => x.blk ty k)
          else if (s.core.latchAt d).tag = latchTag ty then (s.core.latchAt d).blk ty j' k else ⟨0, 0⟩) ∧
    (∀ d a j ty, ty ∈ [Ty.bf16, .f16] → (s.regs.rdVV a).poisonAt 0 256 ≠ [] →
      let old : Latch := if (s.core.latchAt d).tag = latchTag ty then s.core.latchAt d else ⟨latchTag ty, 0, 0⟩
      ∃ o, ∃ l : Latch, orgWinner ((s.regs.rdVV a).poisonAt 0 256) = some o ∧
        exec (.blmv p d a j ty) s = .next (s.setCore ((s.core.putLatch d l).modRegs fun r => (r.flag fPSN).adv)) ∧ l.tag = latchTag ty ∧
        l.record = some (match old.record with
          | some w => orgMin w o
          | none => o) ∧
        ∀ j', j' < 32 → l.data.extractLsb' (256 * j') 256 = if j' = BitVec.toNat j then 0 else old.data.extractLsb' (256 * j') 256) ∧
    ∀ d a j ty, ty ∈ [Ty.bf16, .f16] → (s.regs.rdVV a).poisonAt 0 256 = [] →
      ∃ l : Latch, exec (.blmv p d a j ty) s = .next (s.setCore (s.core.putLatch d l).adv) ∧ l.tag = latchTag ty ∧
        ∀ j', j' < 32 → l.data.extractLsb' (256 * j') 256 = if j' = BitVec.toNat j then (s.regs.rdVV a).data.setWidth 256
          else if (s.core.latchAt d).tag = latchTag ty then (s.core.latchAt d).data.extractLsb' (256 * j') 256 else 0)

/-- R164, R165, R311 to R313: acquiring, releasing and handing over the matrix licence, and the landing of a migrating tile. What a core asks sees the licence as it stood before this cycle; one that the twin has given up in this very cycle passes on, with its release request. -/
def Obligations.MatrixLicence : Prop :=
(∀ p gd s, s.executes p →
    let me := isRunner s.cur
    let q := s.quern
    let v := q.view s.cycle
    let free (x : Quern) : Prop := x.holder = none ∧ x.hand = none
    let mine : Quern := { (q.stamp s.cycle).setReq me none with holder := some me, hand := none, grant := s.cycle }
    let c (v : Bool) (u : State) : State := u.setCore (u.core.modRegs fun r => (r.setGuards gd v).adv)
    (s.licensed → exec (.macq p gd) s = .next (c true s)) ∧
    (¬ s.licensed → q.holder = some me → q.hand = none → exec (.macq p gd) s = .next (c false s)) ∧
    (¬ s.licensed → ¬ (q.holder = some me ∧ q.hand = none) →
      let granted : Prop := free v ∧ free q ∧ ¬ v.twinAhead me = true ∧ 0 < (s.fieldAt (fieldOf s.cur)).pool
      (granted → exec (.macq p gd) s = .next (c true ((s.setQuern mine).addPool (fieldOf s.cur) (-1)))) ∧
      (¬ granted → ¬ free v → free q →
        exec (.macq p gd) s = .next (c false ((s.setQuern { mine with rreq := v.rreq }).addPool (fieldOf s.cur) (-1)))) ∧
      (¬ granted → (free v ∨ ¬ free q) → exec (.macq p gd) s = .next (c false (s.setQuern
        (if (q.req me).isSome then q.stamp s.cycle else (q.stamp s.cycle).setReq me (some s.cycle))))))) ∧
  (∀ p s, s.executes p → s.settled →
    let me := isRunner s.cur
    let q := s.quern.stamp s.cycle
    let after (u : State) : State := u.setCore u.core.adv.commit
    let twins : Quern := { q.setReq (!me) none with holder := some (!me), hand := none, grant := s.cycle }
    (s.licensed → (q.req (!me)).isSome = true → exec (.mrel p) s = .next (after ((s.setCore s.core).setQuern twins))) ∧
    (s.licensed → q.req (!me) = none → exec (.mrel p) s =
      .next (after (((s.setCore s.core).setQuern { q with holder := none, rreq := none }).addPool (fieldOf s.cur) 1))) ∧
    (¬ s.licensed → exec (.mrel p) s = .next (after ((s.setCore s.core).setQuern (q.setReq me none)))) ∧
    (s.licensed → exec (.mxfr p) s = .next ((after s).setQuern twins)) ∧
    (∀ a b, s.licensed → exec (.mxfrMigrate p a b) s = .next ((after s).setQuern { q with holder := none, hand := some ⟨!me, a, b⟩ })) ∧
    (∀ a b, ¬ s.licensed → exec (.mxfr p) s = .next (s.take ⟨.nolic, 0⟩) ∧ exec (.mxfrMigrate p a b) s = .next (s.take ⟨.nolic, 0⟩))) ∧
  ∀ q s h, q < 65536 → (s.quernAt q).hand = some h →
    let src := if h.toRunner then q else q + 65536
    let dst := if h.toRunner then q + 65536 else q
    ∃ t, exec (.migrationDone q) s = .next t ∧
      (∀ k, (t.coreAt dst).accAt k = if k = h.dst then (s.coreAt src).accAt h.src else (s.coreAt dst).accAt k) ∧
      (∀ k, (t.coreAt src).accAt k = if k = h.src then ((s.coreAt src).accAt h.src).cleared 0 else (s.coreAt src).accAt k) ∧
      (t.quernAt q).holder = some h.toRunner ∧ (t.quernAt q).hand = none ∧ (t.quernAt q).tw = (s.quernAt q).tw ∧
      ∀ k, k ≠ src → k ≠ dst → t.coreAt k = s.coreAt k

/-- R37 to R40, R169, R170, R172: the sends enter a copy of the payload and the destination in the hold buffer. The REL forms also wait for the context's stream commands. XSEND may not take marked bytes off the module. Each line of a payload is read before or after each line that a unit of the core wrote since it last issued: which, is a free choice of the model (log 6).
R191, R193, R66: PUT, GET and the remote atomics enter their operation with a ticket of kind 1, 2 and 3. A poisoned operand of an atomic goes with it, and sets PSN. -/
def Obligations.OutboundOperations : Prop :=
  (
  ∀ p a b c ch s, s.executes p → (BitVec.toNat ch < 56 ∨ s.core.prv = true) → s.clean [a, b, c] → s.payloadOk b c →
    let w := s.regs.rdS a
    ∃ lag, s.lags lag ∧
    let bs := s.seenBy lag (s.regs.rdS b).toNat (s.regs.rdS c).toNat
    let op (fn : BitVec 6) (rel : Option (BitVec 32)) (dst : Word) (k : Core) : Op := { k.newOp 0xA0 fn with
      kind := 1, ch := ch, dst := dst, rel := rel, opa := s.regs.rdS b, opb := s.regs.rdS c, payload := bs }
    let late (f : Core → Op) (k : Core) : Op := { f k with after := { k.ctx.fence with
      streams := k.ctx.fence.streams ++ (k.streams.filter fun x => x.ctx == k.run && x.kind != .sbar).map Stream.id } }
    (∀ k dst, w.toNat < 2 ^ 32 → NamedFrom s.core (w.setWidth 32) k dst →
      Sends (.send p a b c ch) s k (op 0 (some (w.setWidth 32)) dst) ∧ Sends (.sendRel p a b c ch) s k (late (op 1 (some (w.setWidth 32)) dst))) ∧
    (w.extractLsb' 52 12 = 0 → w.extractLsb' 17 7 = 0 →
      (w.extractLsb' 32 20 = s.core.name.extractLsb' 32 20 ∨ (∀ x ∈ bs, x.2 = false) →
        Sends (.xsend p a b c ch) s s.core (op 2 none w) ∧ Sends (.xsendRel p a b c ch) s s.core (late (op 3 none w))) ∧
      (w.extractLsb' 32 20 ≠ s.core.name.extractLsb' 32 20 → (∃ x ∈ bs, x.2 = true) →
        exec (.xsend p a b c ch) s = .next (s.take ⟨.psnsink, 0⟩) ∧ exec (.xsendRel p a b c ch) s = .next (s.take ⟨.psnsink, 0⟩)))) ∧
  (
  ∀ p d a b c s k dst, s.executes p → s.regs.psn a = false →
    let w := s.regs.rdS a
    let n := (s.regs.rdS c).toNat
    let x := (s.regs.rdS b).toNat
    let at' := (w.setWidth 20).toNat
    let op (fn : BitVec 6) (kind : BitVec 6) (k : Core) : Op := { k.newOp 0xA5 fn with
      kind := kind, dst := dst, rel := some (0#6 ++ w.extractLsb' 32 26), laddr := w.setWidth 20, opa := s.regs.rdS b }
    Endpoint s.core w k dst → ∃ lag, s.lags lag ∧
    (s.clean [b, c] → s.payloadOk b c → (n = 0 ∨ (at' + n ≤ 0xF0000 ∧ at' % 8 = 0)) →
      SendsTicketed (.put p d a b c) s k d 1 (fun k => { op 0 2 k with opb := s.regs.rdS c, payload := s.seenBy lag x n })) ∧
    (s.clean [b, c] → n ≤ 2048 → (n = 0 ∨ (at' + n ≤ 0xF0000 ∧ at' % 8 = 0 ∧ x + n ≤ 0xF0000 ∧ x % 8 = 0)) →
      SendsTicketed (.get p d a b c) s k d 2 (fun k => { op 1 3 k with opb := s.regs.rdS c })) ∧
    ∀ ty, ty ∈ [Ty.i32, .i64, .n32, .n64] → at' + ty.width / 8 ≤ 0xF0000 → at' % (ty.width / 8) = 0 →
      let ra (i : Instr) (fn : BitVec 6) (opb : Word) (bad : Bool) : Prop :=
        let mk (k : Core) : Op := { op fn 4 k with opb := opb, psn := bad, ty := ty }
        let fits (k : Core) := k.holdRoom 32 && !k.ticketBusy
        let k' := if fits k then k else k.commit
        let t := k'.allocTicket 3
        exec i s = .next (s.setCore (if fits k' then
          (t.1.pushOp { mk t.1 with tkt := some t.2 }).modRegs fun r => ((r.wrS d (t.2.setWidth 64) false).adv).flag (if bad then fPSN else 0) else k'))
      ra (.raAdd p d a b ty) 8 0 (s.regs.psn b) ∧ ra (.raAnd p d a b ty) 9 0 (s.regs.psn b) ∧ ra (.raOr p d a b ty) 10 0 (s.regs.psn b) ∧
      ra (.raXor p d a b ty) 11 0 (s.regs.psn b) ∧ ra (.raMin p d a b ty) 12 0 (s.regs.psn b) ∧ ra (.raMax p d a b ty) 13 0 (s.regs.psn b) ∧
      ra (.raSwp p d a b ty) 14 0 (s.regs.psn b) ∧ ra (.raCas p d a b c ty) 15 (s.regs.rdS c) (s.regs.psn b || s.regs.psn c))

/-- R193, R197, R229: reading a ticket, and the fences: what later operations of the context wait for.
R194, R196, R205, R206, R208 to R210, R214, R216: the requests to the launch sequencer enter their operation with a ticket of their kind, or without one for events. -/
def Obligations.TicketsAndSequencerRequests : Prop :=
  (
  (∀ p d a s, s.executes p → s.clean [a] →
    let t : BitVec 16 := (s.regs.rdS a).setWidth 16
    ((s.regs.rdS a).toNat < 2 ^ 16 → ∀ x, s.slot t x →
      exec (.tkst p d a) s = .next (s.putS d (BitVec.ofNat 64 ((if x.done then 1 else 0) + (if x.psn then 2 ^ 2 else 0) +
        2 ^ 8 * x.kind.toNat + 2 ^ 16 * x.cause.toNat))) ∧
      let v := BitVec.ofNat 64 (s.number (0xFE000 + 8 * (t.toNat % 256)) 8)
      exec (.tkstValue p d a) s = .next (if x.kind ≠ 3 then s.putS d 0 else if x.psn then s.putPoison d v else s.putS d v)) ∧
    ((s.regs.rdS a).toNat < 2 ^ 16 → (∀ x, ¬ s.slot t x) →
      exec (.tkst p d a) s = .next (s.putS d 2) ∧ exec (.tkstValue p d a) s = .next (s.putS d 0)) ∧
    (2 ^ 16 ≤ (s.regs.rdS a).toNat →
      exec (.tkst p d a) s = .next (s.take ⟨.badarg, 0⟩) ∧ exec (.tkstValue p d a) s = .next (s.take ⟨.badarg, 0⟩))) ∧
  ∀ p s, s.executes p →
    let c := s.core
    let fence (i : Instr) (streams : Stream → Bool) (ops : Op → Bool) : Prop :=
      exec i s = .next (s.setCore (c.setCtx { c.ctx with fence :=
        { streams := c.ctx.fence.streams ++ (c.streams.filter fun x => x.ctx == c.run && x.kind != .sbar && streams x).map Stream.id
          left := c.ctx.fence.left ++ (c.ops.filter fun o => o.ctx == c.run).map Op.id
          acked := c.ctx.fence.acked ++ (c.ops.filter fun o => o.ctx == c.run && o.kind != 0x35 && ops o).map Op.id } }).adv)
    let here (x : Stream) : Bool := x.dstSp == 0 && !x.remote
    let far (x : Stream) : Bool := x.dstSp == 2 || x.remote
    fence (.fenceCtx p) (fun _ => false) (fun _ => false) ∧ fence (.fenceCore p) here (fun _ => false) ∧
    fence (.fencePair p) (fun x => here x || (far x && c.isTwin (c.streamCore x))) (fun o => c.isTwin o.dst) ∧
    fence (.fenceGrp p) (fun x => here x || far x) (fun o => o.rel.isSome || c.inGroup o.dst) ∧
    fence (.fenceMod p) (fun x => here x || far x) (fun o => o.dst.extractLsb' 32 20 == c.name.extractLsb' 32 20) ∧
    fence (.fenceSys p) (fun _ => true) (fun _ => true)) ∧
  (
  ∀ p d a b c f ch s, s.executes p → s.clean [a, b, c] → ∃ lag, s.lags lag ∧
    let x := s.regs.rdS a
    let y := s.regs.rdS b
    let z := s.regs.rdS c
    let op (code : BitVec 8) (fn : BitVec 6) (k : Core) : Op := { k.newOp code fn with cls := 2, kind := 0x34, opa := x }
    let two (code : BitVec 8) (fn : BitVec 6) (k : Core) : Op := { op code fn k with opb := y }
    let sprig (x : Word) : Prop := x.toNat < 2 ^ 48 ∧ x.toNat % 4096 = 0
    let event : Prop := x.toNat < 2 ^ 16 ∧ (x.toNat < 0xFF00 ∨ s.core.prv = true)
    let line : Prop := x.toNat + 64 ≤ 0xF0000 ∧ x.toNat % 64 = 0
    (line → SendsTicketed (.tbuild p d a) s s.core d 4 (fun k => { op 0xA6 1 k with payload := s.seenBy lag x.toNat 64 })) ∧
    SendsTicketed (.tfree p d a) s s.core d 5 (op 0xA6 2) ∧
    (x.toNat < 2 ^ 16 → SendsTicketed (.isbind p d a) s s.core d 10 (op 0xC2 0)) ∧
    (line → y.toNat < 16 → SendsTicketed (.launch p d a b) s s.core d 11 (fun k => { two 0xC3 0 k with payload := s.seenBy lag x.toNat 64 })) ∧
    (event → Sends (.evsig p a b) s s.core (two 0xC3 1)) ∧
    (event → BitVec.toNat ch < 56 ∨ s.core.prv = true → Sends (.evarm p a b ch) s s.core (fun k => { two 0xC3 2 k with ch := ch })) ∧
    (event → y.toNat + 8 ≤ 0xF0000 → y.toNat % 8 = 0 → SendsTicketed (.evrd p d a b) s s.core d 12 (two 0xC3 3)) ∧
    (sprig x →
      SendsTicketed (.resume p d a b c f) s s.core d 7 (fun k => { two 0xC0 1 k with opc := z, psn := f == 1 }) ∧
      SendsTicketed (.resumeSt p d a b c f) s s.core d 7 (fun k => { two 0xC0 2 k with opc := z, psn := f == 1 }) ∧
      SendsTicketed (.discard p d a b) s s.core d 9 (fun k => { two 0xC0 5 k with opc := 0 }) ∧
      SendsTicketed (.discardSt p d a b) s s.core d 9 (fun k => { two 0xC0 6 k with opc := 0 })) ∧
    (sprig x → sprig z →
      SendsTicketed (.copy p d a b c) s s.core d 8 (fun k => { two 0xC0 3 k with opc := z }) ∧
      SendsTicketed (.copySt p d a b c) s s.core d 8 (fun k => { two 0xC0 4 k with opc := z })) ∧
    (s.core.prv = false → 0xFF00 ≤ x.toNat % 2 ^ 16 →
      ∀ i ∈ [Instr.evsig p a b, .evarm p a b ch, .evrd p d a b], exec i s = .next (s.take ⟨.priv, 0⟩)))

/-- R193, R195, R196: CTRB contributes to a tree of which the core is a member; without such a tree, or with two steps open, its ticket ends at once with TNOMEM or CBUSY. TABORT commits and aborts; that it ends the lowest open step at all routers at once, and that TABORT and TFREE of another group's tree act as where there is none, is the model's reading (log 17). TQRY reads the member's state.
R194, R196, R295, R296, R348: the sequencer builds and removes trees, and says why where it does not; the other parts of a spanning tree are told that one is gone (R403). -/
def Obligations.Trees : Prop :=
  (
  ∀ p d a b ip s, s.executes p → s.clean [a, b] → ∃ lag, s.lags lag ∧
    let tid : BitVec 12 := (s.regs.rdS a).setWidth 12
    let x := s.regs.rdS b
    let member (t : Tree) : Prop := s.tree? tid = some t ∧ s.cur ∈ t.members
    let m := s.core.treeMem tid
    let atOnce (cause : Cause) : Prop := s.core.ticketBusy = false →
      let y := s.core.allocTicket 6
      exec (.ctrb p d a b ip) s = .next (s.setCore ((y.1.completeTicket y.2 cause.code false 0).modRegs fun r => (r.wrS d (y.2.setWidth 64) false).adv))
    ((∀ t, ¬ member t) → atOnce .tnomem) ∧
    (∀ t, member t →
      let len := 64 * descSlen t.desc
      let span := if descQrm t.desc then len + 64 else len
      x.toNat + span ≤ 0xF0000 → x.toNat % 64 = 0 →
      (2 ≤ m.opens.length → atOnce .cbusy) ∧
      (m.opens.length < 2 →
        let bs := if descForm t.desc = 2 ∧ s.cur ≠ t.root then [] else s.seenBy lag x.toNat len
        s.core.holdRoom (recordSize bs.length) = true → s.core.ticketBusy = false →
        let y := s.core.allocTicket 6
        let c := (y.1.pushOp { y.1.newOp 0xA6 0 with cls := 2, kind := 0x35, opa := s.regs.rdS a, opb := x, payload := bs, tkt := some y.2 }).modRegs
          fun r => (r.wrS d (y.2.setWidth 64) false).adv
        exec (.ctrb p d a b ip) s = .next (s.setCore (c.setTreeMem tid { m with
          issued := m.issued + 1, inPlace := ip == 1, opens := m.opens ++ [⟨m.issued, x.setWidth 20, ip == 1, y.2, s.core.nextOp⟩] })))) ∧
    (let u := s.setCore s.core.adv.commit
     exec (.tabort p a) s = .next (match s.tree? tid with
       | some t => if t.gid = s.core.gid then u.abortStep t else u
       | none => u)) ∧
    (∃ w, exec (.tqryStatus p d a) s = .next (s.putS d w) ∧
      ((∀ t, s.tree? tid = some t → ∀ e ∈ t.entries, e.router ≠ s.cur) → w = 0) ∧
      ∀ t, s.tree? tid = some t → (∃ e ∈ t.entries, e.router = s.cur) → w = BitVec.ofNat 64
        (1 + (if m.opens = [] then 0 else 2) + (if m.abt then 4 else 0) + (if descQrm t.desc then 8 else 0) + 2 ^ 28 * m.cause.toNat +
          2 ^ 48 * (m.done % 2 ^ 16))) ∧
    exec (.tqryDoneBitmap p d a) s = .next (s.putS d (BitVec.ofNat 64 m.bitmap.toNat)) ∧
    exec (.tqryQuorumCount p d a) s = .next (s.putS d (BitVec.ofNat 64 m.quorum.toNat))) ∧
  (
  (∀ n r (s : State), s.requested n .tbuild r →
    (s.group? r.gid = none → exec (.treeBuild n) s = .next (s.ends n r (Cause.code .badarg))) ∧
    (∀ g, s.group? r.gid = some g → g.descOk r.words = false → exec (.treeBuild n) s = .next (s.ends n r (Cause.code .badarg))) ∧
    (∀ g, s.group? r.gid = some g → g.descOk r.words = true → (s.tree? (descTid r.words)).isSome = true →
      exec (.treeBuild n) s = .next (s.ends n r (Cause.code .texist))) ∧
    (∀ g, s.group? r.gid = some g → g.descOk r.words = true → s.tree? (descTid r.words) = none → descXm r.words = false →
      let root := (g.keyOfRel (BitVec.ofNat 32 (descBits r.words 0 32 32))).getD 0
      let routers := ((g.members r.words).flatMap fun m => routeTo m root).eraseDups
      let es := routers.map fun x => s.newEntry r.words (g.members r.words) routers root x false
      (none ∈ es → exec (.treeBuild n) s = .next (s.ends n r (Cause.code .tfull))) ∧
      (none ∉ es → ∃ (u : State) (t : Tree), exec (.treeBuild n) s = .next (u.finishTicket r.core r.tkt 0) ∧ u.trees = s.trees ++ [t] ∧
        t.gid = r.gid ∧ t.tid = descTid r.words ∧ t.desc = r.words ∧ t.members = g.members r.words ∧ t.root = root ∧ t.step = 0 ∧
        t.entries = es.filterMap id ∧ ∀ k ∈ t.members, (u.coreAt k).treeMem t.tid = ⟨0, 0, 0, false, 0, 0, 0, [], false⟩))) ∧
  ∀ n r (s : State), s.requested n .tfree r →
    let tid : BitVec 12 := r.a.setWidth 12
    ((∀ t, s.tree? tid = some t → t.gid ≠ r.gid) → exec (.treeRemove n) s = .next (s.ends n r (Cause.code .tnomem))) ∧
    (∀ t, s.tree? tid = some t → t.gid = r.gid →
      let u := (s.dropReq n).freeTree t
      let others := if descXm t.desc = true ∧ descRmod t.desc ≠ s.modId then [descRmod t.desc] else (t.joins.map Prod.fst).filter fun m => !t.gone.contains m
      exec (.treeRemove n) s = .next ({ u with laneOut := u.laneOut ++ others.map fun m => LaneMsg.to m .leave t.tid }.finishTicket r.core r.tkt 0)))

/-- R175 to R179, R227: binding and unbinding channels and join sets, and the status of a channel that is not bound; a system channel without privilege traps PRIV, a bound one CHBUSY. That CHUNB writes zero to all four words of the record, that PIN = 0 records CTX 0, and that a LAND binding without ACT records entry 0, is the model's reading (log 27). -/
def Obligations.ChannelBindings : Prop :=
(∀ p a d ci s, s.executes p →
    let c := s.core
    let ch := ci.ch.toNat
    let ent := s.regs.rdS a
    let w := s.regs.rdS d
    let pinned : BitVec 2 := if ci.pin then ci.ctx else 0
    (¬ s.mayBind ci.ch → ∀ i ∈ [Instr.chbindWake p a ci, .chbindLand p d a ci, .chbindFeed p d a ci], exec i s = .next (s.take ⟨.priv, 0⟩)) ∧
    (s.mayBind ci.ch → s.clean [a] → entryOk ent →
      (c.bound ch = true → exec (.chbindWake p a ci) s = .next (s.take ⟨.chbusy, ci.ch.setWidth 64⟩)) ∧
      (c.bound ch = false →
        exec (.chbindWake p a ci) s = .next (s.binds (c.writeBinding ch (bindingWord ent.toNat 0 ci.x ci.pin pinned ci.prio 0) 0 0)) ∧
        (s.clean [d] → w.toNat < 2 →
          let ctx := if ci.pin then ci.ctx else c.run
          c.feedTaken ctx (w.setWidth 1) = false →
          exec (.chbindFeed p d a ci) s = .next (s.binds (c.writeBinding ch (bindingWord ent.toNat 0 ci.x true ctx ci.prio 3) w 0))))) ∧
    (s.mayBind ci.ch → s.clean [d] → c.bound ch = false → w.toNat < 2 ^ 29 →
      let size := 64 * 2 ^ (w.toNat / 2 ^ 20 % 16)
      let base := w.toNat % 2 ^ 20
      w.toNat / 2 ^ 20 % 16 ≤ 13 → base % 64 = 0 → base + size ≤ 0xF0000 →
      (w.toNat < 2 ^ 28 → exec (.chbindLand p d a ci) s =
        .next (s.binds (c.writeBinding ch (bindingWord 0 0 ci.x ci.pin pinned ci.prio 2) w 0))) ∧
      (2 ^ 28 ≤ w.toNat → s.clean [a] → entryOk ent → exec (.chbindLand p d a ci) s =
        .next (s.binds (c.writeBinding ch (bindingWord ent.toNat 0 ci.x ci.pin pinned ci.prio 2) w 0))))) ∧
  (∀ p a b set prio x s, s.executes p → s.clean [a, b] → entryOk (s.regs.rdS a) →
    let m := s.regs.rdS b
    let chs := (List.range 64).filter fun ch => m.getLsbD ch
    s.core.setMembers set = [] → (∀ ch ∈ chs, s.core.bound ch = false) → m.toNat < 2 ^ 56 → 1 ≤ chs.length → chs.length ≤ 8 →
    exec (.jset p a b set prio x) s = .next (s.binds (chs.foldl
      (fun c ch => c.writeBinding ch (bindingWord (s.regs.rdS a).toNat set (x == 1) false 0 prio 1) 0 (if chs.head? = some ch then m else 0)) s.core))) ∧
  (∀ p ch s, s.executes p → s.mayBind ch →
    let waits := ∃ x ∈ s.core.ctxs.toList, x.st = .parked ∧ x.wait = .chan ch
    (waits → exec (.chunb p ch) s = .next (s.take ⟨.chbusy, ch.setWidth 64⟩)) ∧
    (¬ waits → s.core.bound ch.toNat = false → exec (.chunb p ch) s = .next (s.binds s.core)) ∧
    (¬ waits → s.core.bound ch.toNat = true →
      let chs := if s.core.chMode ch.toNat = 1 then s.core.setMembers (s.core.chSet ch.toNat) else [ch.toNat]
      let c := chs.foldl (fun c ch => c.writeBinding ch 0 0 0) s.core
      exec (.chunb p ch) s = .next (s.binds (Core.tidy { c with
        pend := c.pend.filter fun x => !chs.contains x.ch.toNat, tokens := c.tokens.filter fun x => !chs.contains x.ch.toNat })))) ∧
  ∀ p d ch s, s.executes p →
    (s.core.bound ch.toNat = false → exec (.chst p d ch) s = .next (s.putS d 0)) ∧
    (s.core.bound ch.toNat = true → ∃ w, exec (.chst p d ch) s = .next (s.putS d w) ∧ w.getLsbD 0 = true ∧
      w.extractLsb' 4 2 = s.core.chMode ch.toNat ∧ w.extractLsb' 8 3 = s.core.chPrio ch.toNat ∧ w.extractLsb' 11 2 = s.core.chCtx ch.toNat ∧
      w.getLsbD 13 = s.core.chPin ch.toNat ∧ w.getLsbD 14 = s.core.chX ch.toNat)

/-- R180 to R182, R190, R198: the instructions that end or park an activation, and where the context then stands.
R190, R198: sealing and reading batches, and the arrival counters; ACSET and ACADD close the window after themselves. -/
def Obligations.BoundariesAndBatches : Prop :=
  (
  ∀ p s, s.executes p →
    let c := (s.core.modRegs fun r => { r.adv with handler := false }).commit
    exec (.yield p) s = .next (s.leaves .none true) ∧
    (∀ n, exec (.waitb p n) s = .next (s.leaves (.batch n) (decide ((c.unfinished c.run).length ≤ n.toNat)))) ∧
    (∀ a, s.clean [a] →
      let x := s.regs.rdS a
      (∀ k, exec (.awaitCtr p a k) s = .next (s.leaves (.ctr k (x.setWidth 32)) (decide (x.toNat % 2 ^ 32 ≤ (c.rdCtr k).toNat)))) ∧
      (x.toNat < 2 ^ 16 →
        exec (.awaitBatch p a) s = .next (s.leaves (.batch (x.setWidth 16)) (decide ((c.unfinished c.run).length ≤ x.toNat))) ∧
        exec (.awaitTkt p a) s = .next (s.leaves (.tkt (x.setWidth 16))
          (match c.heldTicket (x.setWidth 16) with | some t => t.done | none => true))) ∧
      (2 ^ 16 ≤ x.toNat → exec (.awaitBatch p a) s = .next (s.take ⟨.badarg, 0⟩) ∧ exec (.awaitTkt p a) s = .next (s.take ⟨.badarg, 0⟩))) ∧
    (let me := isRunner s.cur
     (s.licensed → s.quern.req me = none → exec (.awaitLic p) s = .next (s.leaves .lic true)) ∧
     (s.quern.req me = none → exec (.awaitLic p) s = .next ((s.acquire s.cur).2.leaves .lic (s.acquire s.cur).1)) ∧
     ((s.quern.req me).isSome = true → s.licensed → exec (.awaitLic p) s = .next (s.leaves .lic true)) ∧
     ((s.quern.req me).isSome = true → ¬ s.licensed → exec (.awaitLic p) s = .next (s.leaves .lic false))) ∧
    (∀ ch,
      let taken := ∃ x ∈ s.core.ctxs.toList, (x.st = .parked ∨ x.st = .ready) ∧ x.wait = .chan ch
      (taken → exec (.awaitChan p ch) s = .next (s.take ⟨.chbusy, ch.setWidth 64⟩)) ∧
      (¬ taken → ¬ (s.core.bound ch.toNat = true ∧ s.core.chMode ch.toNat = 0) → exec (.awaitChan p ch) s = .next (s.take ⟨.badarg, 0⟩)) ∧
      (¬ taken → s.core.bound ch.toNat = true → s.core.chMode ch.toNat = 0 →
        exec (.awaitChan p ch) s = .next (s.leaves (.chan ch) (c.pend.any fun x => x.ch == ch)))) ∧
    ∃ t, exec (.endAct p) s = .next t ∧ OnlyCore s t ∧ (t.core.ctxAt s.core.run).st = .free ∧ (t.core.ctxAt s.core.run).wait = .none ∧
      t.core.last = s.core.run ∧ t.core.win.journal = [] ∧ t.regs.handler = false ∧ t.regs.batchUsed = false ∧
      t.regs.openBatch = (if s.regs.batchUsed then s.regs.openBatch + 1 else s.regs.openBatch)) ∧
  (
  ∀ p d s, s.executes p →
    exec (.bseal p d) s = .next (s.withRegs (({ s.regs with openBatch := s.regs.openBatch + 1, batchUsed := false }.wrS d (s.regs.openBatch.setWidth 64) false).adv)) ∧
    (∀ a, s.clean [a] →
      let b : BitVec 16 := (s.regs.rdS a).setWidth 16
      let un := s.core.unfinished s.core.run
      exec (.bstat p d a) s = .next (s.putS d (BitVec.ofNat 64
        ((if b = s.regs.openBatch ∨ b ∈ un then 0 else 1) + 2 ^ 16 * (un.length % 2 ^ 16) + 2 ^ 32 * s.regs.openBatch.toNat)))) ∧
    (∀ k, exec (.acrd p d k) s = .next (s.putS d ((s.core.ctr[k.toNat]).setWidth 64))) ∧
    ∀ a (k : BitVec 4), s.clean [a] →
      let put (x : BitVec 32) : Core := { s.core with ctr := s.core.ctr.set k.toNat x k.isLt }
      exec (.acset p a k) s = .next (s.setCore (put ((s.regs.rdS a).setWidth 32)).adv.commit) ∧
      let x : BitVec 32 := BitVec.ofInt 32 (max 0 (min ((s.core.ctr[k.toNat]).toNat + ((s.regs.rdS a).setWidth 32).toInt) (2 ^ 32 - 1)))
      exec (.acadd p d a k) s = .next (s.setCore (((put x).modRegs fun r => (r.wrS d (x.setWidth 64) false).adv).commit)))

/-- R169, R183 to R190: SLVL builds a pattern lane; SCPY, SGTH, SFQ and SBAR join the stream unit with their operands as they stand at issue.
R190, R225, R231: a stream command starts once the barriers and fences before it allow it, which frees its record, and it finishes once all of its bytes are stored; a barrier finishes when no earlier command of its context is left. -/
def Obligations.StreamCommands : Prop :=
  (
  (∀ p d a b lv s, s.executes p → s.clean [a, b] → (∀ i, i < 8 → i ≠ BitVec.toNat lv → (s.regs.rdVV d).poisonAt (64 * i) 64 = []) →
    ∃ data, exec (.slvl p d a b lv) s = .next (s.putV s.core d ⟨data, 0⟩ 0) ∧ ∀ i, i < 8 → VVal.lane ⟨data, 0⟩ 64 i =
      if i = BitVec.toNat lv then
        BitVec.ofNat 64 ((s.regs.rdS a).toNat % 2 ^ 24 + 2 ^ 24 * ((s.regs.rdS b).toNat % 2 ^ 40)) else (s.regs.rdVV d).lane 64 i) ∧
  (∀ p mask s, s.executes p → Streams (.sbar p mask) s s.core 4 (fun c => { c.newStream 0 .sbar with mask := mask }) 0) ∧
  (∀ p a b c sp dp st s k k', s.executes p → s.clean [a, b] → (s.regs.rdVV c).poisoned = false →
    let src := s.regs.rdS a
    let dst := s.regs.rdS b
    let ps := s.regs.rdV c
    StreamEnd s.core sp src k → StreamEnd k dp dst k' → patOk ps = true → (sp ≠ 1 → patternFits (endPlace sp src) ps) →
    let op (k : Core) : Stream := { k.newStream st .scpy with srcSp := sp, dstSp := dp, src := src, dst := dst, srcPat := ps, total := patTotal ps }
    ((dp ≠ 1 → patTotal ps = 0 ∨ endPlace dp dst + patTotal ps ≤ 0xF0000) → Streams (.scpy p none a b c sp dp st) s k' 1 op 0) ∧
    ∀ d, (s.regs.rdVV d).poisoned = false →
      let pd := s.regs.rdV d
      patOk pd = true → patTotal pd = patTotal ps → (dp ≠ 1 → patternFits (endPlace dp dst) pd) →
      Streams (.scpy p (some d) a b c sp dp st) s k' 1 (fun k => { op k with dstPat := some pd }) 0) ∧
  (∀ p d a b c sp st s k, s.executes p → s.clean [a, b, c, d] →
    let tab := s.regs.rdS a
    let n := (s.regs.rdS d).toNat % 2 ^ 24
    let row := (s.regs.rdS d).toNat / 2 ^ 24
    let list := (s.regs.rdS c).toNat
    let dst := (s.regs.rdS b).toNat
    StreamEnd s.core sp tab k → (n * row = 0 ∨ dst + n * row ≤ 0xF0000) →
    (n = 0 ∨ list + 4 * n ≤ 0xF0000) → row < 2 ^ 20 → list % 4 = 0 →
    Streams (.sgth p d a b c sp st) s k 2 (fun k => { k.newStream st .sgth with
      srcSp := sp, src := tab, dst := s.regs.rdS b, total := n * row, list := (s.regs.rdS c).setWidth 20, count := n, row := row }) 0) ∧
  (∀ p d a b c st s k dst, s.executes p → s.clean [a, b, c, d] → Endpoint s.core (s.regs.rdS a) k dst → 0xF0000 ≤ (s.regs.rdS a).toNat % 2 ^ 20 →
    exec (.sgth p d a b c 2 st) s = .next (s.take ⟨.badaddr, BitVec.ofNat 64 ((s.regs.rdS a).toNat % 2 ^ 20)⟩)) ∧
  ∀ p d a c st cl s, s.executes p → s.clean [a] → (s.regs.rdVV c).poisoned = false →
    let src := s.regs.rdS a
    let ps := s.regs.rdV c
    let bad := s.regs.psn d
    patOk ps = true →
    (∀ sp q k, StreamEnd s.core sp src k → (sp ≠ 1 → patternFits (endPlace sp src) ps) →
      Streams (.sfq p d a c sp q cl st) s k 3 (fun k => { k.newStream st .sfq with
        mask := BitVec.setWidth 8 q, srcSp := sp, src := src, srcPat := ps, total := patTotal ps, eos := s.regs.rdS d, eosPsn := bad, cl := cl })
        (if bad then fPSN else 0)) ∧
    ∀ b k dst, s.clean [b] → Endpoint s.core (s.regs.rdS b) k dst → (s.regs.rdS b).setWidth 20 = 0#20 → patternFits src.toNat ps →
      Streams (.sfqRemote p d a b c cl st) s k 3 (fun k => { k.newStream st .sfq with
        src := src, dst := s.regs.rdS b, srcPat := ps, total := patTotal ps, eos := s.regs.rdS d, eosPsn := bad, cl := cl, remote := true })
        (if bad then fPSN else 0)) ∧
  (
  ∀ k id x (s : State), (s.coreAt k).streams.find? (fun x => x.id == id) = some x →
    let c := s.coreAt k
    (x.started = false → x.kind ≠ .sbar → c.queueReady x = true → c.barrierReady x = true → c.heldReady x = true → c.captured = false →
      (∀ o ∈ c.ops, x.held = some o.id → o.owes = none) →
      exec (.streamStart k id) s = .next (s.setCoreAt k { c with
        streams := c.streams.map (fun x => if x.id = id then { x with started := true, held := none } else x)
        ops := c.ops.filter fun o => decide (x.held ≠ some o.id) })) ∧
    ((∀ d ∈ s.seq.debts, d.core = k → d.stream ≠ id) →
      (x.kind = .sbar ∧ (∀ y ∈ c.streams, y.ctx = x.ctx → y.kind ≠ .sbar → x.id ≤ y.id)) ∨ (x.kind ≠ .sbar ∧ x.started = true ∧ x.done = true) →
      ∃ t, exec (.streamFinish k id) s = .next t ∧ t.coreAt k = { c with streams := c.streams.filter fun y => y.id != id } ∧
        ∀ j, j ≠ k → t.coreAt j = s.coreAt j))

/-- R211, R324, R325: entering the handler: TRAPREC, the record area (the older records move up), HandlerActive, the watchdog count and the pc; the handler finds every other register as it was.
R32, R211, R327: with no handler, or inside one, the trap is delivered: a record of KIND 1 is posted, the window's work is undone, and the context is FREE.
R94, R203: a migrating MXFR of the core completes first. -/
def Obligations.Traps : Prop :=
  (
  ∀ (s : State) (x : Trap), s.core.mma = none → s.quern.sends (isRunner s.cur) = false → s.core.trapvec.getLsbD 0 = true → s.regs.handler = false →
    let t := s.take x
    let base := 0xFD000 + 512 * s.core.run.toNat
    ∃ ws, RecordOf s x 0 ws ∧ OnlyCore s t ∧
      t.regs = { s.regs with handler := true, pc := BitVec.ofNat 20 (s.core.trapvec.toNat % 2 ^ 20 / 8 * 8) } ∧
      t.core.ctx.wd = 0 ∧ (∀ i, (h : i < 8) → t.core.ctx.trapRec[i] = ws.getD i 0) ∧
      Written s t (fun a => if base ≤ a ∧ a < base + 64 then some (byteOf (ws.getD ((a - base) / 8) 0) (a % 8))
        else if base + 64 ≤ a ∧ a < base + 512 then some (s.byte (a - 64)) else none) ∧
      (∃ cl, t.core = { s.core with ls := t.core.ls, ctxs := t.core.ctxs, seq := s.core.seq + 1, clean := cl }) ∧
      (∀ k, k ≠ s.core.run → t.core.ctxAt k = s.core.ctxAt k) ∧
      t.core.ctx = { s.core.ctx with regs := t.regs, wd := 0, trapRec := t.core.ctx.trapRec }) ∧
  (
  ∀ (s : State) (x : Trap), s.core.mma = none → s.quern.sends (isRunner s.cur) = false → s.core.trapvec.getLsbD 0 = false ∨ s.regs.handler = true →
    let t := s.take x
    ∃ ws, RecordOf s x 1 ws ∧ OnlyCore s t ∧ (t.core.ctxAt s.core.run).st = .free ∧ t.core.last = s.core.run ∧
      (∃ g name, t.core.reports = s.core.reports ++ [⟨g, ws, name, 0, 0⟩]) ∧
      (∀ i, (h : i < 8) → (t.core.ctxAt s.core.run).trapRec[i] = ws.getD i 0) ∧ t.core.win.journal = [] ∧
      t.core.ops.all (fun o => decide (o.id < s.core.win.opFrom)) = true ∧ t.core.streams.all (fun y => decide (y.id < s.core.win.streamFrom)) = true ∧
      t.regs.handler = false) ∧
  ∀ (s : State) (x : Trap), s.quern.sends (isRunner s.cur) = true →
    ∃ u, exec (.migrationDone (quernOf s.cur)) s = .next u ∧ u.quern.hand = none ∧ s.take x = u.take x

/-- R94, R211, R212: TRAP and BKPT trap with their code; TRET outside a handler traps NOHND, and inside one it returns to the record's address, to the one after it, or to s[A], with HandlerActive clear.
R217, R218: PSNQ reads poison without consuming it, and the clearing instructions remove it; none of them sets a flag. -/
def Obligations.TrapInstructions : Prop :=
  (
  ∀ p s, s.executes p →
    let back (t : Int) : State := s.withRegs { s.regs with handler := false, pc := BitVec.ofInt 20 t }
    let pc : Int := ((s.core.ctx.trapRec[0]).toNat % 2 ^ 20 : Nat)
    (∀ code : BitVec 10, exec (.trap p code) s = .next (s.take ⟨.swtrap, code.setWidth 64⟩) ∧ exec (.bkpt p code) s = .next (s.take ⟨.bkpt, code.setWidth 64⟩)) ∧
    (s.regs.handler = false → ∀ a, ∀ i ∈ [Instr.tretReissue p, .tretNext p, .tretTarget p a], exec i s = .next (s.take ⟨.nohnd, 0⟩)) ∧
    (s.regs.handler = true → Transfers (.tretReissue p) s pc (back pc) ∧ Transfers (.tretNext p) s (pc + 8) (back (pc + 8)) ∧
      ∀ a, TransfersTo (.tretTarget p a) s a back)) ∧
  (
  ∀ p s, s.executes p →
    let half (o : Org) (h : BitVec 1) : Word := BitVec.ofNat 64 (o.toNat / 2 ^ (64 * h.toNat))
    (∀ d a, exec (.psnqScalar p d a) s = .next (s.putS d (if s.regs.psn a then 1 else 0))) ∧
    (∀ d a h k,
      let x := s.regs.rdVV a
      (x.whole = true → ∃ o, orgWinner x.wholeOrgs = some o ∧ exec (.psnqVector p d a h k) s = .next (s.putS d (half o h))) ∧
      (x.whole = false → x.bad k.toNat = true →
        exec (.psnqVector p d a h k) s = .next (s.putS d (half (x.orgAt (fmtBits (hdrFmt (sideHdr x.side k.toNat)) * k.toNat)) h))) ∧
      (x.whole = false → x.bad k.toNat = false → exec (.psnqVector p d a h k) s = .next (s.putS d 0))) ∧
    (∀ d a h, s.settled →
      let o := (s.core.accAt a).org
      exec (.psnqAcc p d a h) s = .next (s.putS d (if orgCause o = 0 then 0 else half o h))) ∧
    (∀ d a h x bad, TwinValue s a x bad → exec (.psnqTwin p d a h) s = .next (s.putS d (if bad then half (x.setWidth 128) h else 0))) ∧
    (∀ d, exec (.psncls p d) s = .next (s.putS d (s.regs.rdS d))) ∧
    (∀ d,
      let x := s.regs.rdVV d
      let size (k : Nat) := fmtBits (hdrFmt (sideHdr x.side k))
      ∃ z : VVal, exec (.psnclv p d) s = .next (s.putV s.core d z 0) ∧
        (∀ k, k < 4 → sideHdr z.side k = if x.bad k then 0 else sideHdr x.side k) ∧
        ∀ j, j < 512 → z.data.getLsbD j = (x.data.getLsbD j && !x.whole &&
          !(List.range 4).any fun k => x.bad k && decide (size k * k ≤ j) && decide (j < size k * k + size k))) ∧
    ∀ d, s.settled →
      (s.core.prv = false → exec (.psncla p d) s = .next (s.take ⟨.priv, 0⟩)) ∧
      (s.core.prv = true →
        exec (.psncla p d) s = .next (s.setCore ((s.core.putAcc d
          { s.core.accAt d with org := 0, ptl := false, flags := (s.core.accAt d).flags &&& ~~~fPSN }).adv.commit))))

/-- R206, R207: SUSPEND writes its status, leaves the core for the capture, and sends its request; the status is SBUSY where the group is already being suspended.
R34, R214, R215, R286, R287, R290: leaving an island, timed sends and their landing, of several to one place the one of the lowest relative address first, the halt when one is late, and waiting for a schedule value.
R214, R284: an island binds when every member has asked within 1 ms of the first; a request that breaks a rule ends with BADARG, a pad that is too small ends them all with PADX, and 1 ms after its first request an id that is still incomplete ends with ISTO. A request for an id that is still bound is held; that so is one of a core that has left an island which other members have not, and that what is to land has arrived once the last has left, are the model's readings (log 31). -/
def Obligations.IslandsAndSuspending : Prop :=
  (
  ∀ p d a b c s, s.executes p → s.clean [a, b, c] →
    let x := s.regs.rdS a
    let y := s.regs.rdS b
    let z := s.regs.rdS c
    let gid : BitVec 16 := s.core.grpid.setWidth 16
    let st : Word := if ∃ g ∈ s.seq.groups, g.gid = gid ∧ g.susp.isSome = true then 0x086 else 0
    let u (st : Word) : State := (s.withRegs (s.regs.wrS d st false)).leaves .none true
    let stops (u : State) : State := u.setCore { u.core with stopping := true }
    (y.extractLsb' 19 3 ≠ 0 → s.core.prv = false → exec (.suspend p d a b c) s = .next (s.take ⟨.priv, 0⟩)) ∧
    (y.extractLsb' 19 3 = 0 ∨ s.core.prv = true →
      (2 ^ 48 ≤ x.toNat → exec (.suspend p d a b c) s = .next (s.take ⟨.badaddr, x⟩)) ∧
      (x.toNat < 2 ^ 48 → y.extractLsb' 22 9 ≠ 0 ∨ 2 ^ 32 ≤ y.toNat ∨ 60000000 < z.toNat → exec (.suspend p d a b c) s = .next (s.take ⟨.badarg, 0⟩)) ∧
      (x.toNat < 2 ^ 48 → y.extractLsb' 22 9 = 0 → y.toNat < 2 ^ 32 → z.toNat ≤ 60000000 →
        (x.toNat % 4096 ≠ 0 → exec (.suspend p d a b c) s = .next (s.take ⟨.misaln, x⟩)) ∧
        (x.toNat % 4096 = 0 → exec (.suspend p d a b c) s =
            .next { stops (u st) with seqIn := s.seqIn ++ [⟨.suspend, s.cur, gid, 0, x, y, z, [d.setWidth 64], s.core.prv, ⟨s.core.run, s.core.prv, s.regs.pc, s.core.fetchWord⟩, false, false, none⟩] })))) ∧
  (
  (∀ p s, s.executes p →
    (s.core.islBnd = true → ∃ t, exec (.isrel p) s = .next t ∧ Released s t) ∧
    (s.core.islBnd = false → exec (.isrel p) s = .next (s.setCore s.core.adv)) ∧
    (∀ a, s.core.prv = true → s.clean [a] →
      let v := s.regs.rdS a
      let c := s.core.journalCr 0x031 s.core.islcfg
      (s.core.islBnd = true → v.getLsbD 0 = false → ∃ t, exec (.islcfgUnbind p a) s = .next t ∧ Released (s.setCore c) t) ∧
      (s.core.islBnd = true → v.getLsbD 0 = true → exec (.islcfgUnbind p a) s = .next (s.setCore c.adv)) ∧
      (s.core.islBnd = false → exec (.islcfgUnbind p a) s =
        .next (s.setCore { c with islIid := v.extractLsb' 32 16, islPad := v.extractLsb' 8 8 }.adv))) ∧
    (∀ a,
      let t : BitVec 48 := (s.regs.rdS a).setWidth 48
      (s.core.islBnd = false → exec (.issync p a) s = .next (s.take ⟨.isnb, 0⟩)) ∧
      (s.core.islBnd = true → s.regs.psn a = false →
        (t.toNat < s.core.scnt.toNat → exec (.issync p a) s = .next (s.take ⟨.islate, 0⟩)) ∧
        (t = s.core.scnt → exec (.issync p a) s = .next (s.setCore s.core.adv)) ∧
        (s.core.scnt.toNat < t.toNat → exec (.issync p a) s = .next (s.setCore { s.core with sync := some t })))) ∧
    ∀ a b bl j ty tw,
      (s.core.islBnd = false → ∀ i ∈ [Instr.isendLatch p a b bl j ty, .isendTwin p a b tw], exec i s = .next (s.take ⟨.isnb, 0⟩)) ∧
      ∀ c w i, s.core.islBnd = true → s.regs.psn a = false → (s.regs.rdS a).toNat < 2 ^ 32 → NamedFrom s.core ((s.regs.rdS a).setWidth 32) c w →
        s.islandOf s.cur = some i → w.toNat % 2 ^ 17 ∈ i.members →
        let k := w.toNat % 2 ^ 17
        let v := s.regs.rdVV b
        let val := s.core.scnt + BitVec.ofNat 48 (4 + s.core.islPad.toNat * hopCount s.cur k)
        let from' : BitVec 32 := s.core.relpos.setWidth 32
        let u := s.setCore ((c.modRegs fun g => (g.flag (if v.poisoned then fPSN else 0)).adv).commit)
        let way : List (Nat × Nat × Nat) := (s.cur, 6, 1) :: (NMap.get? s.core.routes k).getD [] ++ [(k, 5, 1)]
        let lands (x : Landing) : State :=
          (u.setCoreAt k { u.coreAt k with landing := (u.coreAt k).landing ++ [(x.hop i.now i.busy).1] }).setIsland { i with busy := (x.hop i.now i.busy).2 }
        exec (.isendLatch p a b bl j ty) s = .next (lands ⟨val, from', BitVec.setWidth 2 bl, j, 0, ty, v.data, v.side, way, i.now, none, false⟩) ∧
        exec (.isendTwin p a b tw) s = .next (lands ⟨val, from', 2, 0, tw, .none, v.data, v.side, way, i.now, none, false⟩)) ∧
  (∀ k s, (s.coreAt k).sync = some (s.coreAt k).scnt → (s.coreAt k).ctx.st = .running → (s.coreAt k).ctx.wd < (s.coreAt k).ctx.wdLimit →
    exec (.scheduleValueReached k) s = .next (s.setCoreAt k { (s.coreAt k).adv with
      sync := none, issueAt := max (s.coreAt k).issueAt (s.cycle + 1) })) ∧
  (∀ k n x i s, (s.coreAt k).landing[n]? = some x → (s.coreAt k).captured = false → x.arrived = false → x.val = (s.coreAt k).scnt →
    s.islandOf k = some i → exec (.timedLanding k n) s = .next (s.haltIsland i (some .padx) none)) ∧
  ∀ k n x s, (s.coreAt k).landing[n]? = some x → (s.coreAt k).captured = false → x.arrived = true → x.val = (s.coreAt k).scnt →
    (∀ y ∈ (s.coreAt k).landing, y.val = x.val → x.src.toNat ≤ y.src.toNat) →
    (∀ y ∈ (s.coreAt (twinOf k)).landing, x.target = 2 → y.target = 2 → (s.coreAt (twinOf k)).captured = false → y.arrived = true →
      y.val = (s.coreAt (twinOf k)).scnt → x.src.toNat ≤ y.src.toNat) →
    let c : Core := { s.coreAt k with landing := (s.coreAt k).landing.eraseIdx n }
    let v : VVal := ⟨x.data, x.side⟩
    (x.target.toNat < 2 →
      let b : BitVec 1 := x.target.setWidth 1
      exec (.timedLanding k n) s = .next (s.setCoreAt k (c.putLatch b ((c.latchAt b).putColumn x.ty x.col.toNat v)))) ∧
    (x.target = 2 → v.poisonAll = [] →
      let u := s.setCoreAt k c
      let q := u.quernAt (k % 65536)
      exec (.timedLanding k n) s = .next (u.setQuernAt (k % 65536) { q with
        tw := q.tw.set x.tw.toNat x.data x.tw.isLt, twp := setBit q.twp x.tw.toNat false }))) ∧
  (
  (∀ gid iid g d n r (s : State), s.group? gid = some g → g.isls.find? (fun d => d.iid == iid) = some d → s.requested n .isbind r → r.gid = gid →
    r.a.extractLsb' 0 16 = iid → (∀ j, j < n → ∀ x, s.seqReq? j .isbind = some x → ¬ (x.gid = gid ∧ x.a.extractLsb' 0 16 = iid)) →
    (∀ b ∈ s.seq.binds, b.gid = gid → b.iid = iid → b.held = false → s.cycle ≤ b.since + 3300000) →
    let u := s.dropReq n
    let b : BindReq := ⟨gid, iid, r.core, r.tkt, false, s.cycle⟩
    let v : State := { u with seq := { u.seq with binds := u.seq.binds ++ [b] } }
    let ms := g.islandCores d
    let all := ∀ k ∈ ms, ∃ x ∈ v.seq.binds, x.gid = g.gid ∧ x.iid = d.iid ∧ x.held = false ∧ x.core = k
    let waits := ∃ i ∈ s.seq.islands, i.gid = gid ∧ (i.iid = iid ∨ r.core ∈ i.members)
    (s.bindRefused g d r.core = true → exec (.islandBind gid iid) s = .next (s.ends n r (Cause.code .badarg))) ∧
    (s.bindRefused g d r.core = false → waits → (∀ x ∈ s.seq.binds, x.gid = gid → x.iid = iid → x.held = false → x.core ≠ r.core) →
      exec (.islandBind gid iid) s = .next { u with seq := { u.seq with binds := u.seq.binds ++ [{ b with held := true }] } }) ∧
    (s.bindRefused g d r.core = false → ¬ waits → g.susp = none →
      (¬ all → exec (.islandBind gid iid) s = .next v) ∧
      (all → s.padTooSmall ms d.pad.toNat = true → exec (.islandBind gid iid) s = .next (v.endBinds g.gid d.iid (Cause.code .padx))) ∧
      (all → s.padTooSmall ms d.pad.toNat = false → (∃ k ∈ ms, (s.coreAt k).islBnd = true) →
        exec (.islandBind gid iid) s = .next (v.endBinds g.gid d.iid (Cause.code .badarg))) ∧
      (all → s.padTooSmall ms d.pad.toNat = false → (∀ k ∈ ms, (s.coreAt k).islBnd = false) → exec (.islandBind gid iid) s = .next ((v.bindIsland g d).endBinds g.gid d.iid 0)))) ∧
  (∀ (s : State) g d, (∀ k ∈ g.islandCores d, k < 2 ^ 17) → ∀ k ∈ g.islandCores d,
    ((s.bindIsland g d).coreAt k).islBnd = true ∧ ((s.bindIsland g d).coreAt k).islIid = d.iid ∧ ((s.bindIsland g d).coreAt k).islPad = d.pad ∧
    ((s.bindIsland g d).coreAt k).scnt = 0) ∧
  ∀ gid iid b (s : State), b ∈ s.seq.binds → b.gid = gid → b.iid = iid → b.held = false → b.since + 3300000 ≤ s.cycle →
    exec (.isto gid iid) s = .next (s.endBinds gid iid (Cause.code .isto)))

/-- R17 to R19, R180, R213, R280, R281: a parked context whose condition holds becomes READY; an expired watchdog traps WDOG; a core with no running context takes the candidate of highest priority, and a new activation starts at its entry with the dispatch words in s1 to s5. In a resumed group none is selected before all of its records have been offered (R356). -/
def Obligations.Activations : Prop :=
(∀ k x (s : State), (s.coreAt k).captured = false → ((s.coreAt k).ctxAt x).st = .parked →
    (s.coreAt k).met x (((s.quernAt (k % 65536)).view s.cycle).held (isRunner k)) ((s.coreAt k).ctxAt x).wait = true →
    exec (.conditionMet k x) s = .next (s.upd k fun c => c.setCtxAt x { c.ctxAt x with st := .ready, since := c.cycle.toNat })) ∧
  (∀ k (s : State), (s.coreAt k).ctx.st = .running → (s.coreAt k).ctx.wdLimit ≤ (s.coreAt k).ctx.wd →
    let c : Core := { s.coreAt k with sync := none, stalled := false }
    let expire (c : Core) : Core := c.takeTrap ⟨.wdog, BitVec.ofNat 64 (s.coreAt k).ctx.wdLimit⟩ (s.coreAt k).fetchWord
    ((s.quernAt (quernOf k)).sends (isRunner k) = false → exec (.watchdogExpiry k) s = .next (s.setCoreAt k (expire c))) ∧
    ((s.quernAt (quernOf k)).sends (isRunner k) = true →
      ∃ u, exec (.migrationDone (quernOf k)) (s.setCoreAt k c) = .next u ∧ exec (.watchdogExpiry k) s = .next (u.setCoreAt k (expire (u.coreAt k))))) ∧
  (∀ k (s : State), (s.quernAt (quernOf k)).sends (isRunner k) = true →
    ∃ u, exec (.migrationDone (quernOf k)) s = .next u ∧ exec (.selectActivation k) s = exec (.selectActivation k) u) ∧
  (∀ k (s : State), (s.quernAt (quernOf k)).sends (isRunner k) = false → (∃ e ∈ s.seq.resuming, e.1 = (s.coreAt k).gid) →
    ¬ Completes (.selectActivation k) s) ∧
  ∀ k (s : State), (s.quernAt (quernOf k)).sends (isRunner k) = false → (s.coreAt k).maySelect = true → (s.coreAt k).candidates ≠ [] →
    (∀ e ∈ s.seq.resuming, e.1 ≠ (s.coreAt k).gid) →
    let c := s.coreAt k
    ∃ prio pick, (prio, pick) ∈ c.candidates ∧ (∀ y ∈ c.candidates, y.1 ≤ prio) ∧
      match pick with
      | .ready x => ∃ t, exec (.selectActivation k) s = .next t ∧ s.onlyAt t k ∧
          (¬ (c.ctxAt x).wait.isChan = true → (t.coreAt k).run = x ∧ (t.coreAt k).ctx.st = .running ∧ (t.coreAt k).ctx.wait = .none ∧
            (t.coreAt k).regs = (c.ctxAt x).regs ∧ (t.coreAt k).win.ckpt = (c.ctxAt x).regs ∧ (t.coreAt k).win.journal = [])
      | .start i x => ∃ y t, c.pend[i]? = some y ∧ exec (.selectActivation k) s = .next t ∧ s.onlyAt t k ∧
          let u := t.coreAt k
          let r := u.regs
          u.run = x ∧ u.ctx.st = .running ∧ u.ctx.wait = .none ∧ u.ctx.wd = 0 ∧ u.pend = c.pend.eraseIdx i ∧ u.win.ckpt = r ∧ u.win.journal = [] ∧
            u.ctx.prv = decide (56 ≤ y.ch.toNat) ∧ u.ctx.wdLimit = (if c.wdogLim = 0 then 2 ^ 32 else c.wdogLim.toNat) ∧
            r.pc = c.chEntry y.ch.toNat ∧ r.astat = 0 ∧ r.handler = false ∧ r.g = Regs.reset.g ∧ r.v = Regs.reset.v ∧ r.m = Regs.reset.m ∧
            (prio < 8 → r.rdS 1 = BitVec.ofNat 64 (y.ch.toNat + 2 ^ 8 * y.mode.toNat + 2 ^ 10 * y.set.toNat + 2 ^ 16 * y.psnMask.toNat + 2 ^ 32 * prio)) ∧
            r.rdS 2 = y.sender ∧ r.rdS 3 = BitVec.ofNat 64 ((if y.mode = 3 then 0 else y.addr.toNat) + 2 ^ 32 * y.len.toNat) ∧
            r.rdS 4 = y.word ∧ r.psn 4 = y.psn ∧
            r.rdS 5 = BitVec.ofNat 64 (c.relpos.toNat % 2 ^ 7 + 2 ^ 16 * (c.relpos.toNat / 2 ^ 16 % 2 ^ 10) + 2 ^ 32 * (c.grpid.toNat % 2 ^ 16)) ∧
            ∀ j : Reg, 5 < j.toNat → r.rdS j = 0

/-- R171, R173, R216, R226, R244, R274: a message is offered to its channel, and taken, refused or failed, with the answer that its sender gets; a message to a core that no group owns, or whose group has ended, is answered NOCHN; what each mode takes. A WAKE or LAND message of several lines is written a line at a time and takes its effect with the last (R361).
A message of the launch sequencer that is refused is offered again 64 cycles later, a fault record 16 times at most (R216, R326).
Each line offered under the binding that then stands, MSGLEN for a FEED message of more than 16 entries, which the 16 slots can never hold, are the model's readings (log 27); that a sealed sprig's core refuses is so too (log 26). -/
def Obligations.MessageOffers : Prop :=
(∀ n m k (s : State), m.kind = 1 → s.delivers n m k →
    let c := s.coreAt k
    let u := s.dropMsg n
    let grp : BitVec 16 := c.grpid.setWidth 16
    let i : Incoming := ⟨m.ch, 0#12 ++ (m.smod ++ m.src), m.payload, m.grp != grp || m.smod != c.name.extractLsb' 32 20, m.grp, m.prog⟩
    exec (.messageOffer n) s = .next (match c.offer i with
      | .took c' => (match c.nextLine i with
        | some (d, p) => (u.setCoreAt k d).unfinished m p
        | none => (u.setCoreAt k (c'.countIn m)).post (m.answer grp 0x10 0 []))
      | .refused => (u.pullBack m).post (m.answer grp 0x13 0 [])
      | .failed cause => u.post (m.answer grp 0x15 cause.code []))) ∧
  (∀ n m (s : State), s.arrive n = some m → m.dmod = s.modId → m.kind = 1 → s.serving? (pageOf (m.dst.toNat % 2 ^ 17)) = none →
    m.home.isSome = true ∨ m.smod ≠ s.modId → exec (.messageOffer n) s = .next ((s.dropMsg n).post (m.answer 0 0x15 (Cause.code .nochn) []))) ∧
  (∀ n m (s : State) g, s.arrive n = some m → m.dmod = s.modId → m.kind = 1 → s.serving? (pageOf (m.dst.toNat % 2 ^ 17)) = some g →
    (s.coreAt (m.dst.toNat % 2 ^ 17)).captured = true → m.prog = none → (∃ x, g.susp = some x ∧ x.isSealed = true) →
    exec (.messageOffer n) s = .next ((s.dropMsg n).post (m.answer m.grp 0x13 0 []))) ∧
  (∀ n m (s : State) g, s.arrive n = some m → m.dmod = s.modId → m.kind = 0x34 → m.again ≤ s.cycle → s.serving? (pageOf (m.dst.toNat % 2 ^ 17)) = some g →
    g.gid = m.grp → (s.coreAt (m.dst.toNat % 2 ^ 17)).captured = false →
    let k := m.dst.toNat % 2 ^ 17
    let c := s.coreAt k
    let u := s.dropMsg n
    let i : Incoming := ⟨m.ch, if m.home = none then 0 else 0#12 ++ (m.smod ++ m.src), m.payload, m.grp != c.grpid.setWidth 16, m.grp, m.prog⟩
    let words : List Word := (List.range 8).map fun i => BitVec.ofNat 64 (leNat (((m.payload.drop (8 * i)).take 8).map Prod.fst))
    exec (.messageOffer n) s = .next (match c.offer i with
      | .took c' => (match c.nextLine i with
        | some (d, p) => (u.setCoreAt k d).unfinished m p
        | none => u.setCoreAt k c')
      | .refused => if m.len = 64 ∧ 15 ≤ m.tries then u.logRecord m.grp words
        else { s with flight := s.flight.set n { m with tries := m.tries + 1, again := s.cycle + 64 } }
      | .failed cause => if m.len = 64 then u.logRecord m.grp words else u.failSeq m cause)) ∧
  ∀ (c : Core) (i : Incoming),
    let ch := i.ch.toNat
    let n := i.bytes.length
    let waiting := (c.pend.filter fun x => x.ch == i.ch).length
    let mode (k : BitVec 2) : Prop := c.bound ch = true ∧ c.chMode ch = k ∧ (i.outside = false ∨ c.chX ch = true)
    (c.bound ch = false ∨ (i.outside = true ∧ c.chX ch = false) → c.offer i = .failed .nochn) ∧
    (mode 0 →
      (512 < n → c.offer i = .failed .msglen) ∧
      (n ≤ 512 → i.prog = none → 8 ≤ waiting ∨ c.freeRun i.ch ((n + 63) / 64) = none → c.offer i = .refused) ∧
      (n ≤ 512 → ∀ p : Progress,
        i.prog = some p ∨ (i.prog = none ∧ waiting < 8 ∧ ∃ g, c.freeRun i.ch ((n + 63) / 64) = some g ∧ p = ⟨0, 64 * g⟩) →
        let a := 0xF4000 + 512 * ch + p.off
        (n ≤ p.done + 64 → c.nextLine i = none) ∧
        (p.done + 64 < n → ∃ c', c.nextLine i = some (c', { p with done := p.done + 64 }) ∧ c'.pend = c.pend ∧ c'.ctr = c.ctr ∧ c'.ctxs = c.ctxs ∧
          (∀ j, j < 64 → c'.ls.byte (a + p.done + j) = (i.bytes.getD (p.done + j) (0, false)).1) ∧
          ∀ y, (y < a + p.done ∨ a + p.done + 64 ≤ y) → c'.ls.byte y = c.ls.byte y) ∧
        ∃ c' x, c.offer i = .took c' ∧ c'.pend = c.pend ++ [x] ∧
          x.ch = i.ch ∧ x.mode = 0 ∧ x.sender = i.sender ∧ x.addr = BitVec.ofNat 20 a ∧ x.len = BitVec.ofNat 12 n ∧
          (∀ j, p.done + j < n → c'.ls.byte (a + p.done + j) = (i.bytes.getD (p.done + j) (0, false)).1) ∧
          ∀ y, (y < a + p.done ∨ a + n ≤ y) → c'.ls.byte y = c.ls.byte y)) ∧
    (mode 1 →
      (8 < n → c.offer i = .failed .msglen) ∧
      (n ≤ 8 → 16 ≤ (c.tokens.filter fun t => t.ch == i.ch).length → c.offer i = .refused) ∧
      (n ≤ 8 → (c.tokens.filter fun t => t.ch == i.ch).length < 16 → ∃ c', c.offer i = .took c')) ∧
    (mode 2 →
      let w := c.chDesc ch
      let k : BitVec 4 := w.extractLsb' 24 4
      let base := w.toNat % 2 ^ 20
      let size := 64 * 2 ^ (w.toNat / 2 ^ 20 % 16)
      let count := (c.ctr[k.toNat]).toNat
      let p : Progress := i.prog.getD ⟨0, count % size⟩
      let here := (p.off + p.done) % size
      let raised (c' : Core) : Prop := (c'.ctr[k.toNat]).toNat = min (count + n) (2 ^ 32 - 1)
      (p.done < n → ∃ c', c.nextLine i = some (c', { p with done := p.done + min (min (n - p.done) (size - here)) (64 - (base + here) % 64) }) ∧
        (∀ j, j < min (min (n - p.done) (size - here)) (64 - (base + here) % 64) → c'.ls.byte (base + here + j) = (i.bytes.getD (p.done + j) (0, false)).1) ∧
        c'.pend = c.pend ∧ c'.ctr = c.ctr ∧ c'.ctxs = c.ctxs ∧
        ∀ y, (y < base + here ∨ base + here + min (min (n - p.done) (size - here)) (64 - (base + here) % 64) ≤ y) → c'.ls.byte y = c.ls.byte y) ∧
      (n ≤ p.done → c.nextLine i = none) ∧
      (w.getLsbD 28 = true → 8 ≤ waiting → c.offer i = .refused) ∧
      (w.getLsbD 28 = false → ∃ c', c.offer i = .took c' ∧ RingWritten c c' base size here (i.bytes.drop p.done) ∧ raised c' ∧ c'.pend = c.pend) ∧
      (w.getLsbD 28 = true → waiting < 8 → base + size ≤ 0xF0000 → ∃ c' x, c.offer i = .took c' ∧ raised c' ∧
        (∀ j, j < n - p.done → n - p.done ≤ size → c'.ls.byte (base + (here + j) % size) = (i.bytes.getD (p.done + j) (0, false)).1) ∧
        (∀ y, (y < base ∨ base + size ≤ y) → (y < 0xF4000 + 512 * ch ∨ 0xF4000 + 512 * ch + 256 ≤ y) → c'.ls.byte y = c.ls.byte y) ∧
        c'.pend = c.pend ++ [x] ∧ x.ch = i.ch ∧ x.mode = 2 ∧ x.sender = i.sender ∧ x.addr = BitVec.ofNat 20 p.off ∧ x.len = BitVec.ofNat 12 n ∧
        x.word = (c'.ctr[k.toNat]).setWidth 64 ∧ x.psn = false)) ∧
    (c.chMode ch ≠ 2 → c.chMode ch ≠ 0 → c.nextLine i = none) ∧
    (mode 3 →
      let q : BitVec 1 := (c.chDesc ch).setWidth 1
      let f := (c.ctxAt (c.chCtx ch)).feed q
      let room := 16 - (f.live.length + f.kept.length)
      (n ≠ 8 → n = 0 ∨ n % 64 ≠ 0 ∨ 16 < n / 64 → c.offer i = .failed .msglen) ∧
      (n ≠ 8 → n ≠ 0 → n % 64 = 0 → n / 64 ≤ 16 → room < n / 64 → c.offer i = .refused) ∧
      (n ≠ 8 → n ≠ 0 → n % 64 = 0 → n / 64 ≤ 16 → n / 64 ≤ room → ∃ c' es, c.offer i = .took c' ∧ es.length = n / 64 ∧
        ((c'.ctxAt (c.chCtx ch)).feed q).live = f.live ++ es ∧ ∀ e ∈ es, e.marks = 0) ∧
      (n = 8 → room = 0 ∨ 0 < waiting → c.offer i = .refused) ∧
      (n = 8 → room ≠ 0 → waiting = 0 → ∃ c' e x, c.offer i = .took c' ∧ ((c'.ctxAt (c.chCtx ch)).feed q).live = f.live ++ [e] ∧ e.marks = 0x100 ∧
        c'.pend = c.pend ++ [x] ∧ x.ch = i.ch ∧ x.mode = 3 ∧ x.sender = i.sender ∧ x.len = 8))

/-- R191, R192, R232, R113: the destination core performs stores, reads and atomics of other cores, and answers; a store goes line by line (R361, R367, R369). What the acknowledgement of a PUT holds, and where an RA's message holds FN and its operands, are the model's choices (log 32). -/
def Obligations.RemoteRequests : Prop :=
∀ n m k (s : State), s.delivers n m k →
    let a := m.laddr.toNat
    let marked := m.payload.any Prod.snd
    let d := (m.prog.map Progress.done).getD 0
    let l := min (m.payload.length - d) (64 - (a + d) % 64)
    let line (c : Core) : Core := c.wrMarked (a + d) ((m.payload.drop d).take l)
    (∀ i, (m.kind = 2 ∧ i = Instr.putPerform n) ∨ (m.kind = 5 ∧ i = Instr.streamStorePerform n) →
      (d + l < m.payload.length → exec i s = .next (((s.dropMsg n).upd k line).unfinished m ⟨d + l, 0⟩)) ∧
      (m.payload.length ≤ d + l → exec i s =
        .next (s.answers n m k line 0x10 0 (if m.kind = 2 then m.payload.take 1 |>.map fun b => (b.1, marked) else [])))) ∧
    (m.kind = 3 → exec (.getServe n) s = .next (s.answers n m k id 0x11 0 ((s.coreAt k).rdMarked a m.len.toNat))) ∧
    (m.kind = 6 → exec (.streamReadServe n) s = .next (s.answers n m k id 0x11 0 ((s.coreAt k).rdMarked a m.len.toNat))) ∧
    (m.kind = 4 →
      let ty := Ty.ofCode (m.aux.setWidth 4)
      let w := ty.width / 8
      let c := s.coreAt k
      let old := BitVec.ofNat 64 (c.rdNat a w)
      let arg (i : Nat) : BitVec 64 := ty.low (BitVec.ofNat 64 (leNat (((m.payload.drop (8 * i)).take 8).map Prod.fst)))
      let new := amNew (m.aux.extractLsb' 4 3) ty old (arg 0) (arg 1)
      let put (x : BitVec 64) (c : Core) : Core := c.wrMarked a ((natBytes x.toNat w).map fun b => (b, marked))
      exec (.raPerform n) s = .next (s.answers n m k (fun c => if marked then put 0 c else if new ≠ old ∨ w = 8 then put new c else c) 0x10 0
        ((natBytes (ty.extend old).toNat 8).map fun b => (b, c.anyMarked a w || marked))))

/-- R171, R173, R191, R225, R232, R244, R253, R254: what the sender makes of the answers: an acknowledged operation is freed and its ticket done; a refused one is offered again 64 cycles later; a stale name waits for the page map or is reported; a failed delivery is reported. The words of a report about an operation that failed after it left are the model's reading (log 19). -/
def Obligations.Answers : Prop :=
(∀ n m k (s : State) id, m.why = .op id → (∀ o ∈ (s.coreAt k).ops, o.id = id → o.owes = none) →
    let u := s.dropMsg n
    let c := s.coreAt k
    let ticketed := ∃ o ∈ c.ops, o.id = id ∧ o.tkt.isSome = true
    let mine (o : Op) := c.ops.find? (fun o => o.id == id) = some o
    (s.returns n m k 0x10 → (¬ ticketed → exec (.acknowledgement n) s = .next (u.setCoreAt k (c.without id))) ∧
      (ticketed → ∃ v, exec (.acknowledgement n) s = .next (u.setCoreAt k ((c.completeTicket m.tkt 0 (firstWord m.payload).2 v).without id)) ∧
        ∀ x, c.heldTicket m.tkt = some x → v = if x.kind = 3 then (firstWord m.payload).1 else 0)) ∧
    (s.returns n m k 0x11 → (∃ o, mine o) →
      let d := (m.prog.map Progress.done).getD 0
      let l := min (m.payload.length - d) (64 - (m.back.toNat + d) % 64)
      let c' := c.wrMarked (m.back.toNat + d) ((m.payload.drop d).take l)
      (d + l < m.payload.length → exec (.getData n) s = .next ((u.setCoreAt k c').unfinished m ⟨d + l, 0⟩)) ∧
      (m.payload.length ≤ d + l → exec (.getData n) s = .next (u.setCoreAt k
        (({ c' with remFails := 0 }.completeTicket m.tkt 0 (m.payload.any Prod.snd) 0).without id)))) ∧
    (s.returns n m k 0x13 → ∃ t, exec (.refusal n) s = .next t ∧ u.onlyAt t k ∧
      (t.coreAt k).ops = c.ops.map fun o => if o.id = id then { o with st := .refused, since := s.cycle } else o) ∧
    (s.returns n m k 0x14 → ∀ o, mine o →
      (o.rel.isSome = true → ∃ t, exec (.staleName n) s = .next t ∧ u.onlyAt t k ∧
        (t.coreAt k).ops = c.ops.map fun o => if o.id = id then { o with st := .stale, since := s.cycle } else o) ∧
      (o.rel = none → exec (.staleName n) s = .next (u.setCoreAt k
        ((c.report2 (Cause.code .stale) o.site (m.src.setWidth 64) o.dst (o.tkt.getD 0)).without id)))) ∧
    (s.returns n m k 0x15 → ∀ o, mine o → o.tkt = none → ∃ info, exec (.deliveryFailure n) s = .next (u.setCoreAt k
        ((c.report2 m.aux o.site info o.dst 0).without id)) ∧
      (m.aux = Cause.code .nochn → info = o.ch.setWidth 64) ∧ (m.aux = Cause.code .msglen → info = BitVec.ofNat 64 o.payload.length))) ∧
  (∀ n m k (s : State) id o x, m.why = .op id → s.returns n m k 0x10 → (s.coreAt k).ops.filter (fun o => o.id == id) = [o] → o.owes = some x → o.tkt = none →
    exec (.acknowledgement n) s = .next ((s.dropMsg n).setCoreAt k (((s.coreAt k).without id).withStream x fun y => { y with owed := y.owed - 1 }))) ∧
  (∀ k id o (s : State), (s.coreAt k).ops.find? (fun o => o.id == id) = some o → (s.coreAt k).captured = false → o.st = .refused → o.since + 64 ≤ s.cycle →
    exec (.reoffer k id) s = .next (s.sendOp k o false)) ∧
  (∀ k id o (s : State), (s.coreAt k).ops.find? (fun o => o.id == id && o.st == .stale && decide (o.since + 64 ≤ s.cycle)) = some o →
    (∀ rel c' w, o.rel = some rel → NamedFrom (s.coreAt k) rel c' w → ∃ t, exec (.retranslateCheck k id) s = .next t ∧ s.onlyAt t k ∧
      (w.extractLsb' 24 8 ≠ o.dst.extractLsb' 24 8 → ∀ x ∈ (t.coreAt k).ops, x.id = id →
        x.st = .held ∧ x.dst.extractLsb' 0 32 = w.extractLsb' 0 32) ∧
      (w.extractLsb' 24 8 = o.dst.extractLsb' 24 8 → ∀ x ∈ (t.coreAt k).ops, x.id = id → x.since = s.cycle)) ∧
    (∀ rel, o.rel = some rel → (s.coreAt k).relToNamed rel = none → o.owes = none → ∃ t, exec (.retranslateCheck k id) s = .next t ∧ s.onlyAt t k ∧
      ∀ x ∈ (t.coreAt k).ops, x.id ≠ id)) ∧
  (∀ n m (s : State), s.flight[n]? = some m → listedKind m.kind = false → exec (.unlistedKind n) s = .next { s.dropMsg n with
    boot := { s.boot with badKinds := if s.boot.badKinds = BitVec.allOnes 64 then s.boot.badKinds else s.boot.badKinds + 1 } }) ∧
  ∀ n m k (s : State) id req, m.why = .store id req → s.returns n m k 0x10 → exec (.acknowledgement n) s =
    .next ((s.dropMsg n).setCoreAt k ((s.coreAt k).withStream id fun x => { x with wrOut := x.wrOut.filter (fun w => w.1 != req), sentBytes := [], again := none }))

/-- R300, R302, R304: units of blocks combine to the exact sums of their integers, whatever the grouping; poison wins with the least origin; a sum clamps to 32 bits; and the next scale falls by one when every sum is below 2^23. -/
def Obligations.CombineArithmetic : Prop :=
(∀ (d : List Word) (u : CUnit) (us : List CUnit) (f : CUnit → List Int), (∀ x ∈ u :: us, ∃ i t, x.body = .fixed (f x) i t ∧ (f x).length = 32) →
    ∃ i t n, combineUnits d (u :: us) = some (.fixed n i t, (u :: us).foldr (fun x a => x.count + a) 0, (u :: us).flatMap CUnit.ranks) ∧
      n.length = 32 ∧ ∀ j, j < 32 → n.getD j 0 = sumAt ((u :: us).map f) j) ∧
  (∀ (d : List Word) (u : CUnit) (us : List CUnit), (∀ x ∈ u :: us, ∀ r, x.body ≠ .raw r) → (∃ x ∈ u :: us, ∃ o, x.body = .poison o) →
    ∃ o c r, combineUnits d (u :: us) = some (.poison o, c, r) ∧
      orgWinner ((u :: us).filterMap fun x => match x.body with | .poison o => some o | _ => none) = some o) ∧
  (∀ n i s, ∃ i' s' n', clampBody (.fixed n i s) = .fixed n' i' s' ∧ i' = i ∧ n'.length = n.length ∧
    ((∀ x ∈ n, -2 ^ 31 ≤ x ∧ x ≤ 2 ^ 31 - 1) → n' = n ∧ s' = s) ∧
    ((∃ x ∈ n, x < -2 ^ 31 ∨ 2 ^ 31 - 1 < x) → s' = true ∧ ∀ j, j < n.length → n'.getD j 0 = max (-(2 ^ 31 - 1)) (min (n.getD j 0) (2 ^ 31 - 1)))) ∧
  ∀ rnm (sc : BitVec 8) n i s, nextScale rnm sc (.fixed n i s) =
    if rnm = false ∧ ∀ x ∈ n, x.natAbs < 2 ^ 23 then BitVec.ofNat 8 (max 1 (sc.toNat - 1)) else sc

/-- R297, R300 to R308: units move up in order, where their input has room; a wrong scale, an older attempt or a late unit is dropped; renormalisation raises the scale by 4; results go to the members part by part, in place or as one message; and a quorum goes on after 1 µs and at its deadline. What a unit, a commit and a release do to the entries is as the model's log 17 says where R300 to R308 leave it open.
R400 to R403: the messages of a tree that spans modules: joining, partial sums, aborts, and leaving; the forms that these messages take, and the abort that goes to the other parts, are the model's readings (log 23). -/
def Obligations.CombinePlane : Prop :=
  (
  (∀ n u t e (s : State), s.cunits[n]? = some u → s.treeAt u.tid u.router t e →
    let s' := { s with cunits := s.cunits.eraseIdx n }
    let v := s'.takeUnit t e u
    let now := if u.router = t.root then t.step else e.step
    (∀ x ∈ s.cunits.take n, ¬ (x.tid = u.tid ∧ x.router = u.router ∧ x.port = u.port ∧ x.step = u.step)) →
    (u.step < now → u.port ≠ 5 → exec (.combineUnit n) s = .next (s'.pumpSender t u)) ∧
    (u.step < now → u.port = 5 → s.owes t u.router u.step = false →
      exec (.combineUnit n) s = .next (s'.setCoreAt u.router ((s'.coreAt u.router).endStep u.tid u.step (Cause.code .qlate) false))) ∧
    (now ≤ u.step → u.step ≤ e.step → (e.held.filter fun x => x.port == u.port).length < (if descTy t.desc = .vb16 then 1 else 2) →
      let fits : Prop := (descOpc t.desc = 12 → v.stamp = e.sc.getD u.pos 0) ∧ v.att = e.att
      (fits → exec (.combineUnit n) s = .next ((s'.placeUnit t e v).pumpSender t u)) ∧ (¬ fits → exec (.combineUnit n) s = .next (s'.pumpSender t u)))) ∧
  (∀ n q t e (s : State), s.rnqs[n]? = some q → s.tree? q.tid = some t → t.entries.find? (fun e => e.router == t.root) = some e → e.par ≠ 6 →
    let s' := { s with rnqs := s.rnqs.eraseIdx n }
    (q.step = t.step → e.sc.getD q.pos 0 = q.scale →
      exec (.rnq n) s = .next (s'.commitScale t q.pos (BitVec.ofNat 8 (min (q.scale.toNat + 4) 254)))) ∧
    (q.step ≠ t.step ∨ e.sc.getD q.pos 0 ≠ q.scale → exec (.rnq n) s = .next s')) ∧
  (∀ n q t (s : State), s.rnms[n]? = some q → s.tree? q.tid = some t →
    let up := ((nextHop q.router t.root).map Prod.snd).getD t.root
    (∀ x ∈ s.rnms.take n, ¬ (x.tid = q.tid ∧ x.router = q.router)) →
    (∀ x ∈ s.rnms, ¬ (x.tid = q.tid ∧ x.router = up ∧ x.step = q.step ∧ x.pos = q.pos ∧ x.scale = q.scale)) →
    (∀ e ∈ t.entries, e.router = q.router → q.step ≤ e.step) →
    let s' := { s with rnms := s.rnms.eraseIdx n }
    exec (.rnm n) s = .next (if q.step = t.step then s'.renorm t q.router q.pos q.scale else s')) ∧
  (∀ n x t e o (s : State), s.downs[n]? = some x → 5 ∈ x.todo → s.treeAt x.tid x.router t e →
    (∀ y ∈ s.downs.take n, ¬ (y.tid = x.tid ∧ y.router = x.router ∧ 5 ∈ y.todo)) →
    (s.coreAt x.router).captured = false → x.again ≤ s.cycle → (s.coreAt x.router).openFor t.tid x.step = some o →
    let c := s.coreAt x.router
    let last : Bool := x.pos + 1 == descParts t.desc
    let kept (h : Handing) (got : List MByte) (u : State) : State := u.modEntry t.tid x.router fun e => { e with hand := some (x.step, h), got := got }
    let ended (u : State) : State := (u.modEntry t.tid x.router fun e => { e with hand := none, got := [], prog := none }).closeStep t x.router x false
    (x.bytes = none → exec (.resultDelivery n) s = .next ((s.closeStep t x.router x false).leaveDown n 5)) ∧
    (∀ bs, x.bytes = some bs → s.portHeld t.tid x.router = false → o.ip = true → e.hand = none ∨ e.hand = some (x.step, .place) →
      let at' := if x.pos = descPositions t.desc then 64 * descSlen t.desc else descUnit t.desc * x.pos
      ∃ m, (let u := s.setCoreAt x.router ((c.wrMarked (o.addr.toNat + at') bs).setTreeMem t.tid m)
        exec (.resultDelivery n) s = .next ((if last then ended u else kept .place [] u).leaveDown n 5)) ∧
        m.bitStep = x.step ∧ ∀ i : Nat, at' ≤ 64 * i → 64 * i < at' + (if x.pos = descPositions t.desc then 64 else descUnit t.desc) → i < 32 → m.bitmap.getLsbD i = true) ∧
    (∀ bs, x.bytes = some bs → s.portHeld t.tid x.router = false → o.ip = false → e.hand = none ∨ e.hand = some (x.step, .message) →
      (last = false → exec (.resultDelivery n) s = .next ((kept .message (e.got ++ bs) s).leaveDown n 5)) ∧
      ∀ c', last = true → c.offer (s.resultMsg t e (e.got ++ bs)) = .took c' →
        exec (.resultDelivery n) s = .next (match c.nextLine (s.resultMsg t e (e.got ++ bs)) with
          | some (d, p) => (s.setCoreAt x.router d).modEntry t.tid x.router fun e => { e with hand := some (x.step, .message), prog := some p }
          | none => (ended (s.setCoreAt x.router c')).leaveDown n 5))) ∧
  (∀ r gid tid pos t e n (s : State), s.treeAt tid r t e → t.gid = gid → descQrm t.desc = true → NMap.get? e.since pos = some n → n + 3300 ≤ s.cycle →
    s.upFull t e = false → exec (.quorumWait r gid tid pos) s = .next ((s.forward t e pos).tryRelease tid)) ∧
  ∀ gid tid t n (s : State), s.tree? tid = some t → t.gid = gid → descQrm t.desc = true → t.qsince = some n → descDln t.desc ≠ 0 →
    n + 3300 * descDln t.desc ≤ s.cycle → (∀ p, p < descPositions t.desc → ∃ u ∈ t.sums, u.pos = p) → (∀ k ∈ t.members, (s.coreAt k).captured = false) →
    let wide (u : CUnit) : Prop := (∃ n i b, u.body = .fixed n i b ∧ ∃ x ∈ n, x < -2 ^ 31 ∨ 2 ^ 31 - 1 < x) ∧ (t.rootScales.getD u.pos 0).toNat < 254
    ((∀ u ∈ t.sums, ¬ wide u) → exec (.quorumDeadline gid tid) s = .next (s.releaseStep t)) ∧
    ((∃ u ∈ t.sums, wide u) → ∃ u ∈ t.sums, wide u ∧
      exec (.quorumDeadline gid tid) s = .next (s.commitScale t u.pos (BitVec.ofNat 8 (min ((t.rootScales.getD u.pos 0).toNat + 4) 254))))) ∧
  (
  (∀ n m (s : State), s.laneIn[n]? = some m →
    let u : State := { s with laneIn := s.laneIn.eraseIdx n }
    (m.kind = .join → ∃ t a, exec (.treeJoin n) s = .next t ∧ t.laneOut = s.laneOut ++ [a] ∧ a.peer = m.peer ∧ a.kind = .joined ∧ a.tid = m.tid ∧
      (s.tree? m.tid = none → a.count = (Cause.code .tnomem).toNat ∧ t.trees = s.trees) ∧
      (∀ x, s.tree? m.tid = some x → descXm x.desc = true → descRmod x.desc = s.modId →
        (x.step ≠ 0 ∨ (∃ k ∈ x.members, 0 < ((s.coreAt k).treeMem x.tid).issued) → a.count = (Cause.code .texist).toNat) ∧
        (x.step = 0 → (∀ k ∈ x.members, ((s.coreAt k).treeMem x.tid).issued = 0) →
          let same : Prop := descForm x.desc = descForm m.desc ∧ descOpc x.desc = descOpc m.desc ∧ descTy x.desc = descTy m.desc ∧ descSlen x.desc = descSlen m.desc
          (¬ same → a.count = (Cause.code .badarg).toNat) ∧
          (same → a.count = 0 ∧ t.tree? m.tid = some (x.join m.peer m.count))))) ∧
    (m.kind = .joined → exec (.treeJoin n) s =
      .next ((if m.count = 0 then u else u.removeTree m.tid).finishTicket m.core m.tkt (BitVec.ofNat 12 m.count))) ∧
    (s.tree? m.tid = none → exec (.treePartial n) s = .next u) ∧
    (∀ t e, s.tree? m.tid = some t → t.entries.find? (fun e => e.router == t.root) = some e →
      (∀ x ∈ s.laneIn.take n, x.kind.combines = true → ¬ (x.peer = m.peer ∧ x.tid = m.tid)) →
      (m.kind = .part → m.step ≠ t.step → exec (.treePartial n) s = .next u) ∧
      (∀ i, m.kind = .part → t.joins.findIdx? (fun j => j.1 == m.peer) = some i → m.peer ∉ t.gone → m.step = t.step → e.step = m.step → m.att = e.att →
        (descOpc t.desc = 12 → m.stamp = e.sc.getD m.pos 0) → t.has e (8 + i) m.pos = false →
        exec (.treePartial n) s = .next (u.placeUnit t e ⟨t.gid, t.tid, t.step, m.pos, t.root, 8 + i, m.stamp, landPartial t.desc m.stamp m.body,
          m.count, m.ranks.map (t.members.length + ((t.joins.take i).map Prod.snd).sum + ·), e.att⟩)) ∧
      (m.kind = .rnm ∨ m.kind = .rnq → m.step ≠ t.step → exec (.treePartial n) s = .next u) ∧
      (m.kind = .rnm → m.step = t.step → e.step = m.step → exec (.treePartial n) s = .next (u.commitScale t m.pos m.stamp)) ∧
      (m.kind = .rnq → m.step = t.step → e.step = m.step → m.stamp = e.sc.getD m.pos 0 →
        exec (.treePartial n) s = .next (u.commitScale t m.pos (BitVec.ofNat 8 (min (m.stamp.toNat + 4) 254)))) ∧
      (m.kind = .part ∨ m.kind = .rnm → m.step = t.step → e.step ≠ m.step → m.att = e.att → (∃ j ∈ t.joins, j.1 = m.peer) → m.peer ∉ t.gone →
        (descOpc t.desc = 12 → m.stamp = e.sc.getD m.pos 0) → (∀ p, t.has e p m.pos = false) → ¬ Completes (.treePartial n) s) ∧
      (m.kind = .abort → t.isJoin s.modId = true → exec (.treePartial n) s = .next ((u.abortHere t m.step).rescale t.tid m.scales)) ∧
      (m.kind = .abort → t.isJoin s.modId = false → (∃ j ∈ t.joins, j.1 = m.peer) → m.peer ∉ t.gone → m.step ≤ t.step →
        exec (.treePartial n) s = .next (u.abortOne t m.step)))) ∧
  ∀ m gid tid t (s : State), s.tree? tid = some t → t.gid = gid →
    let u : State := { s with laneIn := s.laneIn.filter fun x => !(x.kind == LaneKind.leave && x.peer == m && x.tid == tid) }
    (descXm t.desc = true → descRmod t.desc = m → m ≠ s.modId → exec (.detach m gid tid) s = .next (u.freeTree t)) ∧
    (¬ (descXm t.desc = true ∧ descRmod t.desc = m ∧ m ≠ s.modId) → (∃ j ∈ t.joins, j.1 = m) → m ∉ t.gone →
      let v := u.modTree tid fun t => { t with gone := t.gone ++ [m] }
      exec (.detach m gid tid) s = .next ((List.range (descPositions t.desc)).foldl (fun s _ => s.pump tid t.root)
        (if descQrm t.desc then v else v.detachStep t))))

/-- R387: the words written to a record slot collect in its buffer; the write of the last word enqueues the buffer and clears it; a record that meets a full queue is dropped and counted in OVF. -/
def Obligations.RecordSlots : Prop :=
∀ q w data (s : State),
    let x := s.queueAt q
    let buffer := x.slot.set w.toNat data
    (w ≠ 7 → exec (.recordSlotWrite q w data) s = .next (s.setQueue q { x with slot := buffer })) ∧
    (w = 7 → x.recs.length < 256 → exec (.recordSlotWrite q w data) s =
      .next (s.setQueue q { x with slot := List.replicate 8 0, recs := x.recs ++ [⟨buffer, none, none, none⟩] })) ∧
    (w = 7 → 256 ≤ x.recs.length → exec (.recordSlotWrite q w data) s =
      .next (s.setQueue q { x with slot := List.replicate 8 0, ovf := BitVec.ofNat 16 (min (x.ovf.toNat + 1) 0xFFFF) }))

/-- R216, R263: LAUNCH enqueues the record with the launching group's ASID and DOM, NMV = 0, and no signal of a privileged event without privilege; a full queue answers QFULL. That starting a group is one move of the sequencer is the model's choice (log 14).
R260, R264, R266, R272, R387: with phase 4, a head whose record is malformed completes with its cause, a head waits for its dependence or for pages, and a head that is ready is launched when no queue of higher rank has a ready head; what a head has passed is not checked again.
R273: the state that a launch leaves in a core before its start message. -/
def Obligations.Launching : Prop :=
  (
  (∀ n r g (s : State), s.requested n .launch r → s.group? r.gid = some g →
    let q : BitVec 4 := r.b.extractLsb' 0 4
    let x := s.queueAt q
    (256 ≤ x.recs.length → exec (.launchEnqueue n) s = .next (s.ends n r (Cause.code .qfull))) ∧
    (x.recs.length < 256 → exec (.launchEnqueue n) s =
      .next (((s.dropReq n).setQueue q { x with recs := x.recs ++ [⟨kernelRecord g r.prv r.words, none, none, none⟩] }).finishTicket r.core r.tkt 0))) ∧
  ∀ g prv ws, ws.length = 8 →
    let r := kernelRecord g prv ws
    r.length = 8 ∧ recAsid r = g.asid ∧ recDom r = g.dom ∧ recNmv r = false ∧
    recCevv r = (recCevv ws && (prv || decide (recCev ws < 0xFF00))) ∧ recImg r = recImg ws ∧ recDepe r = recDepe ws ∧ recDept r = recDept ws ∧
    recCev r = recCev ws ∧ recStrt r = recStrt ws ∧ recFcv r = recFcv ws ∧ recFch r = recFch ws ∧ recWdl r = recWdl ws ∧ r.drop 3 = ws.drop 3) ∧
  (
  (∀ q r (s : State), s.boot.phase = 4 → (s.queueAt q).recs.head? = some r → r.image = none →
    let ends (c : Cause) := exec (.startGroup q) s = .next (s.unlessHeld ((s.popHead q).complete r.words q 0 c.code 0 0 0 0))
    (recOk r.words = false → ends .badarg) ∧
    (recOk r.words = true → s.fetchImage (recAsid r.words) (recImg r.words) = none → ends .badimg) ∧
    ∀ t bs, recOk r.words = true → s.fetchImage (recAsid r.words) (recImg r.words) = some (t, bs) → (parseImage bs = none → ends .badimg) ∧
      ∀ img, parseImage bs = some img → (t.everPlaced img.sct img.pages img.w img.h = false → ends .nopage) ∧
        (t.everPlaced img.sct img.pages img.w img.h = true → recDept r.words ≠ 0 → (t.eventAt (recDepe r.words)).fail = true → ends .depf)) ∧
  (∀ q r u bs img h (s : State), s.boot.phase = 4 → (s.queueAt q).recs.head? = some r → s.checked q r u bs img → (u.queueAt q).recs.head? = some h →
    (h.dep = some false → exec (.startGroup q) s = .next (s.unlessHeld ((s.popHead q).complete r.words q 0 (Cause.code .depf) 0 0 0 0))) ∧
    (h.dep = none → (s.queueAt q).why ≠ 1 → exec (.startGroup q) s = .next (s.unlessHeld (u.noteWhy q 1))) ∧
    (h.dep = some true →
      (u.placeHead q img.sct img.pages img.w img.h = none → (s.queueAt q).why ≠ 2 → (s.queueAt q).why ≠ 3 →
        exec (.startGroup q) s = .next (s.unlessHeld (u.noteWhy q 2))) ∧
      (u.placeHead q img.sct img.pages img.w img.h = none → (s.queueAt q).why = 3 → s.madeAll q = true →
        exec (.startGroup q) s = .next ((s.endMaking q).noteWhy q 2)) ∧
      (∀ ps, u.placeHead q img.sct img.pages img.w img.h = some ps → (s.queueAt q).why ≠ 2 → (s.queueAt q).why ≠ 3 →
        (∃ e ∈ s.seq.resumes, e.queue = q ∧ e.moved ≠ some q) ∨ (∃ j : BitVec 4, j.toNat < q.toNat ∧ s.headReady j = true) →
        exec (.startGroup q) s = .next (s.unlessHeld (u.noteWhy q 2))) ∧
      ∀ ps, u.placeHead q img.sct img.pages img.w img.h = some ps → (∀ e ∈ s.seq.resumes, e.queue = q → e.moved = some q) →
        (∀ j : BitVec 4, j.toNat < q.toNat → s.headReady j = false) →
        exec (.startGroup q) s = .next (s.unlessHeld ((u.popHead q).launch q r.words img bs ps)))) ∧
  (∀ q r (s : State), (s.queueAt q).recs.head? = some r → r.image.isSome = true → r.dep = none →
    let e := s.eventAt (recDepe r.words)
    let becomes (d : Option Bool) := ((s.meetHead q).queueAt q).recs = { r with dep := d } :: (s.queueAt q).recs.drop 1
    (e.fail = true → becomes (some false)) ∧ (e.fail = false → recDept r.words ≤ e.count → becomes (some true)) ∧
    (e.fail = false → e.count < recDept r.words → becomes none))) ∧
  (
  ∀ (s : State) (g : Group) img pg k, g.pages.length ≤ 1024 → img.image.length ≤ 0xF0000 →
    let c := s.launchCore g img pg k
    c.grpid = g.grpid ∧ c.name = s.nameOf k ∧ c.relpos = relposOf k pg ∧ c.wdogLim = wdlLim (recWdl g.words) ∧ c.clean = true ∧
    (∀ x : Fin 4, c.ctxs[x] = Ctx.reset) ∧
    c.pend = [] ∧ c.tokens = [] ∧ c.retained = [] ∧ c.ops = [] ∧ c.streams = [] ∧ c.slots = [] ∧ c.nextTkt = 0 ∧ c.win.journal = [] ∧ c.pmCache = [] ∧ c.pmMiss = 0 ∧ c.twc = false ∧
    (∀ x : Fin 2, c.latch[x] = Latch.empty) ∧ (∀ x : Fin 4, c.acc[x] = Acc.zero) ∧ (∀ x : Fin 16, c.ctr[x] = 0) ∧ c.islBnd = false ∧
    (∀ a, 0xF0000 ≤ a → a < 0xFC000 → c.ls.byte a = 0) ∧ (∀ a, img.image.length ≤ a → a < 0xF0000 → c.ls.byte a = 0) ∧
    (∀ a, a < img.image.length → c.ls.byte a = img.image.getD a 0) ∧
    ∀ ch, ch < 64 → (∀ e ∈ img.chans, fld e.1 37 6 ≠ ch) → (∀ e ∈ img.joins, ch ∉ maskChannels e.2) → c.bound ch = false)

/-- R216, R265, R388, R389: EVSIG and a host's write raise a counter, saturating, which fires the arms that it satisfies; EVARM replaces the arm of its channel, fires at once where satisfied, and makes no arm beyond the limits; EVRD answers with the counter; CLRF clears FAIL; an MSI-X arm fires once, with its vector out of the host port of its rank; that it goes nowhere where no port has that rank is the model's reading (log 18). -/
def Obligations.Events : Prop :=
(∀ n r (s : State), s.requested n .evsig r → ∃ t, exec (.eventSignal n) s = .next t ∧
    let e := (r.a.extractLsb' 0 16).toNat
    (s.dropReq n).Raised t e (satAdd (s.eventAt e).count (r.b.extractLsb' 0 32).toNat)) ∧
  (∀ n r (s : State), s.seqReq? n .evsig = none → s.requested n .evarm r →
    let a : Arm := ⟨r.core, r.gid, r.b.extractLsb' 32 6, r.a.extractLsb' 0 16, r.b.extractLsb' 0 32⟩
    let others := s.seq.arms.filter fun x => !(x.gid == a.gid && x.core == a.core && x.ch == a.ch)
    let u : State := { s.dropReq n with seq := { s.seq with arms := others } }
    let now := (s.eventAt a.ev.toNat).count
    let full := 4096 ≤ others.length ∨ 16 ≤ (others.filter fun x => x.gid == a.gid && x.core == a.core).length
    (a.thr ≤ now → exec (.eventSignal n) s = .next { u with flight := s.flight ++ [armMsg s.modId (s.coreAt a.core).addr a.gid a.ch now] }) ∧
    (¬ a.thr ≤ now → full → exec (.eventSignal n) s = .next (u.seqReport (Cause.code .evfull) 2 a.gid 0 0)) ∧
    (¬ a.thr ≤ now → ¬ full → exec (.eventSignal n) s = .next { u with seq := { u.seq with arms := others ++ [a] } })) ∧
  (∀ n r (s : State), s.requested n .evrd r → ∃ t, exec (.evrdResponse n) s = .next t ∧ (s.dropReq n).onlyAt t r.core ∧
    t.coreAt r.core = ((s.coreAt r.core).wrMarked (r.b.extractLsb' 0 20).toNat
      ((natBytes (s.eventAt (r.a.extractLsb' 0 16).toNat).count.toNat 8).map fun b => (b, false))).completeTicket r.tkt 0 false 0) ∧
  (∀ e v (s : State), ∃ t, exec (.eventWordAdd e v) s = .next t ∧ s.Raised t e.toNat (satAdd (s.eventAt e.toNat).count v.toNat)) ∧
  (∀ e (s : State), ∃ t, exec (.clrf e) s = .next t ∧ t.eventAt e.toNat = ⟨(s.eventAt e.toNat).count, false⟩ ∧
    ∀ j, j ≠ e.toNat → t.eventAt j = s.eventAt j) ∧
  ∀ i (w : Word) (s : State),
    (∀ x ∈ NMap.set s.edge.msix i.toNat 0, x.2.getLsbD 63 = true → x.2.extractLsb' 32 16 ≠ w.extractLsb' 32 16) →
    ∃ t, exec (.msixArm i w) s = .next t ∧
      let n := (s.eventAt (w.extractLsb' 32 16).toNat).count
      let sent := match s.edge.hosts[(w.extractLsb' 58 2).toNat]? with
        | some p => [(p, w.extractLsb' 48 10, i.toNat)]
        | none => []
      (w.getLsbD 63 = true → w.extractLsb' 0 32 ≤ n → t.edge.irqs = s.edge.irqs ++ sent ∧ (NMap.get? t.edge.msix i.toNat).any (fun x => x.getLsbD 63) = false) ∧
      (w.getLsbD 63 = true → ¬ w.extractLsb' 0 32 ≤ n → t.edge.irqs = s.edge.irqs ∧ (NMap.get? t.edge.msix i.toNat).any (fun x => x.getLsbD 63) = true)

/-- R326, R386: a record is posted to the group's fault channel, or written into the fault log of its queue, which keeps the last 256 and counts the lost ones; the management and fault logs can be emptied.
R266, R274 to R276: two waves that find every core idle, with equal totals and as many messages accepted as sent, end a group; its pages are released once no store is out, after its completion; the scrub of a page takes 1,920 cycles; a killed group ends with KILL. The arms of a group go when it completes (R216).
Where a record goes whose group has gone or has ended, that a refused record is offered 16 times in all, which records wait, and when the pages of a suspended or resumed group are released and its arms wait are the model's readings (logs 14, 19, 20, 26). -/
def Obligations.GroupEndAndReports : Prop :=
  (
  (∀ n r g (s : State), s.posts[n]? = some r → (∀ x ∈ s.posts.take n, ¬ (x.gid = r.gid ∧ x.src = r.src)) → r.again ≤ s.cycle → s.group? r.gid = some g →
    (∀ m ∈ s.flight, ¬ (m.kind = 0x34 ∧ m.len = 64 ∧ m.grp = r.gid ∧ m.sender = r.src)) →
    ((r.words.headD 0).extractLsb' 52 12 = Cause.code .retire → ∀ e ∈ s.seq.resumes, e.gid ≠ r.gid) →
    let t : State := { s with posts := s.posts.eraseIdx n }
    let ch := recFch g.words
    let k := g.rel0
    let c := s.coreAt k
    let usable := g.ended = none ∧ recFcv g.words = true ∧ c.bound ch.toNat = true ∧ c.chMode ch.toNat = 0
    let m : Incoming := ⟨ch, r.src, wordBytes r.words, false, r.gid, none⟩
    (¬ usable → exec (.faultRecordPost n) s = .next (t.logFault g.queue r.words)) ∧
    (usable → c.captured = true → (∃ x, g.susp = some x ∧ x.isSealed = false ∧ k ∈ x.recorded) →
      exec (.faultRecordPost n) s = .next (t.token g k (s.reportMsg k ch r))) ∧
    (usable → c.captured = false →
      (∀ c', c.offer m = .took c' → exec (.faultRecordPost n) s = .next (t.setCoreAt k c')) ∧
      ((∀ c', c.offer m ≠ .took c') → 15 ≤ r.tries → exec (.faultRecordPost n) s = .next (t.logFault g.queue r.words)) ∧
      ((∀ c', c.offer m ≠ .took c') → r.tries < 15 →
        exec (.faultRecordPost n) s = .next { s with posts := s.posts.set n { r with tries := r.tries + 1, again := s.cycle + 64 } }))) ∧
  (∀ n r (s : State), s.posts[n]? = some r → (∀ x ∈ s.posts.take n, ¬ (x.gid = r.gid ∧ x.src = r.src)) → r.again ≤ s.cycle → s.group? r.gid = none →
    (∀ m ∈ s.flight, ¬ (m.kind = 0x34 ∧ m.len = 64 ∧ m.grp = r.gid ∧ m.sender = r.src)) → (∀ e ∈ s.seq.resumes, e.gid ≠ r.gid) → exec (.faultRecordPost n) s = .next ({ s with posts := s.posts.eraseIdx n }.logMgmt r.words)) ∧
  (∀ g (s : State), g ∈ s.seq.groups → s.faultChannel g = true →
    (s.spill.posts.filter fun r => r.gid == g.gid) = (s.posts.filter fun r => r.gid == g.gid).take 64) ∧
  (∀ gid (s : State), (∀ g ∈ s.seq.groups, g.gid = gid → s.faultChannel g = false) →
    (s.spill.posts.filter fun r => r.gid == gid) = s.posts.filter fun r => r.gid == gid) ∧
  (∀ q ws (s : State), (s.queueAt q).log.length ≤ 256 →
    let x := s.queueAt q
    let y := (s.logFault q ws).queueAt q
    (x.log.length < 256 → y.log = x.log ++ [ws] ∧ y.lost = x.lost) ∧ (x.log.length = 256 → y.log = x.log.drop 1 ++ [ws] ∧ y.lost = x.lost + 1)) ∧
  (∀ q (s : State), exec (.faultLogEmpty q) s = .next (s.setQueue q { s.queueAt q with log := [], lost := 0 })) ∧
  ∀ (s : State), exec .mgmtLogEmpty s = .next { s with boot := { s.boot with log := [], lost := 0 } }) ∧
  (
  (∀ gid g (s : State), s.group? gid = some g →
    let w := s.wave g
    (g.open' = true → w.1 = true → w.2.1 = w.2.2 →
      exec (.terminationProbe gid) s = .next (s.modGroup gid fun g => { g with probe := some (w.2.1, w.2.2) })) ∧
    let cause : BitVec 12 := if g.nfail ≠ 0 then Cause.code .stfail else 0
    (∀ p, g.probe = some p → w.1 = true → w.2.1 = w.2.2 → w.2 = p →
      let v := (s.modGroup gid fun g => { g with probe := none, wantSusp := none, susp := none, ended := some cause, endAt := s.cycle }).dropIslands g
      exec (.probeWave gid) s = .next (v.finishRetire gid (g.cores.filter fun k => (v.coreAt k).retiring.isSome))) ∧
    (∀ p, g.probe = some p → ¬ (w.1 = true ∧ w.2.1 = w.2.2 ∧ w.2 = p) →
      exec (.probeWave gid) s = .next (s.modGroup gid fun g => { g with probe := none })) ∧
    (∀ cause, gid ≠ 0 → g.ended = some cause → s.storesOut g = false → exec (.pageRelease gid) s = .next (s.unlessHeld
      ((s.complete g.words g.queue g.gid (if cause = 0 ∧ g.nfail ≠ 0 then Cause.code .stfail else cause) g.nfail g.faddr (g.tstart.getD 0) g.endAt).releasePages g))) ∧
    (∀ x, gid ≠ 0 → g.ended = none → g.susp = some x → x.isSealed = true → (∀ a ∈ s.advances, ∀ p ∈ a.pages, p ∉ g.pages) → (∀ d ∈ s.seq.debts, d.gid ≠ gid) →
      exec (.pageRelease gid) s = .next (s.releasePages g)) ∧
    ((∀ e ∈ s.seq.resumes, e.gid ≠ gid) →
      (g.ended = none → (∀ x, g.susp = some x → x.isSealed = false) → exec (.killGroup gid) s = .next (s.endGroup g .kill)) ∧
      (g.ended.isSome = true ∨ (∃ x, g.susp = some x ∧ x.isSealed = true) → exec (.killGroup gid) s = .next s))) ∧
  (∀ gid (s : State), (∀ e ∈ s.seq.resumes, e.gid ≠ gid) → s.group? gid = none → exec (.killGroup gid) s = .next s) ∧
  (∀ gid e (s : State), s.seq.resumes.find? (fun e => e.gid == gid) = some e → exec (.killGroup gid) s = .next (s.unlessHeld (s.killListed e))) ∧
  (∀ g (s : State), s.seq.groups.find? (fun g => g.gid == 0 && s.vacated g) = some g → g.ended = none →
    exec (.pageRelease 0) s = .next (s.releasePages g)) ∧
  (∀ (s : State) (g : Group), let t := s.releasePages g
    (∀ p ∈ g.pages, (t.pageAt p).scrubbing = true ∧ (t.pageAt p).scrubAt = s.cycle) ∧ (∀ x ∈ t.seq.groups, x.gid ≠ g.gid ∨ x.pages ≠ g.pages) ∧
    (g.ended.isSome = true → ∀ a ∈ t.seq.arms, a.gid ≠ g.gid) ∧
    (g.ended = none → t.seq.arms.map (fun a => (a.gid, a.ch, a.ev, a.thr)) = s.seq.arms.map fun a => (a.gid, a.ch, a.ev, a.thr)) ∧ ((∀ e ∈ s.seq.resumes, e.gid ≠ g.gid) → ∀ r ∈ t.posts, r.gid ≠ g.gid)) ∧
  ∀ page (s : State), (s.pageAt page).scrubbing = true → (s.pageAt page).scrubAt + 1920 ≤ s.cycle →
    ∃ t, exec (.scrubDone page) s = .next t ∧ t.pageAt page = { s.pageAt page with scrubbing := false } ∧
      ∀ k ∈ pageCores page, ∀ a, a < 0xF0000 → ((s.coreAt k).clean = true → (s.coreAt k).imgLen ≤ a) → (t.coreAt k).ls.byte a = 0)

/-- R206, R279, R341, R350, R351: SUSPEND starts a suspension, with a new stamp, or joins the one in progress; the marker stops a member, which captures at a boundary or at a stalled instruction; a drained group is sealed, line 0 last. That a suspension whose line 0 cannot be written is reported with XLAT, that a seal which cannot be written ends the group with STFAIL, and that the moves of the sequencer are one move each are the model's readings (logs 25, 14). -/
def Obligations.Suspension : Prop :=
(∀ n r g (s : State), s.requested n .suspend r → s.group? r.gid = some g → g.probe = none →
    (g.susp.isSome = true → exec (.suspendRequest n) s = .next ((s.dropReq n).upd r.core fun c =>
      let x := c.ctxAt r.site.ctx
      c.setCtxAt r.site.ctx { x with regs := x.regs.wrS ((r.words.headD 0).setWidth 5) 0x086 false })) ∧
    (g.susp = none → g.ended.isSome = true → exec (.suspendRequest n) s = .next (s.dropReq n)) ∧
    (g.susp = none → g.ended = none →
      let u := s.dropReq n
      let us := if r.c = 0 then 100 else r.c.toNat
      let ev := if r.b.getLsbD 31 then some (r.b.extractLsb' 0 16) else none
      let rights : BitVec 6 := r.b.extractLsb' 16 6
      let stamp : Word := s.modId ++ ((s.seq.serial + 1) ++ 0#20)
      let numbered : State := { u with seq := { u.seq with serial := s.seq.serial + 1 } }
      let susp : Susp := ⟨.program, r.a.toNat, false, rights, ev, us * 3300, none, stamp, [], [], [], 0, false⟩
      (∀ t, numbered.objWrite false g.asid r.a.toNat (line0 0 stamp rights 0 g.dom) = some t →
        exec (.suspendRequest n) s = .next (s.unlessHeld (t.modGroup g.gid fun g => { g with wantSusp := none, susp := some susp }))) ∧
      (numbered.objWrite false g.asid r.a.toNat (line0 0 stamp rights 0 g.dom) = none → exec (.suspendRequest n) s =
        .next ((u.upd r.core fun c => { c with stopping := false }).seqReport (Cause.code .xlat) 2 g.gid r.a r.a)))) ∧
  (∀ k g x (s : State), s.marking g x k → (∀ m ∈ s.flight, m.prog.isSome = true → keyOfAddr m.dst ≠ k) →
    let c := s.coreAt k
    (c.captured = true → exec (.sprigMarker k) s = .next (s.record g k)) ∧
    (c.captured = false → (∀ i, s.islandOf k = some i → exec (.sprigMarker k) s = .next ((s.haltIsland i none none).record g k)) ∧
      (s.islandOf k = none → c.mayCapture = true → c.landing = [] → exec (.sprigMarker k) s = .next (s.record g k)) ∧
      (s.islandOf k = none → c.mayCapture = false ∨ c.landing ≠ [] → c.stopping = false →
        exec (.sprigMarker k) s = .next (s.upd k fun c => { c with stopping := true })))) ∧
  (∀ k g why (s : State), s.owner? (pageOf k) = some g → g.susp = none → g.probe = none → g.ended = none → g.wantSusp = some why →
    s.mayHaveEnded g = false → ∀ t, s.beginWanted g why = some t → exec (.sprigMarker k) s = .next (s.unlessHeld t)) ∧
  (∀ k g (s : State), ((s.record g k).coreAt k).captured = true ∧ ((s.record g k).coreAt k).stopping = true ∧
    ((s.record g k).coreAt k).maySelect = false) ∧
  ∀ gid g x (s : State), s.group? gid = some g → g.susp = some x → x.isSealed = false → s.drained g x = true →
    let bs := s.sprigBytes g x
    let ds := s.newDebts g x bs
    let l0 := line0 (if ds.isEmpty then 1 else 2) x.stamp x.rights ds.length g.dom
    let written := (s.objWrite x.phys g.asid (x.addr + 64) (bs.drop 64)).bind fun s => s.objWrite x.phys g.asid x.addr l0
    (∀ t, written = some t → exec (.sealSprig gid) s = .next (s.unlessHeld (t.afterSeal g x ds))) ∧
    (written = none →
      let va : Word := BitVec.ofNat 64 x.addr
      exec (.sealSprig gid) s = .next (((s.modGroup gid fun g => g.failStore va).endGroup (g.failStore va) .stfail).seqReport (Cause.code .xlat) 2 gid va va))

/-- R208: the indivisible step of RESUME, COPY and DISCARD on line 0 of a sprig.
R208 to R210, R349, R351, R353 to R359: requests on sprigs are checked, wait for their step and end with a cause; a sprig that its digest or domain does not match ends with BADARG first, without INS; a RESUME ends once its group's records have been offered again; a debt is resolved in the sprig; the sequencer resumes its own sprigs once pages fit, though their old pages are not released. That an unreadable container and an object that cannot be written give BADARG with the sprig untouched are the model's readings (log 26). -/
def Obligations.Sprigs : Prop :=
  (
  ∀ (l : List Byte) (xs : Word) (f : Bool) (dom : BitVec 16), l.length = 64 →
    let st := lineState l
    let r := lineRights l
    let fits := lineStamp l = xs ∧ st ≠ 0 ∧ (r.getLsbD 4 = true ∨ lineDom l = dom)
    let becomes (l' : List Byte) (st' : Nat) (r' : Word) : Prop := lineState l' = st' ∧ lineStamp l' = lineStamp l + 1 ∧ lineRights l' = r' ∧
      l'.drop 24 = l.drop 24 ∧ (contWord l' 0).toNat / 8 = (contWord l 0).toNat / 8
    ∀ op, op = SeqOp.resume ∨ op = .copy ∨ op = .discard →
    (lineStamp l ≠ xs → sprigStep op l xs f dom = .error .dres) ∧
    (lineStamp l = xs → st = 0 → sprigStep op l xs f dom = .error .nseal) ∧
    (lineStamp l = xs → st ≠ 0 → r.getLsbD 4 = false → lineDom l ≠ dom → sprigStep op l xs f dom = .error .domn) ∧
    (fits → op = .resume → r.getLsbD 0 = false → sprigStep op l xs f dom = .error .right) ∧
    (fits → op = .resume → r.getLsbD 0 = true → st = 1 ∨ (f = true ∧ r.getLsbD 5 = true ∧ (st = 2 ∨ st = 3)) →
      ∃ l', sprigStep op l xs f dom = .ok l' ∧ becomes l' 3 r) ∧
    (fits → op = .resume → r.getLsbD 0 = true → ¬ (st = 1 ∨ (f = true ∧ r.getLsbD 5 = true ∧ (st = 2 ∨ st = 3))) →
      sprigStep op l xs f dom = .error .dres) ∧
    (fits → op = .copy → r.getLsbD 1 = false → sprigStep op l xs f dom = .error .right) ∧
    (fits → op = .copy → r.getLsbD 1 = true → sprigStep op l xs f dom = if st = 1 then .ok l else .error .nseal) ∧
    (fits → op = .discard → r.getLsbD 2 = false → sprigStep op l xs f dom = .error .right) ∧
    (fits → op = .discard → r.getLsbD 2 = true → st = 4 → sprigStep op l xs f dom = .error .dres) ∧
    (fits → op = .discard → r.getLsbD 2 = true → st ≠ 4 → ∃ l', sprigStep op l xs f dom = .ok l' ∧ becomes l' 4 0)) ∧
  (
  (∀ n r g (s : State), s.sprigReq? n = some r → s.group? r.gid = some g →
    let u := s.dropReq n
    (r.op = .resume → placementOk r.c = false → exec (.sprigOperationRequest n) s = .next (u.finishSprig r (Cause.code .badarg))) ∧
    (r.op = .resume → placementOk r.c = true → r.c.getLsbD 20 = false → r.c.extractLsb' 0 20 ≠ s.modId →
      exec (.sprigOperationRequest n) s = .next (u.forwardResume r g.asid g.dom)) ∧
    (r.op ≠ .resume ∨ (placementOk r.c = true ∧ (r.c.getLsbD 20 = true ∨ r.c.extractLsb' 0 20 = s.modId)) →
      exec (.sprigOperationRequest n) s = .next (s.unlessHeld (u.serveSprig r g.asid g.dom)))) ∧
  (∀ n m (s : State), s.sprigReq? (s.seqIn.length + n) = none → s.laneIn[n]? = some m →
    let u : State := { s with laneIn := s.laneIn.eraseIdx n }
    let w : Word := m.desc.getD 4 0
    (m.kind = .resume → exec (.sprigOperationRequest (s.seqIn.length + n)) s =
      .next (s.unlessHeld (u.serveSprig m.request (w.extractLsb' 16 16) (w.extractLsb' 32 16)))) ∧
    (m.kind = .resumed → exec (.sprigOperationRequest (s.seqIn.length + n)) s = .next (u.takeAnswer m))) ∧
  (∀ n j (s : State), s.seq.jobs[n]? = some j → (∀ i ∈ s.seq.jobs.take n, ¬ (i.asid = j.asid ∧ i.req.a = j.req.a)) →
    let u : State := { s with seq := { s.seq with jobs := s.seq.jobs.eraseIdx n } }.returnTrees j.trees
    let ends (t : State) (c : BitVec 12) := exec (.sprigStep n) s = .next (s.unlessHeld (t.finishSprig j.req c))
    (u.objRead false j.asid j.req.a.toNat 512 = none → ends u (Cause.code .badarg)) ∧
    ∀ t hd, u.objRead false j.asid j.req.a.toNat 512 = some (t, hd) →
      (headerOk hd = false → ends t (Cause.code .badarg)) ∧
      (headerOk hd = true →
        (∀ c, sprigStep j.req.op (hd.take 64) j.req.b j.req.force j.dom = .error c → ends t c.code) ∧
        ∀ l, sprigStep j.req.op (hd.take 64) j.req.b j.req.force j.dom = .ok l →
          let size := if j.req.op = .discard then 512 else sprigSize hd
          (t.objRead false j.asid j.req.a.toNat size = none → ends t (Cause.code .badarg)) ∧
          ∀ v b, t.objRead false j.asid j.req.a.toNat size = some (v, b) →
            (j.req.op = .discard → (v.objWrite false j.asid j.req.a.toNat l = none → ends v (Cause.code .badarg)) ∧
              ∀ w, v.objWrite false j.asid j.req.a.toNat l = some w → ends w 0) ∧
            (j.req.op = .copy → (∀ y, v.copySprig j.asid b j.req.c.toNat = some y → ends y 0) ∧
              (v.copySprig j.asid b j.req.c.toNat = none → ends v (Cause.code .badarg))) ∧
            (j.req.op = .resume →
              let bs := l ++ b.drop 64
              let w := (v.sprigImage bs).1
              ((v.sprigImage bs).2 = none → ends w (Cause.code .badarg)) ∧
              ∀ img cont, (v.sprigImage bs).2 = some (img, cont) →
                (∀ c, w.reserveTrees bs j.pages = .error c → ends w c.code) ∧
                ∀ x, w.reserveTrees bs j.pages = .ok x →
                  (w.objWrite false j.asid j.req.a.toNat l = none → ends w (Cause.code .badarg)) ∧
                  ∀ y, w.objWrite false j.asid j.req.a.toNat l = some y →
                    let gid := (y.keptGid bs).getD y.nextGid
                    let z := y.restore bs img (groupOf bs img cont gid j.pages (headerRecord bs) 0) (y.keptGid bs).isSome
                    exec (.sprigStep n) s = .next (s.unlessHeld { z with seq := { z.seq with resuming := z.seq.resuming ++ [(gid, some j.req)] } })))) ∧
  (∀ r asid (s t v : State) hd bs, r.op ≠ .discard → s.objRead false asid r.a.toNat 512 = some (t, hd) → headerOk hd = true →
    t.objRead false asid r.a.toNat (sprigSize hd) = some (v, bs) → (contWord bs 16).getLsbD 3 = false → sprigClean bs = false →
    s.checkSprig r asid = (v, .error .badarg)) ∧
  (∀ n cause d (s : State), s.seq.debts[n]? = some d →
    let x := (s.coreAt d.core).streams.find? fun y => y.id == d.stream
    (∀ y, x = some y → ∀ w ∈ y.wrOut, w.1 ≠ d.req) → (x.bind Stream.failed).getD 0 = cause →
    let u : State := { s with seq := { s.seq with debts := s.seq.debts.eraseIdx n } }
    ∀ v w l, u.objWrite d.phys d.asid (d.recAddr + 6) (natBytes (cause.toNat + 4096 * if cause = 0 then 1 else 2) 2) = some v →
      v.objRead d.phys d.asid d.base 64 = some (w, l) → l.length = 64 → ∃ l', l'.length = 64 ∧
        numAt l' 24 4 = numAt l 24 4 - 1 ∧ lineState l' = (if numAt l 24 4 ≤ 1 ∧ lineState l = 2 then 1 else lineState l) ∧
        lineStamp l' = lineStamp l ∧ lineRights l' = lineRights l ∧ l'.drop 32 = l.drop 32 ∧
        ∀ y, w.objWrite d.phys d.asid d.base l' = some y → exec (.debtResolution n cause) s = .next (s.unlessHeld y)) ∧
  ∀ n e (s : State), s.seq.resumes[n]? = some e → (e.retired = true → ∀ a ∈ s.advances, ∀ p ∈ a.pages, p ∉ e.pages) →
    (∀ q, e.moved = some q → ∀ m, s.seq.making = some m → m.1 ≠ q) →
    ∀ (t : State) hd (v : State) bs l ps img cont, s.objRead true 0 e.addr 512 = some (t, hd) → t.objRead true 0 e.addr (sprigSize hd) = some (v, bs) →
      sprigStep .resume (bs.take 64) (contWord bs 8) false (BitVec.ofNat 16 (numAt bs 32 2)) = .ok l →
      let w := (v.sprigImage bs).1
      w.placeSprig bs = some ps → (v.sprigImage bs).2 = some (img, cont) → sprigClean bs = true → (∃ x, w.reserveTrees bs ps = .ok x) →
      let g := { groupOf bs img cont e.gid ps e.words e.queue with nfail := e.nfail, faddr := e.faddr, tstart := e.tstart }
      ∀ y, w.spaWrite e.addr l = some y →
        let u := y.vacate e.gid
        let z := { u with seq := { u.seq with resumes := u.seq.resumes.eraseIdx n } }.restore bs img g true
        exec (.autoResume n) s = .next (s.unlessHeld { z with seq := { z.seq with resuming := z.seq.resuming ++ [(e.gid, none)] } }))

/-- R277, R278: compaction clears the rectangle with the fewest owned pages among those whose groups may move; where it cannot start, pre-emption takes groups of lower-ranked queues until the head can be placed. -/
def Obligations.MakingRoom : Prop :=
(∀ q img ps gs (s : State), s.waitingHead q = some img → s.compactPlan img = some (ps, gs) →
    ∃ (t : State), exec (.compaction q) s = .next t ∧ t.seq.making = some (q, ps) ∧ (t.queueAt q).why = 3 ∧ t.cores = s.cores ∧
      (∀ i : Nat, (t.seq.groups[i]?).map (fun g : Group => { g with wantSusp := none }) = (s.seq.groups[i]?).map fun g : Group => { g with wantSusp := none }) ∧
      ∀ g ∈ t.seq.groups, (∃ v ∈ gs, v.gid = g.gid) → g.susp = none → g.ended = none → g.wantSusp.isSome = true) ∧
  (∀ img ps gs (s : State), s.compactPlan img = some (ps, gs) → img.sct = false ∧ s.clearable img.w img.h ps ∧
    (∀ qs, s.clearable img.w img.h qs → s.ownedIn ps ≤ s.ownedIn qs) ∧
    (∀ g ∈ gs, (∃ p ∈ g.pages, p ∈ ps) ∧ recNmv g.words = false) ∧ s.roomFor gs = true) ∧
  (∀ q img ps gs (s : State), s.waitingHead q = some img → s.compactPlan img = none → s.takeVictims img [] (s.victims q) = some (ps, gs) →
    gs ≠ [] → s.roomFor gs = true → s.seq.resumes.length + gs.length ≤ 1024 →
    let u := s.setQueue q { s.queueAt q with why := 3 }
    exec (.preemption q) s = .next ({ u with seq := { u.seq with making := some (q, []) } }.wantAll gs (.preemption q))) ∧
  ∀ q img ps gs (s : State), s.takeVictims img [] (s.victims q) = some (ps, gs) →
    (∀ g ∈ gs, g ∈ s.seq.groups ∧ q < g.queue ∧ recNmv g.words = false ∧ g.staying = true) ∧ gs <+: s.victims q ∧
    placeShape (s.freedBy gs) img.sct img.pages img.w img.h = some ps ∧
    ∀ hs, hs <+: s.victims q → hs.length < gs.length → placeShape (s.freedBy hs) img.sct img.pages img.w img.h = none

/-- R335, R371, R385: an access is issued at the owner of its line once no host holds the line; it is performed there; a failed attempt is made again up to two times, each counted as a transient, and then the access fails with CXLTO. An access completes only over a link that is up (R376), and memory is kept by port and device address (R379).
R381, R382: a walk that ends in a leaf sends the accesses that wait for it to their owners and is cached; a walk that ends in a fault caches nothing, and its accesses fail with XLAT.
R378, R379: two addresses of a set that go to the same way go to different addresses of its device.
That poison is kept by line, so that a clean write of a whole line clears it, and that an access over a link held down ends by its timeouts, are the model's readings (log 18). -/
def Obligations.SystemMemory : Prop :=
  (
  (∀ n x a (s : State), s.owned n x a →
    ((∃ h, h ∈ s.edge.conflicts a x.write) → ∃ (t : State), exec (.cxlAccess n) s = .next t ∧ t.edge.accs = s.edge.accs ∧ t.edge.mem = s.edge.mem ∧
      t.cores = s.cores ∧ ∀ h ∈ s.edge.conflicts a x.write, ⟨h, a / 64, x.write⟩ ∈ t.edge.snoops) ∧
    ((∀ h, h ∉ s.edge.conflicts a x.write) → (∀ y ∈ s.edge.snoops, y.line ≠ a / 64) → exec (.cxlAccess n) s =
      .next { s with edge := { s.edge with accs := s.edge.accs.set n { x with stage := .port a, attempts := 1, since := s.cycle } } })) ∧
  (∀ n x a (s : State), s.edge.atPort n = some (x, a) → s.edge.linkUp a = true →
    (x.write = true → ∀ id req, x.why = .store id req → ∃ (t : State), exec (.cxlCompletion n true) s = .next t ∧ t.edge.accs = s.edge.accs.eraseIdx n ∧
      s.edge.Wrote t.edge a x.data ∧ (t.coreAt x.core).streams = (s.coreAt x.core).streams.map (fun y => if y.id = id then y.storeDone req else y) ∧
      ∀ p, s.edge.loc a = some p → ((∃ b ∈ x.data, b.2 = true) → p / 64 ∈ t.edge.poison ∧ t.posts.length = s.posts.length + 1) ∧
      ((∀ b ∈ x.data, b.2 = false) → x.data.length = 64 → p / 64 ∉ t.edge.poison ∧ t.posts = s.posts)) ∧
    (x.write = false → ∀ id pos, x.why = .read id pos → ∃ (t : State), exec (.cxlCompletion n true) s = .next t ∧ t.edge.accs = s.edge.accs.eraseIdx n ∧
      t.edge.mem = s.edge.mem ∧ ∀ y, s.stream? x.core id = some y → ∃ z, t.stream? x.core id = some z ∧
        z.pieces = y.pieces ++ [⟨pos, s.edge.read a x.len, Cause.code .cxlpsn⟩] ∧ z.rdOut = y.rdOut.filter fun r => r.1 != pos)) ∧
  ∀ n x a (s : State) (i : Instr), s.edge.atPort n = some (x, a) → (i = .cxlCompletion n false ∧ s.edge.linkUp a = true) ∨ (i = .cxlTimeout n ∧ x.since + 165000 ≤ s.cycle) →
    (x.attempts < 3 → ∃ (t : State), exec i s = .next t ∧ t.boot.transients = oneMore s.boot.transients ∧ t.cores = s.cores ∧ t.posts = s.posts ∧
      t.edge.accs = s.edge.accs.set n { x with attempts := x.attempts + 1, since := s.cycle } ∧ (x.write = false → t.edge.mem = s.edge.mem)) ∧
    (3 ≤ x.attempts →
      let line : Word := BitVec.ofNat 64 (x.va / 64 * 64)
      ∃ (t : State), exec i s = .next t ∧ t.edge.accs = s.edge.accs.eraseIdx n ∧
      t.posts = s.posts ++ [⟨x.gid, mkRecord (Cause.code .cxlto) 2 0 0 false false 0 0 line 0 x.gid 0 line (BitVec.ofNat 64 s.cycle) (s.edge.made (s.edge.owner a)), 0, 0, 0⟩] ∧
      (∀ id pos, x.write = false → x.why = .read id pos → ∀ y, s.stream? x.core id = some y → ∃ z, t.stream? x.core id = some z ∧
        z.pieces = y.pieces ++ [⟨pos, List.replicate x.len (0, true), Cause.code .cxlto⟩]) ∧
      (x.write = true → ∀ g ∈ s.seq.groups, g.gid = x.gid → g.failStore (BitVec.ofNat 64 x.va) ∈ t.seq.groups))) ∧
  (
  ∀ n w (s : State), s.edge.walks[n]? = some w → s.edge.hasSlot n = true → s.edge.walkHeld w = false →
    let mine := s.edge.accs.filter (s.edge.waitsFor w)
    (∀ x, s.edge.walkStep w = .leaf x → ∃ (t : State), exec (.walkComplete n) s = .next t ∧
      (∀ y ∈ mine, ∀ a, s.edge.spaOf x y.va y.write = some a → { y with stage := .owner a } ∈ t.edge.accs) ∧
      ((∃ y ∈ mine, (s.edge.spaOf x y.va y.write).isSome = true) → x ∈ (NMap.get? t.edge.xlat w.home).getD []) ∧
      ((∀ y ∈ mine, s.edge.spaOf x y.va y.write = none) → t.edge.xlat = s.edge.xlat ∧ t.edge.ptrs = s.edge.ptrs)) ∧
    (s.edge.walkStep w = .fail → ∃ (t : State), exec (.walkComplete n) s = .next t ∧ t.edge.xlat = s.edge.xlat ∧ t.edge.ptrs = s.edge.ptrs ∧
      t.edge.mem = s.edge.mem ∧ t.edge.walks = s.edge.walks.eraseIdx n ∧ (∀ y ∈ t.edge.accs, s.edge.waitsFor w y = false) ∧
      ∀ y ∈ mine, ∀ id pos, y.why = .read id pos → ∀ z, s.stream? y.core id = some z → ∃ z', t.stream? y.core id = some z' ∧
        ⟨pos, List.replicate y.len (0, true), Cause.code .xlat⟩ ∈ z'.pieces)) ∧
  (
  ∀ (x : Word × Word × Word) a b, setGran x ≤ 14 → setBase x ≤ a → setBase x ≤ b →
    (a - setBase x) / 2 ^ setGran x % setWays x = (b - setBase x) / 2 ^ setGran x % setWays x → deviceAddr x a = deviceAddr x b → a = b)

/-- R385: the owner's filter follows what the hosts hold; a write-back is performed; a line that the hosts may not reach stays as it is; a BIRSP returns a modified copy and gives the line up. That a request waits, with no effect on the filter, while the owner accesses the line or the filter has no room for it, and that a read by a host takes part in the filter only, are the model's readings (logs 18, 5).
R383: an invalidation drops every matching cache entry, restarts every matching walk, and marks the accesses that were translated and not performed, for which DONE waits; the scope and the range are held (R386). That DONE waits for those accesses alone is the model's reading (log 18). -/
def Obligations.HostsAndInvalidation : Prop :=
  (
  (∀ (h : BitVec 2) line kind data (s : State), s.edge.role h.toNat = 1 →
    let bs : List MByte := (natBytes data.toNat 64).map fun b => (b, false)
    (s.edge.coherent (64 * line) = true → s.edge.lineBusy line = true → kind.toNat < 2 → exec (.hostAccess h line kind data) s = .next s) ∧
    (s.edge.coherent (64 * line) = true → s.edge.lineBusy line = false → s.edge.filtRoom line = false → kind.toNat < 2 →
      ∃ (t : State), exec (.hostAccess h line kind data) s = .next t ∧ t.edge.filt = s.edge.filt ∧ t.edge.mem = s.edge.mem ∧ t.edge.accs = s.edge.accs) ∧
    (s.edge.coherent (64 * line) = true → (s.edge.lineBusy line = false ∧ s.edge.filtRoom line = true) ∨ 2 ≤ kind.toNat → ∃ (t : State), exec (.hostAccess h line kind data) s = .next t ∧
      ((t.edge.filtAt line).held.getLsbD h.toNat = decide (kind = 0 ∨ kind = 1)) ∧
      (kind = 1 → (t.edge.filtAt line).dirty.getLsbD h.toNat = true) ∧ (2 ≤ kind → (t.edge.filtAt line).dirty.getLsbD h.toNat = false) ∧
      (∀ j, j ≠ h.toNat → (t.edge.filtAt line).held.getLsbD j = (s.edge.filtAt line).held.getLsbD j) ∧
      (kind = 2 → s.edge.Wrote t.edge (64 * line) bs) ∧ (kind ≠ 2 → t.edge.mem = s.edge.mem)) ∧
    (s.edge.coherent (64 * line) = false →
      (kind = 2 ∧ ((∃ x, s.edge.setOf (64 * line) = some x ∧ setHX x = true) ∨ ((hostWindow (64 * line)).isSome = true ∧ s.edge.owner (64 * line) = some h.toNat)) →
        ∃ (t : State), exec (.hostAccess h line kind data) s = .next t ∧ s.edge.Wrote t.edge (64 * line) bs) ∧
      (kind ≠ 2 ∨ (hostWindow (64 * line) = none ∧ ∀ x, s.edge.setOf (64 * line) = some x → setHX x = false) →
        exec (.hostAccess h line kind data) s = .next s))) ∧
  ∀ (h : BitVec 2) line dirty x (s : State), s.edge.snoops.find? (fun x => x.host == h.toNat && x.line == line) = some x →
    ∃ (t : State), exec (.birsp h line dirty) s = .next t ∧ t.edge.snoops = s.edge.snoops.erase x ∧ (t.edge.filtAt line).dirty.getLsbD h.toNat = false ∧
      (x.inv = true → (t.edge.filtAt line).held.getLsbD h.toNat = false) ∧ (dirty = none → t.edge.mem = s.edge.mem) ∧
      ∀ d, dirty = some d → s.edge.Wrote t.edge (64 * line) ((natBytes d.toNat 64).map fun b => (b, false))) ∧
  (
  ∀ w range (s : State), ∃ (t : State), exec (.xinv w range) s = .next t ∧
    (∀ e ∈ t.edge.xlat, ∀ x ∈ e.2, xinvHits w range x.asid (x.page * pageBytes x.lvl) (pageBytes x.lvl) = false) ∧
    (∀ e ∈ t.edge.ptrs, ∀ x ∈ e.2, xinvHits w range x.asid (x.pfx * 2 ^ (12 + 9 * x.lvl)) (2 ^ (12 + 9 * x.lvl)) = false) ∧
    (∀ x ∈ t.edge.walks, xinvHits w range x.asid (x.page * 4096) 4096 = true → x.lvl = 5 ∧ x.path = []) ∧
    t.edge.xrange = range ∧ t.edge.xinv.extractLsb' 32 16 = w.extractLsb' 32 16 ∧ t.edge.xinv.extractLsb' 61 2 = w.extractLsb' 61 2 ∧
    (t.edge.xinvDone = true → ∀ x ∈ s.edge.accs, xinvHits w range x.asid (x.va / 4096 * 4096) 4096 = true → ∀ a, x.stage ≠ .owner a ∧ x.stage ≠ .port a) ∧
    (∀ e ∈ s.edge.xlat, ∀ x ∈ e.2, xinvHits w range x.asid (x.page * pageBytes x.lvl) (pageBytes x.lvl) = false → ∃ f ∈ t.edge.xlat, f.1 = e.1 ∧ x ∈ f.2) ∧
    (∀ (asid : BitVec 16) va n, w.extractLsb' 61 2 = 0 → w.extractLsb' 32 16 = asid → xinvHits w range asid va n = true) ∧
    ∀ (asid : BitVec 16) va n, w.extractLsb' 61 2 = 2 → xinvHits w range asid va n = true)

/-- R112, R156, R322, R330, R332, R339 to R341: a transient in the running context replays its window, at most three times; an uncorrectable error marks a word of local store or hits the MMA in flight; a permanent fault stops the core and suspends its group; a unit that fails its check does its operation again, and the fourth failure is permanent (R333); in a bound island a transient halts the island (R290). That an input names the unit whose check failed is the model's choice (log 34). -/
def Obligations.Errors : Prop :=
(∀ k x (s : State), s.hitsWindow k x → s.islandOf k = none →
    let c := s.coreAt k
    (c.win.att ≠ 3 → ∃ (t : State), exec (.detectedTransient k (0, x)) s = .next t ∧ t.boot.transients = oneMore s.boot.transients ∧
      (∀ j, j ≠ k → t.coreAt j = s.coreAt j) ∧ (t.coreAt k).regs = { c.win.ckpt with handler := false } ∧ (t.coreAt k).win.att = c.win.att + 1 ∧
      (t.coreAt k).issueAt = max c.issueAt (s.cycle + 40 + c.win.journal.length) ∧ (t.coreAt k).nextTkt = c.win.tktOld ∧ (t.coreAt k).mma = none) ∧
    (c.win.att = 3 → exec (.detectedTransient k (0, x)) s = .next (s.retire k 0))) ∧
  (∀ k x (s : State), (s.coreAt k).ctx.st ≠ .running → exec (.detectedTransient k (0, x)) s = .next s) ∧
  (∀ k x i (s : State), s.hitsWindow k x → s.islandOf k = some i → exec (.detectedTransient k (0, x)) s = .next (s.haltIsland i (some .isflt) (some k))) ∧
  (∀ k x (s : State), s.islandOf k = none →
    let c := s.coreAt k
    let counted : State := { s with boot := { s.boot with transients := oneMore s.boot.transients } }
    (c.remFails < 3 → exec (.detectedTransient k (1, x)) s = .next (counted.setCoreAt k { c with remFails := c.remFails + 1 })) ∧
    (3 ≤ c.remFails → exec (.detectedTransient k (1, x)) s = .next ((s.setCoreAt k { c with remFails := 0 }).retire k 0)) ∧
    (c.strFails < 3 → exec (.detectedTransient k (2, x)) s = .next (counted.setCoreAt k { c with strFails := c.strFails + 1 })) ∧
    (3 ≤ c.strFails → exec (.detectedTransient k (2, x)) s = .next ((s.setCoreAt k { c with strFails := 0 }).retire k 0))) ∧
  (∀ k (a : BitVec 20) (s : State),
    let hour := (s.fieldAt (fieldOf k)).hoursNow
    (((hour :: (s.coreAt k).ueHours).take 8).filter fun h => decide (hour < h + 24)).length < 8 →
    ∃ (t : State), exec (.uncorrectableError k (some a)) s = .next t ∧ t.boot.uncorrectable = oneMore s.boot.uncorrectable ∧
      (∀ w, w ∈ (t.coreAt k).marks ↔ w = a.toNat / 8 ∨ w ∈ (s.coreAt k).marks) ∧
      (t.coreAt k).ls = (s.coreAt k).ls ∧ (t.coreAt k).regs = (s.coreAt k).regs) ∧
  (∀ k m (s : State), (s.coreAt k).mma = some m →
    let hour := (s.fieldAt (fieldOf k)).hoursNow
    (((hour :: (s.coreAt k).ueHours).take 8).filter fun h => decide (hour < h + 24)).length < 8 →
    ∃ (t : State), exec (.uncorrectableError k none) s = .next t ∧
    t.boot.uncorrectable = oneMore s.boot.uncorrectable ∧ (t.coreAt k).mma = some { m with hit := some ((s.coreAt k).unitOrigin .mmaue m.pc) }) ∧
  (∀ (s : State), ∃ (t : State), exec .correctableError s = .next t ∧ t.boot.correctable = oneMore s.boot.correctable ∧ t.cores = s.cores) ∧
  (∀ k trig (s : State), exec (.retireCore k trig) s = .next (s.retire k trig) ∧ exec (.selfTestFailure k) s = .next (s.retire k 3)) ∧
  ∀ k trig g (s : State), (s.coreAt k).retiring = none → s.islandOf k = none → s.owner? (pageOf k) = some g → g.ended = none → g.susp = none →
    let t := s.retire k trig
    (t.coreAt k).stopping = true ∧ (t.coreAt k).retiring = some trig ∧ (t.coreAt k).maySelect = false ∧ t.boot.retirements = oneMore s.boot.retirements ∧
    ∀ x ∈ t.seq.groups, x.gid = g.gid → x.wantSusp = some .retire

/-- R249, R257: a repair that the field agent makes keeps every named position on a healthy quern, and no two share one. -/
def Obligations.RepairCovers : Prop :=
∀ (f : Field) n pr pc h ps, f.sound → pr < 33 → pc < 33 → f.repair n pr pc = some (h, ps) →
    h.sound ∧ h.healthy pr pc = false ∧
    (∀ ny nx, ny < 32 → nx < 32 → (h.phys ny nx).1 < 33 ∧ (h.phys ny nx).2 < 33 ∧ h.healthy (h.phys ny nx).1 (h.phys ny nx).2 = true) ∧
    ∀ ny nx my mx, ny < 32 → nx < 32 → my < 32 → mx < 32 → h.phys ny nx = h.phys my mx → ny = my ∧ nx = mx

/-- R252, R253, R255: a router takes the new generation, closed, with ADV; it counts the drain markers; once all are drained the names take it; and it opens with OPN.
R259, R334: a field falls due for rotation at its hour; once its pages are free it rotates: each row in service without a fault moves its spare column on; a link retry loses nothing; after 16 failures of one flit the core at its receiving end has a permanent fault, and each one before counts as a transient. That an input says which flit failed is the model's choice, and that a retry delays a timed message by its own flits too is its reading (logs 34, 31). -/
def Obligations.AdvancesAndRotation : Prop :=
  (
  (∀ (x : Advance) r (s : State), s.advancing x → r < 131072 → r ∉ x.closed → r ∉ x.opened →
    ∃ (t : State), exec (.generationClose x.id r) s = .next t ∧ (∀ p ∈ x.pages, t.genAt r p = x.entry (s.genBase p) false) ∧
      ∀ q p, q ≠ r → t.genAt q p = s.genAt q p) ∧
  (∀ (x : Advance) r (port : BitVec 3) (cls : BitVec 2) j (s : State), s.advancing x → r < 131072 → (port.toNat, j) ∈ inputPorts r → j ∈ x.closed → cls ≠ 3 →
    (r, port, cls) ∉ x.markers → exec (.drainMarker x.id r port cls) s = .next (s.modAdvance x.id fun x => { x with markers := x.markers ++ [(r, port, cls)] })) ∧
  (∀ (x : Advance) (s : State), s.advancing x → x.drained = false → (∀ r, r < 131072 → x.drainedAt r = true) → s.noneLeft x = true →
    ∃ (t : State), exec (.allDrained x.id) s = .next t ∧
      (∀ k, k < 131072 → pageOf k ∈ x.pages → (t.coreAt k).name = (s.coreAt k).name.extractLsb' 32 32 ++ ((x.entry (s.genBase (pageOf k)) false).gen ++
        (s.coreAt k).name.extractLsb' 0 24)) ∧
      (∀ k, k < 131072 → pageOf k ∉ x.pages → (t.coreAt k).name = (s.coreAt k).name) ∧
      ∀ f y, x.table = some (f, y) → (t.fieldAt f).rows = y.rows ∧ (t.fieldAt f).rskip = y.rskip ∧ (t.fieldAt f).nflt = y.nflt ∧ (t.fieldAt f).rot = y.rot) ∧
  (∀ (x : Advance) r (s : State), s.advancing x → x.drained = true → r < 131072 → r ∈ x.closed → r ∉ x.opened →
    ∃ (t : State), exec (.generationOpen x.id r) s = .next t ∧ ∀ p ∈ x.pages, t.genAt r p = x.entry (s.genBase p) true) ∧
  ∀ page (a : Advance) (s : State), s.advances.find? (fun a => !a.begun && a.pages.contains page) = some a → s.spaced a = true → s.advanceClear a = true →
    (∀ b ∈ s.advances, b.id = a.id → b = a) →
    ∃ (t : State), exec (.advanceSpacingElapsed page) s = .next t ∧ { a with begun := true } ∈ t.advances ∧ ∀ p ∈ a.pages, (t.pageAt p).lastAdv = some s.cycle) ∧
  (
  (∀ f (s : State), f < 64 → (s.fieldAt f).due = false → (s.fieldAt f).rotAt ≤ (s.fieldAt f).hoursNow →
    exec (.rotationDue f) s = .next (s.setFieldAt f { s.fieldAt f with due := true })) ∧
  (∀ f (s : State), (s.fieldAt f).due = true → (∀ p ∈ fieldPages f, s.owner? p = none ∧ (s.pageAt p).scrubbing = false) →
    (∀ a ∈ s.advances, ∀ p ∈ a.pages, fieldOfPage p ≠ f) →
    exec (.rotate f) s = .next (({ s with boot := { s.boot with rotations := satInc s.boot.rotations } } : State).askAdvance
      ((fieldPages f).filter fun p => !(s.pageAt p).retired) (some (f, (s.fieldAt f).rotated f)) false)) ∧
  (∀ (x : Field) f, x.rskip.toNat < 33 →
    let y := x.rotated f
    y.rot = x.rot + 1 ∧ y.due = false ∧ y.faulty = x.faulty ∧
    ∀ pr, pr < 33 → pr ≠ x.rskip.toNat → (x.row pr).flt = false → (y.row pr).cskip = BitVec.ofNat 6 (x.nextHealthy pr (x.row pr).cskip.toNat)) ∧
  ∀ r (port : BitVec 3) again (s : State),
    let link := 8 * r + port.toNat
    let n := (if again then (NMap.get? s.linkFails link).getD 0 else 0) + 1
    (16 ≤ n → exec (.linkRetry r (port, again)) s =
      .next ({ s.delayTimed r port.toNat with linkFails := NMap.del s.linkFails link }.retire (linkEnd r port.toNat) 1)) ∧
    (n < 16 → ∃ (t : State), exec (.linkRetry r (port, again)) s = .next t ∧ NMap.get? t.linkFails link = some n ∧ t.boot.transients = oneMore s.boot.transients ∧ t.flight = s.flight ∧ t.cunits = s.cunits ∧
    ∀ k, (t.coreAt k).landing.map Landing.val = (s.coreAt k).landing.map Landing.val ∧ (t.coreAt k).landing.map Landing.data = (s.coreAt k).landing.map Landing.data ∧
      (t.coreAt k).regs = (s.coreAt k).regs ∧ (t.coreAt k).ls = (s.coreAt k).ls))

/-- R288, R314 to R318, R410: at cycle 0 of an epoch the field takes its budget, at least the floor, and samples what is held; at cycle 16, with a deficit, it gates its clock by 4 more cycles of 16 and empties the pool; otherwise the licences held, the floor and the pool stay within the budget. A droop stops an island from the next cycle. A thermal trip halts the module, as does a hottest column of 115 °C that the sample of an epoch finds. What the timed links of an island cost above the floor is the model's reading (log 10). -/
def Obligations.Governor : Prop :=
(∀ f (s : State), s.boot.phase = 4 → (s.fieldAt f).epochAt = s.cycle → 115000 ≤ Config.hottest s.cycle f →
    (s.sampleField f).boot.phase = 5 ∧ (s.sampleField f).boot.fail = 4 ∧ (s.sampleField f).cores = s.cores) ∧
  (∀ f (s : State), s.boot.phase = 4 → f < 64 → (s.fieldAt f).epochAt = s.cycle → Config.hottest s.cycle f < 115000 →
    let x := s.fieldAt f
    let y := (s.sampleField f).fieldAt f
    let b : Int := if x.sample = none then x.fbudNew else x.budget
    let hot := Config.hottest s.cycle f
    y.fbud = x.fbudNew ∧ y.limit = x.limitNew ∧ y.epoch = (if x.sample = none then x.epoch else x.epoch + 1) ∧ y.epochAt = s.cycle + 3300 ∧
    y.sample = some ((s.heldIn f).length, s.requestedIn f) ∧ y.decideAt = some (s.cycle + 16) ∧ y.pool = 0 ∧
    (1000 * x.limitNew < hot → y.budget = max (b - 64) (linkFloor f)) ∧
    (hot + 5000 ≤ 1000 * x.limitNew → y.budget = max (max b (min (b + 64) x.fbudNew)) (linkFloor f)) ∧
    (hot ≤ 1000 * x.limitNew → 1000 * x.limitNew < hot + 5000 → y.budget = max b (linkFloor f))) ∧
  (∀ f held asked n (s : State), s.boot.phase = 4 → f < 64 → (s.fieldAt f).sample = some (held, asked) → (s.fieldAt f).decideAt = some n → n ≤ s.cycle →
    ∃ (t : State), exec (.epochStep f) s = .next t ∧
      let x := s.fieldAt f
      let y := t.fieldAt f
      let fixed := held + linkFloor f + s.islandCost f
      y.budget = x.budget ∧ y.decideAt = none ∧
      (x.budget < fixed → y.gateNew = min 12 (x.gate + 4) ∧ y.pool = 0 ∧ (NMap.sorted s.querns = true → (t.heldIn f).length = (s.heldIn f).length)) ∧
      (fixed ≤ x.budget → y.gateNew = 0 ∧ 0 ≤ y.pool ∧ y.pool ≤ 64) ∧
      (NMap.sorted s.querns = true → fixed ≤ x.budget → (t.heldIn f).length + fixed + y.pool ≤ x.budget + (s.heldIn f).length)) ∧
  (∀ k (s : State), (∃ i ∈ s.seq.islands, k ∈ i.members) → (∀ n, (s.coreAt k).droop = some n → n ≤ s.cycle) → ∃ (t : State), exec (.droopTrip k) s = .next t ∧
    ∀ n, s.cycle < n → ∀ j, (∃ i, t.seq.islands.find? (fun i => i.members.contains j) = some i ∧ k ∈ i.members) → { t with cycle := n }.clockRuns j = false) ∧
  (∀ k (s : State), (∀ i ∈ s.seq.islands, k ∉ i.members) → exec (.droopTrip k) s = .next s) ∧
  (∀ k (s : State), exec (.droopClear k) s = .next (s.upd k fun c => { c with droop := none })) ∧
  ∀ f (s : State), ∃ (t : State), exec (.thermalTrip f) s = .next t ∧ t.boot.phase = 5 ∧ t.boot.fail = 4 ∧ t.cores = s.cores

/-- R405, R406, R407: a reset raises the boot count and wipes the program state; the valid slot of highest version at or above the fused minimum, as the slots stand then, is booted; the boot steps check it, test the fabric and await configuration, or fail; GO starts the module once; power loss leaves PHASE 0.
R407, R408: the last word of the nonce starts a report and spends a one-time index before it; while it is made, writes are discarded; the report holds the header, the certificate and the signature.
R376, R378, R390 to R392, R404, R409: what a write through the management window leaves in the register that it names; registers open until GO count later writes in CFGDROP.
That FWVER reads so from the start of the boot, that word 3 of the nonce starts the report, and what the free checks of a boot decide, are the model's (log 24). -/
def Obligations.BootAndManagement : Prop :=
  (
  (∀ (s : State) i, i = .moduleReset ∨ (i = .rst ∧ s.boot.power = true) → ∃ (t : State), exec i s = .next t ∧ s.Wiped t ∧ t.boot.bootCnt = s.boot.bootCnt + 1 ∧
    t.boot.power = true ∧ t.boot.phase = 0 ∧ t.boot.fail = 0 ∧ (∀ x, x = s.boot.slot0 ∨ x = s.boot.slot1 → s.boot.bootable x → x.ver ≤ t.boot.fwVer) ∧
      (i = .rst → (t.mgmtRead 0x180008).getLsbD 1 = true) ∧
      (∀ a, t.boot.picked = some a → t.boot.active1 = a ∧ s.boot.bootable (if a then s.boot.slot1 else s.boot.slot0) ∧
        t.boot.fwVer = (if a then s.boot.slot1 else s.boot.slot0).ver) ∧
      (t.boot.picked = none ↔ ¬ s.boot.bootable s.boot.slot0 ∧ ¬ s.boot.bootable s.boot.slot1) ∧
      t.boot.pickFail = if s.boot.slot0.valid = true ∨ s.boot.slot1.valid = true then 2 else 1) ∧
  (∀ (s : State), s.boot.power = true →
    (s.boot.phase = 0 → s.boot.picked = none → s.make .boot = .next { s with boot := { s.boot with phase := 5, fail := s.boot.pickFail } }) ∧
    (s.boot.phase = 0 → ∀ a, s.boot.picked = some a → s.make .boot = .next { s with boot := { s.boot with phase := 1 } }) ∧
    (s.boot.phase = 1 → Config.faultMapBad s.boot.bootCnt.toNat = true → s.make .boot = .next { s with boot := { s.boot with phase := 5, fail := 3 } }) ∧
    (s.boot.phase = 1 → Config.faultMapBad s.boot.bootCnt.toNat = false → ∃ (t : State), s.make .boot = .next t ∧ t.boot = { s.boot with phase := 2 } ∧
      ∀ f p, Config.bypassBad s.boot.bootCnt.toNat f = true → f < 64 → p < 1024 → fieldOfPage p = f → (t.pageAt p).retired = true ∧ t.genBase p = ⟨true, true, 0xFF⟩) ∧
    (s.boot.phase = 2 → s.make .boot = .next { s with boot := { s.boot with phase := 3 } })) ∧
  (∀ (s : State), s.boot.power = false → exec .rst s = .next s) ∧
  (∀ (s : State), ∃ (t : State), exec .powerLoss s = .next t ∧ s.Wiped t ∧ t.boot.power = false ∧ t.boot.phase = 0 ∧ t.boot.bootCnt = s.boot.bootCnt) ∧
  (∀ (s : State), s.boot.phase = 3 → ∃ (t : State), exec .go s = .next t ∧ t.boot.phase = 4 ∧ t.modId = s.boot.modidReg ∧
    (∀ k, (t.coreAt k).name = 0#12 ++ (s.boot.modidReg ++ (s.coreAt k).name.extractLsb' 0 32)) ∧
    (∀ f, f < 64 → (t.fieldAt f).epochAt = s.cycle + 1) ∧
    ∀ p, p < 48 → t.edge.role p = if s.edge.role p = 2 ∧ Config.soleType3 s.boot.bootCnt.toNat p = false then 0 else s.edge.role p) ∧
  (∀ (s : State), s.boot.phase ≠ 3 → exec .go s = .next s) ∧
  (∀ ver ok (s : State), ∃ (t : State), exec (.firmwareUpdate ver ok) s = .next t ∧ (if s.boot.active1 then t.boot.slot0 else t.boot.slot1) = ⟨ver, ok⟩ ∧
    (if s.boot.active1 then t.boot.slot1 = s.boot.slot1 else t.boot.slot0 = s.boot.slot0) ∧ t.boot.fwVer = s.boot.fwVer) ∧
  ∀ v ok (s : State), ∃ (t : State), exec (.raiseFusedMinimum v ok) s = .next t ∧ s.boot.fusedMin ≤ t.boot.fusedMin ∧
    (ok = false → t = s) ∧ (ok = true → v ≤ t.boot.fusedMin)) ∧
  (
  (∀ j (v : Word) (s : State), s.boot.making = true → exec (.nonceWrite j v) s = .next s) ∧
  (∀ (j : BitVec 2) (v : Word) (s : State), s.boot.making = false → ∃ (t : State), exec (.nonceWrite j v) s = .next t ∧ t.boot.nonce = s.boot.nonce.set j.toNat v j.isLt ∧
    t.boot.making = decide (j = 3) ∧ (j ≠ 3 → t.boot.otsUsed = s.boot.otsUsed ∧ t.boot.opKey = s.boot.opKey) ∧
    (j = 3 → s.boot.otsUsed < 2 ^ 20 → t.boot.otsUsed = s.boot.otsUsed + 1 ∧ t.boot.opKey = s.boot.opKey) ∧
    (j = 3 → 2 ^ 20 ≤ s.boot.otsUsed → t.boot.otsUsed = 1 ∧ t.boot.opKey = s.boot.opKey + 1) ∧ (j = 3 → t.boot.attest = (t.boot.opKey, t.boot.otsUsed))) ∧
  ∀ (s : State), s.boot.making = true → ∃ (t : State), exec .attestReady s = .next t ∧ t.boot.making = false ∧ t.boot.otsUsed = s.boot.otsUsed ∧
    (t.boot.reportWords.take 8) = s.attestHeader ∧ t.boot.reportWords.drop 8 = Config.attestTail s.boot.attest.1 s.boot.attest.2 s.attestHeader ∧
    s.attestHeader.getD 0 0 = s.boot.modidReg ++ (0#12 ++ s.boot.bootCnt) ∧
    (s.attestHeader.drop 4).take 4 = s.boot.nonce.toList) ∧
  (
  let plain (o : BitVec 20) : Prop := o = 0x80108#20 ∨ o = 0x80110#20 ∨ o = 0x80118#20 ∨ o = 0x80120#20
  (∀ o (v : Word) (s : State), plain o → ∃ (t : State), exec (.mgmtWrite o v) s = .next t ∧ t.mgmtRead (0x100000 + o.toNat) = v ∧ t.cores = s.cores ∧
    ∀ x, plain x → x ≠ o → t.mgmtRead (0x100000 + x.toNat) = s.mgmtRead (0x100000 + x.toNat)) ∧
  (∀ (v : Word) (s : State), s.boot.went = false → ∃ (t : State), exec (.mgmtWrite 0x80100#20 v) s = .next t ∧ t.mgmtRead 0x180100 = (v.extractLsb' 0 20).setWidth 64) ∧
  (∀ (o : BitVec 20) (v : Word) (s : State), s.boot.went = true →
    o = 0x80100#20 ∨ (o.toNat % 8 = 0 ∧ ((0x81000 ≤ o.toNat ∧ o.toNat < 0x81600) ∨ (0x82000 ≤ o.toNat ∧ o.toNat < 0x82180))) →
    exec (.mgmtWrite o v) s = .next { s with boot := { s.boot with cfgDrop := oneMore s.boot.cfgDrop } }) ∧
  (∀ (o : BitVec 20) (v : Word) (s : State), o.toNat % 8 ≠ 0 → exec (.mgmtWrite o v) s = .next s) ∧
  (∀ p (v : Word) (s : State), p < 48 → s.boot.went = false → ∃ (t : State), exec (.mgmtWrite (BitVec.ofNat 20 (0x82000 + 8 * p)) v) s = .next t ∧
    let r : BitVec 2 := v.extractLsb' 0 2
    t.edge.role p = (if r = 3 ∨ (r = 1 ∧ 4 ≤ p) ∨ (r ≠ 2 ∧ s.edge.named p = true) then s.edge.role p else r.toNat) ∧ ∀ q, q ≠ p → t.edge.role q = s.edge.role q) ∧
  (∀ (o : BitVec 20) (v : Word) (s : State), o.toNat % 8 = 0 → 0x84000 ≤ o.toNat → o.toNat < 0x86200 → ∃ (t : State), exec (.mgmtWrite o v) s = .next t ∧
    t.mgmtRead (0x100000 + o.toNat) = v &&& 0x803F803F803F803F) ∧
  (∀ f (v : Word) (s : State), f < 64 → ∃ (t : State), exec (.mgmtWrite (BitVec.ofNat 20 (0xA0200 + 8 * f)) v) s = .next t ∧
    (t.fieldAt f).fbudNew = fld v 0 12 ∧ (t.fieldAt f).limitNew = fld v 48 12 ∧ (t.fieldAt f).fbud = (s.fieldAt f).fbud) ∧
  (∀ k (v : Word) (s : State), k < 8 → let old := (NMap.get? s.edge.sets k).getD (0, 0, 0)
    let x : Word × Word × Word := (v &&& 0xE00F1F000FFFFFFF, old.2)
    ∃ (t : State), exec (.mgmtWrite (BitVec.ofNat 20 (0x83000 + 24 * k)) v) s = .next t ∧
      (s.edge.setFits k x = true → NMap.get? t.edge.sets k = some x ∧ t.boot.log = s.boot.log) ∧ (s.edge.setFits k x = false → t.edge.sets = s.edge.sets)) ∧
  (∀ w (s : State), ∃ (t : State), exec (.treeSlotSelect w) s = .next t ∧ t.mgmtRead 0x1B0000 = w &&& 0x3FFFFFFFFF) ∧
  ∀ near (j : BitVec 12) v (s : State), ∃ (t : State), exec (.routeUpdate near j v) s = .next t ∧
    NMap.get? t.boot.routes (if near then 4096 + j.toNat % 256 else j.toNat) = some (v &&& 0x803F) ∧ t.cores = s.cores)

/-- R394, R396, R397: the 34 bytes of a record give the record back, and a frame that was sealed opens to what was sealed. -/
def Obligations.LinkRecords : Prop :=
(∀ (r : Rec) seq, (r.bytes seq).length = 34 ∧ Rec.ofBytes (r.bytes seq) = some r) ∧
  ∀ key nonce aad pt : List Byte, key.length = 32 → nonce.length = 12 →
    (gcmSeal key nonce aad pt).length = pt.length + 16 ∧ gcmOpen key nonce aad (gcmSeal key nonce aad pt) = some pt

/-- R395 to R399: frames and flits that arrive at a port: one that does not belong is counted and changes nothing; one that does advances the number expected; a disabled port takes nothing.
R397 to R399: in wide-area mode every frame that waits too long is sent again, oldest first; an ACK goes out every 10 µs; a session closes after TOUT or a close frame; it is rekeyed in time; a bar can be cleared.
R395, R398: in local mode the sender sends again from the flit that is asked for, forgets what is acknowledged, retrains after 16 failures, and is down after TOUT; after a flit that failed the receiver discards every other one.
Which module's handshake holds when two meet, when a rekey goes out again, and what counts as heard are the model's readings (logs 22, 23). -/
def Obligations.YunavyPorts : Prop :=
  (
  (∀ p (bs : List Byte) (s : State), 48 ≤ p ∨ (s.portAt p).enabled = false → exec (.frameReceive p bs) s = .next s ∧ exec (.handshake p bs) s = .next s) ∧
  (∀ p (fr bs : List Byte) (s : State), p < 48 → (s.portAt p).enabled = true → (s.portAt p).isLocal = false → (s.portAt p).unpack fr = some bs → 32 ≤ bs.length →
    fld (contWord bs 0) 60 4 = 1 → hdrType bs ≤ 3 → hdrType bs ≠ 2 →
    (s.sess p (hdrSmod bs) = none → exec (.frameReceive p fr) s = .next s.badFrame) ∧
    ∀ e, s.sess p (hdrSmod bs) = some e →
      (¬ s.fits e bs → exec (.frameReceive p fr) s = .next s.badFrame) ∧
      (s.fits e bs →
        let plain := (gcmOpen (natBytes e.rxKey.toNat 32) (gcmNonce e.rxSalt e.rxSeq) (bs.take 32) (bs.drop 32)).bind (frameRecs (fld (contWord bs 16) 16 8))
        (plain = none → exec (.frameReceive p fr) s = .next s.badFrame) ∧
        ∀ rs, plain = some rs → ∃ (t : State) (f : Session), exec (.frameReceive p fr) s = .next t ∧ t.sess p (hdrSmod bs) = some f ∧ f.rxSeq = e.rxSeq + 1 ∧ f.lastRx = s.cycle ∧
          f.unacked = e.unacked.filter (fun x => !decide (x.seq < fld (contWord bs 8) 0 48)) ∧ f.rxPos + e.skip = e.rxPos + f.skip + rs.length ∧
          f.st = (if hdrType bs = 3 then .closing else .opened))) ∧
  (∀ p (fr bs : List Byte) (s : State), p < 48 → (s.portAt p).enabled = true → (s.portAt p).isLocal = false → (s.portAt p).unpack fr = none →
    exec (.frameReceive p fr) s = .next s ∧ exec (.handshake p fr) s = .next s) ∧
  (∀ p (fr bs : List Byte) (s : State), p < 48 → (s.portAt p).enabled = true → (s.portAt p).isLocal = false → (s.portAt p).unpack fr = some bs → hdrType bs = 2 →
    exec (.handshake p fr) s = .next (s.takeFrame p bs)) ∧
  (∀ p m (body : List Byte) h (s : State), Config.hsParse body = some h → h.modu = m → (s.portAt p).isLocal = false →
    (∀ e, s.sess p m = some e → e.st ≠ .barred) → h.initiator = true → ∀ e, s.sess p m = some e →
    (e.hs.isSome = true → s.modId < m → s.takeHandshake p m body = s) ∧
    (e.hs = none ∨ ¬ s.modId < m → Config.xmssCheck s.trustStore m (Config.hsBody { h with sig := [] }) h.sig = false →
      s.takeHandshake p m body = s.endSession p m .barred) ∧
    (e.hs = none ∨ ¬ s.modId < m → Config.xmssCheck s.trustStore m (Config.hsBody { h with sig := [] }) h.sig = true → e.st = .opened ∨ e.st = .opening →
      ∃ (f : Session), (s.takeHandshake p m body).sess p m = some f ∧ f.st = .opened ∧ f.hs = none ∧ f.peerIdx = h.sidx ∧ f.openedAt = s.cycle)) ∧
  (∀ p m (body : List Byte) h (s : State), Config.hsParse body = some h → h.modu = m → (s.portAt p).isLocal = false →
    (∀ e, s.sess p m = some e → e.st ≠ .barred) → h.initiator = false → ∀ e o, s.sess p m = some e → e.hs = some o →
    let ok := Config.xmssCheck s.trustStore m (o.script ++ Config.hsBody { h with sig := [] }) h.sig
    (ok = false → s.takeHandshake p m body = s.endSession p m .barred) ∧
    (ok = true → ∃ (f : Session), (s.takeHandshake p m body).sess p m = some f ∧ f.st = .opened ∧ f.hs = none ∧ f.peerIdx = h.sidx ∧ f.openedAt = s.cycle)) ∧
  ∀ p (bs : List Byte) e (s : State), s.sessionAt p true (s.portAt p).peer e → e.st = .opened → (s.portAt p).retrain = none → (s.portAt p).down = false →
    let good := bs.length = 36 ∧ natBytes (Config.linkCheck (bs.take 34)).toNat 2 = bs.drop 34
    ((s.portAt p).rxFails ≠ 0 → bs.getD 33 0 ≠ BitVec.ofNat 8 e.rxSeq → exec (.frameReceive p bs) s = .next s) ∧
    (¬ good → (s.portAt p).rxFails = 0 ∨ bs.getD 33 0 = BitVec.ofNat 8 e.rxSeq → exec (.frameReceive p bs) s = .next (s.setPort p ({ s.portAt p with rxFails := (s.portAt p).rxFails + 1 }.send [.retry (BitVec.ofNat 8 e.rxSeq)]))) ∧
    (good → bs.getD 33 0 ≠ BitVec.ofNat 8 e.rxSeq → exec (.frameReceive p bs) s = .next s) ∧
    (good → bs.getD 33 0 = BitVec.ofNat 8 e.rxSeq → ∃ (t : State) (f : Session), exec (.frameReceive p bs) s = .next t ∧ t.sess p (s.portAt p).peer = some f ∧
      f.rxSeq = e.rxSeq + 1 ∧ (t.portAt p).rxFails = 0)) ∧
  (
  (∀ p m e f fs (s : State), s.sessionAt p false m e → e.unacked = f :: fs → e.st = .opened → f.at' + max 165000 (2 * e.rtt) ≤ s.cycle →
    ∃ (t : State) (g : Session), exec (.frameResend p m) s = .next t ∧ t.sess p m = some g ∧ (t.portAt p).out = (s.portAt p).out ++ e.unacked.map (fun f => .frame f.bytes) ∧
      g.unacked.map Frame.seq = e.unacked.map Frame.seq ∧ (∀ x ∈ g.unacked, x.at' = s.cycle)) ∧
  (∀ p m e (s : State), s.sessionAt p false m e → e.st = .opened → e.ackAt + 33000 ≤ s.cycle → e.unacked.length < 4096 → e.txSeq + 1 < 2 ^ 40 →
    ∃ (t : State) (g : Session) (fr : Frame), exec (.ackTimer p m) s = .next t ∧ t.sess p m = some g ∧ g.txSeq = e.txSeq + 1 ∧ g.unacked = e.unacked ++ [fr] ∧ fr.seq = e.txSeq ∧ fr.recs = [] ∧
      g.ackAt = s.cycle ∧ (t.portAt p).out = (s.portAt p).out ++ [.frame fr.bytes]) ∧
  (∀ p m e (s : State), s.sess p m = some e → e.peer = m → e.st = .closing →
    ∃ (t : State) (f : Session), exec (.sessionClose p m) s = .next t ∧ t.sess p m = some f ∧ e.Closed f .closed) ∧
  (∀ p m e (s : State), s.sess p m = some e → e.st = .opening ∨ e.st = .opened → e.lastRx + (s.portAt p).tout ≤ s.cycle →
    ∃ (t : State) (f : Session), exec (.sessionTimeout p m) s = .next t ∧ t.sess p m = some f ∧ e.Closed f .closed) ∧
  (∀ p m e (s : State), s.sess p m = some e → e.st = .opened → (s.portAt p).isLocal = false ∨ (s.portAt p).enc = true →
    2 ^ 40 - 65536 ≤ e.txSeq ∨ e.openedAt + 11880000000000 ≤ s.cycle →
    (∀ o, e.hs = some o → o.sentAt + (s.portAt p).tout ≤ s.cycle → ∃ (t : State), exec (.rekey p m) s = .next t ∧
      (t.portAt p).out = (s.portAt p).out ++ [o.wire] ∧ t.sess p m = some { e with hs := some { o with sentAt := s.cycle } }) ∧
    (e.hs = none → ∃ (t : State) (f : Session), exec (.rekey p m) s = .next t ∧ t.sess p m = some f ∧ f.st = .opened ∧
      f.txKey = e.txKey ∧ f.rxKey = e.rxKey ∧ f.hs.isSome = true ∧ (t.portAt p).out.length = (s.portAt p).out.length + 1)) ∧
  ∀ p m (s : State), ∃ (t : State), exec (.clearBar p m) s = .next t ∧ (s.sess p m = none → t.sess p m = none) ∧
    ∀ e, s.sess p m = some e → t.sess p m = some (if e.st = .barred then { e with st := .closed } else e)) ∧
  (
  (∀ p (seq : BitVec 8) e (s : State), s.sessionAt p true (s.portAt p).peer e → (s.portAt p).retrain = none → ∀ old f fs, e.unacked = old ++ f :: fs →
    BitVec.ofNat 8 f.seq = seq → (∀ x ∈ old, BitVec.ofNat 8 x.seq ≠ seq) →
    (∃ (t : State), exec (.localRetry p seq) s = .next t ∧ t.sess p (s.portAt p).peer = some { e with lastRx := s.cycle } ∧
      (t.portAt p).out = (s.portAt p).out ++ (f :: fs).map (fun x => .flit x.bytes)) ∧
    ∃ (t : State) (g : Session), exec (.localLinkAck p seq) s = .next t ∧ t.sess p (s.portAt p).peer = some g ∧ g.unacked = f :: fs ∧
      ∀ l : Fin 4, g.credit[l] = e.credit[l] + laneCount (old.flatMap Frame.recs) l.val) ∧
  (∀ p (s : State), (s.portAt p).isLocal = true → (s.portAt p).retrain = none → (s.portAt p).down = false → 16 ≤ (s.portAt p).fails ∨ 16 ≤ (s.portAt p).rxFails →
    exec (.retraining p) s = .next (s.setPort p { s.portAt p with retrain := some s.cycle })) ∧
  (∀ p n e (s : State), (s.portAt p).retrain = some n → s.sess p (s.portAt p).peer = some e → s.cycle ≤ n + 33000000 →
    ∃ (t : State), exec (.retrainingComplete p) s = .next t ∧ t.sess p (s.portAt p).peer = some e ∧ (t.portAt p).retrain = none ∧
      (t.portAt p).out = (s.portAt p).out ++ e.unacked.map fun x => .flit x.bytes) ∧
  ∀ p n e (s : State), (s.portAt p).retrain = some n → s.sess p (s.portAt p).peer = some e → n + (s.portAt p).tout ≤ s.cycle →
    ∃ (t : State) (f : Session), exec (.linkDown p) s = .next t ∧ t.sess p (s.portAt p).peer = some f ∧ e.Closed f .closed ∧ (t.portAt p).down = true)

/-- R65: the origin that wins is one of those that meet, none has smaller keys compared in their order, and the order in which they arrive plays no part. -/
def Obligations.OriginWinner : Prop :=
(∀ (os : List Org), os ≠ [] → ∃ w, orgWinner os = some w ∧ w ∈ os ∧ ∀ o ∈ os, ¬ orgKeys o < orgKeys w) ∧
  ∀ (os ps : List Org), os.Perm ps → (orgWinner os).map orgClean = (orgWinner ps).map orgClean

/-- R12: a register reads as last written, but s0 reads as zero without poison, g0 as true and m0 as all ones; a write leaves every other register alone. -/
def Obligations.RegisterFile : Prop :=
(∀ (r : Regs) (d : Reg) x p, d ≠ 0 → (r.wrS d x p).rdS d = x ∧ (r.wrS d x p).psn d = p) ∧
  (∀ (r : Regs) (d j : Reg) x p, j ≠ d ∨ d = 0 → (r.wrS d x p).rdS j = r.rdS j ∧ (r.wrS d x p).psn j = r.psn j) ∧
  (∀ (r : Regs), r.rdS 0 = 0 ∧ r.psn 0 = false ∧ r.rdG 0 = true ∧ r.rdM 0 = BitVec.allOnes 64) ∧
  (∀ (r : Regs) (d j : BitVec 3) b, (r.wrG d b).rdG j = if j = 0 then true else if j = d then b else r.rdG j) ∧
  (∀ (r : Regs) (d j : BitVec 3) x, (r.wrM d x).rdM j = if j = 0 then BitVec.allOnes 64 else if j = d then x else r.rdM j) ∧
  (∀ (r : Regs) (d j : Reg) x sd, (r.wrV d x sd).rdV j = (if j = d then x else r.rdV j) ∧ (r.wrV d x sd).rdSide j = if j = d then sd else r.rdSide j) ∧
  ∀ (r : Regs) (d : Reg) x p, (r.wrS d x p).v = r.v ∧ (r.wrS d x p).g = r.g ∧ (r.wrS d x p).m = r.m ∧ (r.wrS d x p).pc = r.pc ∧ (r.wrS d x p).astat = r.astat

/-- R28, R248, R252, R261, R265, R269, R390, R405, R406: what reset leaves where the spec gives the value. That what the spec gives no value for is zero, empty or absent is the model's choice (log 2): TRAPVEC, local store and the other words of a context are such. -/
def Obligations.ResetState : Prop :=
State.reset.boot.legal ∧ State.reset.boot.phase = 0 ∧
  (∀ k, (State.reset.coreAt k).ctxs = Vector.replicate 4 Ctx.reset ∧ (State.reset.coreAt k).ls = [] ∧ (State.reset.coreAt k).maySelect = true ∧
    (State.reset.coreAt k).candidates = [] ∧ (State.reset.coreAt k).islBnd = false ∧ (State.reset.coreAt k).trapvec = 0) ∧
  (∀ q, (State.reset.queueAt q).status = 0) ∧ (∀ e, State.reset.eventAt e = ⟨0, false⟩) ∧ State.reset.seq.groups = [] ∧
  (∀ p, p < 1024 → State.reset.owner? p = none ∧ State.reset.genOf p = 0) ∧ (∀ f, (State.reset.fieldAt f).rskip = 32 ∧ ∀ pr, ((State.reset.fieldAt f).row pr) = ⟨32, false, false⟩) ∧
  ∀ p, (State.reset.portAt p).w[0] = 0x10000000C73807D0#64

/-- R405, R406: whatever happens in a step, PHASE and FAIL keep legal values, and the module is halted exactly when FAIL names a failure. -/
def Obligations.BootStatusStaysLegal : Prop :=
∀ (s t : State), s.boot.legal → step s = .next t → t.boot.legal
end

