-- ==== Sys2Proof/Laws/Exec.lean ====
section
/-! SUPPORT. The meaning that the dispatch gives each constructor, one lemma per arm. -/
namespace Sys2Proof.Machine

variable (s : State)

@[simp] theorem exec_add : ∀ x0 x1 x2 x3, exec (.add x0 x1 x2 x3) s = execAdd x0 x1 x2 x3 s := fun _ _ _ _ => rfl
@[simp] theorem exec_sub : ∀ x0 x1 x2 x3, exec (.sub x0 x1 x2 x3) s = execSub x0 x1 x2 x3 s := fun _ _ _ _ => rfl
@[simp] theorem exec_and : ∀ x0 x1 x2 x3, exec (.and x0 x1 x2 x3) s = execAnd x0 x1 x2 x3 s := fun _ _ _ _ => rfl
@[simp] theorem exec_or : ∀ x0 x1 x2 x3, exec (.or x0 x1 x2 x3) s = execOr x0 x1 x2 x3 s := fun _ _ _ _ => rfl
@[simp] theorem exec_xor : ∀ x0 x1 x2 x3, exec (.xor x0 x1 x2 x3) s = execXor x0 x1 x2 x3 s := fun _ _ _ _ => rfl
@[simp] theorem exec_andn : ∀ x0 x1 x2 x3, exec (.andn x0 x1 x2 x3) s = execAndn x0 x1 x2 x3 s := fun _ _ _ _ => rfl
@[simp] theorem exec_shl : ∀ x0 x1 x2 x3, exec (.shl x0 x1 x2 x3) s = execShl x0 x1 x2 x3 s := fun _ _ _ _ => rfl
@[simp] theorem exec_shr : ∀ x0 x1 x2 x3, exec (.shr x0 x1 x2 x3) s = execShr x0 x1 x2 x3 s := fun _ _ _ _ => rfl
@[simp] theorem exec_sra : ∀ x0 x1 x2 x3, exec (.sra x0 x1 x2 x3) s = execSra x0 x1 x2 x3 s := fun _ _ _ _ => rfl
@[simp] theorem exec_ror : ∀ x0 x1 x2 x3, exec (.ror x0 x1 x2 x3) s = execRor x0 x1 x2 x3 s := fun _ _ _ _ => rfl
@[simp] theorem exec_min : ∀ x0 x1 x2 x3, exec (.min x0 x1 x2 x3) s = execMin x0 x1 x2 x3 s := fun _ _ _ _ => rfl
@[simp] theorem exec_max : ∀ x0 x1 x2 x3, exec (.max x0 x1 x2 x3) s = execMax x0 x1 x2 x3 s := fun _ _ _ _ => rfl
@[simp] theorem exec_minn : ∀ x0 x1 x2 x3, exec (.minn x0 x1 x2 x3) s = execMinn x0 x1 x2 x3 s := fun _ _ _ _ => rfl
@[simp] theorem exec_maxn : ∀ x0 x1 x2 x3, exec (.maxn x0 x1 x2 x3) s = execMaxn x0 x1 x2 x3 s := fun _ _ _ _ => rfl
@[simp] theorem exec_addi : ∀ x0 x1 x2 x3, exec (.addi x0 x1 x2 x3) s = execAddi x0 x1 x2 x3 s := fun _ _ _ _ => rfl
@[simp] theorem exec_andi : ∀ x0 x1 x2 x3, exec (.andi x0 x1 x2 x3) s = execAndi x0 x1 x2 x3 s := fun _ _ _ _ => rfl
@[simp] theorem exec_ori : ∀ x0 x1 x2 x3, exec (.ori x0 x1 x2 x3) s = execOri x0 x1 x2 x3 s := fun _ _ _ _ => rfl
@[simp] theorem exec_xori : ∀ x0 x1 x2 x3, exec (.xori x0 x1 x2 x3) s = execXori x0 x1 x2 x3 s := fun _ _ _ _ => rfl
@[simp] theorem exec_shli : ∀ x0 x1 x2 x3, exec (.shli x0 x1 x2 x3) s = execShli x0 x1 x2 x3 s := fun _ _ _ _ => rfl
@[simp] theorem exec_shri : ∀ x0 x1 x2 x3, exec (.shri x0 x1 x2 x3) s = execShri x0 x1 x2 x3 s := fun _ _ _ _ => rfl
@[simp] theorem exec_srai : ∀ x0 x1 x2 x3, exec (.srai x0 x1 x2 x3) s = execSrai x0 x1 x2 x3 s := fun _ _ _ _ => rfl
@[simp] theorem exec_mul : ∀ x0 x1 x2 x3, exec (.mul x0 x1 x2 x3) s = execMul x0 x1 x2 x3 s := fun _ _ _ _ => rfl
@[simp] theorem exec_mulh : ∀ x0 x1 x2 x3, exec (.mulh x0 x1 x2 x3) s = execMulh x0 x1 x2 x3 s := fun _ _ _ _ => rfl
@[simp] theorem exec_mulhn : ∀ x0 x1 x2 x3, exec (.mulhn x0 x1 x2 x3) s = execMulhn x0 x1 x2 x3 s := fun _ _ _ _ => rfl
@[simp] theorem exec_div : ∀ x0 x1 x2 x3, exec (.div x0 x1 x2 x3) s = execDiv x0 x1 x2 x3 s := fun _ _ _ _ => rfl
@[simp] theorem exec_divn : ∀ x0 x1 x2 x3, exec (.divn x0 x1 x2 x3) s = execDivn x0 x1 x2 x3 s := fun _ _ _ _ => rfl
@[simp] theorem exec_rem : ∀ x0 x1 x2 x3, exec (.rem x0 x1 x2 x3) s = execRem x0 x1 x2 x3 s := fun _ _ _ _ => rfl
@[simp] theorem exec_remn : ∀ x0 x1 x2 x3, exec (.remn x0 x1 x2 x3) s = execRemn x0 x1 x2 x3 s := fun _ _ _ _ => rfl
@[simp] theorem exec_cmpEq : ∀ x0 x1 x2 x3, exec (.cmpEq x0 x1 x2 x3) s = execCmpEq x0 x1 x2 x3 s := fun _ _ _ _ => rfl
@[simp] theorem exec_cmpNe : ∀ x0 x1 x2 x3, exec (.cmpNe x0 x1 x2 x3) s = execCmpNe x0 x1 x2 x3 s := fun _ _ _ _ => rfl
@[simp] theorem exec_cmpLt : ∀ x0 x1 x2 x3, exec (.cmpLt x0 x1 x2 x3) s = execCmpLt x0 x1 x2 x3 s := fun _ _ _ _ => rfl
@[simp] theorem exec_cmpGe : ∀ x0 x1 x2 x3, exec (.cmpGe x0 x1 x2 x3) s = execCmpGe x0 x1 x2 x3 s := fun _ _ _ _ => rfl
@[simp] theorem exec_cmpLo : ∀ x0 x1 x2 x3, exec (.cmpLo x0 x1 x2 x3) s = execCmpLo x0 x1 x2 x3 s := fun _ _ _ _ => rfl
@[simp] theorem exec_cmpHs : ∀ x0 x1 x2 x3, exec (.cmpHs x0 x1 x2 x3) s = execCmpHs x0 x1 x2 x3 s := fun _ _ _ _ => rfl
@[simp] theorem exec_cmpiEq : ∀ x0 x1 x2 x3, exec (.cmpiEq x0 x1 x2 x3) s = execCmpiEq x0 x1 x2 x3 s := fun _ _ _ _ => rfl
@[simp] theorem exec_cmpiNe : ∀ x0 x1 x2 x3, exec (.cmpiNe x0 x1 x2 x3) s = execCmpiNe x0 x1 x2 x3 s := fun _ _ _ _ => rfl
@[simp] theorem exec_cmpiLt : ∀ x0 x1 x2 x3, exec (.cmpiLt x0 x1 x2 x3) s = execCmpiLt x0 x1 x2 x3 s := fun _ _ _ _ => rfl
@[simp] theorem exec_cmpiGe : ∀ x0 x1 x2 x3, exec (.cmpiGe x0 x1 x2 x3) s = execCmpiGe x0 x1 x2 x3 s := fun _ _ _ _ => rfl
@[simp] theorem exec_cmpiLo : ∀ x0 x1 x2 x3, exec (.cmpiLo x0 x1 x2 x3) s = execCmpiLo x0 x1 x2 x3 s := fun _ _ _ _ => rfl
@[simp] theorem exec_cmpiHs : ∀ x0 x1 x2 x3, exec (.cmpiHs x0 x1 x2 x3) s = execCmpiHs x0 x1 x2 x3 s := fun _ _ _ _ => rfl
@[simp] theorem exec_fcmpEq : ∀ x0 x1 x2 x3 x4, exec (.fcmpEq x0 x1 x2 x3 x4) s = execFcmpEq x0 x1 x2 x3 x4 s := fun _ _ _ _ _ => rfl
@[simp] theorem exec_fcmpLt : ∀ x0 x1 x2 x3 x4, exec (.fcmpLt x0 x1 x2 x3 x4) s = execFcmpLt x0 x1 x2 x3 x4 s := fun _ _ _ _ _ => rfl
@[simp] theorem exec_fcmpLe : ∀ x0 x1 x2 x3 x4, exec (.fcmpLe x0 x1 x2 x3 x4) s = execFcmpLe x0 x1 x2 x3 x4 s := fun _ _ _ _ _ => rfl
@[simp] theorem exec_fcmpUn : ∀ x0 x1 x2 x3 x4, exec (.fcmpUn x0 x1 x2 x3 x4) s = execFcmpUn x0 x1 x2 x3 x4 s := fun _ _ _ _ _ => rfl
@[simp] theorem exec_gand : ∀ x0 x1 x2 x3, exec (.gand x0 x1 x2 x3) s = execGand x0 x1 x2 x3 s := fun _ _ _ _ => rfl
@[simp] theorem exec_gor : ∀ x0 x1 x2 x3, exec (.gor x0 x1 x2 x3) s = execGor x0 x1 x2 x3 s := fun _ _ _ _ => rfl
@[simp] theorem exec_gxor : ∀ x0 x1 x2 x3, exec (.gxor x0 x1 x2 x3) s = execGxor x0 x1 x2 x3 s := fun _ _ _ _ => rfl
@[simp] theorem exec_gandn : ∀ x0 x1 x2 x3, exec (.gandn x0 x1 x2 x3) s = execGandn x0 x1 x2 x3 s := fun _ _ _ _ => rfl
@[simp] theorem exec_gset : ∀ x0 x1 x2, exec (.gset x0 x1 x2) s = execGset x0 x1 x2 s := fun _ _ _ => rfl
@[simp] theorem exec_grd : ∀ x0 x1, exec (.grd x0 x1) s = execGrd x0 x1 s := fun _ _ => rfl
@[simp] theorem exec_fadd : ∀ x0 x1 x2 x3 x4 x5, exec (.fadd x0 x1 x2 x3 x4 x5) s = execFadd x0 x1 x2 x3 x4 x5 s := fun _ _ _ _ _ _ => rfl
@[simp] theorem exec_fsub : ∀ x0 x1 x2 x3 x4 x5, exec (.fsub x0 x1 x2 x3 x4 x5) s = execFsub x0 x1 x2 x3 x4 x5 s := fun _ _ _ _ _ _ => rfl
@[simp] theorem exec_fmul : ∀ x0 x1 x2 x3 x4 x5, exec (.fmul x0 x1 x2 x3 x4 x5) s = execFmul x0 x1 x2 x3 x4 x5 s := fun _ _ _ _ _ _ => rfl
@[simp] theorem exec_fdiv : ∀ x0 x1 x2 x3 x4 x5, exec (.fdiv x0 x1 x2 x3 x4 x5) s = execFdiv x0 x1 x2 x3 x4 x5 s := fun _ _ _ _ _ _ => rfl
@[simp] theorem exec_fsqrt : ∀ x0 x1 x2 x3 x4, exec (.fsqrt x0 x1 x2 x3 x4) s = execFsqrt x0 x1 x2 x3 x4 s := fun _ _ _ _ _ => rfl
@[simp] theorem exec_fma : ∀ x0 x1 x2 x3 x4 x5 x6, exec (.fma x0 x1 x2 x3 x4 x5 x6) s = execFma x0 x1 x2 x3 x4 x5 x6 s := fun _ _ _ _ _ _ _ => rfl
@[simp] theorem exec_fmin : ∀ x0 x1 x2 x3 x4 x5, exec (.fmin x0 x1 x2 x3 x4 x5) s = execFmin x0 x1 x2 x3 x4 x5 s := fun _ _ _ _ _ _ => rfl
@[simp] theorem exec_fmax : ∀ x0 x1 x2 x3 x4 x5, exec (.fmax x0 x1 x2 x3 x4 x5) s = execFmax x0 x1 x2 x3 x4 x5 s := fun _ _ _ _ _ _ => rfl
@[simp] theorem exec_cvt : ∀ x0 x1 x2 x3 x4 x5, exec (.cvt x0 x1 x2 x3 x4 x5) s = execCvt x0 x1 x2 x3 x4 x5 s := fun _ _ _ _ _ _ => rfl
@[simp] theorem exec_clz : ∀ x0 x1 x2, exec (.clz x0 x1 x2) s = execClz x0 x1 x2 s := fun _ _ _ => rfl
@[simp] theorem exec_ctz : ∀ x0 x1 x2, exec (.ctz x0 x1 x2) s = execCtz x0 x1 x2 s := fun _ _ _ => rfl
@[simp] theorem exec_popc : ∀ x0 x1 x2, exec (.popc x0 x1 x2) s = execPopc x0 x1 x2 s := fun _ _ _ => rfl
@[simp] theorem exec_bext : ∀ x0 x1 x2 x3, exec (.bext x0 x1 x2 x3) s = execBext x0 x1 x2 x3 s := fun _ _ _ _ => rfl
@[simp] theorem exec_bins : ∀ x0 x1 x2 x3, exec (.bins x0 x1 x2 x3) s = execBins x0 x1 x2 x3 s := fun _ _ _ _ => rfl
@[simp] theorem exec_mov : ∀ x0 x1 x2, exec (.mov x0 x1 x2) s = execMov x0 x1 x2 s := fun _ _ _ => rfl
@[simp] theorem exec_sel : ∀ x0 x1 x2 x3 x4, exec (.sel x0 x1 x2 x3 x4) s = execSel x0 x1 x2 x3 x4 s := fun _ _ _ _ _ => rfl
@[simp] theorem exec_movi : ∀ x0 x1 x2, exec (.movi x0 x1 x2) s = execMovi x0 x1 x2 s := fun _ _ _ => rfl
@[simp] theorem exec_movih : ∀ x0 x1 x2, exec (.movih x0 x1 x2) s = execMovih x0 x1 x2 s := fun _ _ _ => rfl
@[simp] theorem exec_adr : ∀ x0 x1 x2, exec (.adr x0 x1 x2) s = execAdr x0 x1 x2 s := fun _ _ _ => rfl
@[simp] theorem exec_ldI8 : ∀ x0 x1 x2 x3, exec (.ldI8 x0 x1 x2 x3) s = execLdI8 x0 x1 x2 x3 s := fun _ _ _ _ => rfl
@[simp] theorem exec_ldI16 : ∀ x0 x1 x2 x3, exec (.ldI16 x0 x1 x2 x3) s = execLdI16 x0 x1 x2 x3 s := fun _ _ _ _ => rfl
@[simp] theorem exec_ldI32 : ∀ x0 x1 x2 x3, exec (.ldI32 x0 x1 x2 x3) s = execLdI32 x0 x1 x2 x3 s := fun _ _ _ _ => rfl
@[simp] theorem exec_ldI64 : ∀ x0 x1 x2 x3, exec (.ldI64 x0 x1 x2 x3) s = execLdI64 x0 x1 x2 x3 s := fun _ _ _ _ => rfl
@[simp] theorem exec_ldN8 : ∀ x0 x1 x2 x3, exec (.ldN8 x0 x1 x2 x3) s = execLdN8 x0 x1 x2 x3 s := fun _ _ _ _ => rfl
@[simp] theorem exec_ldN16 : ∀ x0 x1 x2 x3, exec (.ldN16 x0 x1 x2 x3) s = execLdN16 x0 x1 x2 x3 s := fun _ _ _ _ => rfl
@[simp] theorem exec_ldN32 : ∀ x0 x1 x2 x3, exec (.ldN32 x0 x1 x2 x3) s = execLdN32 x0 x1 x2 x3 s := fun _ _ _ _ => rfl
@[simp] theorem exec_stI8 : ∀ x0 x1 x2 x3, exec (.stI8 x0 x1 x2 x3) s = execStI8 x0 x1 x2 x3 s := fun _ _ _ _ => rfl
@[simp] theorem exec_stI16 : ∀ x0 x1 x2 x3, exec (.stI16 x0 x1 x2 x3) s = execStI16 x0 x1 x2 x3 s := fun _ _ _ _ => rfl
@[simp] theorem exec_stI32 : ∀ x0 x1 x2 x3, exec (.stI32 x0 x1 x2 x3) s = execStI32 x0 x1 x2 x3 s := fun _ _ _ _ => rfl
@[simp] theorem exec_stI64 : ∀ x0 x1 x2 x3, exec (.stI64 x0 x1 x2 x3) s = execStI64 x0 x1 x2 x3 s := fun _ _ _ _ => rfl
@[simp] theorem exec_amAdd : ∀ x0 x1 x2 x3 x4, exec (.amAdd x0 x1 x2 x3 x4) s = execAmAdd x0 x1 x2 x3 x4 s := fun _ _ _ _ _ => rfl
@[simp] theorem exec_amAnd : ∀ x0 x1 x2 x3 x4, exec (.amAnd x0 x1 x2 x3 x4) s = execAmAnd x0 x1 x2 x3 x4 s := fun _ _ _ _ _ => rfl
@[simp] theorem exec_amOr : ∀ x0 x1 x2 x3 x4, exec (.amOr x0 x1 x2 x3 x4) s = execAmOr x0 x1 x2 x3 x4 s := fun _ _ _ _ _ => rfl
@[simp] theorem exec_amXor : ∀ x0 x1 x2 x3 x4, exec (.amXor x0 x1 x2 x3 x4) s = execAmXor x0 x1 x2 x3 x4 s := fun _ _ _ _ _ => rfl
@[simp] theorem exec_amMin : ∀ x0 x1 x2 x3 x4, exec (.amMin x0 x1 x2 x3 x4) s = execAmMin x0 x1 x2 x3 x4 s := fun _ _ _ _ _ => rfl
@[simp] theorem exec_amMax : ∀ x0 x1 x2 x3 x4, exec (.amMax x0 x1 x2 x3 x4) s = execAmMax x0 x1 x2 x3 x4 s := fun _ _ _ _ _ => rfl
@[simp] theorem exec_amSwp : ∀ x0 x1 x2 x3 x4, exec (.amSwp x0 x1 x2 x3 x4) s = execAmSwp x0 x1 x2 x3 x4 s := fun _ _ _ _ _ => rfl
@[simp] theorem exec_amCas : ∀ x0 x1 x2 x3 x4 x5, exec (.amCas x0 x1 x2 x3 x4 x5) s = execAmCas x0 x1 x2 x3 x4 x5 s := fun _ _ _ _ _ _ => rfl
@[simp] theorem exec_br : ∀ x0 x1, exec (.br x0 x1) s = execBr x0 x1 s := fun _ _ => rfl
@[simp] theorem exec_call : ∀ x0 x1, exec (.call x0 x1) s = execCall x0 x1 s := fun _ _ => rfl
@[simp] theorem exec_jmp : ∀ x0 x1, exec (.jmp x0 x1) s = execJmp x0 x1 s := fun _ _ => rfl
@[simp] theorem exec_callr : ∀ x0 x1, exec (.callr x0 x1) s = execCallr x0 x1 s := fun _ _ => rfl
@[simp] theorem exec_ret : ∀ x0 x1, exec (.ret x0 x1) s = execRet x0 x1 s := fun _ _ => rfl
@[simp] theorem exec_loop : ∀ x0 x1 x2, exec (.loop x0 x1 x2) s = execLoop x0 x1 x2 s := fun _ _ _ => rfl
@[simp] theorem exec_crr : ∀ x0 x1 x2, exec (.crr x0 x1 x2) s = execCrr x0 x1 x2 s := fun _ _ _ => rfl
@[simp] theorem exec_crw : ∀ x0 x1 x2, exec (.crw x0 x1 x2) s = execCrw x0 x1 x2 s := fun _ _ _ => rfl
@[simp] theorem exec_crs : ∀ x0 x1 x2 x3, exec (.crs x0 x1 x2 x3) s = execCrs x0 x1 x2 x3 s := fun _ _ _ _ => rfl
@[simp] theorem exec_crc : ∀ x0 x1 x2 x3, exec (.crc x0 x1 x2 x3) s = execCrc x0 x1 x2 x3 s := fun _ _ _ _ => rfl
@[simp] theorem exec_pmapcInv : ∀ x0 x1, exec (.pmapcInv x0 x1) s = execPmapcInv x0 x1 s := fun _ _ => rfl
@[simp] theorem exec_islcfgUnbind : ∀ x0 x1, exec (.islcfgUnbind x0 x1) s = execIslcfgUnbind x0 x1 s := fun _ _ => rfl
@[simp] theorem exec_vaddI : ∀ x0 x1 x2 x3 x4 x5, exec (.vaddI x0 x1 x2 x3 x4 x5) s = execVaddI x0 x1 x2 x3 x4 x5 s := fun _ _ _ _ _ _ => rfl
@[simp] theorem exec_vsubI : ∀ x0 x1 x2 x3 x4 x5, exec (.vsubI x0 x1 x2 x3 x4 x5) s = execVsubI x0 x1 x2 x3 x4 x5 s := fun _ _ _ _ _ _ => rfl
@[simp] theorem exec_vmulI : ∀ x0 x1 x2 x3 x4 x5, exec (.vmulI x0 x1 x2 x3 x4 x5) s = execVmulI x0 x1 x2 x3 x4 x5 s := fun _ _ _ _ _ _ => rfl
@[simp] theorem exec_vmulh : ∀ x0 x1 x2 x3 x4 x5, exec (.vmulh x0 x1 x2 x3 x4 x5) s = execVmulh x0 x1 x2 x3 x4 x5 s := fun _ _ _ _ _ _ => rfl
@[simp] theorem exec_vminI : ∀ x0 x1 x2 x3 x4 x5, exec (.vminI x0 x1 x2 x3 x4 x5) s = execVminI x0 x1 x2 x3 x4 x5 s := fun _ _ _ _ _ _ => rfl
@[simp] theorem exec_vmaxI : ∀ x0 x1 x2 x3 x4 x5, exec (.vmaxI x0 x1 x2 x3 x4 x5) s = execVmaxI x0 x1 x2 x3 x4 x5 s := fun _ _ _ _ _ _ => rfl
@[simp] theorem exec_vand : ∀ x0 x1 x2 x3 x4 x5, exec (.vand x0 x1 x2 x3 x4 x5) s = execVand x0 x1 x2 x3 x4 x5 s := fun _ _ _ _ _ _ => rfl
@[simp] theorem exec_vor : ∀ x0 x1 x2 x3 x4 x5, exec (.vor x0 x1 x2 x3 x4 x5) s = execVor x0 x1 x2 x3 x4 x5 s := fun _ _ _ _ _ _ => rfl
@[simp] theorem exec_vxor : ∀ x0 x1 x2 x3 x4 x5, exec (.vxor x0 x1 x2 x3 x4 x5) s = execVxor x0 x1 x2 x3 x4 x5 s := fun _ _ _ _ _ _ => rfl
@[simp] theorem exec_vshl : ∀ x0 x1 x2 x3 x4 x5, exec (.vshl x0 x1 x2 x3 x4 x5) s = execVshl x0 x1 x2 x3 x4 x5 s := fun _ _ _ _ _ _ => rfl
@[simp] theorem exec_vshr : ∀ x0 x1 x2 x3 x4 x5, exec (.vshr x0 x1 x2 x3 x4 x5) s = execVshr x0 x1 x2 x3 x4 x5 s := fun _ _ _ _ _ _ => rfl
@[simp] theorem exec_vsra : ∀ x0 x1 x2 x3 x4 x5, exec (.vsra x0 x1 x2 x3 x4 x5) s = execVsra x0 x1 x2 x3 x4 x5 s := fun _ _ _ _ _ _ => rfl
@[simp] theorem exec_vabsI : ∀ x0 x1 x2 x3 x4, exec (.vabsI x0 x1 x2 x3 x4) s = execVabsI x0 x1 x2 x3 x4 s := fun _ _ _ _ _ => rfl
@[simp] theorem exec_vnegI : ∀ x0 x1 x2 x3 x4, exec (.vnegI x0 x1 x2 x3 x4) s = execVnegI x0 x1 x2 x3 x4 s := fun _ _ _ _ _ => rfl
@[simp] theorem exec_vadds : ∀ x0 x1 x2 x3 x4 x5, exec (.vadds x0 x1 x2 x3 x4 x5) s = execVadds x0 x1 x2 x3 x4 x5 s := fun _ _ _ _ _ _ => rfl
@[simp] theorem exec_vsubs : ∀ x0 x1 x2 x3 x4 x5, exec (.vsubs x0 x1 x2 x3 x4 x5) s = execVsubs x0 x1 x2 x3 x4 x5 s := fun _ _ _ _ _ _ => rfl
@[simp] theorem exec_vaddF : ∀ x0 x1 x2 x3 x4 x5 x6, exec (.vaddF x0 x1 x2 x3 x4 x5 x6) s = execVaddF x0 x1 x2 x3 x4 x5 x6 s := fun _ _ _ _ _ _ _ => rfl
@[simp] theorem exec_vsubF : ∀ x0 x1 x2 x3 x4 x5 x6, exec (.vsubF x0 x1 x2 x3 x4 x5 x6) s = execVsubF x0 x1 x2 x3 x4 x5 x6 s := fun _ _ _ _ _ _ _ => rfl
@[simp] theorem exec_vmulF : ∀ x0 x1 x2 x3 x4 x5 x6, exec (.vmulF x0 x1 x2 x3 x4 x5 x6) s = execVmulF x0 x1 x2 x3 x4 x5 x6 s := fun _ _ _ _ _ _ _ => rfl
@[simp] theorem exec_vminF : ∀ x0 x1 x2 x3 x4 x5, exec (.vminF x0 x1 x2 x3 x4 x5) s = execVminF x0 x1 x2 x3 x4 x5 s := fun _ _ _ _ _ _ => rfl
@[simp] theorem exec_vmaxF : ∀ x0 x1 x2 x3 x4 x5, exec (.vmaxF x0 x1 x2 x3 x4 x5) s = execVmaxF x0 x1 x2 x3 x4 x5 s := fun _ _ _ _ _ _ => rfl
@[simp] theorem exec_vabsF : ∀ x0 x1 x2 x3 x4, exec (.vabsF x0 x1 x2 x3 x4) s = execVabsF x0 x1 x2 x3 x4 s := fun _ _ _ _ _ => rfl
@[simp] theorem exec_vnegF : ∀ x0 x1 x2 x3 x4, exec (.vnegF x0 x1 x2 x3 x4) s = execVnegF x0 x1 x2 x3 x4 s := fun _ _ _ _ _ => rfl
@[simp] theorem exec_vfma : ∀ x0 x1 x2 x3 x4 x5 x6 x7, exec (.vfma x0 x1 x2 x3 x4 x5 x6 x7) s = execVfma x0 x1 x2 x3 x4 x5 x6 x7 s := fun _ _ _ _ _ _ _ _ => rfl
@[simp] theorem exec_vfms : ∀ x0 x1 x2 x3 x4 x5 x6 x7, exec (.vfms x0 x1 x2 x3 x4 x5 x6 x7) s = execVfms x0 x1 x2 x3 x4 x5 x6 x7 s := fun _ _ _ _ _ _ _ _ => rfl
@[simp] theorem exec_vfnma : ∀ x0 x1 x2 x3 x4 x5 x6 x7, exec (.vfnma x0 x1 x2 x3 x4 x5 x6 x7) s = execVfnma x0 x1 x2 x3 x4 x5 x6 x7 s := fun _ _ _ _ _ _ _ _ => rfl
@[simp] theorem exec_vdot : ∀ x0 x1 x2 x3 x4 x5 x6, exec (.vdot x0 x1 x2 x3 x4 x5 x6) s = execVdot x0 x1 x2 x3 x4 x5 x6 s := fun _ _ _ _ _ _ _ => rfl
@[simp] theorem exec_vcmpEq : ∀ x0 x1 x2 x3 x4 x5, exec (.vcmpEq x0 x1 x2 x3 x4 x5) s = execVcmpEq x0 x1 x2 x3 x4 x5 s := fun _ _ _ _ _ _ => rfl
@[simp] theorem exec_vcmpNe : ∀ x0 x1 x2 x3 x4 x5, exec (.vcmpNe x0 x1 x2 x3 x4 x5) s = execVcmpNe x0 x1 x2 x3 x4 x5 s := fun _ _ _ _ _ _ => rfl
@[simp] theorem exec_vcmpLt : ∀ x0 x1 x2 x3 x4 x5, exec (.vcmpLt x0 x1 x2 x3 x4 x5) s = execVcmpLt x0 x1 x2 x3 x4 x5 s := fun _ _ _ _ _ _ => rfl
@[simp] theorem exec_vcmpGe : ∀ x0 x1 x2 x3 x4 x5, exec (.vcmpGe x0 x1 x2 x3 x4 x5) s = execVcmpGe x0 x1 x2 x3 x4 x5 s := fun _ _ _ _ _ _ => rfl
@[simp] theorem exec_vcmpLo : ∀ x0 x1 x2 x3 x4 x5, exec (.vcmpLo x0 x1 x2 x3 x4 x5) s = execVcmpLo x0 x1 x2 x3 x4 x5 s := fun _ _ _ _ _ _ => rfl
@[simp] theorem exec_vcmpHs : ∀ x0 x1 x2 x3 x4 x5, exec (.vcmpHs x0 x1 x2 x3 x4 x5) s = execVcmpHs x0 x1 x2 x3 x4 x5 s := fun _ _ _ _ _ _ => rfl
@[simp] theorem exec_vcmpEqF : ∀ x0 x1 x2 x3 x4 x5, exec (.vcmpEqF x0 x1 x2 x3 x4 x5) s = execVcmpEqF x0 x1 x2 x3 x4 x5 s := fun _ _ _ _ _ _ => rfl
@[simp] theorem exec_vcmpLtF : ∀ x0 x1 x2 x3 x4 x5, exec (.vcmpLtF x0 x1 x2 x3 x4 x5) s = execVcmpLtF x0 x1 x2 x3 x4 x5 s := fun _ _ _ _ _ _ => rfl
@[simp] theorem exec_vcmpLeF : ∀ x0 x1 x2 x3 x4 x5, exec (.vcmpLeF x0 x1 x2 x3 x4 x5) s = execVcmpLeF x0 x1 x2 x3 x4 x5 s := fun _ _ _ _ _ _ => rfl
@[simp] theorem exec_vcmpUnF : ∀ x0 x1 x2 x3 x4 x5, exec (.vcmpUnF x0 x1 x2 x3 x4 x5) s = execVcmpUnF x0 x1 x2 x3 x4 x5 s := fun _ _ _ _ _ _ => rfl
@[simp] theorem exec_mand : ∀ x0 x1 x2 x3, exec (.mand x0 x1 x2 x3) s = execMand x0 x1 x2 x3 s := fun _ _ _ _ => rfl
@[simp] theorem exec_mor : ∀ x0 x1 x2 x3, exec (.mor x0 x1 x2 x3) s = execMor x0 x1 x2 x3 s := fun _ _ _ _ => rfl
@[simp] theorem exec_mxor : ∀ x0 x1 x2 x3, exec (.mxor x0 x1 x2 x3) s = execMxor x0 x1 x2 x3 s := fun _ _ _ _ => rfl
@[simp] theorem exec_mandn : ∀ x0 x1 x2 x3, exec (.mandn x0 x1 x2 x3) s = execMandn x0 x1 x2 x3 s := fun _ _ _ _ => rfl
@[simp] theorem exec_mpopc : ∀ x0 x1 x2, exec (.mpopc x0 x1 x2) s = execMpopc x0 x1 x2 s := fun _ _ _ => rfl
@[simp] theorem exec_mfirst : ∀ x0 x1 x2, exec (.mfirst x0 x1 x2) s = execMfirst x0 x1 x2 s := fun _ _ _ => rfl
@[simp] theorem exec_mtos : ∀ x0 x1 x2, exec (.mtos x0 x1 x2) s = execMtos x0 x1 x2 s := fun _ _ _ => rfl
@[simp] theorem exec_mfroms : ∀ x0 x1 x2, exec (.mfroms x0 x1 x2) s = execMfroms x0 x1 x2 s := fun _ _ _ => rfl
@[simp] theorem exec_vperm : ∀ x0 x1 x2 x3 x4 x5, exec (.vperm x0 x1 x2 x3 x4 x5) s = execVperm x0 x1 x2 x3 x4 x5 s := fun _ _ _ _ _ _ => rfl
@[simp] theorem exec_vbcast : ∀ x0 x1 x2 x3 x4, exec (.vbcast x0 x1 x2 x3 x4) s = execVbcast x0 x1 x2 x3 x4 s := fun _ _ _ _ _ => rfl
@[simp] theorem exec_vins : ∀ x0 x1 x2 x3 x4 x5, exec (.vins x0 x1 x2 x3 x4 x5) s = execVins x0 x1 x2 x3 x4 x5 s := fun _ _ _ _ _ _ => rfl
@[simp] theorem exec_vext : ∀ x0 x1 x2 x3 x4, exec (.vext x0 x1 x2 x3 x4) s = execVext x0 x1 x2 x3 x4 s := fun _ _ _ _ _ => rfl
@[simp] theorem exec_vslide : ∀ x0 x1 x2 x3 x4 x5 x6, exec (.vslide x0 x1 x2 x3 x4 x5 x6) s = execVslide x0 x1 x2 x3 x4 x5 x6 s := fun _ _ _ _ _ _ _ => rfl
@[simp] theorem exec_vslided : ∀ x0 x1 x2 x3 x4 x5 x6, exec (.vslided x0 x1 x2 x3 x4 x5 x6) s = execVslided x0 x1 x2 x3 x4 x5 x6 s := fun _ _ _ _ _ _ _ => rfl
@[simp] theorem exec_vcomp : ∀ x0 x1 x2 x3 x4, exec (.vcomp x0 x1 x2 x3 x4) s = execVcomp x0 x1 x2 x3 x4 s := fun _ _ _ _ _ => rfl
@[simp] theorem exec_vexpd : ∀ x0 x1 x2 x3 x4, exec (.vexpd x0 x1 x2 x3 x4) s = execVexpd x0 x1 x2 x3 x4 s := fun _ _ _ _ _ => rfl
@[simp] theorem exec_vzip : ∀ x0 x1 x2 x3 x4 x5 x6, exec (.vzip x0 x1 x2 x3 x4 x5 x6) s = execVzip x0 x1 x2 x3 x4 x5 x6 s := fun _ _ _ _ _ _ _ => rfl
@[simp] theorem exec_vunzip : ∀ x0 x1 x2 x3 x4 x5 x6, exec (.vunzip x0 x1 x2 x3 x4 x5 x6) s = execVunzip x0 x1 x2 x3 x4 x5 x6 s := fun _ _ _ _ _ _ _ => rfl
@[simp] theorem exec_vredAdd : ∀ x0 x1 x2 x3 x4 x5, exec (.vredAdd x0 x1 x2 x3 x4 x5) s = execVredAdd x0 x1 x2 x3 x4 x5 s := fun _ _ _ _ _ _ => rfl
@[simp] theorem exec_vredMin : ∀ x0 x1 x2 x3 x4, exec (.vredMin x0 x1 x2 x3 x4) s = execVredMin x0 x1 x2 x3 x4 s := fun _ _ _ _ _ => rfl
@[simp] theorem exec_vredMax : ∀ x0 x1 x2 x3 x4, exec (.vredMax x0 x1 x2 x3 x4) s = execVredMax x0 x1 x2 x3 x4 s := fun _ _ _ _ _ => rfl
@[simp] theorem exec_vredAnd : ∀ x0 x1 x2 x3 x4, exec (.vredAnd x0 x1 x2 x3 x4) s = execVredAnd x0 x1 x2 x3 x4 s := fun _ _ _ _ _ => rfl
@[simp] theorem exec_vredOr : ∀ x0 x1 x2 x3 x4, exec (.vredOr x0 x1 x2 x3 x4) s = execVredOr x0 x1 x2 x3 x4 s := fun _ _ _ _ _ => rfl
@[simp] theorem exec_vredXor : ∀ x0 x1 x2 x3 x4, exec (.vredXor x0 x1 x2 x3 x4) s = execVredXor x0 x1 x2 x3 x4 s := fun _ _ _ _ _ => rfl
@[simp] theorem exec_vcvt : ∀ x0 x1 x2 x3 x4 x5 x6 x7, exec (.vcvt x0 x1 x2 x3 x4 x5 x6 x7) s = execVcvt x0 x1 x2 x3 x4 x5 x6 x7 s := fun _ _ _ _ _ _ _ _ => rfl
@[simp] theorem exec_badd : ∀ x0 x1 x2 x3 x4 x5 x6, exec (.badd x0 x1 x2 x3 x4 x5 x6) s = execBadd x0 x1 x2 x3 x4 x5 x6 s := fun _ _ _ _ _ _ _ => rfl
@[simp] theorem exec_bsub : ∀ x0 x1 x2 x3 x4 x5 x6, exec (.bsub x0 x1 x2 x3 x4 x5 x6) s = execBsub x0 x1 x2 x3 x4 x5 x6 s := fun _ _ _ _ _ _ _ => rfl
@[simp] theorem exec_bmul : ∀ x0 x1 x2 x3 x4 x5 x6, exec (.bmul x0 x1 x2 x3 x4 x5 x6) s = execBmul x0 x1 x2 x3 x4 x5 x6 s := fun _ _ _ _ _ _ _ => rfl
@[simp] theorem exec_bmin : ∀ x0 x1 x2 x3 x4 x5 x6, exec (.bmin x0 x1 x2 x3 x4 x5 x6) s = execBmin x0 x1 x2 x3 x4 x5 x6 s := fun _ _ _ _ _ _ _ => rfl
@[simp] theorem exec_bmax : ∀ x0 x1 x2 x3 x4 x5 x6, exec (.bmax x0 x1 x2 x3 x4 x5 x6) s = execBmax x0 x1 x2 x3 x4 x5 x6 s := fun _ _ _ _ _ _ _ => rfl
@[simp] theorem exec_bneg : ∀ x0 x1 x2 x3 x4 x5, exec (.bneg x0 x1 x2 x3 x4 x5) s = execBneg x0 x1 x2 x3 x4 x5 s := fun _ _ _ _ _ _ => rfl
@[simp] theorem exec_bscale : ∀ x0 x1 x2 x3 x4 x5 x6, exec (.bscale x0 x1 x2 x3 x4 x5 x6) s = execBscale x0 x1 x2 x3 x4 x5 x6 s := fun _ _ _ _ _ _ _ => rfl
@[simp] theorem exec_bnorm : ∀ x0 x1 x2 x3 x4 x5, exec (.bnorm x0 x1 x2 x3 x4 x5) s = execBnorm x0 x1 x2 x3 x4 x5 s := fun _ _ _ _ _ _ => rfl
@[simp] theorem exec_btof : ∀ x0 x1 x2 x3 x4 x5 x6 x7, exec (.btof x0 x1 x2 x3 x4 x5 x6 x7) s = execBtof x0 x1 x2 x3 x4 x5 x6 x7 s := fun _ _ _ _ _ _ _ _ => rfl
@[simp] theorem exec_bfromf : ∀ x0 x1 x2 x3 x4 x5 x6 x7, exec (.bfromf x0 x1 x2 x3 x4 x5 x6 x7) s = execBfromf x0 x1 x2 x3 x4 x5 x6 x7 s := fun _ _ _ _ _ _ _ _ => rfl
@[simp] theorem exec_brefmt : ∀ x0 x1 x2 x3 x4 x5 x6 x7, exec (.brefmt x0 x1 x2 x3 x4 x5 x6 x7) s = execBrefmt x0 x1 x2 x3 x4 x5 x6 x7 s := fun _ _ _ _ _ _ _ _ => rfl
@[simp] theorem exec_bgeth : ∀ x0 x1 x2 x3, exec (.bgeth x0 x1 x2 x3) s = execBgeth x0 x1 x2 x3 s := fun _ _ _ _ => rfl
@[simp] theorem exec_bseth : ∀ x0 x1 x2 x3, exec (.bseth x0 x1 x2 x3) s = execBseth x0 x1 x2 x3 s := fun _ _ _ _ => rfl
@[simp] theorem exec_vrcp : ∀ x0 x1 x2 x3, exec (.vrcp x0 x1 x2 x3) s = execVrcp x0 x1 x2 x3 s := fun _ _ _ _ => rfl
@[simp] theorem exec_vrsq : ∀ x0 x1 x2 x3, exec (.vrsq x0 x1 x2 x3) s = execVrsq x0 x1 x2 x3 s := fun _ _ _ _ => rfl
@[simp] theorem exec_vexp2 : ∀ x0 x1 x2 x3, exec (.vexp2 x0 x1 x2 x3) s = execVexp2 x0 x1 x2 x3 s := fun _ _ _ _ => rfl
@[simp] theorem exec_vlog2 : ∀ x0 x1 x2 x3, exec (.vlog2 x0 x1 x2 x3) s = execVlog2 x0 x1 x2 x3 s := fun _ _ _ _ => rfl
@[simp] theorem exec_vld : ∀ x0 x1 x2 x3 x4, exec (.vld x0 x1 x2 x3 x4) s = execVld x0 x1 x2 x3 x4 s := fun _ _ _ _ _ => rfl
@[simp] theorem exec_vst : ∀ x0 x1 x2 x3 x4, exec (.vst x0 x1 x2 x3 x4) s = execVst x0 x1 x2 x3 x4 s := fun _ _ _ _ _ => rfl
@[simp] theorem exec_vldx : ∀ x0 x1 x2 x3 x4, exec (.vldx x0 x1 x2 x3 x4) s = execVldx x0 x1 x2 x3 x4 s := fun _ _ _ _ _ => rfl
@[simp] theorem exec_vstx : ∀ x0 x1 x2 x3 x4, exec (.vstx x0 x1 x2 x3 x4) s = execVstx x0 x1 x2 x3 x4 s := fun _ _ _ _ _ => rfl
@[simp] theorem exec_bld : ∀ x0 x1 x2 x3 x4 x5, exec (.bld x0 x1 x2 x3 x4 x5) s = execBld x0 x1 x2 x3 x4 x5 s := fun _ _ _ _ _ _ => rfl
@[simp] theorem exec_bst : ∀ x0 x1 x2 x3 x4 x5, exec (.bst x0 x1 x2 x3 x4 x5) s = execBst x0 x1 x2 x3 x4 x5 s := fun _ _ _ _ _ _ => rfl
@[simp] theorem exec_fqpop : ∀ x0 x1 x2, exec (.fqpop x0 x1 x2) s = execFqpop x0 x1 x2 s := fun _ _ _ => rfl
@[simp] theorem exec_fqdrop : ∀ x0 x1, exec (.fqdrop x0 x1) s = execFqdrop x0 x1 s := fun _ _ => rfl
@[simp] theorem exec_fqmark : ∀ x0 x1 x2 x3, exec (.fqmark x0 x1 x2 x3) s = execFqmark x0 x1 x2 x3 s := fun _ _ _ _ => rfl
@[simp] theorem exec_mma : ∀ x0 x1 x2 x3 x4 x5 x6 x7, exec (.mma x0 x1 x2 x3 x4 x5 x6 x7) s = execMma x0 x1 x2 x3 x4 x5 x6 x7 s := fun _ _ _ _ _ _ _ _ => rfl
@[simp] theorem exec_mman : ∀ x0 x1 x2 x3 x4 x5 x6 x7, exec (.mman x0 x1 x2 x3 x4 x5 x6 x7) s = execMman x0 x1 x2 x3 x4 x5 x6 x7 s := fun _ _ _ _ _ _ _ _ => rfl
@[simp] theorem exec_mmaTileWrite : ∀ x0, exec (.mmaTileWrite x0) s = execMmaTileWrite x0 s := fun _ => rfl
@[simp] theorem exec_accz : ∀ x0 x1 x2, exec (.accz x0 x1 x2) s = execAccz x0 x1 x2 s := fun _ _ _ => rfl
@[simp] theorem exec_accmode : ∀ x0 x1 x2, exec (.accmode x0 x1 x2) s = execAccmode x0 x1 x2 s := fun _ _ _ => rfl
@[simp] theorem exec_accrd : ∀ x0 x1 x2 x3 x4 x5 x6, exec (.accrd x0 x1 x2 x3 x4 x5 x6) s = execAccrd x0 x1 x2 x3 x4 x5 x6 s := fun _ _ _ _ _ _ _ => rfl
@[simp] theorem exec_accwr : ∀ x0 x1 x2 x3 x4 x5, exec (.accwr x0 x1 x2 x3 x4 x5) s = execAccwr x0 x1 x2 x3 x4 x5 s := fun _ _ _ _ _ _ => rfl
@[simp] theorem exec_accexp : ∀ x0 x1 x2 x3 x4 x5 x6, exec (.accexp x0 x1 x2 x3 x4 x5 x6) s = execAccexp x0 x1 x2 x3 x4 x5 x6 s := fun _ _ _ _ _ _ _ => rfl
@[simp] theorem exec_accswp : ∀ x0 x1 x2, exec (.accswp x0 x1 x2) s = execAccswp x0 x1 x2 s := fun _ _ _ => rfl
@[simp] theorem exec_accsc : ∀ x0 x1 x2, exec (.accsc x0 x1 x2) s = execAccsc x0 x1 x2 s := fun _ _ _ => rfl
@[simp] theorem exec_accscFit : ∀ x0 x1, exec (.accscFit x0 x1) s = execAccscFit x0 x1 s := fun _ _ => rfl
@[simp] theorem exec_accraw : ∀ x0 x1 x2 x3 x4, exec (.accraw x0 x1 x2 x3 x4) s = execAccraw x0 x1 x2 x3 x4 s := fun _ _ _ _ _ => rfl
@[simp] theorem exec_accrawOrg : ∀ x0 x1 x2, exec (.accrawOrg x0 x1 x2) s = execAccrawOrg x0 x1 x2 s := fun _ _ _ => rfl
@[simp] theorem exec_macq : ∀ x0 x1, exec (.macq x0 x1) s = execMacq x0 x1 s := fun _ _ => rfl
@[simp] theorem exec_mrel : ∀ x0, exec (.mrel x0) s = execMrel x0 s := fun _ => rfl
@[simp] theorem exec_mxfr : ∀ x0, exec (.mxfr x0) s = execMxfr x0 s := fun _ => rfl
@[simp] theorem exec_mxfrMigrate : ∀ x0 x1 x2, exec (.mxfrMigrate x0 x1 x2) s = execMxfrMigrate x0 x1 x2 s := fun _ _ _ => rfl
@[simp] theorem exec_migrationDone : ∀ x0, exec (.migrationDone x0) s = execMigrationDone x0 s := fun _ => rfl
@[simp] theorem exec_twr : ∀ x0 x1 x2, exec (.twr x0 x1 x2) s = execTwr x0 x1 x2 s := fun _ _ _ => rfl
@[simp] theorem exec_tww : ∀ x0 x1 x2, exec (.tww x0 x1 x2) s = execTww x0 x1 x2 s := fun _ _ _ => rfl
@[simp] theorem exec_xcht : ∀ x0 x1 x2, exec (.xcht x0 x1 x2) s = execXcht x0 x1 x2 s := fun _ _ _ => rfl
@[simp] theorem exec_blld : ∀ x0 x1 x2 x3 x4, exec (.blld x0 x1 x2 x3 x4) s = execBlld x0 x1 x2 x3 x4 s := fun _ _ _ _ _ => rfl
@[simp] theorem exec_blmv : ∀ x0 x1 x2 x3 x4, exec (.blmv x0 x1 x2 x3 x4) s = execBlmv x0 x1 x2 x3 x4 s := fun _ _ _ _ _ => rfl
@[simp] theorem exec_blclr : ∀ x0 x1, exec (.blclr x0 x1) s = execBlclr x0 x1 s := fun _ _ => rfl
@[simp] theorem exec_send : ∀ x0 x1 x2 x3 x4, exec (.send x0 x1 x2 x3 x4) s = execSend x0 x1 x2 x3 x4 s := fun _ _ _ _ _ => rfl
@[simp] theorem exec_sendRel : ∀ x0 x1 x2 x3 x4, exec (.sendRel x0 x1 x2 x3 x4) s = execSendRel x0 x1 x2 x3 x4 s := fun _ _ _ _ _ => rfl
@[simp] theorem exec_xsend : ∀ x0 x1 x2 x3 x4, exec (.xsend x0 x1 x2 x3 x4) s = execXsend x0 x1 x2 x3 x4 s := fun _ _ _ _ _ => rfl
@[simp] theorem exec_xsendRel : ∀ x0 x1 x2 x3 x4, exec (.xsendRel x0 x1 x2 x3 x4) s = execXsendRel x0 x1 x2 x3 x4 s := fun _ _ _ _ _ => rfl
@[simp] theorem exec_chbindWake : ∀ x0 x1 x2, exec (.chbindWake x0 x1 x2) s = execChbindWake x0 x1 x2 s := fun _ _ _ => rfl
@[simp] theorem exec_chbindLand : ∀ x0 x1 x2 x3, exec (.chbindLand x0 x1 x2 x3) s = execChbindLand x0 x1 x2 x3 s := fun _ _ _ _ => rfl
@[simp] theorem exec_chbindFeed : ∀ x0 x1 x2 x3, exec (.chbindFeed x0 x1 x2 x3) s = execChbindFeed x0 x1 x2 x3 s := fun _ _ _ _ => rfl
@[simp] theorem exec_jset : ∀ x0 x1 x2 x3 x4 x5, exec (.jset x0 x1 x2 x3 x4 x5) s = execJset x0 x1 x2 x3 x4 x5 s := fun _ _ _ _ _ _ => rfl
@[simp] theorem exec_chunb : ∀ x0 x1, exec (.chunb x0 x1) s = execChunb x0 x1 s := fun _ _ => rfl
@[simp] theorem exec_chst : ∀ x0 x1 x2, exec (.chst x0 x1 x2) s = execChst x0 x1 x2 s := fun _ _ _ => rfl
@[simp] theorem exec_awaitCtr : ∀ x0 x1 x2, exec (.awaitCtr x0 x1 x2) s = execAwaitCtr x0 x1 x2 s := fun _ _ _ => rfl
@[simp] theorem exec_awaitBatch : ∀ x0 x1, exec (.awaitBatch x0 x1) s = execAwaitBatch x0 x1 s := fun _ _ => rfl
@[simp] theorem exec_awaitLic : ∀ x0, exec (.awaitLic x0) s = execAwaitLic x0 s := fun _ => rfl
@[simp] theorem exec_awaitTkt : ∀ x0 x1, exec (.awaitTkt x0 x1) s = execAwaitTkt x0 x1 s := fun _ _ => rfl
@[simp] theorem exec_awaitChan : ∀ x0 x1, exec (.awaitChan x0 x1) s = execAwaitChan x0 x1 s := fun _ _ => rfl
@[simp] theorem exec_yield : ∀ x0, exec (.yield x0) s = execYield x0 s := fun _ => rfl
@[simp] theorem exec_endAct : ∀ x0, exec (.endAct x0) s = execEndAct x0 s := fun _ => rfl
@[simp] theorem exec_slvl : ∀ x0 x1 x2 x3 x4, exec (.slvl x0 x1 x2 x3 x4) s = execSlvl x0 x1 x2 x3 x4 s := fun _ _ _ _ _ => rfl
@[simp] theorem exec_scpy : ∀ x0 x1 x2 x3 x4 x5 x6 x7, exec (.scpy x0 x1 x2 x3 x4 x5 x6 x7) s = execScpy x0 x1 x2 x3 x4 x5 x6 x7 s := fun _ _ _ _ _ _ _ _ => rfl
@[simp] theorem exec_sgth : ∀ x0 x1 x2 x3 x4 x5 x6, exec (.sgth x0 x1 x2 x3 x4 x5 x6) s = execSgth x0 x1 x2 x3 x4 x5 x6 s := fun _ _ _ _ _ _ _ => rfl
@[simp] theorem exec_sfq : ∀ x0 x1 x2 x3 x4 x5 x6 x7, exec (.sfq x0 x1 x2 x3 x4 x5 x6 x7) s = execSfq x0 x1 x2 x3 x4 x5 x6 x7 s := fun _ _ _ _ _ _ _ _ => rfl
@[simp] theorem exec_sfqRemote : ∀ x0 x1 x2 x3 x4 x5 x6, exec (.sfqRemote x0 x1 x2 x3 x4 x5 x6) s = execSfqRemote x0 x1 x2 x3 x4 x5 x6 s := fun _ _ _ _ _ _ _ => rfl
@[simp] theorem exec_sbar : ∀ x0 x1, exec (.sbar x0 x1) s = execSbar x0 x1 s := fun _ _ => rfl
@[simp] theorem exec_bseal : ∀ x0 x1, exec (.bseal x0 x1) s = execBseal x0 x1 s := fun _ _ => rfl
@[simp] theorem exec_waitb : ∀ x0 x1, exec (.waitb x0 x1) s = execWaitb x0 x1 s := fun _ _ => rfl
@[simp] theorem exec_bstat : ∀ x0 x1 x2, exec (.bstat x0 x1 x2) s = execBstat x0 x1 x2 s := fun _ _ _ => rfl
@[simp] theorem exec_put : ∀ x0 x1 x2 x3 x4, exec (.put x0 x1 x2 x3 x4) s = execPut x0 x1 x2 x3 x4 s := fun _ _ _ _ _ => rfl
@[simp] theorem exec_get : ∀ x0 x1 x2 x3 x4, exec (.get x0 x1 x2 x3 x4) s = execGet x0 x1 x2 x3 x4 s := fun _ _ _ _ _ => rfl
@[simp] theorem exec_tkst : ∀ x0 x1 x2, exec (.tkst x0 x1 x2) s = execTkst x0 x1 x2 s := fun _ _ _ => rfl
@[simp] theorem exec_tkstValue : ∀ x0 x1 x2, exec (.tkstValue x0 x1 x2) s = execTkstValue x0 x1 x2 s := fun _ _ _ => rfl
@[simp] theorem exec_raAdd : ∀ x0 x1 x2 x3 x4, exec (.raAdd x0 x1 x2 x3 x4) s = execRaAdd x0 x1 x2 x3 x4 s := fun _ _ _ _ _ => rfl
@[simp] theorem exec_raAnd : ∀ x0 x1 x2 x3 x4, exec (.raAnd x0 x1 x2 x3 x4) s = execRaAnd x0 x1 x2 x3 x4 s := fun _ _ _ _ _ => rfl
@[simp] theorem exec_raOr : ∀ x0 x1 x2 x3 x4, exec (.raOr x0 x1 x2 x3 x4) s = execRaOr x0 x1 x2 x3 x4 s := fun _ _ _ _ _ => rfl
@[simp] theorem exec_raXor : ∀ x0 x1 x2 x3 x4, exec (.raXor x0 x1 x2 x3 x4) s = execRaXor x0 x1 x2 x3 x4 s := fun _ _ _ _ _ => rfl
@[simp] theorem exec_raMin : ∀ x0 x1 x2 x3 x4, exec (.raMin x0 x1 x2 x3 x4) s = execRaMin x0 x1 x2 x3 x4 s := fun _ _ _ _ _ => rfl
@[simp] theorem exec_raMax : ∀ x0 x1 x2 x3 x4, exec (.raMax x0 x1 x2 x3 x4) s = execRaMax x0 x1 x2 x3 x4 s := fun _ _ _ _ _ => rfl
@[simp] theorem exec_raSwp : ∀ x0 x1 x2 x3 x4, exec (.raSwp x0 x1 x2 x3 x4) s = execRaSwp x0 x1 x2 x3 x4 s := fun _ _ _ _ _ => rfl
@[simp] theorem exec_raCas : ∀ x0 x1 x2 x3 x4 x5, exec (.raCas x0 x1 x2 x3 x4 x5) s = execRaCas x0 x1 x2 x3 x4 x5 s := fun _ _ _ _ _ _ => rfl
@[simp] theorem exec_ctrb : ∀ x0 x1 x2 x3 x4, exec (.ctrb x0 x1 x2 x3 x4) s = execCtrb x0 x1 x2 x3 x4 s := fun _ _ _ _ _ => rfl
@[simp] theorem exec_tbuild : ∀ x0 x1 x2, exec (.tbuild x0 x1 x2) s = execTbuild x0 x1 x2 s := fun _ _ _ => rfl
@[simp] theorem exec_tfree : ∀ x0 x1 x2, exec (.tfree x0 x1 x2) s = execTfree x0 x1 x2 s := fun _ _ _ => rfl
@[simp] theorem exec_tabort : ∀ x0 x1, exec (.tabort x0 x1) s = execTabort x0 x1 s := fun _ _ => rfl
@[simp] theorem exec_tqryStatus : ∀ x0 x1 x2, exec (.tqryStatus x0 x1 x2) s = execTqryStatus x0 x1 x2 s := fun _ _ _ => rfl
@[simp] theorem exec_tqryDoneBitmap : ∀ x0 x1 x2, exec (.tqryDoneBitmap x0 x1 x2) s = execTqryDoneBitmap x0 x1 x2 s := fun _ _ _ => rfl
@[simp] theorem exec_tqryQuorumCount : ∀ x0 x1 x2, exec (.tqryQuorumCount x0 x1 x2) s = execTqryQuorumCount x0 x1 x2 s := fun _ _ _ => rfl
@[simp] theorem exec_fenceCtx : ∀ x0, exec (.fenceCtx x0) s = execFenceCtx x0 s := fun _ => rfl
@[simp] theorem exec_fenceCore : ∀ x0, exec (.fenceCore x0) s = execFenceCore x0 s := fun _ => rfl
@[simp] theorem exec_fencePair : ∀ x0, exec (.fencePair x0) s = execFencePair x0 s := fun _ => rfl
@[simp] theorem exec_fenceGrp : ∀ x0, exec (.fenceGrp x0) s = execFenceGrp x0 s := fun _ => rfl
@[simp] theorem exec_fenceMod : ∀ x0, exec (.fenceMod x0) s = execFenceMod x0 s := fun _ => rfl
@[simp] theorem exec_fenceSys : ∀ x0, exec (.fenceSys x0) s = execFenceSys x0 s := fun _ => rfl
@[simp] theorem exec_acset : ∀ x0 x1 x2, exec (.acset x0 x1 x2) s = execAcset x0 x1 x2 s := fun _ _ _ => rfl
@[simp] theorem exec_acadd : ∀ x0 x1 x2 x3, exec (.acadd x0 x1 x2 x3) s = execAcadd x0 x1 x2 x3 s := fun _ _ _ _ => rfl
@[simp] theorem exec_acrd : ∀ x0 x1 x2, exec (.acrd x0 x1 x2) s = execAcrd x0 x1 x2 s := fun _ _ _ => rfl
@[simp] theorem exec_suspend : ∀ x0 x1 x2 x3 x4, exec (.suspend x0 x1 x2 x3 x4) s = execSuspend x0 x1 x2 x3 x4 s := fun _ _ _ _ _ => rfl
@[simp] theorem exec_resume : ∀ x0 x1 x2 x3 x4 x5, exec (.resume x0 x1 x2 x3 x4 x5) s = execResume x0 x1 x2 x3 x4 x5 s := fun _ _ _ _ _ _ => rfl
@[simp] theorem exec_resumeSt : ∀ x0 x1 x2 x3 x4 x5, exec (.resumeSt x0 x1 x2 x3 x4 x5) s = execResumeSt x0 x1 x2 x3 x4 x5 s := fun _ _ _ _ _ _ => rfl
@[simp] theorem exec_copy : ∀ x0 x1 x2 x3 x4, exec (.copy x0 x1 x2 x3 x4) s = execCopy x0 x1 x2 x3 x4 s := fun _ _ _ _ _ => rfl
@[simp] theorem exec_copySt : ∀ x0 x1 x2 x3 x4, exec (.copySt x0 x1 x2 x3 x4) s = execCopySt x0 x1 x2 x3 x4 s := fun _ _ _ _ _ => rfl
@[simp] theorem exec_discard : ∀ x0 x1 x2 x3, exec (.discard x0 x1 x2 x3) s = execDiscard x0 x1 x2 x3 s := fun _ _ _ _ => rfl
@[simp] theorem exec_discardSt : ∀ x0 x1 x2 x3, exec (.discardSt x0 x1 x2 x3) s = execDiscardSt x0 x1 x2 x3 s := fun _ _ _ _ => rfl
@[simp] theorem exec_trap : ∀ x0 x1, exec (.trap x0 x1) s = execTrap x0 x1 s := fun _ _ => rfl
@[simp] theorem exec_bkpt : ∀ x0 x1, exec (.bkpt x0 x1) s = execBkpt x0 x1 s := fun _ _ => rfl
@[simp] theorem exec_tretReissue : ∀ x0, exec (.tretReissue x0) s = execTretReissue x0 s := fun _ => rfl
@[simp] theorem exec_tretNext : ∀ x0, exec (.tretNext x0) s = execTretNext x0 s := fun _ => rfl
@[simp] theorem exec_tretTarget : ∀ x0 x1, exec (.tretTarget x0 x1) s = execTretTarget x0 x1 s := fun _ _ => rfl
@[simp] theorem exec_isbind : ∀ x0 x1 x2, exec (.isbind x0 x1 x2) s = execIsbind x0 x1 x2 s := fun _ _ _ => rfl
@[simp] theorem exec_isrel : ∀ x0, exec (.isrel x0) s = execIsrel x0 s := fun _ => rfl
@[simp] theorem exec_isendLatch : ∀ x0 x1 x2 x3 x4 x5, exec (.isendLatch x0 x1 x2 x3 x4 x5) s = execIsendLatch x0 x1 x2 x3 x4 x5 s := fun _ _ _ _ _ _ => rfl
@[simp] theorem exec_isendTwin : ∀ x0 x1 x2 x3, exec (.isendTwin x0 x1 x2 x3) s = execIsendTwin x0 x1 x2 x3 s := fun _ _ _ _ => rfl
@[simp] theorem exec_issync : ∀ x0 x1, exec (.issync x0 x1) s = execIssync x0 x1 s := fun _ _ => rfl
@[simp] theorem exec_scheduleValueReached : ∀ x0, exec (.scheduleValueReached x0) s = execScheduleValueReached x0 s := fun _ => rfl
@[simp] theorem exec_launch : ∀ x0 x1 x2 x3, exec (.launch x0 x1 x2 x3) s = execLaunch x0 x1 x2 x3 s := fun _ _ _ _ => rfl
@[simp] theorem exec_evsig : ∀ x0 x1 x2, exec (.evsig x0 x1 x2) s = execEvsig x0 x1 x2 s := fun _ _ _ => rfl
@[simp] theorem exec_evarm : ∀ x0 x1 x2 x3, exec (.evarm x0 x1 x2 x3) s = execEvarm x0 x1 x2 x3 s := fun _ _ _ _ => rfl
@[simp] theorem exec_evrd : ∀ x0 x1 x2 x3, exec (.evrd x0 x1 x2 x3) s = execEvrd x0 x1 x2 x3 s := fun _ _ _ _ => rfl
@[simp] theorem exec_psnqScalar : ∀ x0 x1 x2, exec (.psnqScalar x0 x1 x2) s = execPsnqScalar x0 x1 x2 s := fun _ _ _ => rfl
@[simp] theorem exec_psnqVector : ∀ x0 x1 x2 x3 x4, exec (.psnqVector x0 x1 x2 x3 x4) s = execPsnqVector x0 x1 x2 x3 x4 s := fun _ _ _ _ _ => rfl
@[simp] theorem exec_psnqAcc : ∀ x0 x1 x2 x3, exec (.psnqAcc x0 x1 x2 x3) s = execPsnqAcc x0 x1 x2 x3 s := fun _ _ _ _ => rfl
@[simp] theorem exec_psnqTwin : ∀ x0 x1 x2 x3, exec (.psnqTwin x0 x1 x2 x3) s = execPsnqTwin x0 x1 x2 x3 s := fun _ _ _ _ => rfl
@[simp] theorem exec_psncls : ∀ x0 x1, exec (.psncls x0 x1) s = execPsncls x0 x1 s := fun _ _ => rfl
@[simp] theorem exec_psnclv : ∀ x0 x1, exec (.psnclv x0 x1) s = execPsnclv x0 x1 s := fun _ _ => rfl
@[simp] theorem exec_psncla : ∀ x0 x1, exec (.psncla x0 x1) s = execPsncla x0 x1 s := fun _ _ => rfl
@[simp] theorem exec_selectActivation : ∀ x0, exec (.selectActivation x0) s = execSelectActivation x0 s := fun _ => rfl
@[simp] theorem exec_conditionMet : ∀ x0 x1, exec (.conditionMet x0 x1) s = execConditionMet x0 x1 s := fun _ _ => rfl
@[simp] theorem exec_watchdogExpiry : ∀ x0, exec (.watchdogExpiry x0) s = execWatchdogExpiry x0 s := fun _ => rfl
@[simp] theorem exec_messageOffer : ∀ x0, exec (.messageOffer x0) s = execMessageOffer x0 s := fun _ => rfl
@[simp] theorem exec_reoffer : ∀ x0 x1, exec (.reoffer x0 x1) s = execReoffer x0 x1 s := fun _ _ => rfl
@[simp] theorem exec_putPerform : ∀ x0, exec (.putPerform x0) s = execPutPerform x0 s := fun _ => rfl
@[simp] theorem exec_getServe : ∀ x0, exec (.getServe x0) s = execGetServe x0 s := fun _ => rfl
@[simp] theorem exec_raPerform : ∀ x0, exec (.raPerform x0) s = execRaPerform x0 s := fun _ => rfl
@[simp] theorem exec_streamStorePerform : ∀ x0, exec (.streamStorePerform x0) s = execStreamStorePerform x0 s := fun _ => rfl
@[simp] theorem exec_streamReadServe : ∀ x0, exec (.streamReadServe x0) s = execStreamReadServe x0 s := fun _ => rfl
@[simp] theorem exec_acknowledgement : ∀ x0, exec (.acknowledgement x0) s = execAcknowledgement x0 s := fun _ => rfl
@[simp] theorem exec_getData : ∀ x0, exec (.getData x0) s = execGetData x0 s := fun _ => rfl
@[simp] theorem exec_refusal : ∀ x0, exec (.refusal x0) s = execRefusal x0 s := fun _ => rfl
@[simp] theorem exec_staleName : ∀ x0, exec (.staleName x0) s = execStaleName x0 s := fun _ => rfl
@[simp] theorem exec_retranslateCheck : ∀ x0 x1, exec (.retranslateCheck x0 x1) s = execRetranslateCheck x0 x1 s := fun _ _ => rfl
@[simp] theorem exec_deliveryFailure : ∀ x0, exec (.deliveryFailure x0) s = execDeliveryFailure x0 s := fun _ => rfl
@[simp] theorem exec_unlistedKind : ∀ x0, exec (.unlistedKind x0) s = execUnlistedKind x0 s := fun _ => rfl
@[simp] theorem exec_streamStart : ∀ x0 x1, exec (.streamStart x0 x1) s = execStreamStart x0 x1 s := fun _ _ => rfl
@[simp] theorem exec_streamFinish : ∀ x0 x1, exec (.streamFinish x0 x1) s = execStreamFinish x0 x1 s := fun _ _ => rfl
@[simp] theorem exec_timedLanding : ∀ x0 x1, exec (.timedLanding x0 x1) s = execTimedLanding x0 x1 s := fun _ _ => rfl
@[simp] theorem exec_islandBind : ∀ x0 x1, exec (.islandBind x0 x1) s = execIslandBind x0 x1 s := fun _ _ => rfl
@[simp] theorem exec_isto : ∀ x0 x1, exec (.isto x0 x1) s = execIsto x0 x1 s := fun _ _ => rfl
@[simp] theorem exec_droopTrip : ∀ x0, exec (.droopTrip x0) s = execDroopTrip x0 s := fun _ => rfl
@[simp] theorem exec_droopClear : ∀ x0, exec (.droopClear x0) s = execDroopClear x0 s := fun _ => rfl
@[simp] theorem exec_epochStep : ∀ x0, exec (.epochStep x0) s = execEpochStep x0 s := fun _ => rfl
@[simp] theorem exec_launchEnqueue : ∀ x0, exec (.launchEnqueue x0) s = execLaunchEnqueue x0 s := fun _ => rfl
@[simp] theorem exec_recordSlotWrite : ∀ x0 x1 x2, exec (.recordSlotWrite x0 x1 x2) s = execRecordSlotWrite x0 x1 x2 s := fun _ _ _ => rfl
@[simp] theorem exec_startGroup : ∀ x0, exec (.startGroup x0) s = execStartGroup x0 s := fun _ => rfl
@[simp] theorem exec_eventSignal : ∀ x0, exec (.eventSignal x0) s = execEventSignal x0 s := fun _ => rfl
@[simp] theorem exec_evrdResponse : ∀ x0, exec (.evrdResponse x0) s = execEvrdResponse x0 s := fun _ => rfl
@[simp] theorem exec_faultRecordPost : ∀ x0, exec (.faultRecordPost x0) s = execFaultRecordPost x0 s := fun _ => rfl
@[simp] theorem exec_treeBuild : ∀ x0, exec (.treeBuild x0) s = execTreeBuild x0 s := fun _ => rfl
@[simp] theorem exec_treeRemove : ∀ x0, exec (.treeRemove x0) s = execTreeRemove x0 s := fun _ => rfl
@[simp] theorem exec_terminationProbe : ∀ x0, exec (.terminationProbe x0) s = execTerminationProbe x0 s := fun _ => rfl
@[simp] theorem exec_probeWave : ∀ x0, exec (.probeWave x0) s = execProbeWave x0 s := fun _ => rfl
@[simp] theorem exec_pageRelease : ∀ x0, exec (.pageRelease x0) s = execPageRelease x0 s := fun _ => rfl
@[simp] theorem exec_scrubDone : ∀ x0, exec (.scrubDone x0) s = execScrubDone x0 s := fun _ => rfl
@[simp] theorem exec_compaction : ∀ x0, exec (.compaction x0) s = execCompaction x0 s := fun _ => rfl
@[simp] theorem exec_preemption : ∀ x0, exec (.preemption x0) s = execPreemption x0 s := fun _ => rfl
@[simp] theorem exec_sprigMarker : ∀ x0, exec (.sprigMarker x0) s = execSprigMarker x0 s := fun _ => rfl
@[simp] theorem exec_sealSprig : ∀ x0, exec (.sealSprig x0) s = execSealSprig x0 s := fun _ => rfl
@[simp] theorem exec_debtResolution : ∀ x0 x1, exec (.debtResolution x0 x1) s = execDebtResolution x0 x1 s := fun _ _ => rfl
@[simp] theorem exec_sprigStep : ∀ x0, exec (.sprigStep x0) s = execSprigStep x0 s := fun _ => rfl
@[simp] theorem exec_autoResume : ∀ x0, exec (.autoResume x0) s = execAutoResume x0 s := fun _ => rfl
@[simp] theorem exec_generationClose : ∀ x0 x1, exec (.generationClose x0 x1) s = execGenerationClose x0 x1 s := fun _ _ => rfl
@[simp] theorem exec_drainMarker : ∀ x0 x1 x2 x3, exec (.drainMarker x0 x1 x2 x3) s = execDrainMarker x0 x1 x2 x3 s := fun _ _ _ _ => rfl
@[simp] theorem exec_allDrained : ∀ x0, exec (.allDrained x0) s = execAllDrained x0 s := fun _ => rfl
@[simp] theorem exec_generationOpen : ∀ x0 x1, exec (.generationOpen x0 x1) s = execGenerationOpen x0 x1 s := fun _ _ => rfl
@[simp] theorem exec_rotationDue : ∀ x0, exec (.rotationDue x0) s = execRotationDue x0 s := fun _ => rfl
@[simp] theorem exec_rotate : ∀ x0, exec (.rotate x0) s = execRotate x0 s := fun _ => rfl
@[simp] theorem exec_detectedTransient : ∀ x0 x1, exec (.detectedTransient x0 x1) s = execDetectedTransient x0 x1 s := fun _ _ => rfl
@[simp] theorem exec_uncorrectableError : ∀ x0 x1, exec (.uncorrectableError x0 x1) s = execUncorrectableError x0 x1 s := fun _ _ => rfl
@[simp] theorem exec_correctableError : exec (.correctableError) s = execCorrectableError s := rfl
@[simp] theorem exec_linkRetry : ∀ x0 x1, exec (.linkRetry x0 x1) s = execLinkRetry x0 x1 s := fun _ _ => rfl
@[simp] theorem exec_retireCore : ∀ x0 x1, exec (.retireCore x0 x1) s = execRetireCore x0 x1 s := fun _ _ => rfl
@[simp] theorem exec_cxlAccess : ∀ x0, exec (.cxlAccess x0) s = execCxlAccess x0 s := fun _ => rfl
@[simp] theorem exec_cxlCompletion : ∀ x0 x1, exec (.cxlCompletion x0 x1) s = execCxlCompletion x0 x1 s := fun _ _ => rfl
@[simp] theorem exec_cxlTimeout : ∀ x0, exec (.cxlTimeout x0) s = execCxlTimeout x0 s := fun _ => rfl
@[simp] theorem exec_walkComplete : ∀ x0, exec (.walkComplete x0) s = execWalkComplete x0 s := fun _ => rfl
@[simp] theorem exec_hostAccess : ∀ x0 x1 x2 x3, exec (.hostAccess x0 x1 x2 x3) s = execHostAccess x0 x1 x2 x3 s := fun _ _ _ _ => rfl
@[simp] theorem exec_birsp : ∀ x0 x1 x2, exec (.birsp x0 x1 x2) s = execBirsp x0 x1 x2 s := fun _ _ _ => rfl
@[simp] theorem exec_xinv : ∀ x0 x1, exec (.xinv x0 x1) s = execXinv x0 x1 s := fun _ _ => rfl
@[simp] theorem exec_eventWordAdd : ∀ x0 x1, exec (.eventWordAdd x0 x1) s = execEventWordAdd x0 x1 s := fun _ _ => rfl
@[simp] theorem exec_clrf : ∀ x0, exec (.clrf x0) s = execClrf x0 s := fun _ => rfl
@[simp] theorem exec_msixArm : ∀ x0 x1, exec (.msixArm x0 x1) s = execMsixArm x0 x1 s := fun _ _ => rfl
@[simp] theorem exec_faultLogEmpty : ∀ x0, exec (.faultLogEmpty x0) s = execFaultLogEmpty x0 s := fun _ => rfl
@[simp] theorem exec_mgmtLogEmpty : exec (.mgmtLogEmpty) s = execMgmtLogEmpty s := rfl
@[simp] theorem exec_treeSlotSelect : ∀ x0, exec (.treeSlotSelect x0) s = execTreeSlotSelect x0 s := fun _ => rfl
@[simp] theorem exec_routeUpdate : ∀ x0 x1 x2, exec (.routeUpdate x0 x1 x2) s = execRouteUpdate x0 x1 x2 s := fun _ _ _ => rfl
@[simp] theorem exec_mgmtWrite : ∀ x0 x1, exec (.mgmtWrite x0 x1) s = execMgmtWrite x0 x1 s := fun _ _ => rfl
@[simp] theorem exec_go : exec (.go) s = execGo s := rfl
@[simp] theorem exec_rst : exec (.rst) s = execRst s := rfl
@[simp] theorem exec_moduleReset : exec (.moduleReset) s = execModuleReset s := rfl
@[simp] theorem exec_nonceWrite : ∀ x0 x1, exec (.nonceWrite x0 x1) s = execNonceWrite x0 x1 s := fun _ _ => rfl
@[simp] theorem exec_attestReady : exec (.attestReady) s = execAttestReady s := rfl
@[simp] theorem exec_thermalTrip : ∀ x0, exec (.thermalTrip x0) s = execThermalTrip x0 s := fun _ => rfl
@[simp] theorem exec_combineUnit : ∀ x0, exec (.combineUnit x0) s = execCombineUnit x0 s := fun _ => rfl
@[simp] theorem exec_rnq : ∀ x0, exec (.rnq x0) s = execRnq x0 s := fun _ => rfl
@[simp] theorem exec_rnm : ∀ x0, exec (.rnm x0) s = execRnm x0 s := fun _ => rfl
@[simp] theorem exec_resultDelivery : ∀ x0, exec (.resultDelivery x0) s = execResultDelivery x0 s := fun _ => rfl
@[simp] theorem exec_quorumWait : ∀ x0 x1 x2 x3, exec (.quorumWait x0 x1 x2 x3) s = execQuorumWait x0 x1 x2 x3 s := fun _ _ _ _ => rfl
@[simp] theorem exec_quorumDeadline : ∀ x0 x1, exec (.quorumDeadline x0 x1) s = execQuorumDeadline x0 x1 s := fun _ _ => rfl
@[simp] theorem exec_treeJoin : ∀ x0, exec (.treeJoin x0) s = execTreeJoin x0 s := fun _ => rfl
@[simp] theorem exec_treePartial : ∀ x0, exec (.treePartial x0) s = execTreePartial x0 s := fun _ => rfl
@[simp] theorem exec_detach : ∀ x0 x1 x2, exec (.detach x0 x1 x2) s = execDetach x0 x1 x2 s := fun _ _ _ => rfl
@[simp] theorem exec_frameReceive : ∀ x0 x1, exec (.frameReceive x0 x1) s = execFrameReceive x0 x1 s := fun _ _ => rfl
@[simp] theorem exec_frameResend : ∀ x0 x1, exec (.frameResend x0 x1) s = execFrameResend x0 x1 s := fun _ _ => rfl
@[simp] theorem exec_ackTimer : ∀ x0 x1, exec (.ackTimer x0 x1) s = execAckTimer x0 x1 s := fun _ _ => rfl
@[simp] theorem exec_handshake : ∀ x0 x1, exec (.handshake x0 x1) s = execHandshake x0 x1 s := fun _ _ => rfl
@[simp] theorem exec_sessionClose : ∀ x0 x1, exec (.sessionClose x0 x1) s = execSessionClose x0 x1 s := fun _ _ => rfl
@[simp] theorem exec_sessionTimeout : ∀ x0 x1, exec (.sessionTimeout x0 x1) s = execSessionTimeout x0 x1 s := fun _ _ => rfl
@[simp] theorem exec_rekey : ∀ x0 x1, exec (.rekey x0 x1) s = execRekey x0 x1 s := fun _ _ => rfl
@[simp] theorem exec_localRetry : ∀ x0 x1, exec (.localRetry x0 x1) s = execLocalRetry x0 x1 s := fun _ _ => rfl
@[simp] theorem exec_retraining : ∀ x0, exec (.retraining x0) s = execRetraining x0 s := fun _ => rfl
@[simp] theorem exec_linkDown : ∀ x0, exec (.linkDown x0) s = execLinkDown x0 s := fun _ => rfl
@[simp] theorem exec_killGroup : ∀ x0, exec (.killGroup x0) s = execKillGroup x0 s := fun _ => rfl
@[simp] theorem exec_suspendRequest : ∀ x0, exec (.suspendRequest x0) s = execSuspendRequest x0 s := fun _ => rfl
@[simp] theorem exec_sprigOperationRequest : ∀ x0, exec (.sprigOperationRequest x0) s = execSprigOperationRequest x0 s := fun _ => rfl
@[simp] theorem exec_advanceSpacingElapsed : ∀ x0, exec (.advanceSpacingElapsed x0) s = execAdvanceSpacingElapsed x0 s := fun _ => rfl
@[simp] theorem exec_localLinkAck : ∀ x0 x1, exec (.localLinkAck x0 x1) s = execLocalLinkAck x0 x1 s := fun _ _ => rfl
@[simp] theorem exec_retrainingComplete : ∀ x0, exec (.retrainingComplete x0) s = execRetrainingComplete x0 s := fun _ => rfl
@[simp] theorem exec_selfTestFailure : ∀ x0, exec (.selfTestFailure x0) s = execSelfTestFailure x0 s := fun _ => rfl
@[simp] theorem exec_powerLoss : exec (.powerLoss) s = execPowerLoss s := rfl
@[simp] theorem exec_clearBar : ∀ x0 x1, exec (.clearBar x0 x1) s = execClearBar x0 x1 s := fun _ _ => rfl
@[simp] theorem exec_firmwareUpdate : ∀ x0 x1, exec (.firmwareUpdate x0 x1) s = execFirmwareUpdate x0 x1 s := fun _ _ => rfl
@[simp] theorem exec_raiseFusedMinimum : ∀ x0 x1, exec (.raiseFusedMinimum x0 x1) s = execRaiseFusedMinimum x0 x1 s := fun _ _ => rfl

end Sys2Proof.Machine
end

