-- ==== Sys2Proof/Laws/Memory.lean ====
section
/-! SUPPORT. Finite maps and byte memories: what a read after a write gives, and that every write keeps the canonical form. -/
namespace Sys2Proof.Laws

/-! ### Maps -/

theorem get_set_same {α : Type} (m : NMap α) (k : Nat) (x : α) : NMap.get? (NMap.set m k x) k = some x := by
  induction m with
  | nil => simp [NMap.set, NMap.get?]
  | cons e t ih =>
    obtain ⟨j, v⟩ := e
    simp only [NMap.set]
    split
    · simp [NMap.get?]
    · split
      · simp [NMap.get?]
      · rename_i h
        simp [NMap.get?, Ne.symm h, ih]

theorem get_set_other {α : Type} (m : NMap α) {k j : Nat} (x : α) (h : j ≠ k) : NMap.get? (NMap.set m k x) j = NMap.get? m j := by
  induction m with
  | nil => simp [NMap.set, NMap.get?, h.symm]
  | cons e t ih =>
    obtain ⟨i, v⟩ := e
    simp only [NMap.set]
    split
    · simp [NMap.get?, h.symm]
    · split
      · rename_i h2
        subst h2
        simp [NMap.get?, h.symm]
      · simp [NMap.get?, ih]

theorem set_set {α : Type} (m : NMap α) (k : Nat) (x y : α) : NMap.set (NMap.set m k x) k y = NMap.set m k y := by
  induction m with
  | nil => simp [NMap.set]
  | cons e t ih =>
    obtain ⟨i, v⟩ := e
    simp only [NMap.set]
    split
    · simp [NMap.set]
    · split
      · simp [NMap.set]
      · rename_i h1 h2
        simp [NMap.set, h1, h2, ih]

/-- Every key of the map is above j. -/
def Above {α : Type} (j : Nat) (m : NMap α) : Prop := ∀ e ∈ m, j < e.1

theorem sorted_cons {α : Type} (j : Nat) (v : α) (t : NMap α) : NMap.sorted ((j, v) :: t) = true ↔ Above j t ∧ NMap.sorted t = true := by
  induction t generalizing j v with
  | nil => simp [NMap.sorted, Above]
  | cons e t ih =>
    obtain ⟨k, w⟩ := e
    simp only [NMap.sorted, Bool.and_eq_true, decide_eq_true_eq, Above, List.mem_cons]
    constructor
    · rintro ⟨h, hs⟩
      refine ⟨?_, hs⟩
      rintro e (rfl | he)
      · exact h
      · exact Nat.lt_trans h (((ih k w).mp hs).1 e he)
    · rintro ⟨h, hs⟩
      exact ⟨h (k, w) (Or.inl rfl), hs⟩

theorem above_set {α : Type} {i k : Nat} (x : α) (m : NMap α) (h : i < k) (hm : Above i m) : Above i (NMap.set m k x) := by
  induction m with
  | nil => intro e he; simp [NMap.set] at he; subst he; exact h
  | cons a t ih =>
    obtain ⟨j, v⟩ := a
    have ht : Above i t := fun e he => hm e (List.mem_cons_of_mem _ he)
    have hj : i < j := hm (j, v) (List.mem_cons_self ..)
    intro e he
    simp only [NMap.set] at he
    split at he
    · simp only [List.mem_cons] at he
      rcases he with rfl | rfl | he
      · exact h
      · exact hj
      · exact ht e he
    · split at he
      · simp only [List.mem_cons] at he
        rcases he with rfl | he
        · exact h
        · exact ht e he
      · simp only [List.mem_cons] at he
        rcases he with rfl | he
        · exact hj
        · exact ih ht e he

theorem sorted_set {α : Type} (m : NMap α) (k : Nat) (x : α) (h : NMap.sorted m = true) : NMap.sorted (NMap.set m k x) = true := by
  induction m with
  | nil => rfl
  | cons e t ih =>
    obtain ⟨j, v⟩ := e
    obtain ⟨ha, ht⟩ := (sorted_cons j v t).mp h
    simp only [NMap.set]
    split
    · rename_i hk
      refine (sorted_cons ..).mpr ⟨?_, h⟩
      intro e he
      rcases List.mem_cons.mp he with rfl | he
      · exact hk
      · exact Nat.lt_trans hk (ha e he)
    · split
      · rename_i hk
        subst hk
        exact (sorted_cons ..).mpr ⟨ha, ht⟩
      · rename_i h1 h2
        exact (sorted_cons ..).mpr ⟨above_set x t (by omega) ha, ih ht⟩

theorem mem_del {α : Type} {m : NMap α} {k : Nat} {e : Nat × α} (h : e ∈ NMap.del m k) : e ∈ m := by
  induction m with
  | nil => exact h
  | cons a t ih =>
    obtain ⟨j, v⟩ := a
    simp only [NMap.del] at h
    split at h
    · exact List.mem_cons_of_mem _ (ih h)
    · rcases List.mem_cons.mp h with rfl | h
      · exact List.mem_cons_self ..
      · exact List.mem_cons_of_mem _ (ih h)

theorem sorted_del {α : Type} (m : NMap α) (k : Nat) (h : NMap.sorted m = true) : NMap.sorted (NMap.del m k) = true := by
  induction m with
  | nil => rfl
  | cons e t ih =>
    obtain ⟨j, v⟩ := e
    obtain ⟨ha, ht⟩ := (sorted_cons j v t).mp h
    simp only [NMap.del]
    split
    · exact ih ht
    · exact (sorted_cons ..).mpr ⟨fun e he => ha e (mem_del he), ih ht⟩

theorem get_del_same {α : Type} (m : NMap α) (k : Nat) : NMap.get? (NMap.del m k) k = none := by
  induction m with
  | nil => rfl
  | cons e t ih =>
    obtain ⟨j, v⟩ := e
    simp only [NMap.del]
    split
    · exact ih
    · rename_i h
      simp [NMap.get?, h, ih]

theorem get_del_other {α : Type} (m : NMap α) {k j : Nat} (h : j ≠ k) : NMap.get? (NMap.del m k) j = NMap.get? m j := by
  induction m with
  | nil => rfl
  | cons e t ih =>
    obtain ⟨i, v⟩ := e
    simp only [NMap.del]
    split
    · rename_i h2
      subst h2
      simp [NMap.get?, h.symm, ih]
    · simp [NMap.get?, ih]

theorem mem_set {α : Type} {m : NMap α} {k : Nat} {x : α} {e : Nat × α} (h : e ∈ NMap.set m k x) : e = (k, x) ∨ e ∈ m := by
  induction m with
  | nil => simp [NMap.set] at h; exact Or.inl h
  | cons a t ih =>
    obtain ⟨j, v⟩ := a
    simp only [NMap.set] at h
    split at h
    · exact (List.mem_cons.mp h)
    · split at h
      · rcases List.mem_cons.mp h with rfl | h
        · exact Or.inl rfl
        · exact Or.inr (List.mem_cons_of_mem _ h)
      · rcases List.mem_cons.mp h with rfl | h
        · exact Or.inr (List.mem_cons_self ..)
        · rcases ih h with rfl | h
          · exact Or.inl rfl
          · exact Or.inr (List.mem_cons_of_mem _ h)

/-! ### Byte memories -/

theorem put_wf (m : Mem) (a : Nat) (b : Byte) (h : m.wf = true) : (m.put a b).wf = true := by
  simp only [Mem.wf, Bool.and_eq_true, List.all_eq_true] at h ⊢
  unfold Mem.put
  split
  · exact ⟨sorted_del m a h.1, fun e he => h.2 e (mem_del he)⟩
  · rename_i hb
    refine ⟨sorted_set m a b h.1, fun e he => ?_⟩
    rcases mem_set he with rfl | he
    · simpa using hb
    · exact h.2 e he

theorem putBytes_wf (bs : List Byte) (m : Mem) (a : Nat) (h : m.wf = true) : (m.putBytes a bs).wf = true := by
  induction bs generalizing m a with
  | nil => exact h
  | cons b bs ih => exact ih _ _ (put_wf m a b h)

theorem byte_put (m : Mem) (a x : Nat) (b : Byte) : (m.put a b).byte x = if x = a then b else m.byte x := by
  unfold Mem.put Mem.byte
  split
  · rename_i hb
    split
    · rename_i hx; subst hx; simp [get_del_same, hb]
    · rename_i hx; simp [get_del_other m hx]
  · split
    · rename_i hx; subst hx; simp [get_set_same]
    · rename_i hx; simp [get_set_other m b hx]

theorem byte_putBytes (bs : List Byte) (m : Mem) (a x : Nat) :
    (m.putBytes a bs).byte x = if a ≤ x ∧ x < a + bs.length then bs.getD (x - a) 0 else m.byte x := by
  induction bs generalizing m a with
  | nil => exact (if_neg (by simp only [List.length_nil]; omega)).symm
  | cons b bs ih =>
    simp only [Mem.putBytes, ih, byte_put, List.length_cons]
    by_cases hx : x = a
    · subst hx
      have h1 : ¬ (x + 1 ≤ x ∧ x < x + 1 + bs.length) := by omega
      have h2 : x ≤ x ∧ x < x + (bs.length + 1) := by omega
      rw [if_neg h1, if_pos rfl, if_pos h2, Nat.sub_self, List.getD_cons_zero]
    · by_cases h1 : a + 1 ≤ x ∧ x < a + 1 + bs.length
      · have h2 : a ≤ x ∧ x < a + (bs.length + 1) := by omega
        have h3 : x - a = (x - (a + 1)) + 1 := by omega
        rw [if_pos h1, if_pos h2, h3, List.getD_cons_succ]
      · have h2 : ¬ (a ≤ x ∧ x < a + (bs.length + 1)) := by omega
        simp only [if_neg h1, if_neg h2, if_neg hx]

theorem bytes_eq (m : Mem) (a n : Nat) : m.bytes a n = (List.range n).map fun i => m.byte (a + i) := by
  induction n generalizing a with
  | zero => rfl
  | succ n ih =>
    simp only [Mem.bytes, ih, List.range_succ_eq_map, List.map_cons, List.map_map, Nat.add_zero, List.cons.injEq, true_and]
    apply List.map_congr_left
    intro i _
    simp [Function.comp, Nat.add_comm 1 i, Nat.add_assoc]

theorem bytes_putBytes_same (bs : List Byte) (m : Mem) (a : Nat) : (m.putBytes a bs).bytes a bs.length = bs := by
  rw [bytes_eq]
  apply List.ext_getElem (by simp)
  intro i h1 h2
  have hi : i < bs.length := h2
  have hc : a ≤ a + i ∧ a + i < a + bs.length := by omega
  rw [List.getElem_map, List.getElem_range, byte_putBytes, if_pos hc, Nat.add_sub_cancel_left]
  simp [List.getD, hi]

theorem bytes_putBytes_apart (bs : List Byte) (m : Mem) {a b n : Nat} (h : b + n ≤ a ∨ a + bs.length ≤ b) :
    (m.putBytes a bs).bytes b n = m.bytes b n := by
  rw [bytes_eq, bytes_eq]
  apply List.map_congr_left
  intro i hi
  have := List.mem_range.mp hi
  rw [byte_putBytes, if_neg (by omega)]

theorem natBytes_length (x n : Nat) : (natBytes x n).length = n := by
  induction n generalizing x with
  | zero => rfl
  | succ n ih => simp [natBytes, ih]

theorem leNat_natBytes (x n : Nat) : leNat (natBytes x n) = x % 256 ^ n := by
  induction n generalizing x with
  | zero => simp [natBytes, leNat, Nat.mod_one]
  | succ n ih =>
    simp only [natBytes, leNat, ih, BitVec.toNat_ofNat]
    have h : 256 ^ (n + 1) = 256 * 256 ^ n := by rw [Nat.pow_succ, Nat.mul_comm]
    rw [h, Nat.mod_mul]

end Sys2Proof.Laws
end

