-- ==== Sys2Proof/Laws/State.lean ====
section
/-! SUPPORT. What each update of the state leaves as it was, and what a read after a write gives. -/
namespace Sys2Proof.Machine

/-! ### The module -/

@[simp] theorem State.setCoreAt_modId (s : State) (k : Nat) (c : Core) : (s.setCoreAt k c).modId = s.modId := rfl
@[simp] theorem State.setCoreAt_cur (s : State) (k : Nat) (c : Core) : (s.setCoreAt k c).cur = s.cur := rfl
@[simp] theorem State.setCoreAt_querns (s : State) (k : Nat) (c : Core) : (s.setCoreAt k c).querns = s.querns := rfl
@[simp] theorem State.setCoreAt_fields (s : State) (k : Nat) (c : Core) : (s.setCoreAt k c).fields = s.fields := rfl
@[simp] theorem State.setCoreAt_seq (s : State) (k : Nat) (c : Core) : (s.setCoreAt k c).seq = s.seq := rfl
@[simp] theorem State.setCoreAt_seqIn (s : State) (k : Nat) (c : Core) : (s.setCoreAt k c).seqIn = s.seqIn := rfl
@[simp] theorem State.setCoreAt_flight (s : State) (k : Nat) (c : Core) : (s.setCoreAt k c).flight = s.flight := rfl
@[simp] theorem State.setCoreAt_outbox (s : State) (k : Nat) (c : Core) : (s.setCoreAt k c).outbox = s.outbox := rfl
@[simp] theorem State.setCoreAt_gens (s : State) (k : Nat) (c : Core) : (s.setCoreAt k c).gens = s.gens := rfl
@[simp] theorem State.setCoreAt_advances (s : State) (k : Nat) (c : Core) : (s.setCoreAt k c).advances = s.advances := rfl
@[simp] theorem State.setCoreAt_trees (s : State) (k : Nat) (c : Core) : (s.setCoreAt k c).trees = s.trees := rfl
@[simp] theorem State.setCoreAt_cunits (s : State) (k : Nat) (c : Core) : (s.setCoreAt k c).cunits = s.cunits := rfl
@[simp] theorem State.setCoreAt_rnqs (s : State) (k : Nat) (c : Core) : (s.setCoreAt k c).rnqs = s.rnqs := rfl
@[simp] theorem State.setCoreAt_rnms (s : State) (k : Nat) (c : Core) : (s.setCoreAt k c).rnms = s.rnms := rfl
@[simp] theorem State.setCoreAt_downs (s : State) (k : Nat) (c : Core) : (s.setCoreAt k c).downs = s.downs := rfl
@[simp] theorem State.setCoreAt_laneIn (s : State) (k : Nat) (c : Core) : (s.setCoreAt k c).laneIn = s.laneIn := rfl
@[simp] theorem State.setCoreAt_laneOut (s : State) (k : Nat) (c : Core) : (s.setCoreAt k c).laneOut = s.laneOut := rfl
@[simp] theorem State.setCoreAt_cycle (s : State) (k : Nat) (c : Core) : (s.setCoreAt k c).cycle = s.cycle := rfl
@[simp] theorem State.setCoreAt_tick (s : State) (k : Nat) (c : Core) : (s.setCoreAt k c).tick = s.tick := rfl

@[simp] theorem State.setCoreAt_linkFails (s : State) (k : Nat) (c : Core) : (s.setCoreAt k c).linkFails = s.linkFails := rfl

@[simp] theorem State.setCoreAt_stage (s : State) (k : Nat) (c : Core) : (s.setCoreAt k c).stage = s.stage := rfl
@[simp] theorem State.setCoreAt_posts (s : State) (k : Nat) (c : Core) : (s.setCoreAt k c).posts = s.posts := rfl
@[simp] theorem State.setCoreAt_edge (s : State) (k : Nat) (c : Core) : (s.setCoreAt k c).edge = s.edge := rfl
@[simp] theorem State.setCoreAt_yun (s : State) (k : Nat) (c : Core) : (s.setCoreAt k c).yun = s.yun := rfl
@[simp] theorem State.setCoreAt_boot (s : State) (k : Nat) (c : Core) : (s.setCoreAt k c).boot = s.boot := rfl
@[simp] theorem State.setCoreAt_inputs (s : State) (k : Nat) (c : Core) : (s.setCoreAt k c).inputs = s.inputs := rfl
@[simp] theorem State.setCoreAt_turn (s : State) (k : Nat) (c : Core) : (s.setCoreAt k c).turn = s.turn := rfl
@[simp] theorem State.setCore_modId (s : State) (c : Core) : (s.setCore c).modId = s.modId := rfl
@[simp] theorem State.setCore_cur (s : State) (c : Core) : (s.setCore c).cur = s.cur := rfl
@[simp] theorem State.setCore_querns (s : State) (c : Core) : (s.setCore c).querns = s.querns := rfl
@[simp] theorem State.setCore_fields (s : State) (c : Core) : (s.setCore c).fields = s.fields := rfl
@[simp] theorem State.setCore_seq (s : State) (c : Core) : (s.setCore c).seq = s.seq := rfl
@[simp] theorem State.setCore_seqIn (s : State) (c : Core) : (s.setCore c).seqIn = s.seqIn := rfl
@[simp] theorem State.setCore_flight (s : State) (c : Core) : (s.setCore c).flight = s.flight := rfl
@[simp] theorem State.setCore_outbox (s : State) (c : Core) : (s.setCore c).outbox = s.outbox := rfl
@[simp] theorem State.setCore_gens (s : State) (c : Core) : (s.setCore c).gens = s.gens := rfl
@[simp] theorem State.setCore_advances (s : State) (c : Core) : (s.setCore c).advances = s.advances := rfl
@[simp] theorem State.setCore_trees (s : State) (c : Core) : (s.setCore c).trees = s.trees := rfl
@[simp] theorem State.setCore_cunits (s : State) (c : Core) : (s.setCore c).cunits = s.cunits := rfl
@[simp] theorem State.setCore_rnqs (s : State) (c : Core) : (s.setCore c).rnqs = s.rnqs := rfl
@[simp] theorem State.setCore_rnms (s : State) (c : Core) : (s.setCore c).rnms = s.rnms := rfl
@[simp] theorem State.setCore_downs (s : State) (c : Core) : (s.setCore c).downs = s.downs := rfl
@[simp] theorem State.setCore_laneIn (s : State) (c : Core) : (s.setCore c).laneIn = s.laneIn := rfl
@[simp] theorem State.setCore_laneOut (s : State) (c : Core) : (s.setCore c).laneOut = s.laneOut := rfl
@[simp] theorem State.setCore_cycle (s : State) (c : Core) : (s.setCore c).cycle = s.cycle := rfl
@[simp] theorem State.setCore_tick (s : State) (c : Core) : (s.setCore c).tick = s.tick := rfl

@[simp] theorem State.setCore_linkFails (s : State) (c : Core) : (s.setCore c).linkFails = s.linkFails := rfl

@[simp] theorem State.setCore_stage (s : State) (c : Core) : (s.setCore c).stage = s.stage := rfl
@[simp] theorem State.setCore_posts (s : State) (c : Core) : (s.setCore c).posts = s.posts := rfl
@[simp] theorem State.setCore_edge (s : State) (c : Core) : (s.setCore c).edge = s.edge := rfl
@[simp] theorem State.setCore_yun (s : State) (c : Core) : (s.setCore c).yun = s.yun := rfl
@[simp] theorem State.setCore_boot (s : State) (c : Core) : (s.setCore c).boot = s.boot := rfl
@[simp] theorem State.setCore_inputs (s : State) (c : Core) : (s.setCore c).inputs = s.inputs := rfl
@[simp] theorem State.setCore_turn (s : State) (c : Core) : (s.setCore c).turn = s.turn := rfl
@[simp] theorem State.setQuernAt_modId (s : State) (q : Nat) (x : Quern) : (s.setQuernAt q x).modId = s.modId := rfl
@[simp] theorem State.setQuernAt_cores (s : State) (q : Nat) (x : Quern) : (s.setQuernAt q x).cores = s.cores := rfl
@[simp] theorem State.setQuernAt_cur (s : State) (q : Nat) (x : Quern) : (s.setQuernAt q x).cur = s.cur := rfl
@[simp] theorem State.setQuernAt_fields (s : State) (q : Nat) (x : Quern) : (s.setQuernAt q x).fields = s.fields := rfl
@[simp] theorem State.setQuernAt_seq (s : State) (q : Nat) (x : Quern) : (s.setQuernAt q x).seq = s.seq := rfl
@[simp] theorem State.setQuernAt_seqIn (s : State) (q : Nat) (x : Quern) : (s.setQuernAt q x).seqIn = s.seqIn := rfl
@[simp] theorem State.setQuernAt_flight (s : State) (q : Nat) (x : Quern) : (s.setQuernAt q x).flight = s.flight := rfl
@[simp] theorem State.setQuernAt_outbox (s : State) (q : Nat) (x : Quern) : (s.setQuernAt q x).outbox = s.outbox := rfl
@[simp] theorem State.setQuernAt_gens (s : State) (q : Nat) (x : Quern) : (s.setQuernAt q x).gens = s.gens := rfl
@[simp] theorem State.setQuernAt_advances (s : State) (q : Nat) (x : Quern) : (s.setQuernAt q x).advances = s.advances := rfl
@[simp] theorem State.setQuernAt_trees (s : State) (q : Nat) (x : Quern) : (s.setQuernAt q x).trees = s.trees := rfl
@[simp] theorem State.setQuernAt_cunits (s : State) (q : Nat) (x : Quern) : (s.setQuernAt q x).cunits = s.cunits := rfl
@[simp] theorem State.setQuernAt_rnqs (s : State) (q : Nat) (x : Quern) : (s.setQuernAt q x).rnqs = s.rnqs := rfl
@[simp] theorem State.setQuernAt_rnms (s : State) (q : Nat) (x : Quern) : (s.setQuernAt q x).rnms = s.rnms := rfl
@[simp] theorem State.setQuernAt_downs (s : State) (q : Nat) (x : Quern) : (s.setQuernAt q x).downs = s.downs := rfl
@[simp] theorem State.setQuernAt_laneIn (s : State) (q : Nat) (x : Quern) : (s.setQuernAt q x).laneIn = s.laneIn := rfl
@[simp] theorem State.setQuernAt_laneOut (s : State) (q : Nat) (x : Quern) : (s.setQuernAt q x).laneOut = s.laneOut := rfl
@[simp] theorem State.setQuernAt_cycle (s : State) (q : Nat) (x : Quern) : (s.setQuernAt q x).cycle = s.cycle := rfl
@[simp] theorem State.setQuernAt_tick (s : State) (q : Nat) (x : Quern) : (s.setQuernAt q x).tick = s.tick := rfl

@[simp] theorem State.setQuernAt_linkFails (s : State) (q : Nat) (x : Quern) : (s.setQuernAt q x).linkFails = s.linkFails := rfl

@[simp] theorem State.setQuernAt_stage (s : State) (q : Nat) (x : Quern) : (s.setQuernAt q x).stage = s.stage := rfl
@[simp] theorem State.setQuernAt_posts (s : State) (q : Nat) (x : Quern) : (s.setQuernAt q x).posts = s.posts := rfl
@[simp] theorem State.setQuernAt_edge (s : State) (q : Nat) (x : Quern) : (s.setQuernAt q x).edge = s.edge := rfl
@[simp] theorem State.setQuernAt_yun (s : State) (q : Nat) (x : Quern) : (s.setQuernAt q x).yun = s.yun := rfl
@[simp] theorem State.setQuernAt_boot (s : State) (q : Nat) (x : Quern) : (s.setQuernAt q x).boot = s.boot := rfl
@[simp] theorem State.setQuernAt_inputs (s : State) (q : Nat) (x : Quern) : (s.setQuernAt q x).inputs = s.inputs := rfl
@[simp] theorem State.setQuernAt_turn (s : State) (q : Nat) (x : Quern) : (s.setQuernAt q x).turn = s.turn := rfl
@[simp] theorem State.setQuern_modId (s : State) (x : Quern) : (s.setQuern x).modId = s.modId := rfl
@[simp] theorem State.setQuern_cores (s : State) (x : Quern) : (s.setQuern x).cores = s.cores := rfl
@[simp] theorem State.setQuern_cur (s : State) (x : Quern) : (s.setQuern x).cur = s.cur := rfl
@[simp] theorem State.setQuern_fields (s : State) (x : Quern) : (s.setQuern x).fields = s.fields := rfl
@[simp] theorem State.setQuern_seq (s : State) (x : Quern) : (s.setQuern x).seq = s.seq := rfl
@[simp] theorem State.setQuern_seqIn (s : State) (x : Quern) : (s.setQuern x).seqIn = s.seqIn := rfl
@[simp] theorem State.setQuern_flight (s : State) (x : Quern) : (s.setQuern x).flight = s.flight := rfl
@[simp] theorem State.setQuern_outbox (s : State) (x : Quern) : (s.setQuern x).outbox = s.outbox := rfl
@[simp] theorem State.setQuern_gens (s : State) (x : Quern) : (s.setQuern x).gens = s.gens := rfl
@[simp] theorem State.setQuern_advances (s : State) (x : Quern) : (s.setQuern x).advances = s.advances := rfl
@[simp] theorem State.setQuern_trees (s : State) (x : Quern) : (s.setQuern x).trees = s.trees := rfl
@[simp] theorem State.setQuern_cunits (s : State) (x : Quern) : (s.setQuern x).cunits = s.cunits := rfl
@[simp] theorem State.setQuern_rnqs (s : State) (x : Quern) : (s.setQuern x).rnqs = s.rnqs := rfl
@[simp] theorem State.setQuern_rnms (s : State) (x : Quern) : (s.setQuern x).rnms = s.rnms := rfl
@[simp] theorem State.setQuern_downs (s : State) (x : Quern) : (s.setQuern x).downs = s.downs := rfl
@[simp] theorem State.setQuern_laneIn (s : State) (x : Quern) : (s.setQuern x).laneIn = s.laneIn := rfl
@[simp] theorem State.setQuern_laneOut (s : State) (x : Quern) : (s.setQuern x).laneOut = s.laneOut := rfl
@[simp] theorem State.setQuern_cycle (s : State) (x : Quern) : (s.setQuern x).cycle = s.cycle := rfl
@[simp] theorem State.setQuern_tick (s : State) (x : Quern) : (s.setQuern x).tick = s.tick := rfl

@[simp] theorem State.setQuern_linkFails (s : State) (x : Quern) : (s.setQuern x).linkFails = s.linkFails := rfl

@[simp] theorem State.setQuern_stage (s : State) (x : Quern) : (s.setQuern x).stage = s.stage := rfl
@[simp] theorem State.setQuern_posts (s : State) (x : Quern) : (s.setQuern x).posts = s.posts := rfl
@[simp] theorem State.setQuern_edge (s : State) (x : Quern) : (s.setQuern x).edge = s.edge := rfl
@[simp] theorem State.setQuern_yun (s : State) (x : Quern) : (s.setQuern x).yun = s.yun := rfl
@[simp] theorem State.setQuern_boot (s : State) (x : Quern) : (s.setQuern x).boot = s.boot := rfl
@[simp] theorem State.setQuern_inputs (s : State) (x : Quern) : (s.setQuern x).inputs = s.inputs := rfl
@[simp] theorem State.setQuern_turn (s : State) (x : Quern) : (s.setQuern x).turn = s.turn := rfl
@[simp] theorem State.setFieldAt_modId (s : State) (f : Nat) (x : Field) : (s.setFieldAt f x).modId = s.modId := rfl
@[simp] theorem State.setFieldAt_cores (s : State) (f : Nat) (x : Field) : (s.setFieldAt f x).cores = s.cores := rfl
@[simp] theorem State.setFieldAt_cur (s : State) (f : Nat) (x : Field) : (s.setFieldAt f x).cur = s.cur := rfl
@[simp] theorem State.setFieldAt_querns (s : State) (f : Nat) (x : Field) : (s.setFieldAt f x).querns = s.querns := rfl
@[simp] theorem State.setFieldAt_seq (s : State) (f : Nat) (x : Field) : (s.setFieldAt f x).seq = s.seq := rfl
@[simp] theorem State.setFieldAt_seqIn (s : State) (f : Nat) (x : Field) : (s.setFieldAt f x).seqIn = s.seqIn := rfl
@[simp] theorem State.setFieldAt_flight (s : State) (f : Nat) (x : Field) : (s.setFieldAt f x).flight = s.flight := rfl
@[simp] theorem State.setFieldAt_outbox (s : State) (f : Nat) (x : Field) : (s.setFieldAt f x).outbox = s.outbox := rfl
@[simp] theorem State.setFieldAt_gens (s : State) (f : Nat) (x : Field) : (s.setFieldAt f x).gens = s.gens := rfl
@[simp] theorem State.setFieldAt_advances (s : State) (f : Nat) (x : Field) : (s.setFieldAt f x).advances = s.advances := rfl
@[simp] theorem State.setFieldAt_trees (s : State) (f : Nat) (x : Field) : (s.setFieldAt f x).trees = s.trees := rfl
@[simp] theorem State.setFieldAt_cunits (s : State) (f : Nat) (x : Field) : (s.setFieldAt f x).cunits = s.cunits := rfl
@[simp] theorem State.setFieldAt_rnqs (s : State) (f : Nat) (x : Field) : (s.setFieldAt f x).rnqs = s.rnqs := rfl
@[simp] theorem State.setFieldAt_rnms (s : State) (f : Nat) (x : Field) : (s.setFieldAt f x).rnms = s.rnms := rfl
@[simp] theorem State.setFieldAt_downs (s : State) (f : Nat) (x : Field) : (s.setFieldAt f x).downs = s.downs := rfl
@[simp] theorem State.setFieldAt_laneIn (s : State) (f : Nat) (x : Field) : (s.setFieldAt f x).laneIn = s.laneIn := rfl
@[simp] theorem State.setFieldAt_laneOut (s : State) (f : Nat) (x : Field) : (s.setFieldAt f x).laneOut = s.laneOut := rfl
@[simp] theorem State.setFieldAt_cycle (s : State) (f : Nat) (x : Field) : (s.setFieldAt f x).cycle = s.cycle := rfl
@[simp] theorem State.setFieldAt_tick (s : State) (f : Nat) (x : Field) : (s.setFieldAt f x).tick = s.tick := rfl

@[simp] theorem State.setFieldAt_linkFails (s : State) (f : Nat) (x : Field) : (s.setFieldAt f x).linkFails = s.linkFails := rfl

@[simp] theorem State.setFieldAt_stage (s : State) (f : Nat) (x : Field) : (s.setFieldAt f x).stage = s.stage := rfl
@[simp] theorem State.setFieldAt_posts (s : State) (f : Nat) (x : Field) : (s.setFieldAt f x).posts = s.posts := rfl
@[simp] theorem State.setFieldAt_edge (s : State) (f : Nat) (x : Field) : (s.setFieldAt f x).edge = s.edge := rfl
@[simp] theorem State.setFieldAt_yun (s : State) (f : Nat) (x : Field) : (s.setFieldAt f x).yun = s.yun := rfl
@[simp] theorem State.setFieldAt_boot (s : State) (f : Nat) (x : Field) : (s.setFieldAt f x).boot = s.boot := rfl
@[simp] theorem State.setFieldAt_inputs (s : State) (f : Nat) (x : Field) : (s.setFieldAt f x).inputs = s.inputs := rfl
@[simp] theorem State.setFieldAt_turn (s : State) (f : Nat) (x : Field) : (s.setFieldAt f x).turn = s.turn := rfl

@[simp] theorem State.coreAt_setCoreAt (s : State) (k : Nat) (c : Core) : (s.setCoreAt k c).coreAt k = c := by
  simp [State.coreAt, State.setCoreAt, Laws.get_set_same]

theorem State.coreAt_setCoreAt_other (s : State) {k j : Nat} (c : Core) (h : j ≠ k) : (s.setCoreAt k c).coreAt j = s.coreAt j := by
  simp [State.coreAt, State.setCoreAt, State.ranOf, Laws.get_set_other _ _ h]

@[simp] theorem State.core_setCore (s : State) (c : Core) : (s.setCore c).core = c := State.coreAt_setCoreAt s s.cur c

@[simp] theorem State.setCoreAt_setCoreAt (s : State) (k : Nat) (c d : Core) : (s.setCoreAt k c).setCoreAt k d = s.setCoreAt k d := by
  simp [State.setCoreAt, Laws.set_set]

@[simp] theorem State.setCore_setCore (s : State) (c d : Core) : (s.setCore c).setCore d = s.setCore d := State.setCoreAt_setCoreAt s s.cur c d

@[simp] theorem State.quernAt_setCoreAt (s : State) (k q : Nat) (c : Core) : (s.setCoreAt k c).quernAt q = s.quernAt q := rfl

@[simp] theorem State.quern_setCore (s : State) (c : Core) : (s.setCore c).quern = s.quern := rfl

@[simp] theorem State.fieldAt_setCoreAt (s : State) (k f : Nat) (c : Core) : (s.setCoreAt k c).fieldAt f = s.fieldAt f := rfl

@[simp] theorem State.coreAt_setQuernAt (s : State) (q k : Nat) (x : Quern) : (s.setQuernAt q x).coreAt k = s.coreAt k := rfl

@[simp] theorem State.quernAt_setQuernAt (s : State) (q : Nat) (x : Quern) : (s.setQuernAt q x).quernAt q = x := by
  simp [State.quernAt, State.setQuernAt, Laws.get_set_same]

theorem State.quernAt_setQuernAt_other (s : State) {q j : Nat} (x : Quern) (h : j ≠ q) : (s.setQuernAt q x).quernAt j = s.quernAt j := by
  simp [State.quernAt, State.setQuernAt, Laws.get_set_other _ _ h]

@[simp] theorem State.fieldAt_setFieldAt (s : State) (f : Nat) (x : Field) : (s.setFieldAt f x).fieldAt f = x := by
  simp [State.fieldAt, State.setFieldAt, Laws.get_set_same]

/-! ### A core -/

@[simp] theorem Core.setCtxAt_run (c : Core) (k : BitVec 2) (x : Ctx) : (c.setCtxAt k x).run = c.run := rfl
@[simp] theorem Core.setCtxAt_last (c : Core) (k : BitVec 2) (x : Ctx) : (c.setCtxAt k x).last = c.last := rfl
@[simp] theorem Core.setCtxAt_win (c : Core) (k : BitVec 2) (x : Ctx) : (c.setCtxAt k x).win = c.win := rfl
@[simp] theorem Core.setCtxAt_acc (c : Core) (k : BitVec 2) (x : Ctx) : (c.setCtxAt k x).acc = c.acc := rfl
@[simp] theorem Core.setCtxAt_mma (c : Core) (k : BitVec 2) (x : Ctx) : (c.setCtxAt k x).mma = c.mma := rfl
@[simp] theorem Core.setCtxAt_latch (c : Core) (k : BitVec 2) (x : Ctx) : (c.setCtxAt k x).latch = c.latch := rfl
@[simp] theorem Core.setCtxAt_ctr (c : Core) (k : BitVec 2) (x : Ctx) : (c.setCtxAt k x).ctr = c.ctr := rfl
@[simp] theorem Core.setCtxAt_pos (c : Core) (k : BitVec 2) (x : Ctx) : (c.setCtxAt k x).pos = c.pos := rfl
@[simp] theorem Core.setCtxAt_grpid (c : Core) (k : BitVec 2) (x : Ctx) : (c.setCtxAt k x).grpid = c.grpid := rfl
@[simp] theorem Core.setCtxAt_name (c : Core) (k : BitVec 2) (x : Ctx) : (c.setCtxAt k x).name = c.name := rfl
@[simp] theorem Core.setCtxAt_relpos (c : Core) (k : BitVec 2) (x : Ctx) : (c.setCtxAt k x).relpos = c.relpos := rfl
@[simp] theorem Core.setCtxAt_trapvec (c : Core) (k : BitVec 2) (x : Ctx) : (c.setCtxAt k x).trapvec = c.trapvec := rfl
@[simp] theorem Core.setCtxAt_twc (c : Core) (k : BitVec 2) (x : Ctx) : (c.setCtxAt k x).twc = c.twc := rfl
@[simp] theorem Core.setCtxAt_islBnd (c : Core) (k : BitVec 2) (x : Ctx) : (c.setCtxAt k x).islBnd = c.islBnd := rfl
@[simp] theorem Core.setCtxAt_islIid (c : Core) (k : BitVec 2) (x : Ctx) : (c.setCtxAt k x).islIid = c.islIid := rfl
@[simp] theorem Core.setCtxAt_islPad (c : Core) (k : BitVec 2) (x : Ctx) : (c.setCtxAt k x).islPad = c.islPad := rfl
@[simp] theorem Core.setCtxAt_scnt (c : Core) (k : BitVec 2) (x : Ctx) : (c.setCtxAt k x).scnt = c.scnt := rfl
@[simp] theorem Core.setCtxAt_pmMiss (c : Core) (k : BitVec 2) (x : Ctx) : (c.setCtxAt k x).pmMiss = c.pmMiss := rfl
@[simp] theorem Core.setCtxAt_pmCache (c : Core) (k : BitVec 2) (x : Ctx) : (c.setCtxAt k x).pmCache = c.pmCache := rfl
@[simp] theorem Core.setCtxAt_cycle (c : Core) (k : BitVec 2) (x : Ctx) : (c.setCtxAt k x).cycle = c.cycle := rfl
@[simp] theorem Core.setCtxAt_wdogLim (c : Core) (k : BitVec 2) (x : Ctx) : (c.setCtxAt k x).wdogLim = c.wdogLim := rfl
@[simp] theorem Core.setCtxAt_ls (c : Core) (k : BitVec 2) (x : Ctx) : (c.setCtxAt k x).ls = c.ls := rfl
@[simp] theorem Core.setCtxAt_marks (c : Core) (k : BitVec 2) (x : Ctx) : (c.setCtxAt k x).marks = c.marks := rfl
@[simp] theorem Core.setCtxAt_slots (c : Core) (k : BitVec 2) (x : Ctx) : (c.setCtxAt k x).slots = c.slots := rfl
@[simp] theorem Core.setCtxAt_nextTkt (c : Core) (k : BitVec 2) (x : Ctx) : (c.setCtxAt k x).nextTkt = c.nextTkt := rfl
@[simp] theorem Core.setCtxAt_ops (c : Core) (k : BitVec 2) (x : Ctx) : (c.setCtxAt k x).ops = c.ops := rfl
@[simp] theorem Core.setCtxAt_nextOp (c : Core) (k : BitVec 2) (x : Ctx) : (c.setCtxAt k x).nextOp = c.nextOp := rfl
@[simp] theorem Core.setCtxAt_holdTail (c : Core) (k : BitVec 2) (x : Ctx) : (c.setCtxAt k x).holdTail = c.holdTail := rfl
@[simp] theorem Core.setCtxAt_streams (c : Core) (k : BitVec 2) (x : Ctx) : (c.setCtxAt k x).streams = c.streams := rfl
@[simp] theorem Core.setCtxAt_nextStream (c : Core) (k : BitVec 2) (x : Ctx) : (c.setCtxAt k x).nextStream = c.nextStream := rfl
@[simp] theorem Core.setCtxAt_pend (c : Core) (k : BitVec 2) (x : Ctx) : (c.setCtxAt k x).pend = c.pend := rfl
@[simp] theorem Core.setCtxAt_tokens (c : Core) (k : BitVec 2) (x : Ctx) : (c.setCtxAt k x).tokens = c.tokens := rfl
@[simp] theorem Core.setCtxAt_retained (c : Core) (k : BitVec 2) (x : Ctx) : (c.setCtxAt k x).retained = c.retained := rfl
@[simp] theorem Core.setCtxAt_trees (c : Core) (k : BitVec 2) (x : Ctx) : (c.setCtxAt k x).trees = c.trees := rfl
@[simp] theorem Core.setCtxAt_landing (c : Core) (k : BitVec 2) (x : Ctx) : (c.setCtxAt k x).landing = c.landing := rfl
@[simp] theorem Core.setCtxAt_clean (c : Core) (k : BitVec 2) (x : Ctx) : (c.setCtxAt k x).clean = c.clean := rfl
@[simp] theorem Core.setCtxAt_imgLen (c : Core) (k : BitVec 2) (x : Ctx) : (c.setCtxAt k x).imgLen = c.imgLen := rfl
@[simp] theorem Core.setCtxAt_free (c : Core) (k : BitVec 2) (x : Ctx) : (c.setCtxAt k x).free = c.free := rfl
@[simp] theorem Core.setCtxAt_seq (c : Core) (k : BitVec 2) (x : Ctx) : (c.setCtxAt k x).seq = c.seq := rfl

@[simp] theorem Core.setCtxAt_routes (c : Core) (k : BitVec 2) (x : Ctx) : (c.setCtxAt k x).routes = c.routes := rfl

@[simp] theorem Core.setCtxAt_beside (c : Core) (k : BitVec 2) (x : Ctx) : (c.setCtxAt k x).beside = c.beside := rfl
@[simp] theorem Core.setCtxAt_late (c : Core) (k : BitVec 2) (x : Ctx) : (c.setCtxAt k x).late = c.late := rfl

@[simp] theorem Core.setCtxAt_served (c : Core) (k : BitVec 2) (x : Ctx) : (c.setCtxAt k x).served = c.served := rfl

@[simp] theorem Core.setCtxAt_readyAt (c : Core) (k : BitVec 2) (x : Ctx) : (c.setCtxAt k x).readyAt = c.readyAt := rfl

@[simp] theorem Core.setCtxAt_remFails (c : Core) (k : BitVec 2) (x : Ctx) : (c.setCtxAt k x).remFails = c.remFails := rfl

@[simp] theorem Core.setCtxAt_strFails (c : Core) (k : BitVec 2) (x : Ctx) : (c.setCtxAt k x).strFails = c.strFails := rfl
@[simp] theorem Core.setCtxAt_reports (c : Core) (k : BitVec 2) (x : Ctx) : (c.setCtxAt k x).reports = c.reports := rfl
@[simp] theorem Core.setCtxAt_issueAt (c : Core) (k : BitVec 2) (x : Ctx) : (c.setCtxAt k x).issueAt = c.issueAt := rfl
@[simp] theorem Core.setCtxAt_sent (c : Core) (k : BitVec 2) (x : Ctx) : (c.setCtxAt k x).sent = c.sent := rfl
@[simp] theorem Core.setCtxAt_accepted (c : Core) (k : BitVec 2) (x : Ctx) : (c.setCtxAt k x).accepted = c.accepted := rfl
@[simp] theorem Core.setCtxAt_ueHours (c : Core) (k : BitVec 2) (x : Ctx) : (c.setCtxAt k x).ueHours = c.ueHours := rfl
@[simp] theorem Core.setCtxAt_droop (c : Core) (k : BitVec 2) (x : Ctx) : (c.setCtxAt k x).droop = c.droop := rfl
@[simp] theorem Core.setCtxAt_sync (c : Core) (k : BitVec 2) (x : Ctx) : (c.setCtxAt k x).sync = c.sync := rfl
@[simp] theorem Core.setCtxAt_stalled (c : Core) (k : BitVec 2) (x : Ctx) : (c.setCtxAt k x).stalled = c.stalled := rfl
@[simp] theorem Core.setCtxAt_frozen (c : Core) (k : BitVec 2) (x : Ctx) : (c.setCtxAt k x).frozen = c.frozen := rfl
@[simp] theorem Core.setCtxAt_retiring (c : Core) (k : BitVec 2) (x : Ctx) : (c.setCtxAt k x).retiring = c.retiring := rfl
@[simp] theorem Core.setCtxAt_stopping (c : Core) (k : BitVec 2) (x : Ctx) : (c.setCtxAt k x).stopping = c.stopping := rfl
@[simp] theorem Core.setCtxAt_captured (c : Core) (k : BitVec 2) (x : Ctx) : (c.setCtxAt k x).captured = c.captured := rfl
@[simp] theorem Core.setCtx_run (c : Core) (x : Ctx) : (c.setCtx x).run = c.run := rfl
@[simp] theorem Core.setCtx_last (c : Core) (x : Ctx) : (c.setCtx x).last = c.last := rfl
@[simp] theorem Core.setCtx_win (c : Core) (x : Ctx) : (c.setCtx x).win = c.win := rfl
@[simp] theorem Core.setCtx_acc (c : Core) (x : Ctx) : (c.setCtx x).acc = c.acc := rfl
@[simp] theorem Core.setCtx_mma (c : Core) (x : Ctx) : (c.setCtx x).mma = c.mma := rfl
@[simp] theorem Core.setCtx_latch (c : Core) (x : Ctx) : (c.setCtx x).latch = c.latch := rfl
@[simp] theorem Core.setCtx_ctr (c : Core) (x : Ctx) : (c.setCtx x).ctr = c.ctr := rfl
@[simp] theorem Core.setCtx_pos (c : Core) (x : Ctx) : (c.setCtx x).pos = c.pos := rfl
@[simp] theorem Core.setCtx_grpid (c : Core) (x : Ctx) : (c.setCtx x).grpid = c.grpid := rfl
@[simp] theorem Core.setCtx_name (c : Core) (x : Ctx) : (c.setCtx x).name = c.name := rfl
@[simp] theorem Core.setCtx_relpos (c : Core) (x : Ctx) : (c.setCtx x).relpos = c.relpos := rfl
@[simp] theorem Core.setCtx_trapvec (c : Core) (x : Ctx) : (c.setCtx x).trapvec = c.trapvec := rfl
@[simp] theorem Core.setCtx_twc (c : Core) (x : Ctx) : (c.setCtx x).twc = c.twc := rfl
@[simp] theorem Core.setCtx_islBnd (c : Core) (x : Ctx) : (c.setCtx x).islBnd = c.islBnd := rfl
@[simp] theorem Core.setCtx_islIid (c : Core) (x : Ctx) : (c.setCtx x).islIid = c.islIid := rfl
@[simp] theorem Core.setCtx_islPad (c : Core) (x : Ctx) : (c.setCtx x).islPad = c.islPad := rfl
@[simp] theorem Core.setCtx_scnt (c : Core) (x : Ctx) : (c.setCtx x).scnt = c.scnt := rfl
@[simp] theorem Core.setCtx_pmMiss (c : Core) (x : Ctx) : (c.setCtx x).pmMiss = c.pmMiss := rfl
@[simp] theorem Core.setCtx_pmCache (c : Core) (x : Ctx) : (c.setCtx x).pmCache = c.pmCache := rfl
@[simp] theorem Core.setCtx_cycle (c : Core) (x : Ctx) : (c.setCtx x).cycle = c.cycle := rfl
@[simp] theorem Core.setCtx_wdogLim (c : Core) (x : Ctx) : (c.setCtx x).wdogLim = c.wdogLim := rfl
@[simp] theorem Core.setCtx_ls (c : Core) (x : Ctx) : (c.setCtx x).ls = c.ls := rfl
@[simp] theorem Core.setCtx_marks (c : Core) (x : Ctx) : (c.setCtx x).marks = c.marks := rfl
@[simp] theorem Core.setCtx_slots (c : Core) (x : Ctx) : (c.setCtx x).slots = c.slots := rfl
@[simp] theorem Core.setCtx_nextTkt (c : Core) (x : Ctx) : (c.setCtx x).nextTkt = c.nextTkt := rfl
@[simp] theorem Core.setCtx_ops (c : Core) (x : Ctx) : (c.setCtx x).ops = c.ops := rfl
@[simp] theorem Core.setCtx_nextOp (c : Core) (x : Ctx) : (c.setCtx x).nextOp = c.nextOp := rfl
@[simp] theorem Core.setCtx_holdTail (c : Core) (x : Ctx) : (c.setCtx x).holdTail = c.holdTail := rfl
@[simp] theorem Core.setCtx_streams (c : Core) (x : Ctx) : (c.setCtx x).streams = c.streams := rfl
@[simp] theorem Core.setCtx_nextStream (c : Core) (x : Ctx) : (c.setCtx x).nextStream = c.nextStream := rfl
@[simp] theorem Core.setCtx_pend (c : Core) (x : Ctx) : (c.setCtx x).pend = c.pend := rfl
@[simp] theorem Core.setCtx_tokens (c : Core) (x : Ctx) : (c.setCtx x).tokens = c.tokens := rfl
@[simp] theorem Core.setCtx_retained (c : Core) (x : Ctx) : (c.setCtx x).retained = c.retained := rfl
@[simp] theorem Core.setCtx_trees (c : Core) (x : Ctx) : (c.setCtx x).trees = c.trees := rfl
@[simp] theorem Core.setCtx_landing (c : Core) (x : Ctx) : (c.setCtx x).landing = c.landing := rfl
@[simp] theorem Core.setCtx_clean (c : Core) (x : Ctx) : (c.setCtx x).clean = c.clean := rfl
@[simp] theorem Core.setCtx_imgLen (c : Core) (x : Ctx) : (c.setCtx x).imgLen = c.imgLen := rfl
@[simp] theorem Core.setCtx_free (c : Core) (x : Ctx) : (c.setCtx x).free = c.free := rfl
@[simp] theorem Core.setCtx_seq (c : Core) (x : Ctx) : (c.setCtx x).seq = c.seq := rfl

@[simp] theorem Core.setCtx_routes (c : Core) (x : Ctx) : (c.setCtx x).routes = c.routes := rfl

@[simp] theorem Core.setCtx_beside (c : Core) (x : Ctx) : (c.setCtx x).beside = c.beside := rfl
@[simp] theorem Core.setCtx_late (c : Core) (x : Ctx) : (c.setCtx x).late = c.late := rfl

@[simp] theorem Core.setCtx_served (c : Core) (x : Ctx) : (c.setCtx x).served = c.served := rfl

@[simp] theorem Core.setCtx_readyAt (c : Core) (x : Ctx) : (c.setCtx x).readyAt = c.readyAt := rfl

@[simp] theorem Core.setCtx_remFails (c : Core) (x : Ctx) : (c.setCtx x).remFails = c.remFails := rfl

@[simp] theorem Core.setCtx_strFails (c : Core) (x : Ctx) : (c.setCtx x).strFails = c.strFails := rfl
@[simp] theorem Core.setCtx_reports (c : Core) (x : Ctx) : (c.setCtx x).reports = c.reports := rfl
@[simp] theorem Core.setCtx_issueAt (c : Core) (x : Ctx) : (c.setCtx x).issueAt = c.issueAt := rfl
@[simp] theorem Core.setCtx_sent (c : Core) (x : Ctx) : (c.setCtx x).sent = c.sent := rfl
@[simp] theorem Core.setCtx_accepted (c : Core) (x : Ctx) : (c.setCtx x).accepted = c.accepted := rfl
@[simp] theorem Core.setCtx_ueHours (c : Core) (x : Ctx) : (c.setCtx x).ueHours = c.ueHours := rfl
@[simp] theorem Core.setCtx_droop (c : Core) (x : Ctx) : (c.setCtx x).droop = c.droop := rfl
@[simp] theorem Core.setCtx_sync (c : Core) (x : Ctx) : (c.setCtx x).sync = c.sync := rfl
@[simp] theorem Core.setCtx_stalled (c : Core) (x : Ctx) : (c.setCtx x).stalled = c.stalled := rfl
@[simp] theorem Core.setCtx_frozen (c : Core) (x : Ctx) : (c.setCtx x).frozen = c.frozen := rfl
@[simp] theorem Core.setCtx_retiring (c : Core) (x : Ctx) : (c.setCtx x).retiring = c.retiring := rfl
@[simp] theorem Core.setCtx_stopping (c : Core) (x : Ctx) : (c.setCtx x).stopping = c.stopping := rfl
@[simp] theorem Core.setCtx_captured (c : Core) (x : Ctx) : (c.setCtx x).captured = c.captured := rfl
@[simp] theorem Core.setRegs_run (c : Core) (r : Regs) : (c.setRegs r).run = c.run := rfl
@[simp] theorem Core.setRegs_last (c : Core) (r : Regs) : (c.setRegs r).last = c.last := rfl
@[simp] theorem Core.setRegs_win (c : Core) (r : Regs) : (c.setRegs r).win = c.win := rfl
@[simp] theorem Core.setRegs_acc (c : Core) (r : Regs) : (c.setRegs r).acc = c.acc := rfl
@[simp] theorem Core.setRegs_mma (c : Core) (r : Regs) : (c.setRegs r).mma = c.mma := rfl
@[simp] theorem Core.setRegs_latch (c : Core) (r : Regs) : (c.setRegs r).latch = c.latch := rfl
@[simp] theorem Core.setRegs_ctr (c : Core) (r : Regs) : (c.setRegs r).ctr = c.ctr := rfl
@[simp] theorem Core.setRegs_pos (c : Core) (r : Regs) : (c.setRegs r).pos = c.pos := rfl
@[simp] theorem Core.setRegs_grpid (c : Core) (r : Regs) : (c.setRegs r).grpid = c.grpid := rfl
@[simp] theorem Core.setRegs_name (c : Core) (r : Regs) : (c.setRegs r).name = c.name := rfl
@[simp] theorem Core.setRegs_relpos (c : Core) (r : Regs) : (c.setRegs r).relpos = c.relpos := rfl
@[simp] theorem Core.setRegs_trapvec (c : Core) (r : Regs) : (c.setRegs r).trapvec = c.trapvec := rfl
@[simp] theorem Core.setRegs_twc (c : Core) (r : Regs) : (c.setRegs r).twc = c.twc := rfl
@[simp] theorem Core.setRegs_islBnd (c : Core) (r : Regs) : (c.setRegs r).islBnd = c.islBnd := rfl
@[simp] theorem Core.setRegs_islIid (c : Core) (r : Regs) : (c.setRegs r).islIid = c.islIid := rfl
@[simp] theorem Core.setRegs_islPad (c : Core) (r : Regs) : (c.setRegs r).islPad = c.islPad := rfl
@[simp] theorem Core.setRegs_scnt (c : Core) (r : Regs) : (c.setRegs r).scnt = c.scnt := rfl
@[simp] theorem Core.setRegs_pmMiss (c : Core) (r : Regs) : (c.setRegs r).pmMiss = c.pmMiss := rfl
@[simp] theorem Core.setRegs_pmCache (c : Core) (r : Regs) : (c.setRegs r).pmCache = c.pmCache := rfl
@[simp] theorem Core.setRegs_cycle (c : Core) (r : Regs) : (c.setRegs r).cycle = c.cycle := rfl
@[simp] theorem Core.setRegs_wdogLim (c : Core) (r : Regs) : (c.setRegs r).wdogLim = c.wdogLim := rfl
@[simp] theorem Core.setRegs_ls (c : Core) (r : Regs) : (c.setRegs r).ls = c.ls := rfl
@[simp] theorem Core.setRegs_marks (c : Core) (r : Regs) : (c.setRegs r).marks = c.marks := rfl
@[simp] theorem Core.setRegs_slots (c : Core) (r : Regs) : (c.setRegs r).slots = c.slots := rfl
@[simp] theorem Core.setRegs_nextTkt (c : Core) (r : Regs) : (c.setRegs r).nextTkt = c.nextTkt := rfl
@[simp] theorem Core.setRegs_ops (c : Core) (r : Regs) : (c.setRegs r).ops = c.ops := rfl
@[simp] theorem Core.setRegs_nextOp (c : Core) (r : Regs) : (c.setRegs r).nextOp = c.nextOp := rfl
@[simp] theorem Core.setRegs_holdTail (c : Core) (r : Regs) : (c.setRegs r).holdTail = c.holdTail := rfl
@[simp] theorem Core.setRegs_streams (c : Core) (r : Regs) : (c.setRegs r).streams = c.streams := rfl
@[simp] theorem Core.setRegs_nextStream (c : Core) (r : Regs) : (c.setRegs r).nextStream = c.nextStream := rfl
@[simp] theorem Core.setRegs_pend (c : Core) (r : Regs) : (c.setRegs r).pend = c.pend := rfl
@[simp] theorem Core.setRegs_tokens (c : Core) (r : Regs) : (c.setRegs r).tokens = c.tokens := rfl
@[simp] theorem Core.setRegs_retained (c : Core) (r : Regs) : (c.setRegs r).retained = c.retained := rfl
@[simp] theorem Core.setRegs_trees (c : Core) (r : Regs) : (c.setRegs r).trees = c.trees := rfl
@[simp] theorem Core.setRegs_landing (c : Core) (r : Regs) : (c.setRegs r).landing = c.landing := rfl
@[simp] theorem Core.setRegs_clean (c : Core) (r : Regs) : (c.setRegs r).clean = c.clean := rfl
@[simp] theorem Core.setRegs_imgLen (c : Core) (r : Regs) : (c.setRegs r).imgLen = c.imgLen := rfl
@[simp] theorem Core.setRegs_free (c : Core) (r : Regs) : (c.setRegs r).free = c.free := rfl
@[simp] theorem Core.setRegs_seq (c : Core) (r : Regs) : (c.setRegs r).seq = c.seq := rfl

@[simp] theorem Core.setRegs_routes (c : Core) (r : Regs) : (c.setRegs r).routes = c.routes := rfl

@[simp] theorem Core.setRegs_beside (c : Core) (r : Regs) : (c.setRegs r).beside = c.beside := rfl
@[simp] theorem Core.setRegs_late (c : Core) (r : Regs) : (c.setRegs r).late = c.late := rfl

@[simp] theorem Core.setRegs_served (c : Core) (r : Regs) : (c.setRegs r).served = c.served := rfl

@[simp] theorem Core.setRegs_readyAt (c : Core) (r : Regs) : (c.setRegs r).readyAt = c.readyAt := rfl

@[simp] theorem Core.setRegs_remFails (c : Core) (r : Regs) : (c.setRegs r).remFails = c.remFails := rfl

@[simp] theorem Core.setRegs_strFails (c : Core) (r : Regs) : (c.setRegs r).strFails = c.strFails := rfl
@[simp] theorem Core.setRegs_reports (c : Core) (r : Regs) : (c.setRegs r).reports = c.reports := rfl
@[simp] theorem Core.setRegs_issueAt (c : Core) (r : Regs) : (c.setRegs r).issueAt = c.issueAt := rfl
@[simp] theorem Core.setRegs_sent (c : Core) (r : Regs) : (c.setRegs r).sent = c.sent := rfl
@[simp] theorem Core.setRegs_accepted (c : Core) (r : Regs) : (c.setRegs r).accepted = c.accepted := rfl
@[simp] theorem Core.setRegs_ueHours (c : Core) (r : Regs) : (c.setRegs r).ueHours = c.ueHours := rfl
@[simp] theorem Core.setRegs_droop (c : Core) (r : Regs) : (c.setRegs r).droop = c.droop := rfl
@[simp] theorem Core.setRegs_sync (c : Core) (r : Regs) : (c.setRegs r).sync = c.sync := rfl
@[simp] theorem Core.setRegs_stalled (c : Core) (r : Regs) : (c.setRegs r).stalled = c.stalled := rfl
@[simp] theorem Core.setRegs_frozen (c : Core) (r : Regs) : (c.setRegs r).frozen = c.frozen := rfl
@[simp] theorem Core.setRegs_retiring (c : Core) (r : Regs) : (c.setRegs r).retiring = c.retiring := rfl
@[simp] theorem Core.setRegs_stopping (c : Core) (r : Regs) : (c.setRegs r).stopping = c.stopping := rfl
@[simp] theorem Core.setRegs_captured (c : Core) (r : Regs) : (c.setRegs r).captured = c.captured := rfl
@[simp] theorem Core.modRegs_run (c : Core) (f : Regs → Regs) : (c.modRegs f).run = c.run := rfl
@[simp] theorem Core.modRegs_last (c : Core) (f : Regs → Regs) : (c.modRegs f).last = c.last := rfl
@[simp] theorem Core.modRegs_win (c : Core) (f : Regs → Regs) : (c.modRegs f).win = c.win := rfl
@[simp] theorem Core.modRegs_acc (c : Core) (f : Regs → Regs) : (c.modRegs f).acc = c.acc := rfl
@[simp] theorem Core.modRegs_mma (c : Core) (f : Regs → Regs) : (c.modRegs f).mma = c.mma := rfl
@[simp] theorem Core.modRegs_latch (c : Core) (f : Regs → Regs) : (c.modRegs f).latch = c.latch := rfl
@[simp] theorem Core.modRegs_ctr (c : Core) (f : Regs → Regs) : (c.modRegs f).ctr = c.ctr := rfl
@[simp] theorem Core.modRegs_pos (c : Core) (f : Regs → Regs) : (c.modRegs f).pos = c.pos := rfl
@[simp] theorem Core.modRegs_grpid (c : Core) (f : Regs → Regs) : (c.modRegs f).grpid = c.grpid := rfl
@[simp] theorem Core.modRegs_name (c : Core) (f : Regs → Regs) : (c.modRegs f).name = c.name := rfl
@[simp] theorem Core.modRegs_relpos (c : Core) (f : Regs → Regs) : (c.modRegs f).relpos = c.relpos := rfl
@[simp] theorem Core.modRegs_trapvec (c : Core) (f : Regs → Regs) : (c.modRegs f).trapvec = c.trapvec := rfl
@[simp] theorem Core.modRegs_twc (c : Core) (f : Regs → Regs) : (c.modRegs f).twc = c.twc := rfl
@[simp] theorem Core.modRegs_islBnd (c : Core) (f : Regs → Regs) : (c.modRegs f).islBnd = c.islBnd := rfl
@[simp] theorem Core.modRegs_islIid (c : Core) (f : Regs → Regs) : (c.modRegs f).islIid = c.islIid := rfl
@[simp] theorem Core.modRegs_islPad (c : Core) (f : Regs → Regs) : (c.modRegs f).islPad = c.islPad := rfl
@[simp] theorem Core.modRegs_scnt (c : Core) (f : Regs → Regs) : (c.modRegs f).scnt = c.scnt := rfl
@[simp] theorem Core.modRegs_pmMiss (c : Core) (f : Regs → Regs) : (c.modRegs f).pmMiss = c.pmMiss := rfl
@[simp] theorem Core.modRegs_pmCache (c : Core) (f : Regs → Regs) : (c.modRegs f).pmCache = c.pmCache := rfl
@[simp] theorem Core.modRegs_cycle (c : Core) (f : Regs → Regs) : (c.modRegs f).cycle = c.cycle := rfl
@[simp] theorem Core.modRegs_wdogLim (c : Core) (f : Regs → Regs) : (c.modRegs f).wdogLim = c.wdogLim := rfl
@[simp] theorem Core.modRegs_ls (c : Core) (f : Regs → Regs) : (c.modRegs f).ls = c.ls := rfl
@[simp] theorem Core.modRegs_marks (c : Core) (f : Regs → Regs) : (c.modRegs f).marks = c.marks := rfl
@[simp] theorem Core.modRegs_slots (c : Core) (f : Regs → Regs) : (c.modRegs f).slots = c.slots := rfl
@[simp] theorem Core.modRegs_nextTkt (c : Core) (f : Regs → Regs) : (c.modRegs f).nextTkt = c.nextTkt := rfl
@[simp] theorem Core.modRegs_ops (c : Core) (f : Regs → Regs) : (c.modRegs f).ops = c.ops := rfl
@[simp] theorem Core.modRegs_nextOp (c : Core) (f : Regs → Regs) : (c.modRegs f).nextOp = c.nextOp := rfl
@[simp] theorem Core.modRegs_holdTail (c : Core) (f : Regs → Regs) : (c.modRegs f).holdTail = c.holdTail := rfl
@[simp] theorem Core.modRegs_streams (c : Core) (f : Regs → Regs) : (c.modRegs f).streams = c.streams := rfl
@[simp] theorem Core.modRegs_nextStream (c : Core) (f : Regs → Regs) : (c.modRegs f).nextStream = c.nextStream := rfl
@[simp] theorem Core.modRegs_pend (c : Core) (f : Regs → Regs) : (c.modRegs f).pend = c.pend := rfl
@[simp] theorem Core.modRegs_tokens (c : Core) (f : Regs → Regs) : (c.modRegs f).tokens = c.tokens := rfl
@[simp] theorem Core.modRegs_retained (c : Core) (f : Regs → Regs) : (c.modRegs f).retained = c.retained := rfl
@[simp] theorem Core.modRegs_trees (c : Core) (f : Regs → Regs) : (c.modRegs f).trees = c.trees := rfl
@[simp] theorem Core.modRegs_landing (c : Core) (f : Regs → Regs) : (c.modRegs f).landing = c.landing := rfl
@[simp] theorem Core.modRegs_clean (c : Core) (f : Regs → Regs) : (c.modRegs f).clean = c.clean := rfl
@[simp] theorem Core.modRegs_imgLen (c : Core) (f : Regs → Regs) : (c.modRegs f).imgLen = c.imgLen := rfl
@[simp] theorem Core.modRegs_free (c : Core) (f : Regs → Regs) : (c.modRegs f).free = c.free := rfl
@[simp] theorem Core.modRegs_seq (c : Core) (f : Regs → Regs) : (c.modRegs f).seq = c.seq := rfl

@[simp] theorem Core.modRegs_routes (c : Core) (f : Regs → Regs) : (c.modRegs f).routes = c.routes := rfl

@[simp] theorem Core.modRegs_beside (c : Core) (f : Regs → Regs) : (c.modRegs f).beside = c.beside := rfl
@[simp] theorem Core.modRegs_late (c : Core) (f : Regs → Regs) : (c.modRegs f).late = c.late := rfl

@[simp] theorem Core.modRegs_served (c : Core) (f : Regs → Regs) : (c.modRegs f).served = c.served := rfl

@[simp] theorem Core.modRegs_readyAt (c : Core) (f : Regs → Regs) : (c.modRegs f).readyAt = c.readyAt := rfl

@[simp] theorem Core.modRegs_remFails (c : Core) (f : Regs → Regs) : (c.modRegs f).remFails = c.remFails := rfl

@[simp] theorem Core.modRegs_strFails (c : Core) (f : Regs → Regs) : (c.modRegs f).strFails = c.strFails := rfl
@[simp] theorem Core.modRegs_reports (c : Core) (f : Regs → Regs) : (c.modRegs f).reports = c.reports := rfl
@[simp] theorem Core.modRegs_issueAt (c : Core) (f : Regs → Regs) : (c.modRegs f).issueAt = c.issueAt := rfl
@[simp] theorem Core.modRegs_sent (c : Core) (f : Regs → Regs) : (c.modRegs f).sent = c.sent := rfl
@[simp] theorem Core.modRegs_accepted (c : Core) (f : Regs → Regs) : (c.modRegs f).accepted = c.accepted := rfl
@[simp] theorem Core.modRegs_ueHours (c : Core) (f : Regs → Regs) : (c.modRegs f).ueHours = c.ueHours := rfl
@[simp] theorem Core.modRegs_droop (c : Core) (f : Regs → Regs) : (c.modRegs f).droop = c.droop := rfl
@[simp] theorem Core.modRegs_sync (c : Core) (f : Regs → Regs) : (c.modRegs f).sync = c.sync := rfl
@[simp] theorem Core.modRegs_stalled (c : Core) (f : Regs → Regs) : (c.modRegs f).stalled = c.stalled := rfl
@[simp] theorem Core.modRegs_frozen (c : Core) (f : Regs → Regs) : (c.modRegs f).frozen = c.frozen := rfl
@[simp] theorem Core.modRegs_retiring (c : Core) (f : Regs → Regs) : (c.modRegs f).retiring = c.retiring := rfl
@[simp] theorem Core.modRegs_stopping (c : Core) (f : Regs → Regs) : (c.modRegs f).stopping = c.stopping := rfl
@[simp] theorem Core.modRegs_captured (c : Core) (f : Regs → Regs) : (c.modRegs f).captured = c.captured := rfl
@[simp] theorem Core.adv_run (c : Core) : (c.adv).run = c.run := rfl
@[simp] theorem Core.adv_last (c : Core) : (c.adv).last = c.last := rfl
@[simp] theorem Core.adv_win (c : Core) : (c.adv).win = c.win := rfl
@[simp] theorem Core.adv_acc (c : Core) : (c.adv).acc = c.acc := rfl
@[simp] theorem Core.adv_mma (c : Core) : (c.adv).mma = c.mma := rfl
@[simp] theorem Core.adv_latch (c : Core) : (c.adv).latch = c.latch := rfl
@[simp] theorem Core.adv_ctr (c : Core) : (c.adv).ctr = c.ctr := rfl
@[simp] theorem Core.adv_pos (c : Core) : (c.adv).pos = c.pos := rfl
@[simp] theorem Core.adv_grpid (c : Core) : (c.adv).grpid = c.grpid := rfl
@[simp] theorem Core.adv_name (c : Core) : (c.adv).name = c.name := rfl
@[simp] theorem Core.adv_relpos (c : Core) : (c.adv).relpos = c.relpos := rfl
@[simp] theorem Core.adv_trapvec (c : Core) : (c.adv).trapvec = c.trapvec := rfl
@[simp] theorem Core.adv_twc (c : Core) : (c.adv).twc = c.twc := rfl
@[simp] theorem Core.adv_islBnd (c : Core) : (c.adv).islBnd = c.islBnd := rfl
@[simp] theorem Core.adv_islIid (c : Core) : (c.adv).islIid = c.islIid := rfl
@[simp] theorem Core.adv_islPad (c : Core) : (c.adv).islPad = c.islPad := rfl
@[simp] theorem Core.adv_scnt (c : Core) : (c.adv).scnt = c.scnt := rfl
@[simp] theorem Core.adv_pmMiss (c : Core) : (c.adv).pmMiss = c.pmMiss := rfl
@[simp] theorem Core.adv_pmCache (c : Core) : (c.adv).pmCache = c.pmCache := rfl
@[simp] theorem Core.adv_cycle (c : Core) : (c.adv).cycle = c.cycle := rfl
@[simp] theorem Core.adv_wdogLim (c : Core) : (c.adv).wdogLim = c.wdogLim := rfl
@[simp] theorem Core.adv_ls (c : Core) : (c.adv).ls = c.ls := rfl
@[simp] theorem Core.adv_marks (c : Core) : (c.adv).marks = c.marks := rfl
@[simp] theorem Core.adv_slots (c : Core) : (c.adv).slots = c.slots := rfl
@[simp] theorem Core.adv_nextTkt (c : Core) : (c.adv).nextTkt = c.nextTkt := rfl
@[simp] theorem Core.adv_ops (c : Core) : (c.adv).ops = c.ops := rfl
@[simp] theorem Core.adv_nextOp (c : Core) : (c.adv).nextOp = c.nextOp := rfl
@[simp] theorem Core.adv_holdTail (c : Core) : (c.adv).holdTail = c.holdTail := rfl
@[simp] theorem Core.adv_streams (c : Core) : (c.adv).streams = c.streams := rfl
@[simp] theorem Core.adv_nextStream (c : Core) : (c.adv).nextStream = c.nextStream := rfl
@[simp] theorem Core.adv_pend (c : Core) : (c.adv).pend = c.pend := rfl
@[simp] theorem Core.adv_tokens (c : Core) : (c.adv).tokens = c.tokens := rfl
@[simp] theorem Core.adv_retained (c : Core) : (c.adv).retained = c.retained := rfl
@[simp] theorem Core.adv_trees (c : Core) : (c.adv).trees = c.trees := rfl
@[simp] theorem Core.adv_landing (c : Core) : (c.adv).landing = c.landing := rfl
@[simp] theorem Core.adv_clean (c : Core) : (c.adv).clean = c.clean := rfl
@[simp] theorem Core.adv_imgLen (c : Core) : (c.adv).imgLen = c.imgLen := rfl
@[simp] theorem Core.adv_free (c : Core) : (c.adv).free = c.free := rfl
@[simp] theorem Core.adv_seq (c : Core) : (c.adv).seq = c.seq := rfl

@[simp] theorem Core.adv_routes (c : Core) : (c.adv).routes = c.routes := rfl

@[simp] theorem Core.adv_beside (c : Core) : (c.adv).beside = c.beside := rfl
@[simp] theorem Core.adv_late (c : Core) : (c.adv).late = c.late := rfl

@[simp] theorem Core.adv_served (c : Core) : (c.adv).served = c.served := rfl

@[simp] theorem Core.adv_readyAt (c : Core) : (c.adv).readyAt = c.readyAt := rfl

@[simp] theorem Core.adv_remFails (c : Core) : (c.adv).remFails = c.remFails := rfl

@[simp] theorem Core.adv_strFails (c : Core) : (c.adv).strFails = c.strFails := rfl
@[simp] theorem Core.adv_reports (c : Core) : (c.adv).reports = c.reports := rfl
@[simp] theorem Core.adv_issueAt (c : Core) : (c.adv).issueAt = c.issueAt := rfl
@[simp] theorem Core.adv_sent (c : Core) : (c.adv).sent = c.sent := rfl
@[simp] theorem Core.adv_accepted (c : Core) : (c.adv).accepted = c.accepted := rfl
@[simp] theorem Core.adv_ueHours (c : Core) : (c.adv).ueHours = c.ueHours := rfl
@[simp] theorem Core.adv_droop (c : Core) : (c.adv).droop = c.droop := rfl
@[simp] theorem Core.adv_sync (c : Core) : (c.adv).sync = c.sync := rfl
@[simp] theorem Core.adv_stalled (c : Core) : (c.adv).stalled = c.stalled := rfl
@[simp] theorem Core.adv_frozen (c : Core) : (c.adv).frozen = c.frozen := rfl
@[simp] theorem Core.adv_retiring (c : Core) : (c.adv).retiring = c.retiring := rfl
@[simp] theorem Core.adv_stopping (c : Core) : (c.adv).stopping = c.stopping := rfl
@[simp] theorem Core.adv_captured (c : Core) : (c.adv).captured = c.captured := rfl
@[simp] theorem Core.setAcc_ctxs (c : Core) (k : BitVec 2) (a : Acc) : (c.setAcc k a).ctxs = c.ctxs := rfl
@[simp] theorem Core.setAcc_run (c : Core) (k : BitVec 2) (a : Acc) : (c.setAcc k a).run = c.run := rfl
@[simp] theorem Core.setAcc_last (c : Core) (k : BitVec 2) (a : Acc) : (c.setAcc k a).last = c.last := rfl
@[simp] theorem Core.setAcc_win (c : Core) (k : BitVec 2) (a : Acc) : (c.setAcc k a).win = c.win := rfl
@[simp] theorem Core.setAcc_mma (c : Core) (k : BitVec 2) (a : Acc) : (c.setAcc k a).mma = c.mma := rfl
@[simp] theorem Core.setAcc_latch (c : Core) (k : BitVec 2) (a : Acc) : (c.setAcc k a).latch = c.latch := rfl
@[simp] theorem Core.setAcc_ctr (c : Core) (k : BitVec 2) (a : Acc) : (c.setAcc k a).ctr = c.ctr := rfl
@[simp] theorem Core.setAcc_pos (c : Core) (k : BitVec 2) (a : Acc) : (c.setAcc k a).pos = c.pos := rfl
@[simp] theorem Core.setAcc_grpid (c : Core) (k : BitVec 2) (a : Acc) : (c.setAcc k a).grpid = c.grpid := rfl
@[simp] theorem Core.setAcc_name (c : Core) (k : BitVec 2) (a : Acc) : (c.setAcc k a).name = c.name := rfl
@[simp] theorem Core.setAcc_relpos (c : Core) (k : BitVec 2) (a : Acc) : (c.setAcc k a).relpos = c.relpos := rfl
@[simp] theorem Core.setAcc_trapvec (c : Core) (k : BitVec 2) (a : Acc) : (c.setAcc k a).trapvec = c.trapvec := rfl
@[simp] theorem Core.setAcc_twc (c : Core) (k : BitVec 2) (a : Acc) : (c.setAcc k a).twc = c.twc := rfl
@[simp] theorem Core.setAcc_islBnd (c : Core) (k : BitVec 2) (a : Acc) : (c.setAcc k a).islBnd = c.islBnd := rfl
@[simp] theorem Core.setAcc_islIid (c : Core) (k : BitVec 2) (a : Acc) : (c.setAcc k a).islIid = c.islIid := rfl
@[simp] theorem Core.setAcc_islPad (c : Core) (k : BitVec 2) (a : Acc) : (c.setAcc k a).islPad = c.islPad := rfl
@[simp] theorem Core.setAcc_scnt (c : Core) (k : BitVec 2) (a : Acc) : (c.setAcc k a).scnt = c.scnt := rfl
@[simp] theorem Core.setAcc_pmMiss (c : Core) (k : BitVec 2) (a : Acc) : (c.setAcc k a).pmMiss = c.pmMiss := rfl
@[simp] theorem Core.setAcc_pmCache (c : Core) (k : BitVec 2) (a : Acc) : (c.setAcc k a).pmCache = c.pmCache := rfl
@[simp] theorem Core.setAcc_cycle (c : Core) (k : BitVec 2) (a : Acc) : (c.setAcc k a).cycle = c.cycle := rfl
@[simp] theorem Core.setAcc_wdogLim (c : Core) (k : BitVec 2) (a : Acc) : (c.setAcc k a).wdogLim = c.wdogLim := rfl
@[simp] theorem Core.setAcc_ls (c : Core) (k : BitVec 2) (a : Acc) : (c.setAcc k a).ls = c.ls := rfl
@[simp] theorem Core.setAcc_marks (c : Core) (k : BitVec 2) (a : Acc) : (c.setAcc k a).marks = c.marks := rfl
@[simp] theorem Core.setAcc_slots (c : Core) (k : BitVec 2) (a : Acc) : (c.setAcc k a).slots = c.slots := rfl
@[simp] theorem Core.setAcc_nextTkt (c : Core) (k : BitVec 2) (a : Acc) : (c.setAcc k a).nextTkt = c.nextTkt := rfl
@[simp] theorem Core.setAcc_ops (c : Core) (k : BitVec 2) (a : Acc) : (c.setAcc k a).ops = c.ops := rfl
@[simp] theorem Core.setAcc_nextOp (c : Core) (k : BitVec 2) (a : Acc) : (c.setAcc k a).nextOp = c.nextOp := rfl
@[simp] theorem Core.setAcc_holdTail (c : Core) (k : BitVec 2) (a : Acc) : (c.setAcc k a).holdTail = c.holdTail := rfl
@[simp] theorem Core.setAcc_streams (c : Core) (k : BitVec 2) (a : Acc) : (c.setAcc k a).streams = c.streams := rfl
@[simp] theorem Core.setAcc_nextStream (c : Core) (k : BitVec 2) (a : Acc) : (c.setAcc k a).nextStream = c.nextStream := rfl
@[simp] theorem Core.setAcc_pend (c : Core) (k : BitVec 2) (a : Acc) : (c.setAcc k a).pend = c.pend := rfl
@[simp] theorem Core.setAcc_tokens (c : Core) (k : BitVec 2) (a : Acc) : (c.setAcc k a).tokens = c.tokens := rfl
@[simp] theorem Core.setAcc_retained (c : Core) (k : BitVec 2) (a : Acc) : (c.setAcc k a).retained = c.retained := rfl
@[simp] theorem Core.setAcc_trees (c : Core) (k : BitVec 2) (a : Acc) : (c.setAcc k a).trees = c.trees := rfl
@[simp] theorem Core.setAcc_landing (c : Core) (k : BitVec 2) (a : Acc) : (c.setAcc k a).landing = c.landing := rfl
@[simp] theorem Core.setAcc_clean (c : Core) (k : BitVec 2) (a : Acc) : (c.setAcc k a).clean = c.clean := rfl
@[simp] theorem Core.setAcc_imgLen (c : Core) (k : BitVec 2) (a : Acc) : (c.setAcc k a).imgLen = c.imgLen := rfl
@[simp] theorem Core.setAcc_free (c : Core) (k : BitVec 2) (a : Acc) : (c.setAcc k a).free = c.free := rfl
@[simp] theorem Core.setAcc_seq (c : Core) (k : BitVec 2) (a : Acc) : (c.setAcc k a).seq = c.seq := rfl

@[simp] theorem Core.setAcc_routes (c : Core) (k : BitVec 2) (a : Acc) : (c.setAcc k a).routes = c.routes := rfl

@[simp] theorem Core.setAcc_beside (c : Core) (k : BitVec 2) (a : Acc) : (c.setAcc k a).beside = c.beside := rfl
@[simp] theorem Core.setAcc_late (c : Core) (k : BitVec 2) (a : Acc) : (c.setAcc k a).late = c.late := rfl

@[simp] theorem Core.setAcc_served (c : Core) (k : BitVec 2) (a : Acc) : (c.setAcc k a).served = c.served := rfl

@[simp] theorem Core.setAcc_readyAt (c : Core) (k : BitVec 2) (a : Acc) : (c.setAcc k a).readyAt = c.readyAt := rfl

@[simp] theorem Core.setAcc_remFails (c : Core) (k : BitVec 2) (a : Acc) : (c.setAcc k a).remFails = c.remFails := rfl

@[simp] theorem Core.setAcc_strFails (c : Core) (k : BitVec 2) (a : Acc) : (c.setAcc k a).strFails = c.strFails := rfl
@[simp] theorem Core.setAcc_reports (c : Core) (k : BitVec 2) (a : Acc) : (c.setAcc k a).reports = c.reports := rfl
@[simp] theorem Core.setAcc_issueAt (c : Core) (k : BitVec 2) (a : Acc) : (c.setAcc k a).issueAt = c.issueAt := rfl
@[simp] theorem Core.setAcc_sent (c : Core) (k : BitVec 2) (a : Acc) : (c.setAcc k a).sent = c.sent := rfl
@[simp] theorem Core.setAcc_accepted (c : Core) (k : BitVec 2) (a : Acc) : (c.setAcc k a).accepted = c.accepted := rfl
@[simp] theorem Core.setAcc_ueHours (c : Core) (k : BitVec 2) (a : Acc) : (c.setAcc k a).ueHours = c.ueHours := rfl
@[simp] theorem Core.setAcc_droop (c : Core) (k : BitVec 2) (a : Acc) : (c.setAcc k a).droop = c.droop := rfl
@[simp] theorem Core.setAcc_sync (c : Core) (k : BitVec 2) (a : Acc) : (c.setAcc k a).sync = c.sync := rfl
@[simp] theorem Core.setAcc_stalled (c : Core) (k : BitVec 2) (a : Acc) : (c.setAcc k a).stalled = c.stalled := rfl
@[simp] theorem Core.setAcc_frozen (c : Core) (k : BitVec 2) (a : Acc) : (c.setAcc k a).frozen = c.frozen := rfl
@[simp] theorem Core.setAcc_retiring (c : Core) (k : BitVec 2) (a : Acc) : (c.setAcc k a).retiring = c.retiring := rfl
@[simp] theorem Core.setAcc_stopping (c : Core) (k : BitVec 2) (a : Acc) : (c.setAcc k a).stopping = c.stopping := rfl
@[simp] theorem Core.setAcc_captured (c : Core) (k : BitVec 2) (a : Acc) : (c.setAcc k a).captured = c.captured := rfl

@[simp] theorem Core.ctxAt_setCtxAt (c : Core) (k : BitVec 2) (x : Ctx) : (c.setCtxAt k x).ctxAt k = x := by
  simp [Core.ctxAt, Core.setCtxAt]

theorem Core.ctxAt_setCtxAt_other (c : Core) {k j : BitVec 2} (x : Ctx) (h : j ≠ k) : (c.setCtxAt k x).ctxAt j = c.ctxAt j := by
  have hn : k.toNat ≠ j.toNat := fun e => h (BitVec.eq_of_toNat_eq e.symm)
  simp [Core.ctxAt, Core.setCtxAt, Vector.getElem_set_ne, hn]

@[simp] theorem Core.ctx_setCtx (c : Core) (x : Ctx) : (c.setCtx x).ctx = x := Core.ctxAt_setCtxAt c c.run x

@[simp] theorem Core.setCtx_setCtx (c : Core) (x y : Ctx) : (c.setCtx x).setCtx y = c.setCtx y := by
  simp [Core.setCtx, Core.setCtxAt]

@[simp] theorem Core.ctx_setRegs (c : Core) (r : Regs) : (c.setRegs r).ctx = { c.ctx with regs := r } := Core.ctx_setCtx ..

@[simp] theorem Core.regs_setRegs (c : Core) (r : Regs) : (c.setRegs r).regs = r := by simp [Core.regs]

@[simp] theorem Core.setRegs_setRegs (c : Core) (r q : Regs) : (c.setRegs r).setRegs q = c.setRegs q := by
  simp [Core.setRegs]

@[simp] theorem Core.regs_modRegs (c : Core) (f : Regs → Regs) : (c.modRegs f).regs = f c.regs := Core.regs_setRegs ..

theorem Core.modRegs_eq (c : Core) (f : Regs → Regs) : c.modRegs f = c.setRegs (f c.regs) := rfl

theorem Core.adv_eq (c : Core) : c.adv = c.setRegs c.regs.adv := rfl

@[simp] theorem Core.prv_setRegs (c : Core) (r : Regs) : (c.setRegs r).prv = c.prv := by simp [Core.prv]

/-! ### Registers -/

@[simp] theorem Regs.adv_s (r : Regs) : (r.adv).s = r.s := rfl
@[simp] theorem Regs.adv_sp (r : Regs) : (r.adv).sp = r.sp := rfl
@[simp] theorem Regs.adv_v (r : Regs) : (r.adv).v = r.v := rfl
@[simp] theorem Regs.adv_side (r : Regs) : (r.adv).side = r.side := rfl
@[simp] theorem Regs.adv_g (r : Regs) : (r.adv).g = r.g := rfl
@[simp] theorem Regs.adv_m (r : Regs) : (r.adv).m = r.m := rfl
@[simp] theorem Regs.adv_astat (r : Regs) : (r.adv).astat = r.astat := rfl
@[simp] theorem Regs.adv_openBatch (r : Regs) : (r.adv).openBatch = r.openBatch := rfl
@[simp] theorem Regs.adv_batchUsed (r : Regs) : (r.adv).batchUsed = r.batchUsed := rfl
@[simp] theorem Regs.adv_handler (r : Regs) : (r.adv).handler = r.handler := rfl
@[simp] theorem Regs.flag_s (r : Regs) (f : Flags) : (r.flag f).s = r.s := rfl
@[simp] theorem Regs.flag_sp (r : Regs) (f : Flags) : (r.flag f).sp = r.sp := rfl
@[simp] theorem Regs.flag_v (r : Regs) (f : Flags) : (r.flag f).v = r.v := rfl
@[simp] theorem Regs.flag_side (r : Regs) (f : Flags) : (r.flag f).side = r.side := rfl
@[simp] theorem Regs.flag_g (r : Regs) (f : Flags) : (r.flag f).g = r.g := rfl
@[simp] theorem Regs.flag_m (r : Regs) (f : Flags) : (r.flag f).m = r.m := rfl
@[simp] theorem Regs.flag_pc (r : Regs) (f : Flags) : (r.flag f).pc = r.pc := rfl
@[simp] theorem Regs.flag_openBatch (r : Regs) (f : Flags) : (r.flag f).openBatch = r.openBatch := rfl
@[simp] theorem Regs.flag_batchUsed (r : Regs) (f : Flags) : (r.flag f).batchUsed = r.batchUsed := rfl
@[simp] theorem Regs.flag_handler (r : Regs) (f : Flags) : (r.flag f).handler = r.handler := rfl
@[simp] theorem Regs.wrV_s (r : Regs) (i : Reg) (x : VData) (d : Side) : (r.wrV i x d).s = r.s := rfl
@[simp] theorem Regs.wrV_sp (r : Regs) (i : Reg) (x : VData) (d : Side) : (r.wrV i x d).sp = r.sp := rfl
@[simp] theorem Regs.wrV_g (r : Regs) (i : Reg) (x : VData) (d : Side) : (r.wrV i x d).g = r.g := rfl
@[simp] theorem Regs.wrV_m (r : Regs) (i : Reg) (x : VData) (d : Side) : (r.wrV i x d).m = r.m := rfl
@[simp] theorem Regs.wrV_pc (r : Regs) (i : Reg) (x : VData) (d : Side) : (r.wrV i x d).pc = r.pc := rfl
@[simp] theorem Regs.wrV_astat (r : Regs) (i : Reg) (x : VData) (d : Side) : (r.wrV i x d).astat = r.astat := rfl
@[simp] theorem Regs.wrV_openBatch (r : Regs) (i : Reg) (x : VData) (d : Side) : (r.wrV i x d).openBatch = r.openBatch := rfl
@[simp] theorem Regs.wrV_batchUsed (r : Regs) (i : Reg) (x : VData) (d : Side) : (r.wrV i x d).batchUsed = r.batchUsed := rfl
@[simp] theorem Regs.wrV_handler (r : Regs) (i : Reg) (x : VData) (d : Side) : (r.wrV i x d).handler = r.handler := rfl
@[simp] theorem Regs.wrS_v (r : Regs) (i : Reg) (x : Word) (p : Bool) : (r.wrS i x p).v = r.v := by unfold Regs.wrS; split <;> rfl
@[simp] theorem Regs.wrS_side (r : Regs) (i : Reg) (x : Word) (p : Bool) : (r.wrS i x p).side = r.side := by unfold Regs.wrS; split <;> rfl
@[simp] theorem Regs.wrS_g (r : Regs) (i : Reg) (x : Word) (p : Bool) : (r.wrS i x p).g = r.g := by unfold Regs.wrS; split <;> rfl
@[simp] theorem Regs.wrS_m (r : Regs) (i : Reg) (x : Word) (p : Bool) : (r.wrS i x p).m = r.m := by unfold Regs.wrS; split <;> rfl
@[simp] theorem Regs.wrS_pc (r : Regs) (i : Reg) (x : Word) (p : Bool) : (r.wrS i x p).pc = r.pc := by unfold Regs.wrS; split <;> rfl
@[simp] theorem Regs.wrS_astat (r : Regs) (i : Reg) (x : Word) (p : Bool) : (r.wrS i x p).astat = r.astat := by unfold Regs.wrS; split <;> rfl
@[simp] theorem Regs.wrS_openBatch (r : Regs) (i : Reg) (x : Word) (p : Bool) : (r.wrS i x p).openBatch = r.openBatch := by unfold Regs.wrS; split <;> rfl
@[simp] theorem Regs.wrS_batchUsed (r : Regs) (i : Reg) (x : Word) (p : Bool) : (r.wrS i x p).batchUsed = r.batchUsed := by unfold Regs.wrS; split <;> rfl
@[simp] theorem Regs.wrS_handler (r : Regs) (i : Reg) (x : Word) (p : Bool) : (r.wrS i x p).handler = r.handler := by unfold Regs.wrS; split <;> rfl
@[simp] theorem Regs.wrG_s (r : Regs) (i : BitVec 3) (b : Bool) : (r.wrG i b).s = r.s := by unfold Regs.wrG; split <;> rfl
@[simp] theorem Regs.wrG_sp (r : Regs) (i : BitVec 3) (b : Bool) : (r.wrG i b).sp = r.sp := by unfold Regs.wrG; split <;> rfl
@[simp] theorem Regs.wrG_v (r : Regs) (i : BitVec 3) (b : Bool) : (r.wrG i b).v = r.v := by unfold Regs.wrG; split <;> rfl
@[simp] theorem Regs.wrG_side (r : Regs) (i : BitVec 3) (b : Bool) : (r.wrG i b).side = r.side := by unfold Regs.wrG; split <;> rfl
@[simp] theorem Regs.wrG_m (r : Regs) (i : BitVec 3) (b : Bool) : (r.wrG i b).m = r.m := by unfold Regs.wrG; split <;> rfl
@[simp] theorem Regs.wrG_pc (r : Regs) (i : BitVec 3) (b : Bool) : (r.wrG i b).pc = r.pc := by unfold Regs.wrG; split <;> rfl
@[simp] theorem Regs.wrG_astat (r : Regs) (i : BitVec 3) (b : Bool) : (r.wrG i b).astat = r.astat := by unfold Regs.wrG; split <;> rfl
@[simp] theorem Regs.wrG_openBatch (r : Regs) (i : BitVec 3) (b : Bool) : (r.wrG i b).openBatch = r.openBatch := by unfold Regs.wrG; split <;> rfl
@[simp] theorem Regs.wrG_batchUsed (r : Regs) (i : BitVec 3) (b : Bool) : (r.wrG i b).batchUsed = r.batchUsed := by unfold Regs.wrG; split <;> rfl
@[simp] theorem Regs.wrG_handler (r : Regs) (i : BitVec 3) (b : Bool) : (r.wrG i b).handler = r.handler := by unfold Regs.wrG; split <;> rfl
@[simp] theorem Regs.wrM_s (r : Regs) (i : BitVec 3) (x : Word) : (r.wrM i x).s = r.s := by unfold Regs.wrM; split <;> rfl
@[simp] theorem Regs.wrM_sp (r : Regs) (i : BitVec 3) (x : Word) : (r.wrM i x).sp = r.sp := by unfold Regs.wrM; split <;> rfl
@[simp] theorem Regs.wrM_v (r : Regs) (i : BitVec 3) (x : Word) : (r.wrM i x).v = r.v := by unfold Regs.wrM; split <;> rfl
@[simp] theorem Regs.wrM_side (r : Regs) (i : BitVec 3) (x : Word) : (r.wrM i x).side = r.side := by unfold Regs.wrM; split <;> rfl
@[simp] theorem Regs.wrM_g (r : Regs) (i : BitVec 3) (x : Word) : (r.wrM i x).g = r.g := by unfold Regs.wrM; split <;> rfl
@[simp] theorem Regs.wrM_pc (r : Regs) (i : BitVec 3) (x : Word) : (r.wrM i x).pc = r.pc := by unfold Regs.wrM; split <;> rfl
@[simp] theorem Regs.wrM_astat (r : Regs) (i : BitVec 3) (x : Word) : (r.wrM i x).astat = r.astat := by unfold Regs.wrM; split <;> rfl
@[simp] theorem Regs.wrM_openBatch (r : Regs) (i : BitVec 3) (x : Word) : (r.wrM i x).openBatch = r.openBatch := by unfold Regs.wrM; split <;> rfl
@[simp] theorem Regs.wrM_batchUsed (r : Regs) (i : BitVec 3) (x : Word) : (r.wrM i x).batchUsed = r.batchUsed := by unfold Regs.wrM; split <;> rfl
@[simp] theorem Regs.wrM_handler (r : Regs) (i : BitVec 3) (x : Word) : (r.wrM i x).handler = r.handler := by unfold Regs.wrM; split <;> rfl
@[simp] theorem Regs.setGuards_s (r : Regs) (gd : GDst) (b : Bool) : (r.setGuards gd b).s = r.s := by simp [Regs.setGuards]
@[simp] theorem Regs.setGuards_sp (r : Regs) (gd : GDst) (b : Bool) : (r.setGuards gd b).sp = r.sp := by simp [Regs.setGuards]
@[simp] theorem Regs.setGuards_v (r : Regs) (gd : GDst) (b : Bool) : (r.setGuards gd b).v = r.v := by simp [Regs.setGuards]
@[simp] theorem Regs.setGuards_side (r : Regs) (gd : GDst) (b : Bool) : (r.setGuards gd b).side = r.side := by simp [Regs.setGuards]
@[simp] theorem Regs.setGuards_m (r : Regs) (gd : GDst) (b : Bool) : (r.setGuards gd b).m = r.m := by simp [Regs.setGuards]
@[simp] theorem Regs.setGuards_pc (r : Regs) (gd : GDst) (b : Bool) : (r.setGuards gd b).pc = r.pc := by simp [Regs.setGuards]
@[simp] theorem Regs.setGuards_astat (r : Regs) (gd : GDst) (b : Bool) : (r.setGuards gd b).astat = r.astat := by simp [Regs.setGuards]
@[simp] theorem Regs.setGuards_openBatch (r : Regs) (gd : GDst) (b : Bool) : (r.setGuards gd b).openBatch = r.openBatch := by simp [Regs.setGuards]
@[simp] theorem Regs.setGuards_batchUsed (r : Regs) (gd : GDst) (b : Bool) : (r.setGuards gd b).batchUsed = r.batchUsed := by simp [Regs.setGuards]
@[simp] theorem Regs.setGuards_handler (r : Regs) (gd : GDst) (b : Bool) : (r.setGuards gd b).handler = r.handler := by simp [Regs.setGuards]

@[simp] theorem Regs.rdS_zero (r : Regs) : r.rdS 0#5 = 0 := rfl

@[simp] theorem Regs.psn_zero (r : Regs) : r.psn 0#5 = false := rfl

@[simp] theorem Regs.rdG_zero (r : Regs) : r.rdG 0#3 = true := rfl

@[simp] theorem Regs.rdM_zero (r : Regs) : r.rdM 0#3 = BitVec.allOnes 64 := rfl

@[simp] theorem Regs.wrS_zero (r : Regs) (x : Word) (p : Bool) : r.wrS 0#5 x p = r := rfl

theorem Regs.rdS_wrS (r : Regs) (i j : Reg) (x : Word) (p : Bool) :
    (r.wrS i x p).rdS j = if j = 0#5 then 0 else if j = i then x else r.rdS j := by
  unfold Regs.wrS Regs.rdS
  by_cases hj : j = 0#5
  · simp [hj]
  · by_cases hi : i = 0#5
    · simp [hi, hj]
    · by_cases hij : j = i
      · subst hij
        simp [hj]
      · have hn : i.toNat ≠ j.toNat := fun e => hij (BitVec.eq_of_toNat_eq e.symm)
        simp [hi, hj, hij, Vector.getElem_set_ne, hn]

@[simp] theorem Regs.rdS_adv (r : Regs) (i : Reg) : r.adv.rdS i = r.rdS i := rfl

@[simp] theorem Regs.rdS_flag (r : Regs) (f : Flags) (i : Reg) : (r.flag f).rdS i = r.rdS i := rfl

@[simp] theorem Regs.flag_zero (r : Regs) : r.flag 0#7 = r := by simp [Regs.flag]

theorem getLsbD_setBit {n : Nat} (x : BitVec n) (i j : Nat) (b : Bool) (hi : i < n) :
    (setBit x i b).getLsbD j = if j = i then b else x.getLsbD j := by
  unfold setBit
  by_cases h : j = i
  · subst h
    cases b <;> simp [hi]
  · have h' : ¬ i = j := fun e => h e.symm
    by_cases hj : j < n
    · cases b <;> simp [h, h', hj]
    · cases b <;> simp [h, BitVec.getLsbD_of_ge _ _ (Nat.le_of_not_lt hj)]

theorem Regs.psn_wrS (r : Regs) (i j : Reg) (x : Word) (p : Bool) :
    (r.wrS i x p).psn j = if j = 0#5 then false else if j = i then p else r.psn j := by
  unfold Regs.wrS Regs.psn
  split
  · rename_i h
    subst h
    by_cases hj : j = 0#5 <;> simp [hj]
  · by_cases hj : j = 0#5
    · simp [hj]
    · simp only [getLsbD_setBit _ _ _ _ i.isLt]
      by_cases hij : j = i
      · subst hij; simp [hj]
      · have hn : ¬ j.toNat = i.toNat := fun e => hij (BitVec.eq_of_toNat_eq e)
        simp [hj, hij, hn]

end Sys2Proof.Machine
end

