-- ==== Sys2Proof/Laws/Issue.lean ====
section
/-! SUPPORT. What issuing an instruction can do (R75, R94, R211): it passes when false-guarded, has its effect, or takes its trap. -/
namespace Sys2Proof.Machine

variable {p : Pred} {s t : State} {f : Core → Except Trap Core} {g : State → Except Trap State} {c : Core} {x : Trap} {ks : List (BitVec 2)}

/-! ### Instructions whose effect lies in their core -/

theorem issue_skip (h : s.core.regs.guard p = false) : issue p f s = .next (s.setCore s.core.adv) := by
  unfold issue; rw [h]; rfl

theorem issue_ok (h : s.core.regs.guard p = true) (hf : f s.core = .ok c) : issue p f s = .next (s.setCore c) := by
  unfold issue; rw [h, hf]; rfl

theorem issue_trap (h : s.core.regs.guard p = true) (hf : f s.core = .error x) : issue p f s = .next (s.take x) := by
  unfold issue; rw [h, hf]; rfl

/-- The three ways an instruction of this kind can go; it always answers a next state. -/
theorem issue_cases (p : Pred) (f : Core → Except Trap Core) (s : State) :
    (s.core.regs.guard p = false ∧ issue p f s = .next (s.setCore s.core.adv)) ∨
    (∃ c, s.core.regs.guard p = true ∧ f s.core = .ok c ∧ issue p f s = .next (s.setCore c)) ∨
    (∃ x, s.core.regs.guard p = true ∧ f s.core = .error x ∧ issue p f s = .next (s.take x)) := by
  cases h : s.core.regs.guard p
  · exact Or.inl ⟨rfl, issue_skip h⟩
  · cases hf : f s.core with
    | ok c => exact Or.inr (Or.inl ⟨c, rfl, rfl, issue_ok h hf⟩)
    | error x => exact Or.inr (Or.inr ⟨x, rfl, rfl, issue_trap h hf⟩)

/-- A trap in a core from which no tile migrates changes that core only. -/
theorem take_eq (x : Trap) (h : (s.quernAt (quernOf s.cur)).sends (isRunner s.cur) = false) :
    s.take x = s.setCore (s.core.takeTrap x s.core.fetchWord) := by
  unfold State.take State.takeAt State.migrateFrom; rw [h]; rfl

/-- Nothing but the core in focus changes, unless the instruction traps. -/
theorem issue_frame (h : issue p f s = .next t) : t = s.setCore t.core ∨ ∃ x, t = s.take x := by
  rcases issue_cases p f s with ⟨_, e⟩ | ⟨c, _, _, e⟩ | ⟨x, _, _, e⟩ <;> rw [e] at h <;> cases h
  · exact Or.inl (by simp)
  · exact Or.inl (by simp)
  · exact Or.inr ⟨x, rfl⟩

/-! ### Instructions whose effect reaches beyond their core -/

theorem issueS_skip (h : s.core.regs.guard p = false) : issueS p g s = .next (s.setCore s.core.adv) := by
  unfold issueS; rw [h]; rfl

theorem issueS_ok (h : s.core.regs.guard p = true) (hg : g s = .ok t) : issueS p g s = .next t := by
  unfold issueS; rw [h, hg]; rfl

theorem issueS_trap (h : s.core.regs.guard p = true) (hg : g s = .error x) : issueS p g s = .next (s.take x) := by
  unfold issueS; rw [h, hg]; rfl

/-- The three ways an instruction of this kind can go; it always answers a next state. -/
theorem issueS_cases (p : Pred) (g : State → Except Trap State) (s : State) :
    (s.core.regs.guard p = false ∧ issueS p g s = .next (s.setCore s.core.adv)) ∨
    (∃ t, s.core.regs.guard p = true ∧ g s = .ok t ∧ issueS p g s = .next t) ∨
    (∃ x, s.core.regs.guard p = true ∧ g s = .error x ∧ issueS p g s = .next (s.take x)) := by
  cases h : s.core.regs.guard p
  · exact Or.inl ⟨rfl, issueS_skip h⟩
  · cases hg : g s with
    | ok t => exact Or.inr (Or.inl ⟨t, rfl, rfl, issueS_ok h hg⟩)
    | error x => exact Or.inr (Or.inr ⟨x, rfl, rfl, issueS_trap h hg⟩)

/-! ### Instructions that name accumulators -/

theorem issueA_skip (h : s.core.regs.guard p = false) : issueA p ks f s = .next (s.setCore s.core.adv) := issueS_skip h

theorem issueA_ok (h : s.core.regs.guard p = true) (hf : f (s.accReady ks).core = .ok c) :
    issueA p ks f s = .next ((s.accReady ks).setCore c) :=
  issueS_ok h (by simp only [hf])

theorem issueA_trap (h : s.core.regs.guard p = true) (hf : f (s.accReady ks).core = .error x) : issueA p ks f s = .next (s.take x) :=
  issueS_trap h (by simp only [hf])

end Sys2Proof.Machine
end

