-- ==== Sys2Proof/Laws/Scalar.lean ====
section
/-! SUPPORT. The shapes of scalar instructions, and their arithmetic as the rules of the specification say it (R98 to R107). -/
namespace Sys2Proof.Machine
open Sys2Proof.Laws

theorem sra_eq (a : Word) (n : Nat) : a.sshiftRight n = BitVec.ofInt 64 (a.toInt / 2 ^ n) := by
  apply BitVec.eq_of_toInt_eq
  rw [BitVec.toInt_sshiftRight, BitVec.toInt_ofInt, Int.shiftRight_eq_div_pow]
  have h1 := BitVec.toInt_lt (x := a); have h2 := BitVec.le_toInt (x := a)
  have hp : (1:Int) ≤ 2 ^ n := Int.pow_pos (by omega)
  have hl : -(2:Int)^63 ≤ a.toInt / 2 ^ n := by
    rw [Int.le_ediv_iff_mul_le (by omega)]
    have : (2:Int)^63 * 1 ≤ 2^63 * 2^n := Int.mul_le_mul_of_nonneg_left hp (by decide)
    simp only [Nat.reduceSub] at h2
    rw [Int.neg_mul]; omega
  have hu : a.toInt / 2 ^ n < (2:Int)^63 := by
    rw [Int.ediv_lt_iff_lt_mul (by omega)]
    have : (2:Int)^63 * 1 ≤ 2^63 * 2^n := Int.mul_le_mul_of_nonneg_left hp (by decide)
    simp only [Nat.reduceSub] at h1
    omega
  push_cast
  rw [Int.bmod_eq_of_le]
  · generalize a.toInt / 2 ^ n = x at *
    omega
  · generalize a.toInt / 2 ^ n = x at *
    omega

theorem addi_eq (a : Word) (im : BitVec 32) : a + sext32 im = BitVec.ofInt 64 (a.toInt + im.toInt) := by
  apply BitVec.eq_of_toInt_eq
  rw [sext32, BitVec.toInt_add, BitVec.toInt_ofInt, BitVec.toInt_signExtend_of_le (by omega)]

theorem clean_cons {s : State} {i : Reg} {is : List Reg} : s.clean (i :: is) ↔ s.core.regs.psn i = false ∧ s.clean is := by
  simp [State.clean, State.regs]

theorem clean_nil {s : State} : s.clean [] := by simp [State.clean]

theorem alu2_ok {p d a b f s} (h : s.executes p) (hc : s.clean [a, b]) :
    issue p (Core.alu2 d a b f) s = .next (s.putS d (f (s.regs.rdS a) (s.regs.rdS b))) := by
  simp only [clean_cons] at hc
  rw [issue_ok (c := s.core.setRegs (((s.regs.wrS d (f (s.regs.rdS a) (s.regs.rdS b)) false)).adv)) h ?_]
  · rfl
  · simp [Core.alu2, Regs.result, hc, State.regs]

theorem alu1_ok {p d a f s} (h : s.executes p) (hc : s.clean [a]) :
    issue p (Core.alu1 d a f) s = .next (s.putS d (f (s.regs.rdS a))) := by
  simp only [clean_cons] at hc
  rw [issue_ok (c := s.core.setRegs (((s.regs.wrS d (f (s.regs.rdS a)) false)).adv)) h ?_]
  · rfl
  · simp [Core.alu1, Regs.result, hc, State.regs]

theorem regRule {mk : Pred → Reg → Reg → Reg → Instr} {f g : Word → Word → Word} 
   (he : ∀ p d a b s, exec (mk p d a b) s = issue p (Core.alu2 d a b f) s) (hf : ∀ a b, f a b = g a b) : RegRule mk g := by
  intro p d a b s h hc
  rw [he, alu2_ok h hc, hf]

theorem immRule {n} {mk : Pred → Reg → Reg → BitVec n → Instr} {f g : Word → BitVec n → Word} 
   (he : ∀ p d a im s, exec (mk p d a im) s = issue p (Core.alu1 d a fun x => f x im) s) (hf : ∀ a b, f a b = g a b) : ImmRule mk g := by
  intro p d a im s h hc
  rw [he, alu1_ok h hc, hf]

theorem sc (b : Word) : shiftCount b = b.toNat % 64 := by simp [shiftCount]

theorem mulhn_eq (a b : Word) : mulHiU a b = (a.setWidth 128 * b.setWidth 128).extractLsb' 64 64 := by
  apply BitVec.eq_of_toNat_eq
  have h : a.toNat * b.toNat < 2^128 := by
    have := Nat.mul_lt_mul_of_lt_of_lt a.isLt b.isLt
    omega
  have ha := a.isLt
  have hb := b.isLt
  simp [mulHiU, BitVec.toNat_mul, Nat.shiftRight_eq_div_pow]
  have h' : a.toNat * b.toNat < 340282366920938463463374607431768211456 := h
  first
    | rw [Nat.mod_eq_of_lt h]
    | rw [Nat.mod_eq_of_lt h']

theorem div_eq (a b : Word) : divS a b = if b = 0 then 0xFFFFFFFFFFFFFFFF
    else if a.toInt = -2 ^ 63 ∧ b.toInt = -1 then a else BitVec.ofInt 64 (a.toInt.tdiv b.toInt) := by
  unfold divS
  split
  · rfl
  · split
    · rename_i h; apply BitVec.eq_of_toInt_eq; rw [h.1,h.2]; decide
    · rfl

theorem rem_eq (a b : Word) : remS a b = if b = 0 then a else if a.toInt = -2 ^ 63 ∧ b.toInt = -1 then 0
    else BitVec.ofInt 64 (a.toInt - b.toInt * a.toInt.tdiv b.toInt) := by
  unfold remS
  split
  · rfl
  · split
    · rename_i h; rw [h.1,h.2]; decide
    · rw [Int.tmod_def]

theorem clzGo_spec (a : Word) : ∀ n ≤ 64, clzGo a n ≤ n ∧ (∀ j, n - clzGo a n ≤ j → j < n → a.getLsbD j = false) ∧ (clzGo a n < n → a.getLsbD (n - 1 - clzGo a n) = true) := by
  intro n
  induction n with
  | zero => simp [clzGo]
  | succ n ih =>
    intro h
    obtain ⟨h1, h2, h3⟩ := ih (by omega)
    unfold clzGo
    split
    · rename_i hb; refine ⟨by omega, fun j => by omega, fun _ => by simpa using hb⟩
    · rename_i hb
      refine ⟨by omega, fun j hj hj2 => ?_, fun hh => ?_⟩
      · by_cases e : j = n
        · subst e; simpa using hb
        · exact h2 j (by omega) (by omega)
      · have := h3 (by omega); rw [show n + 1 - 1 - (clzGo a n + 1) = n - 1 - clzGo a n by omega]; exact this

theorem ctzGo_spec (a : Word) : ∀ n ≤ 64, ctzGo a n ≤ n ∧ (∀ j, j < ctzGo a n → a.getLsbD (64 - n + j) = false) ∧ (ctzGo a n < n → a.getLsbD (64 - n + ctzGo a n) = true) := by
  intro n
  induction n with
  | zero => simp [ctzGo]
  | succ n ih =>
    intro h
    obtain ⟨h1, h2, h3⟩ := ih (by omega)
    unfold ctzGo
    split
    · rename_i hb; refine ⟨by omega, fun j => by omega, fun _ => by rw [← hb]; congr 1; omega⟩
    · rename_i hb
      refine ⟨by omega, fun j hj => ?_, fun hh => ?_⟩
      · cases j with
        | zero => rw [show 64 - (n+1) + 0 = 63 - n by omega]; simpa using hb
        | succ j => rw [← h2 j (by omega)]; congr 1; omega
      · rw [← h3 (by omega)]; congr 1; omega

theorem popGo_spec (a : Word) : ∀ n, popGo a n = (List.range n).countP fun j => a.getLsbD j := by
  intro n
  induction n with
  | zero => rfl
  | succ n ih => rw [popGo, List.range_succ, List.countP_append, ih]; simp [List.countP_cons]; omega

theorem popGo_le (a : Word) (n) : popGo a n ≤ n := by
  rw [popGo_spec]; exact Nat.le_trans List.countP_le_length (by simp)

theorem unRel {mk : Pred → Reg → Reg → Instr} {f : Word → Word} {P} 
   (he : ∀ p d a s, exec (mk p d a) s = issue p (Core.alu1 d a f) s) (hf : ∀ a, P a (f a)) : UnRel mk P := by
  intro p d a s h hc
  exact ⟨_, hf _, by rw [he, alu1_ok h hc]⟩

theorem regRel {mk : Pred → Reg → Reg → Reg → Instr} {f : Word → Word → Word} {P}
   (he : ∀ p d a b s, exec (mk p d a b) s = issue p (Core.alu2 d a b f) s) (hf : ∀ a b, P a b (f a b)) : RegRel mk P := by
  intro p d a b s h hc
  exact ⟨_, hf _ _, by rw [he, alu2_ok h hc]⟩

theorem fp (b : Word) : fieldPos b = b.toNat % 64 := by simp [fieldPos]

theorem fw (b : Word) : fieldWidth b = b.toNat / 2^8 % 2^7 := by simp [fieldWidth, Nat.shiftRight_eq_div_pow]

theorem copyS_eq {p d x q s} (h : s.executes p) : issue p (Core.copyS d x q) s = .next (if q then s.putPoison d x else s.putS d x) := by
  rw [issue_ok (c := s.core.setRegs (((s.core.regs.wrS d x q).flag (psnFlag q)).adv)) h rfl]
  cases q <;> simp [psnFlag, State.putPoison, State.putS, State.withRegs, State.regs]


end Sys2Proof.Machine
end

