-- ==== Sys2Proof/Laws/Control.lean ====
section
/-! SUPPORT. Control transfers and control registers (R115, R118, R119). -/
namespace Sys2Proof.Machine
open Sys2Proof.Laws

theorem jumpTo_iff (c : Core) (t : Int) : c.jumpTo t = if goodTarget t then .ok (c.modRegs fun r => { r with pc := BitVec.ofInt 20 t }) else .error ⟨.badaddr, infoAddr t⟩ := rfl

theorem good_iff (t : Int) : goodTarget t = true ↔ legalTarget t := by simp [goodTarget, legalTarget, and_assoc]

theorem transfers_of {i p s t c} (h : s.executes p) (he : exec i s = issue p (fun c => c.transfer t false) s) (hc : c = s.jump t) : Transfers i s t c := by
  subst hc
  constructor
  · intro hl
    rw [he]; refine (issue_ok (c := s.core.modRegs fun r => { r with pc := BitVec.ofInt 20 t }) h ?_).trans rfl
    simp [Core.transfer, Core.jumpTo, (good_iff t).2 hl]
  · intro hl
    rw [he]; refine (issue_trap (x := ⟨.badaddr, infoAddr t⟩) h ?_).trans rfl
    have : goodTarget t = false := by cases e : goodTarget t; rfl; exact absurd ((good_iff t).1 e) hl
    simp [Core.transfer, Core.jumpTo, this]

theorem crRule_of {idx mask get put} (hs : ∀ s : State, s.crSync idx = s) (hg : ∀ s : State, s.crRead idx = get s.core) (hm : crRw idx = mask)
  (hput : ∀ (s : State) rw w, s.crStore idx rw w = s.setCore (put (s.core.journalCr idx (get s.core)) rw))
  : CrRule idx mask get put := by
  intro p d a s h hp hc v old c keep
  have hck : s.crCheck idx a = .ok () := by
    simp only [clean_cons] at hc
    unfold State.crCheck
    have : (crPriv idx && !s.core.prv) = false := by
      cases e : crPriv idx
      · rfl
      · simp [hp e]
    simp [this, psnUse, hc]
  refine ⟨?_, ?_, ?_⟩
  · rw [exec_crw]
    refine issueS_ok h ?_
    simp only [State.crw, hck, hs, hg, hm, hput, State.adv, State.core_setCore, State.setCore_setCore]
    rfl
  · rw [exec_crs]
    refine issueS_ok h ?_
    simp only [State.crMod, hck, hs, hg, hm, hput, State.adv, State.crInto, State.core_setCore, State.setCore_setCore]
    simp [Core.adv, Core.modRegs]; rfl
  · rw [exec_crc]
    refine issueS_ok h ?_
    simp only [State.crMod, hck, hs, hg, hm, hput, State.adv, State.crInto, State.core_setCore, State.setCore_setCore]
    simp [Core.adv, Core.modRegs]; rfl

end Sys2Proof.Machine
end

