-- ==== Sys2Proof/Laws/LocalMem.lean ====
section
/-! SUPPORT. What local-store operations leave alone and what they change (R94, R108 to R112), and the shapes of loads and stores. -/
namespace Sys2Proof.Machine
open Sys2Proof.Laws

@[simp] theorem Core.pmSnoop_ctxs (c : Core) (a n : Nat) : (c.pmSnoop a n).ctxs = c.ctxs := by unfold Core.pmSnoop; split <;> rfl

@[simp] theorem Core.pmSnoop_run (c : Core) (a n : Nat) : (c.pmSnoop a n).run = c.run := by unfold Core.pmSnoop; split <;> rfl

@[simp] theorem Core.pmSnoop_last (c : Core) (a n : Nat) : (c.pmSnoop a n).last = c.last := by unfold Core.pmSnoop; split <;> rfl

@[simp] theorem Core.pmSnoop_win (c : Core) (a n : Nat) : (c.pmSnoop a n).win = c.win := by unfold Core.pmSnoop; split <;> rfl

@[simp] theorem Core.pmSnoop_acc (c : Core) (a n : Nat) : (c.pmSnoop a n).acc = c.acc := by unfold Core.pmSnoop; split <;> rfl

@[simp] theorem Core.pmSnoop_mma (c : Core) (a n : Nat) : (c.pmSnoop a n).mma = c.mma := by unfold Core.pmSnoop; split <;> rfl

@[simp] theorem Core.pmSnoop_latch (c : Core) (a n : Nat) : (c.pmSnoop a n).latch = c.latch := by unfold Core.pmSnoop; split <;> rfl

@[simp] theorem Core.pmSnoop_ctr (c : Core) (a n : Nat) : (c.pmSnoop a n).ctr = c.ctr := by unfold Core.pmSnoop; split <;> rfl

@[simp] theorem Core.pmSnoop_pos (c : Core) (a n : Nat) : (c.pmSnoop a n).pos = c.pos := by unfold Core.pmSnoop; split <;> rfl

@[simp] theorem Core.pmSnoop_grpid (c : Core) (a n : Nat) : (c.pmSnoop a n).grpid = c.grpid := by unfold Core.pmSnoop; split <;> rfl

@[simp] theorem Core.pmSnoop_name (c : Core) (a n : Nat) : (c.pmSnoop a n).name = c.name := by unfold Core.pmSnoop; split <;> rfl

@[simp] theorem Core.pmSnoop_relpos (c : Core) (a n : Nat) : (c.pmSnoop a n).relpos = c.relpos := by unfold Core.pmSnoop; split <;> rfl

@[simp] theorem Core.pmSnoop_trapvec (c : Core) (a n : Nat) : (c.pmSnoop a n).trapvec = c.trapvec := by unfold Core.pmSnoop; split <;> rfl

@[simp] theorem Core.pmSnoop_twc (c : Core) (a n : Nat) : (c.pmSnoop a n).twc = c.twc := by unfold Core.pmSnoop; split <;> rfl

@[simp] theorem Core.pmSnoop_islBnd (c : Core) (a n : Nat) : (c.pmSnoop a n).islBnd = c.islBnd := by unfold Core.pmSnoop; split <;> rfl

@[simp] theorem Core.pmSnoop_islIid (c : Core) (a n : Nat) : (c.pmSnoop a n).islIid = c.islIid := by unfold Core.pmSnoop; split <;> rfl

@[simp] theorem Core.pmSnoop_islPad (c : Core) (a n : Nat) : (c.pmSnoop a n).islPad = c.islPad := by unfold Core.pmSnoop; split <;> rfl

@[simp] theorem Core.pmSnoop_scnt (c : Core) (a n : Nat) : (c.pmSnoop a n).scnt = c.scnt := by unfold Core.pmSnoop; split <;> rfl

@[simp] theorem Core.pmSnoop_pmMiss (c : Core) (a n : Nat) : (c.pmSnoop a n).pmMiss = c.pmMiss := by unfold Core.pmSnoop; split <;> rfl

@[simp] theorem Core.pmSnoop_cycle (c : Core) (a n : Nat) : (c.pmSnoop a n).cycle = c.cycle := by unfold Core.pmSnoop; split <;> rfl

@[simp] theorem Core.pmSnoop_wdogLim (c : Core) (a n : Nat) : (c.pmSnoop a n).wdogLim = c.wdogLim := by unfold Core.pmSnoop; split <;> rfl

@[simp] theorem Core.pmSnoop_ls (c : Core) (a n : Nat) : (c.pmSnoop a n).ls = c.ls := by unfold Core.pmSnoop; split <;> rfl

@[simp] theorem Core.pmSnoop_marks (c : Core) (a n : Nat) : (c.pmSnoop a n).marks = c.marks := by unfold Core.pmSnoop; split <;> rfl

@[simp] theorem Core.pmSnoop_slots (c : Core) (a n : Nat) : (c.pmSnoop a n).slots = c.slots := by unfold Core.pmSnoop; split <;> rfl

@[simp] theorem Core.pmSnoop_nextTkt (c : Core) (a n : Nat) : (c.pmSnoop a n).nextTkt = c.nextTkt := by unfold Core.pmSnoop; split <;> rfl

@[simp] theorem Core.pmSnoop_ops (c : Core) (a n : Nat) : (c.pmSnoop a n).ops = c.ops := by unfold Core.pmSnoop; split <;> rfl

@[simp] theorem Core.pmSnoop_nextOp (c : Core) (a n : Nat) : (c.pmSnoop a n).nextOp = c.nextOp := by unfold Core.pmSnoop; split <;> rfl

@[simp] theorem Core.pmSnoop_holdTail (c : Core) (a n : Nat) : (c.pmSnoop a n).holdTail = c.holdTail := by unfold Core.pmSnoop; split <;> rfl

@[simp] theorem Core.pmSnoop_streams (c : Core) (a n : Nat) : (c.pmSnoop a n).streams = c.streams := by unfold Core.pmSnoop; split <;> rfl

@[simp] theorem Core.pmSnoop_nextStream (c : Core) (a n : Nat) : (c.pmSnoop a n).nextStream = c.nextStream := by unfold Core.pmSnoop; split <;> rfl

@[simp] theorem Core.pmSnoop_pend (c : Core) (a n : Nat) : (c.pmSnoop a n).pend = c.pend := by unfold Core.pmSnoop; split <;> rfl

@[simp] theorem Core.pmSnoop_tokens (c : Core) (a n : Nat) : (c.pmSnoop a n).tokens = c.tokens := by unfold Core.pmSnoop; split <;> rfl

@[simp] theorem Core.pmSnoop_retained (c : Core) (a n : Nat) : (c.pmSnoop a n).retained = c.retained := by unfold Core.pmSnoop; split <;> rfl

@[simp] theorem Core.pmSnoop_trees (c : Core) (a n : Nat) : (c.pmSnoop a n).trees = c.trees := by unfold Core.pmSnoop; split <;> rfl

@[simp] theorem Core.pmSnoop_landing (c : Core) (a n : Nat) : (c.pmSnoop a n).landing = c.landing := by unfold Core.pmSnoop; split <;> rfl

@[simp] theorem Core.pmSnoop_clean (c : Core) (a n : Nat) : (c.pmSnoop a n).clean = c.clean := by unfold Core.pmSnoop; split <;> rfl

@[simp] theorem Core.pmSnoop_imgLen (c : Core) (a n : Nat) : (c.pmSnoop a n).imgLen = c.imgLen := by unfold Core.pmSnoop; split <;> rfl

@[simp] theorem Core.pmSnoop_free (c : Core) (a n : Nat) : (c.pmSnoop a n).free = c.free := by unfold Core.pmSnoop; split <;> rfl

@[simp] theorem Core.pmSnoop_seq (c : Core) (a n : Nat) : (c.pmSnoop a n).seq = c.seq := by unfold Core.pmSnoop; split <;> rfl

@[simp] theorem Core.pmSnoop_routes (c : Core) (a n : Nat) : (c.pmSnoop a n).routes = c.routes := by unfold Core.pmSnoop; split <;> rfl

@[simp] theorem Core.pmSnoop_beside (c : Core) (a n : Nat) : (c.pmSnoop a n).beside = c.beside := by unfold Core.pmSnoop; split <;> rfl
@[simp] theorem Core.pmSnoop_late (c : Core) (a n : Nat) : (c.pmSnoop a n).late = c.late := by unfold Core.pmSnoop; split <;> rfl

@[simp] theorem Core.pmSnoop_served (c : Core) (a n : Nat) : (c.pmSnoop a n).served = c.served := by unfold Core.pmSnoop; split <;> rfl

@[simp] theorem Core.pmSnoop_readyAt (c : Core) (a n : Nat) : (c.pmSnoop a n).readyAt = c.readyAt := by unfold Core.pmSnoop; split <;> rfl

@[simp] theorem Core.pmSnoop_remFails (c : Core) (a n : Nat) : (c.pmSnoop a n).remFails = c.remFails := by unfold Core.pmSnoop; split <;> rfl

@[simp] theorem Core.pmSnoop_strFails (c : Core) (a n : Nat) : (c.pmSnoop a n).strFails = c.strFails := by unfold Core.pmSnoop; split <;> rfl

@[simp] theorem Core.pmSnoop_reports (c : Core) (a n : Nat) : (c.pmSnoop a n).reports = c.reports := by unfold Core.pmSnoop; split <;> rfl

@[simp] theorem Core.pmSnoop_issueAt (c : Core) (a n : Nat) : (c.pmSnoop a n).issueAt = c.issueAt := by unfold Core.pmSnoop; split <;> rfl

@[simp] theorem Core.pmSnoop_sent (c : Core) (a n : Nat) : (c.pmSnoop a n).sent = c.sent := by unfold Core.pmSnoop; split <;> rfl

@[simp] theorem Core.pmSnoop_accepted (c : Core) (a n : Nat) : (c.pmSnoop a n).accepted = c.accepted := by unfold Core.pmSnoop; split <;> rfl

@[simp] theorem Core.pmSnoop_ueHours (c : Core) (a n : Nat) : (c.pmSnoop a n).ueHours = c.ueHours := by unfold Core.pmSnoop; split <;> rfl

@[simp] theorem Core.pmSnoop_droop (c : Core) (a n : Nat) : (c.pmSnoop a n).droop = c.droop := by unfold Core.pmSnoop; split <;> rfl

@[simp] theorem Core.pmSnoop_sync (c : Core) (a n : Nat) : (c.pmSnoop a n).sync = c.sync := by unfold Core.pmSnoop; split <;> rfl

@[simp] theorem Core.pmSnoop_stalled (c : Core) (a n : Nat) : (c.pmSnoop a n).stalled = c.stalled := by unfold Core.pmSnoop; split <;> rfl

@[simp] theorem Core.pmSnoop_frozen (c : Core) (a n : Nat) : (c.pmSnoop a n).frozen = c.frozen := by unfold Core.pmSnoop; split <;> rfl

@[simp] theorem Core.pmSnoop_retiring (c : Core) (a n : Nat) : (c.pmSnoop a n).retiring = c.retiring := by unfold Core.pmSnoop; split <;> rfl

@[simp] theorem Core.pmSnoop_stopping (c : Core) (a n : Nat) : (c.pmSnoop a n).stopping = c.stopping := by unfold Core.pmSnoop; split <;> rfl

@[simp] theorem Core.pmSnoop_captured (c : Core) (a n : Nat) : (c.pmSnoop a n).captured = c.captured := by unfold Core.pmSnoop; split <;> rfl

@[simp] theorem Core.wrBytes_ctxs (c : Core) (a : Nat) (bs : List Byte) : (c.wrBytes a bs).ctxs = c.ctxs := by simp [Core.wrBytes]

@[simp] theorem Core.wrBytes_run (c : Core) (a : Nat) (bs : List Byte) : (c.wrBytes a bs).run = c.run := by simp [Core.wrBytes]

@[simp] theorem Core.wrBytes_last (c : Core) (a : Nat) (bs : List Byte) : (c.wrBytes a bs).last = c.last := by simp [Core.wrBytes]

@[simp] theorem Core.wrBytes_win (c : Core) (a : Nat) (bs : List Byte) : (c.wrBytes a bs).win = c.win := by simp [Core.wrBytes]

@[simp] theorem Core.wrBytes_acc (c : Core) (a : Nat) (bs : List Byte) : (c.wrBytes a bs).acc = c.acc := by simp [Core.wrBytes]

@[simp] theorem Core.wrBytes_mma (c : Core) (a : Nat) (bs : List Byte) : (c.wrBytes a bs).mma = c.mma := by simp [Core.wrBytes]

@[simp] theorem Core.wrBytes_latch (c : Core) (a : Nat) (bs : List Byte) : (c.wrBytes a bs).latch = c.latch := by simp [Core.wrBytes]

@[simp] theorem Core.wrBytes_ctr (c : Core) (a : Nat) (bs : List Byte) : (c.wrBytes a bs).ctr = c.ctr := by simp [Core.wrBytes]

@[simp] theorem Core.wrBytes_pos (c : Core) (a : Nat) (bs : List Byte) : (c.wrBytes a bs).pos = c.pos := by simp [Core.wrBytes]

@[simp] theorem Core.wrBytes_grpid (c : Core) (a : Nat) (bs : List Byte) : (c.wrBytes a bs).grpid = c.grpid := by simp [Core.wrBytes]

@[simp] theorem Core.wrBytes_name (c : Core) (a : Nat) (bs : List Byte) : (c.wrBytes a bs).name = c.name := by simp [Core.wrBytes]

@[simp] theorem Core.wrBytes_relpos (c : Core) (a : Nat) (bs : List Byte) : (c.wrBytes a bs).relpos = c.relpos := by simp [Core.wrBytes]

@[simp] theorem Core.wrBytes_trapvec (c : Core) (a : Nat) (bs : List Byte) : (c.wrBytes a bs).trapvec = c.trapvec := by simp [Core.wrBytes]

@[simp] theorem Core.wrBytes_twc (c : Core) (a : Nat) (bs : List Byte) : (c.wrBytes a bs).twc = c.twc := by simp [Core.wrBytes]

@[simp] theorem Core.wrBytes_islBnd (c : Core) (a : Nat) (bs : List Byte) : (c.wrBytes a bs).islBnd = c.islBnd := by simp [Core.wrBytes]

@[simp] theorem Core.wrBytes_islIid (c : Core) (a : Nat) (bs : List Byte) : (c.wrBytes a bs).islIid = c.islIid := by simp [Core.wrBytes]

@[simp] theorem Core.wrBytes_islPad (c : Core) (a : Nat) (bs : List Byte) : (c.wrBytes a bs).islPad = c.islPad := by simp [Core.wrBytes]

@[simp] theorem Core.wrBytes_scnt (c : Core) (a : Nat) (bs : List Byte) : (c.wrBytes a bs).scnt = c.scnt := by simp [Core.wrBytes]

@[simp] theorem Core.wrBytes_pmMiss (c : Core) (a : Nat) (bs : List Byte) : (c.wrBytes a bs).pmMiss = c.pmMiss := by simp [Core.wrBytes]

@[simp] theorem Core.wrBytes_cycle (c : Core) (a : Nat) (bs : List Byte) : (c.wrBytes a bs).cycle = c.cycle := by simp [Core.wrBytes]

@[simp] theorem Core.wrBytes_wdogLim (c : Core) (a : Nat) (bs : List Byte) : (c.wrBytes a bs).wdogLim = c.wdogLim := by simp [Core.wrBytes]

@[simp] theorem Core.wrBytes_marks (c : Core) (a : Nat) (bs : List Byte) : (c.wrBytes a bs).marks = c.marks := by simp [Core.wrBytes]

@[simp] theorem Core.wrBytes_slots (c : Core) (a : Nat) (bs : List Byte) : (c.wrBytes a bs).slots = c.slots := by simp [Core.wrBytes]

@[simp] theorem Core.wrBytes_nextTkt (c : Core) (a : Nat) (bs : List Byte) : (c.wrBytes a bs).nextTkt = c.nextTkt := by simp [Core.wrBytes]

@[simp] theorem Core.wrBytes_ops (c : Core) (a : Nat) (bs : List Byte) : (c.wrBytes a bs).ops = c.ops := by simp [Core.wrBytes]

@[simp] theorem Core.wrBytes_nextOp (c : Core) (a : Nat) (bs : List Byte) : (c.wrBytes a bs).nextOp = c.nextOp := by simp [Core.wrBytes]

@[simp] theorem Core.wrBytes_holdTail (c : Core) (a : Nat) (bs : List Byte) : (c.wrBytes a bs).holdTail = c.holdTail := by simp [Core.wrBytes]

@[simp] theorem Core.wrBytes_streams (c : Core) (a : Nat) (bs : List Byte) : (c.wrBytes a bs).streams = c.streams := by simp [Core.wrBytes]

@[simp] theorem Core.wrBytes_nextStream (c : Core) (a : Nat) (bs : List Byte) : (c.wrBytes a bs).nextStream = c.nextStream := by simp [Core.wrBytes]

@[simp] theorem Core.wrBytes_pend (c : Core) (a : Nat) (bs : List Byte) : (c.wrBytes a bs).pend = c.pend := by simp [Core.wrBytes]

@[simp] theorem Core.wrBytes_tokens (c : Core) (a : Nat) (bs : List Byte) : (c.wrBytes a bs).tokens = c.tokens := by simp [Core.wrBytes]

@[simp] theorem Core.wrBytes_retained (c : Core) (a : Nat) (bs : List Byte) : (c.wrBytes a bs).retained = c.retained := by simp [Core.wrBytes]

@[simp] theorem Core.wrBytes_trees (c : Core) (a : Nat) (bs : List Byte) : (c.wrBytes a bs).trees = c.trees := by simp [Core.wrBytes]

@[simp] theorem Core.wrBytes_landing (c : Core) (a : Nat) (bs : List Byte) : (c.wrBytes a bs).landing = c.landing := by simp [Core.wrBytes]

@[simp] theorem Core.wrBytes_imgLen (c : Core) (a : Nat) (bs : List Byte) : (c.wrBytes a bs).imgLen = c.imgLen := by simp [Core.wrBytes]

@[simp] theorem Core.wrBytes_free (c : Core) (a : Nat) (bs : List Byte) : (c.wrBytes a bs).free = c.free := by simp [Core.wrBytes]

@[simp] theorem Core.wrBytes_seq (c : Core) (a : Nat) (bs : List Byte) : (c.wrBytes a bs).seq = c.seq := by simp [Core.wrBytes]

@[simp] theorem Core.wrBytes_routes (c : Core) (a : Nat) (bs : List Byte) : (c.wrBytes a bs).routes = c.routes := by simp [Core.wrBytes]

@[simp] theorem Core.wrBytes_beside (c : Core) (a : Nat) (bs : List Byte) : (c.wrBytes a bs).beside = c.beside := by simp [Core.wrBytes]
@[simp] theorem Core.wrBytes_late (c : Core) (a : Nat) (bs : List Byte) : (c.wrBytes a bs).late = c.late := by simp [Core.wrBytes]

@[simp] theorem Core.wrBytes_served (c : Core) (a : Nat) (bs : List Byte) : (c.wrBytes a bs).served = c.served := by simp [Core.wrBytes]

@[simp] theorem Core.wrBytes_readyAt (c : Core) (a : Nat) (bs : List Byte) : (c.wrBytes a bs).readyAt = c.readyAt := by simp [Core.wrBytes]

@[simp] theorem Core.wrBytes_remFails (c : Core) (a : Nat) (bs : List Byte) : (c.wrBytes a bs).remFails = c.remFails := by simp [Core.wrBytes]

@[simp] theorem Core.wrBytes_strFails (c : Core) (a : Nat) (bs : List Byte) : (c.wrBytes a bs).strFails = c.strFails := by simp [Core.wrBytes]

@[simp] theorem Core.wrBytes_reports (c : Core) (a : Nat) (bs : List Byte) : (c.wrBytes a bs).reports = c.reports := by simp [Core.wrBytes]

@[simp] theorem Core.wrBytes_issueAt (c : Core) (a : Nat) (bs : List Byte) : (c.wrBytes a bs).issueAt = c.issueAt := by simp [Core.wrBytes]

@[simp] theorem Core.wrBytes_sent (c : Core) (a : Nat) (bs : List Byte) : (c.wrBytes a bs).sent = c.sent := by simp [Core.wrBytes]

@[simp] theorem Core.wrBytes_accepted (c : Core) (a : Nat) (bs : List Byte) : (c.wrBytes a bs).accepted = c.accepted := by simp [Core.wrBytes]

@[simp] theorem Core.wrBytes_ueHours (c : Core) (a : Nat) (bs : List Byte) : (c.wrBytes a bs).ueHours = c.ueHours := by simp [Core.wrBytes]

@[simp] theorem Core.wrBytes_droop (c : Core) (a : Nat) (bs : List Byte) : (c.wrBytes a bs).droop = c.droop := by simp [Core.wrBytes]

@[simp] theorem Core.wrBytes_sync (c : Core) (a : Nat) (bs : List Byte) : (c.wrBytes a bs).sync = c.sync := by simp [Core.wrBytes]

@[simp] theorem Core.wrBytes_stalled (c : Core) (a : Nat) (bs : List Byte) : (c.wrBytes a bs).stalled = c.stalled := by simp [Core.wrBytes]

@[simp] theorem Core.wrBytes_frozen (c : Core) (a : Nat) (bs : List Byte) : (c.wrBytes a bs).frozen = c.frozen := by simp [Core.wrBytes]

@[simp] theorem Core.wrBytes_retiring (c : Core) (a : Nat) (bs : List Byte) : (c.wrBytes a bs).retiring = c.retiring := by simp [Core.wrBytes]

@[simp] theorem Core.wrBytes_stopping (c : Core) (a : Nat) (bs : List Byte) : (c.wrBytes a bs).stopping = c.stopping := by simp [Core.wrBytes]

@[simp] theorem Core.wrBytes_captured (c : Core) (a : Nat) (bs : List Byte) : (c.wrBytes a bs).captured = c.captured := by simp [Core.wrBytes]

@[simp] theorem Core.setMark_ctxs (c : Core) (w : Nat) (b : Bool) : (c.setMark w b).ctxs = c.ctxs := rfl

@[simp] theorem Core.setMark_run (c : Core) (w : Nat) (b : Bool) : (c.setMark w b).run = c.run := rfl

@[simp] theorem Core.setMark_last (c : Core) (w : Nat) (b : Bool) : (c.setMark w b).last = c.last := rfl

@[simp] theorem Core.setMark_win (c : Core) (w : Nat) (b : Bool) : (c.setMark w b).win = c.win := rfl

@[simp] theorem Core.setMark_acc (c : Core) (w : Nat) (b : Bool) : (c.setMark w b).acc = c.acc := rfl

@[simp] theorem Core.setMark_mma (c : Core) (w : Nat) (b : Bool) : (c.setMark w b).mma = c.mma := rfl

@[simp] theorem Core.setMark_latch (c : Core) (w : Nat) (b : Bool) : (c.setMark w b).latch = c.latch := rfl

@[simp] theorem Core.setMark_ctr (c : Core) (w : Nat) (b : Bool) : (c.setMark w b).ctr = c.ctr := rfl

@[simp] theorem Core.setMark_pos (c : Core) (w : Nat) (b : Bool) : (c.setMark w b).pos = c.pos := rfl

@[simp] theorem Core.setMark_grpid (c : Core) (w : Nat) (b : Bool) : (c.setMark w b).grpid = c.grpid := rfl

@[simp] theorem Core.setMark_name (c : Core) (w : Nat) (b : Bool) : (c.setMark w b).name = c.name := rfl

@[simp] theorem Core.setMark_relpos (c : Core) (w : Nat) (b : Bool) : (c.setMark w b).relpos = c.relpos := rfl

@[simp] theorem Core.setMark_trapvec (c : Core) (w : Nat) (b : Bool) : (c.setMark w b).trapvec = c.trapvec := rfl

@[simp] theorem Core.setMark_twc (c : Core) (w : Nat) (b : Bool) : (c.setMark w b).twc = c.twc := rfl

@[simp] theorem Core.setMark_islBnd (c : Core) (w : Nat) (b : Bool) : (c.setMark w b).islBnd = c.islBnd := rfl

@[simp] theorem Core.setMark_islIid (c : Core) (w : Nat) (b : Bool) : (c.setMark w b).islIid = c.islIid := rfl

@[simp] theorem Core.setMark_islPad (c : Core) (w : Nat) (b : Bool) : (c.setMark w b).islPad = c.islPad := rfl

@[simp] theorem Core.setMark_scnt (c : Core) (w : Nat) (b : Bool) : (c.setMark w b).scnt = c.scnt := rfl

@[simp] theorem Core.setMark_pmMiss (c : Core) (w : Nat) (b : Bool) : (c.setMark w b).pmMiss = c.pmMiss := rfl

@[simp] theorem Core.setMark_pmCache (c : Core) (w : Nat) (b : Bool) : (c.setMark w b).pmCache = c.pmCache := rfl

@[simp] theorem Core.setMark_cycle (c : Core) (w : Nat) (b : Bool) : (c.setMark w b).cycle = c.cycle := rfl

@[simp] theorem Core.setMark_wdogLim (c : Core) (w : Nat) (b : Bool) : (c.setMark w b).wdogLim = c.wdogLim := rfl

@[simp] theorem Core.setMark_ls (c : Core) (w : Nat) (b : Bool) : (c.setMark w b).ls = c.ls := rfl

@[simp] theorem Core.setMark_slots (c : Core) (w : Nat) (b : Bool) : (c.setMark w b).slots = c.slots := rfl

@[simp] theorem Core.setMark_nextTkt (c : Core) (w : Nat) (b : Bool) : (c.setMark w b).nextTkt = c.nextTkt := rfl

@[simp] theorem Core.setMark_ops (c : Core) (w : Nat) (b : Bool) : (c.setMark w b).ops = c.ops := rfl

@[simp] theorem Core.setMark_nextOp (c : Core) (w : Nat) (b : Bool) : (c.setMark w b).nextOp = c.nextOp := rfl

@[simp] theorem Core.setMark_holdTail (c : Core) (w : Nat) (b : Bool) : (c.setMark w b).holdTail = c.holdTail := rfl

@[simp] theorem Core.setMark_streams (c : Core) (w : Nat) (b : Bool) : (c.setMark w b).streams = c.streams := rfl

@[simp] theorem Core.setMark_nextStream (c : Core) (w : Nat) (b : Bool) : (c.setMark w b).nextStream = c.nextStream := rfl

@[simp] theorem Core.setMark_pend (c : Core) (w : Nat) (b : Bool) : (c.setMark w b).pend = c.pend := rfl

@[simp] theorem Core.setMark_tokens (c : Core) (w : Nat) (b : Bool) : (c.setMark w b).tokens = c.tokens := rfl

@[simp] theorem Core.setMark_retained (c : Core) (w : Nat) (b : Bool) : (c.setMark w b).retained = c.retained := rfl

@[simp] theorem Core.setMark_trees (c : Core) (w : Nat) (b : Bool) : (c.setMark w b).trees = c.trees := rfl

@[simp] theorem Core.setMark_landing (c : Core) (w : Nat) (b : Bool) : (c.setMark w b).landing = c.landing := rfl

@[simp] theorem Core.setMark_clean (c : Core) (w : Nat) (b : Bool) : (c.setMark w b).clean = c.clean := rfl

@[simp] theorem Core.setMark_imgLen (c : Core) (w : Nat) (b : Bool) : (c.setMark w b).imgLen = c.imgLen := rfl

@[simp] theorem Core.setMark_free (c : Core) (w : Nat) (b : Bool) : (c.setMark w b).free = c.free := rfl

@[simp] theorem Core.setMark_seq (c : Core) (w : Nat) (b : Bool) : (c.setMark w b).seq = c.seq := rfl

@[simp] theorem Core.setMark_routes (c : Core) (w : Nat) (b : Bool) : (c.setMark w b).routes = c.routes := rfl

@[simp] theorem Core.setMark_beside (c : Core) (w : Nat) (b : Bool) : (c.setMark w b).beside = c.beside := rfl
@[simp] theorem Core.setMark_late (c : Core) (w : Nat) (b : Bool) : (c.setMark w b).late = c.late := rfl

@[simp] theorem Core.setMark_served (c : Core) (w : Nat) (b : Bool) : (c.setMark w b).served = c.served := rfl

@[simp] theorem Core.setMark_readyAt (c : Core) (w : Nat) (b : Bool) : (c.setMark w b).readyAt = c.readyAt := rfl

@[simp] theorem Core.setMark_remFails (c : Core) (w : Nat) (b : Bool) : (c.setMark w b).remFails = c.remFails := rfl

@[simp] theorem Core.setMark_strFails (c : Core) (w : Nat) (b : Bool) : (c.setMark w b).strFails = c.strFails := rfl

@[simp] theorem Core.setMark_reports (c : Core) (w : Nat) (b : Bool) : (c.setMark w b).reports = c.reports := rfl

@[simp] theorem Core.setMark_issueAt (c : Core) (w : Nat) (b : Bool) : (c.setMark w b).issueAt = c.issueAt := rfl

@[simp] theorem Core.setMark_sent (c : Core) (w : Nat) (b : Bool) : (c.setMark w b).sent = c.sent := rfl

@[simp] theorem Core.setMark_accepted (c : Core) (w : Nat) (b : Bool) : (c.setMark w b).accepted = c.accepted := rfl

@[simp] theorem Core.setMark_ueHours (c : Core) (w : Nat) (b : Bool) : (c.setMark w b).ueHours = c.ueHours := rfl

@[simp] theorem Core.setMark_droop (c : Core) (w : Nat) (b : Bool) : (c.setMark w b).droop = c.droop := rfl

@[simp] theorem Core.setMark_sync (c : Core) (w : Nat) (b : Bool) : (c.setMark w b).sync = c.sync := rfl

@[simp] theorem Core.setMark_stalled (c : Core) (w : Nat) (b : Bool) : (c.setMark w b).stalled = c.stalled := rfl

@[simp] theorem Core.setMark_frozen (c : Core) (w : Nat) (b : Bool) : (c.setMark w b).frozen = c.frozen := rfl

@[simp] theorem Core.setMark_retiring (c : Core) (w : Nat) (b : Bool) : (c.setMark w b).retiring = c.retiring := rfl

@[simp] theorem Core.setMark_stopping (c : Core) (w : Nat) (b : Bool) : (c.setMark w b).stopping = c.stopping := rfl

@[simp] theorem Core.setMark_captured (c : Core) (w : Nat) (b : Bool) : (c.setMark w b).captured = c.captured := rfl

/-- A fold of updates that each keep a part of the core keeps it. -/
theorem foldl_keeps {α β γ : Type} (g : β → γ) (f : β → α → β) (hf : ∀ b x, g (f b x) = g b) (l : List α) (b : β) : g (l.foldl f b) = g b := by
  induction l generalizing b with
  | nil => rfl
  | cons x l ih => rw [List.foldl_cons, ih, hf]

theorem Core.markWrite_keeps {γ : Type} (g : Core → γ) (hg : ∀ (c : Core) w b, g (c.setMark w b) = g c) (c : Core) (a n : Nat) (p : Bool) :
    g (c.markWrite a n p) = g c := by
  refine foldl_keeps g _ (fun c i => ?_) _ c
  dsimp only
  split
  · exact hg ..
  · split
    · exact hg ..
    · rfl

@[simp] theorem Core.markWrite_ctxs (c : Core) (a n : Nat) (p : Bool) : (c.markWrite a n p).ctxs = c.ctxs := Core.markWrite_keeps Core.ctxs (fun _ _ _ => rfl) c a n p

@[simp] theorem Core.markWrite_run (c : Core) (a n : Nat) (p : Bool) : (c.markWrite a n p).run = c.run := Core.markWrite_keeps Core.run (fun _ _ _ => rfl) c a n p

@[simp] theorem Core.markWrite_last (c : Core) (a n : Nat) (p : Bool) : (c.markWrite a n p).last = c.last := Core.markWrite_keeps Core.last (fun _ _ _ => rfl) c a n p

@[simp] theorem Core.markWrite_win (c : Core) (a n : Nat) (p : Bool) : (c.markWrite a n p).win = c.win := Core.markWrite_keeps Core.win (fun _ _ _ => rfl) c a n p

@[simp] theorem Core.markWrite_acc (c : Core) (a n : Nat) (p : Bool) : (c.markWrite a n p).acc = c.acc := Core.markWrite_keeps Core.acc (fun _ _ _ => rfl) c a n p

@[simp] theorem Core.markWrite_mma (c : Core) (a n : Nat) (p : Bool) : (c.markWrite a n p).mma = c.mma := Core.markWrite_keeps Core.mma (fun _ _ _ => rfl) c a n p

@[simp] theorem Core.markWrite_latch (c : Core) (a n : Nat) (p : Bool) : (c.markWrite a n p).latch = c.latch := Core.markWrite_keeps Core.latch (fun _ _ _ => rfl) c a n p

@[simp] theorem Core.markWrite_ctr (c : Core) (a n : Nat) (p : Bool) : (c.markWrite a n p).ctr = c.ctr := Core.markWrite_keeps Core.ctr (fun _ _ _ => rfl) c a n p

@[simp] theorem Core.markWrite_pos (c : Core) (a n : Nat) (p : Bool) : (c.markWrite a n p).pos = c.pos := Core.markWrite_keeps Core.pos (fun _ _ _ => rfl) c a n p

@[simp] theorem Core.markWrite_grpid (c : Core) (a n : Nat) (p : Bool) : (c.markWrite a n p).grpid = c.grpid := Core.markWrite_keeps Core.grpid (fun _ _ _ => rfl) c a n p

@[simp] theorem Core.markWrite_name (c : Core) (a n : Nat) (p : Bool) : (c.markWrite a n p).name = c.name := Core.markWrite_keeps Core.name (fun _ _ _ => rfl) c a n p

@[simp] theorem Core.markWrite_relpos (c : Core) (a n : Nat) (p : Bool) : (c.markWrite a n p).relpos = c.relpos := Core.markWrite_keeps Core.relpos (fun _ _ _ => rfl) c a n p

@[simp] theorem Core.markWrite_trapvec (c : Core) (a n : Nat) (p : Bool) : (c.markWrite a n p).trapvec = c.trapvec := Core.markWrite_keeps Core.trapvec (fun _ _ _ => rfl) c a n p

@[simp] theorem Core.markWrite_twc (c : Core) (a n : Nat) (p : Bool) : (c.markWrite a n p).twc = c.twc := Core.markWrite_keeps Core.twc (fun _ _ _ => rfl) c a n p

@[simp] theorem Core.markWrite_islBnd (c : Core) (a n : Nat) (p : Bool) : (c.markWrite a n p).islBnd = c.islBnd := Core.markWrite_keeps Core.islBnd (fun _ _ _ => rfl) c a n p

@[simp] theorem Core.markWrite_islIid (c : Core) (a n : Nat) (p : Bool) : (c.markWrite a n p).islIid = c.islIid := Core.markWrite_keeps Core.islIid (fun _ _ _ => rfl) c a n p

@[simp] theorem Core.markWrite_islPad (c : Core) (a n : Nat) (p : Bool) : (c.markWrite a n p).islPad = c.islPad := Core.markWrite_keeps Core.islPad (fun _ _ _ => rfl) c a n p

@[simp] theorem Core.markWrite_scnt (c : Core) (a n : Nat) (p : Bool) : (c.markWrite a n p).scnt = c.scnt := Core.markWrite_keeps Core.scnt (fun _ _ _ => rfl) c a n p

@[simp] theorem Core.markWrite_pmMiss (c : Core) (a n : Nat) (p : Bool) : (c.markWrite a n p).pmMiss = c.pmMiss := Core.markWrite_keeps Core.pmMiss (fun _ _ _ => rfl) c a n p

@[simp] theorem Core.markWrite_pmCache (c : Core) (a n : Nat) (p : Bool) : (c.markWrite a n p).pmCache = c.pmCache := Core.markWrite_keeps Core.pmCache (fun _ _ _ => rfl) c a n p

@[simp] theorem Core.markWrite_cycle (c : Core) (a n : Nat) (p : Bool) : (c.markWrite a n p).cycle = c.cycle := Core.markWrite_keeps Core.cycle (fun _ _ _ => rfl) c a n p

@[simp] theorem Core.markWrite_wdogLim (c : Core) (a n : Nat) (p : Bool) : (c.markWrite a n p).wdogLim = c.wdogLim := Core.markWrite_keeps Core.wdogLim (fun _ _ _ => rfl) c a n p

@[simp] theorem Core.markWrite_ls (c : Core) (a n : Nat) (p : Bool) : (c.markWrite a n p).ls = c.ls := Core.markWrite_keeps Core.ls (fun _ _ _ => rfl) c a n p

@[simp] theorem Core.markWrite_slots (c : Core) (a n : Nat) (p : Bool) : (c.markWrite a n p).slots = c.slots := Core.markWrite_keeps Core.slots (fun _ _ _ => rfl) c a n p

@[simp] theorem Core.markWrite_nextTkt (c : Core) (a n : Nat) (p : Bool) : (c.markWrite a n p).nextTkt = c.nextTkt := Core.markWrite_keeps Core.nextTkt (fun _ _ _ => rfl) c a n p

@[simp] theorem Core.markWrite_ops (c : Core) (a n : Nat) (p : Bool) : (c.markWrite a n p).ops = c.ops := Core.markWrite_keeps Core.ops (fun _ _ _ => rfl) c a n p

@[simp] theorem Core.markWrite_nextOp (c : Core) (a n : Nat) (p : Bool) : (c.markWrite a n p).nextOp = c.nextOp := Core.markWrite_keeps Core.nextOp (fun _ _ _ => rfl) c a n p

@[simp] theorem Core.markWrite_holdTail (c : Core) (a n : Nat) (p : Bool) : (c.markWrite a n p).holdTail = c.holdTail := Core.markWrite_keeps Core.holdTail (fun _ _ _ => rfl) c a n p

@[simp] theorem Core.markWrite_streams (c : Core) (a n : Nat) (p : Bool) : (c.markWrite a n p).streams = c.streams := Core.markWrite_keeps Core.streams (fun _ _ _ => rfl) c a n p

@[simp] theorem Core.markWrite_nextStream (c : Core) (a n : Nat) (p : Bool) : (c.markWrite a n p).nextStream = c.nextStream := Core.markWrite_keeps Core.nextStream (fun _ _ _ => rfl) c a n p

@[simp] theorem Core.markWrite_pend (c : Core) (a n : Nat) (p : Bool) : (c.markWrite a n p).pend = c.pend := Core.markWrite_keeps Core.pend (fun _ _ _ => rfl) c a n p

@[simp] theorem Core.markWrite_tokens (c : Core) (a n : Nat) (p : Bool) : (c.markWrite a n p).tokens = c.tokens := Core.markWrite_keeps Core.tokens (fun _ _ _ => rfl) c a n p

@[simp] theorem Core.markWrite_retained (c : Core) (a n : Nat) (p : Bool) : (c.markWrite a n p).retained = c.retained := Core.markWrite_keeps Core.retained (fun _ _ _ => rfl) c a n p

@[simp] theorem Core.markWrite_trees (c : Core) (a n : Nat) (p : Bool) : (c.markWrite a n p).trees = c.trees := Core.markWrite_keeps Core.trees (fun _ _ _ => rfl) c a n p

@[simp] theorem Core.markWrite_landing (c : Core) (a n : Nat) (p : Bool) : (c.markWrite a n p).landing = c.landing := Core.markWrite_keeps Core.landing (fun _ _ _ => rfl) c a n p

@[simp] theorem Core.markWrite_clean (c : Core) (a n : Nat) (p : Bool) : (c.markWrite a n p).clean = c.clean := Core.markWrite_keeps Core.clean (fun _ _ _ => rfl) c a n p

@[simp] theorem Core.markWrite_imgLen (c : Core) (a n : Nat) (p : Bool) : (c.markWrite a n p).imgLen = c.imgLen := Core.markWrite_keeps Core.imgLen (fun _ _ _ => rfl) c a n p

@[simp] theorem Core.markWrite_free (c : Core) (a n : Nat) (p : Bool) : (c.markWrite a n p).free = c.free := Core.markWrite_keeps Core.free (fun _ _ _ => rfl) c a n p

@[simp] theorem Core.markWrite_seq (c : Core) (a n : Nat) (p : Bool) : (c.markWrite a n p).seq = c.seq := Core.markWrite_keeps Core.seq (fun _ _ _ => rfl) c a n p

@[simp] theorem Core.markWrite_routes (c : Core) (a n : Nat) (p : Bool) : (c.markWrite a n p).routes = c.routes := Core.markWrite_keeps Core.routes (fun _ _ _ => rfl) c a n p

@[simp] theorem Core.markWrite_beside (c : Core) (a n : Nat) (p : Bool) : (c.markWrite a n p).beside = c.beside := Core.markWrite_keeps Core.beside (fun _ _ _ => rfl) c a n p
@[simp] theorem Core.markWrite_late (c : Core) (a n : Nat) (p : Bool) : (c.markWrite a n p).late = c.late := Core.markWrite_keeps Core.late (fun _ _ _ => rfl) c a n p

@[simp] theorem Core.markWrite_served (c : Core) (a n : Nat) (p : Bool) : (c.markWrite a n p).served = c.served := Core.markWrite_keeps Core.served (fun _ _ _ => rfl) c a n p

@[simp] theorem Core.markWrite_readyAt (c : Core) (a n : Nat) (p : Bool) : (c.markWrite a n p).readyAt = c.readyAt := Core.markWrite_keeps Core.readyAt (fun _ _ _ => rfl) c a n p

@[simp] theorem Core.markWrite_remFails (c : Core) (a n : Nat) (p : Bool) : (c.markWrite a n p).remFails = c.remFails := Core.markWrite_keeps Core.remFails (fun _ _ _ => rfl) c a n p

@[simp] theorem Core.markWrite_strFails (c : Core) (a n : Nat) (p : Bool) : (c.markWrite a n p).strFails = c.strFails := Core.markWrite_keeps Core.strFails (fun _ _ _ => rfl) c a n p

@[simp] theorem Core.markWrite_reports (c : Core) (a n : Nat) (p : Bool) : (c.markWrite a n p).reports = c.reports := Core.markWrite_keeps Core.reports (fun _ _ _ => rfl) c a n p

@[simp] theorem Core.markWrite_issueAt (c : Core) (a n : Nat) (p : Bool) : (c.markWrite a n p).issueAt = c.issueAt := Core.markWrite_keeps Core.issueAt (fun _ _ _ => rfl) c a n p

@[simp] theorem Core.markWrite_sent (c : Core) (a n : Nat) (p : Bool) : (c.markWrite a n p).sent = c.sent := Core.markWrite_keeps Core.sent (fun _ _ _ => rfl) c a n p

@[simp] theorem Core.markWrite_accepted (c : Core) (a n : Nat) (p : Bool) : (c.markWrite a n p).accepted = c.accepted := Core.markWrite_keeps Core.accepted (fun _ _ _ => rfl) c a n p

@[simp] theorem Core.markWrite_ueHours (c : Core) (a n : Nat) (p : Bool) : (c.markWrite a n p).ueHours = c.ueHours := Core.markWrite_keeps Core.ueHours (fun _ _ _ => rfl) c a n p

@[simp] theorem Core.markWrite_droop (c : Core) (a n : Nat) (p : Bool) : (c.markWrite a n p).droop = c.droop := Core.markWrite_keeps Core.droop (fun _ _ _ => rfl) c a n p

@[simp] theorem Core.markWrite_sync (c : Core) (a n : Nat) (p : Bool) : (c.markWrite a n p).sync = c.sync := Core.markWrite_keeps Core.sync (fun _ _ _ => rfl) c a n p

@[simp] theorem Core.markWrite_stalled (c : Core) (a n : Nat) (p : Bool) : (c.markWrite a n p).stalled = c.stalled := Core.markWrite_keeps Core.stalled (fun _ _ _ => rfl) c a n p

@[simp] theorem Core.markWrite_frozen (c : Core) (a n : Nat) (p : Bool) : (c.markWrite a n p).frozen = c.frozen := Core.markWrite_keeps Core.frozen (fun _ _ _ => rfl) c a n p

@[simp] theorem Core.markWrite_retiring (c : Core) (a n : Nat) (p : Bool) : (c.markWrite a n p).retiring = c.retiring := Core.markWrite_keeps Core.retiring (fun _ _ _ => rfl) c a n p

@[simp] theorem Core.markWrite_stopping (c : Core) (a n : Nat) (p : Bool) : (c.markWrite a n p).stopping = c.stopping := Core.markWrite_keeps Core.stopping (fun _ _ _ => rfl) c a n p

@[simp] theorem Core.markWrite_captured (c : Core) (a n : Nat) (p : Bool) : (c.markWrite a n p).captured = c.captured := Core.markWrite_keeps Core.captured (fun _ _ _ => rfl) c a n p

theorem Core.wrBytes_byte (c : Core) (a : Nat) (bs : List Byte) (x : Nat) :
    (c.wrBytes a bs).ls.byte x = if a ≤ x ∧ x < a + bs.length then bs.getD (x - a) 0 else c.ls.byte x := by
  simp [Core.wrBytes, Laws.byte_putBytes]

theorem Core.wrBytes_apart (c : Core) (a : Nat) (bs : List Byte) {x : Nat} (h : x < a ∨ a + bs.length ≤ x) :
    (c.wrBytes a bs).ls.byte x = c.ls.byte x := by
  rw [Core.wrBytes_byte, if_neg (by omega)]

theorem Core.wrWord_apart (c : Core) (a : Nat) (w : Word) {x : Nat} (h : x < a ∨ a + 8 ≤ x) :
    (c.wrWord a w).ls.byte x = c.ls.byte x :=
  Core.wrBytes_apart c a _ (by rw [Laws.natBytes_length]; omega)

theorem Core.wrHold_apart (c : Core) (off : Nat) (bs : List Byte) (hb : bs.length ≤ 8192) {x : Nat} (h : x < 0xF2000 ∨ 0xF4000 ≤ x) :
    (c.wrHold off bs).ls.byte x = c.ls.byte x := by
  unfold Core.wrHold
  have := Nat.mod_lt off (show 0 < 8192 by omega)
  rw [Core.wrBytes_apart, Core.wrBytes_apart] <;> simp <;> omega

theorem Op.header_length (o : Op) : o.header.length = 32 := by simp [Op.header, Laws.natBytes_length]

theorem Core.wrHeader_apart (c : Core) (o : Op) {x : Nat} (h : x < 0xF2000 ∨ 0xF4000 ≤ x) : (c.wrHeader o).ls.byte x = c.ls.byte x := by
  unfold Core.wrHeader; split
  · rfl
  · exact Core.wrHold_apart c _ _ (by rw [Op.header_length]; omega) h

theorem Core.freeRetained_apart (c : Core) {x : Nat} (h : x < 0xFE800) : c.freeRetained.ls.byte x = c.ls.byte x := by
  unfold Core.freeRetained
  simp only [Core.setCtx_ls]
  exact foldl_keeps (fun d : Core => d.ls.byte x) _ (fun d y => Core.wrWord_apart d _ _ (by omega)) _ c

theorem Core.closeWindow_apart (c : Core) {x : Nat} (h : x < 0xF2000 ∨ 0xF4000 ≤ x) (h' : x < 0xFE800) : c.closeWindow.ls.byte x = c.ls.byte x := by
  unfold Core.closeWindow
  dsimp only
  rw [Core.freeRetained_apart _ h']
  refine foldl_keeps (fun d : Core => d.ls.byte x) _ (fun d o => ?_) _ _
  split
  · exact Core.wrHeader_apart d o h
  · rfl

theorem Core.writeTile_ls (c : Core) (m) : (c.writeTile m).ls = c.ls := rfl

theorem Core.drainMma_apart (c : Core) {x : Nat} (h : x < 0xF2000 ∨ 0xF4000 ≤ x) (h' : x < 0xFE800) : c.drainMma.ls.byte x = c.ls.byte x := by
  unfold Core.drainMma
  split
  · rfl
  · split
    · exact (Core.closeWindow_apart _ h h')
    · rfl

theorem Core.commit_apart (c : Core) {x : Nat} (h : x < 0xF2000 ∨ 0xF4000 ≤ x) (h' : x < 0xFE800) : c.commit.ls.byte x = c.ls.byte x := by
  unfold Core.commit; rw [Core.closeWindow_apart _ h h', Core.drainMma_apart _ h h']

theorem Core.wrHeader_marks (c : Core) (o : Op) : (c.wrHeader o).marks = c.marks := by unfold Core.wrHeader Core.wrHold; split <;> simp

theorem Core.freeRetained_marks (c : Core) : c.freeRetained.marks = c.marks := by
  unfold Core.freeRetained
  simp only [Core.setCtx_marks]
  exact foldl_keeps (fun d : Core => d.marks) _ (fun d y => by simp [Core.wrWord]) _ c

theorem Core.closeWindow_marks (c : Core) : c.closeWindow.marks = c.marks := by
  unfold Core.closeWindow
  dsimp only
  rw [Core.freeRetained_marks]
  refine foldl_keeps (fun d : Core => d.marks) _ (fun d o => ?_) _ _
  split
  · exact Core.wrHeader_marks d o
  · rfl

theorem Core.commit_marks (c : Core) : c.commit.marks = c.marks := by
  unfold Core.commit; rw [Core.closeWindow_marks]
  unfold Core.drainMma
  split
  · rfl
  · split
    · exact (Core.closeWindow_marks _)
    · rfl

/-- The window after a commit has an empty journal, so it fits any one record. -/
theorem Core.commit_fits (c : Core) : c.commit.win.fits 1 8 = true := by
  unfold Core.commit Core.closeWindow; rfl

theorem Core.room_fits (c : Core) : (c.roomForJournal 1 8).win.fits 1 8 = true := by
  unfold Core.roomForJournal; split
  · assumption
  · exact Core.commit_fits c

theorem Core.room_apart (c : Core) {x : Nat} (h : x < 0xF2000 ∨ 0xF4000 ≤ x) (h' : x < 0xFE800) : (c.roomForJournal 1 8).ls.byte x = c.ls.byte x := by
  unfold Core.roomForJournal; split
  · rfl
  · exact Core.commit_apart c h h'

theorem Core.room_marks (c : Core) : (c.roomForJournal 1 8).marks = c.marks := by
  unfold Core.roomForJournal; split
  · rfl
  · exact Core.commit_marks c

theorem Core.rdBytes_length (c : Core) (a n) : (c.rdBytes a n).length = n := by simp [Core.rdBytes, Laws.bytes_eq]

theorem Core.journal_apart (c : Core) (a n : Nat) {x : Nat} (h : x < 0xF0000 + c.win.jbytes ∨ 0xF0000 + c.win.jbytes + n ≤ x) :
    (c.journal a n).ls.byte x = c.ls.byte x := by
  unfold Core.journal
  dsimp only
  rw [Core.wrBytes_apart]
  rw [Core.rdBytes_length]; exact h

theorem mem_nsInsert {w x : Nat} (m : List Nat) : x ∈ nsInsert w m ↔ x = w ∨ x ∈ m := by
  induction m with
  | nil => simp [nsInsert]
  | cons j t ih =>
    unfold nsInsert
    split
    · simp
    · split
      · rename_i h; subst h; simp
      · simp only [List.mem_cons, ih]; constructor <;> rintro (h | h | h) <;> simp [h]

theorem mem_nsErase {w x : Nat} (m : List Nat) : x ∈ nsErase w m ↔ x ≠ w ∧ x ∈ m := by simp [nsErase, and_comm]

theorem Core.setMark_contains (c : Core) (w x : Nat) (b : Bool) : (c.setMark w b).marks.contains x = if x = w then b else c.marks.contains x := by
  rw [Bool.eq_iff_iff]
  cases b <;> by_cases h : x = w <;> simp [Core.setMark, mem_nsInsert, mem_nsErase, h]

/-- The mark after a store of an aligned power of two of bytes. -/
theorem Core.markWrite_contains (c : Core) (a n : Nat) (p : Bool) (hn : n ∈ [1, 2, 4, 8]) (h : a % n = 0) (x : Nat) :
    (c.markWrite a n p).marks.contains x = if x = a / 8 then (p || (c.marks.contains x && decide (n ≠ 8))) else c.marks.contains x := by
  have h1 : (a + n + 7) / 8 - a / 8 = 1 := by
    simp only [List.mem_cons, List.not_mem_nil, or_false] at hn
    rcases hn with rfl | rfl | rfl | rfl <;> omega
  unfold Core.markWrite
  rw [h1]
  simp only [List.range_succ, List.range_zero, List.nil_append, List.foldl_cons, List.foldl_nil, Nat.add_zero]
  cases p
  · simp only [Bool.false_eq_true, if_false, Bool.false_or]
    split
    · rename_i h2
      have : n = 8 := by simp only [List.mem_cons, List.not_mem_nil, or_false] at hn; omega
      rw [Core.setMark_contains]; simp [this]
    · rename_i h2
      have : n ≠ 8 := by rintro rfl; omega
      simp [this]
  · simp only [if_true, Bool.true_or]
    rw [Core.setMark_contains]

theorem byte_filter (m : Mem) (p : Nat → Bool) (x : Nat) : Mem.byte (m.filter fun e => !p e.1) x = if p x = true then 0 else m.byte x := by
  unfold Mem.byte
  induction m with
  | nil => simp [NMap.get?, Mem.default]
  | cons e t ih =>
    obtain ⟨j, v⟩ := e
    by_cases hp : p j = true
    · simp only [List.filter_cons, hp, Bool.not_true, Bool.false_eq_true, if_false, ih, NMap.get?]
      by_cases hx : j = x
      · subst hx; simp [hp]
      · simp [hx]
    · simp only [List.filter_cons, hp, Bool.not_false, if_true, NMap.get?]
      by_cases hx : j = x
      · subst hx; simp [hp]
      · simpa [hx] using ih

theorem filter_wf (m : Mem) (p : Nat → Bool) (h : m.wf = true) : Mem.wf (m.filter fun e => !p e.1) = true := by
  simp only [Mem.wf, Bool.and_eq_true, List.all_eq_true] at h ⊢
  refine ⟨?_, fun e he => h.2 e ((List.mem_filter.mp he).1)⟩
  have hs := h.1
  clear h
  induction m with
  | nil => rfl
  | cons e t ih =>
    obtain ⟨j, v⟩ := e
    rw [Laws.sorted_cons] at hs
    rw [List.filter_cons]
    split
    · exact (Laws.sorted_cons ..).2 ⟨fun x hx => hs.1 x ((List.mem_filter.mp hx).1), ih hs.2⟩
    · exact ih hs.2

theorem Core.merge_length (c : Core) (bs : List Byte) (a : Nat) : (c.merge a bs).length = bs.length := by
  induction bs generalizing a with
  | nil => rfl
  | cons b bs ih => simp [Core.merge, ih]

theorem Core.merge_getD (c : Core) (bs : List Byte) (a i : Nat) (h : i < bs.length) : (c.merge a bs).getD i 0 = c.blend (a + i) (bs.getD i 0) := by
  induction bs generalizing a i with
  | nil => simp at h
  | cons b bs ih =>
    cases i with
    | zero => simp [Core.merge]
    | succ i =>
      simp only [Core.merge, List.getD_cons_succ]
      rw [ih (a + 1) i (by simpa using h), Nat.add_assoc, Nat.add_comm 1 i]

/-- The bits that a store sets depend only on the binding records. -/
theorem Core.rdWord_congr {c d : Core} {a : Nat} (h : ∀ i, i < 8 → c.ls.byte (a + i) = d.ls.byte (a + i)) : c.rdWord a = d.rdWord a := by
  have hb : c.ls.bytes a 8 = d.ls.bytes a 8 := by
    rw [Laws.bytes_eq, Laws.bytes_eq]
    exact List.map_congr_left fun i hi => h i (List.mem_range.mp hi)
  simp only [Core.rdWord, Core.rdNat, hb]

theorem Core.bindWord_congr {c d : Core} (h : ∀ x, 0xFD800 ≤ x → x < 0xFE000 → c.ls.byte x = d.ls.byte x) {ch : Nat} (hc : ch < 64) :
    c.bindWord ch 0 = d.bindWord ch 0 := Core.rdWord_congr fun i hi => h _ (by omega) (by omega)

theorem Core.chNamed_congr {c d : Core} (h : ∀ x, 0xFD800 ≤ x → x < 0xFE000 → c.ls.byte x = d.ls.byte x) {a : Nat} (ha : lsRow a = 3) :
    c.chNamed a = d.chNamed a := by
  have hr : 0xF4000 ≤ a ∧ a < 0xFC000 := by
    unfold lsRow at ha; revert ha; repeat' split
    all_goals omega
  have hb : ∀ ch, ch < 64 → c.bindWord ch 0 = d.bindWord ch 0 := fun ch hc => Core.bindWord_congr h hc
  have hm : ∀ j, c.setMembers j = d.setMembers j := fun j => List.filter_congr fun ch hc => by
    simp only [Core.bound, Core.chMode, Core.chSet, hb ch (List.mem_range.mp hc)]
  have hch := hb ((a - 0xF4000) / 512) (by omega)
  simp only [Core.chNamed, Core.bound, Core.chMode, Core.chSet, hch, hm]

theorem Core.rwBits_congr {c d : Core} (h : ∀ x, 0xFD800 ≤ x → x < 0xFE000 → c.ls.byte x = d.ls.byte x) (a : Nat) : c.rwBits a = d.rwBits a := by
  unfold Core.rwBits
  split
  · rename_i h3; rw [Core.chNamed_congr h h3]
  all_goals rfl

theorem Core.inCopy_congr {c d : Core} (hp : c.pend = d.pend) (hr : c.retained = d.retained) (hc : c.ctxs = d.ctxs) (a : Nat) : c.inCopy a = d.inCopy a := by
  unfold Core.inCopy; rw [hp, hr, hc]

theorem Core.unnamed_congr {c d : Core} (h : ∀ x, 0xFD800 ≤ x → x < 0xFE000 → c.ls.byte x = d.ls.byte x) (hp : c.pend = d.pend)
    (hr : c.retained = d.retained) (hc : c.ctxs = d.ctxs) (a : Nat) : c.unnamed a = d.unnamed a := by
  unfold Core.unnamed
  by_cases h3 : lsRow a = 3
  · rw [Core.chNamed_congr h h3, Core.inCopy_congr hp hr hc]
  · simp only [beq_false_of_ne h3, Bool.false_and]

theorem Core.putLs_fields (c : Core) (a : Nat) (bs : List Byte) :
    (c.putLs a bs).ctxs = c.ctxs ∧ (c.putLs a bs).run = c.run ∧ (c.putLs a bs).marks = c.marks ∧ (c.putLs a bs).pend = c.pend ∧
      (c.putLs a bs).retained = c.retained := by
  unfold Core.putLs Core.tidy; split <;> simp

/-- What a store of bytes leaves in local store: its own bytes as far as the range takes them; after a change of a binding record, zero in the bytes that no layout names any longer; and every other byte as before. -/
theorem Core.putLs_byte (c : Core) (a : Nat) (bs : List Byte) (x : Nat) :
    (c.putLs a bs).ls.byte x = if a ≤ x ∧ x < a + bs.length then c.blend x (bs.getD (x - a) 0)
      else if lsRow a = 6 ∧ (c.putLs a bs).unnamed x = true then 0 else c.ls.byte x := by
  have hw : ∀ y, (c.wrBytes a (c.merge a bs)).ls.byte y = if a ≤ y ∧ y < a + bs.length then c.blend y (bs.getD (y - a) 0) else c.ls.byte y := by
    intro y
    rw [Core.wrBytes_byte, Core.merge_length]
    split
    · rename_i h
      rw [Core.merge_getD _ _ _ _ (by omega)]
      congr 1; omega
    · rfl
  by_cases h6 : lsRow a = 6
  · have hf : ∀ y, (c.putLs a bs).ls.byte y = if (c.wrBytes a (c.merge a bs)).unnamed y = true then 0 else (c.wrBytes a (c.merge a bs)).ls.byte y := by
      intro y; unfold Core.putLs Core.tidy; rw [if_pos h6]; exact byte_filter _ _ y
    have hu : ∀ y, (c.putLs a bs).unnamed y = (c.wrBytes a (c.merge a bs)).unnamed y := by
      intro y
      refine Core.unnamed_congr (fun z h1 h2 => ?_) ?_ ?_ ?_ y
      · rw [hf]
        have : (c.wrBytes a (c.merge a bs)).unnamed z = false := by
          have : lsRow z = 6 := by unfold lsRow; repeat' split
                                   all_goals omega
          simp [Core.unnamed, this]
        simp [this]
      · exact (Core.putLs_fields c a bs).2.2.2.1.trans (by simp)
      · exact (Core.putLs_fields c a bs).2.2.2.2.trans (by simp)
      · exact (Core.putLs_fields c a bs).1.trans (by simp)
    rw [hf, hu, hw]
    have ha : 0xFD800 ≤ a := by
      unfold lsRow at h6; revert h6; repeat' split
      all_goals omega
    by_cases hx : a ≤ x ∧ x < a + bs.length
    · rw [if_pos hx, if_pos hx, if_neg]
      have : lsRow x ≠ 3 := by unfold lsRow; repeat' split
                               all_goals omega
      simp [Core.unnamed, this]
    · rw [if_neg hx, if_neg hx]; simp [h6]
  · unfold Core.putLs at *
    rw [if_neg h6, hw]
    simp [h6]

theorem Core.markWrite_unnamed (c : Core) (a n : Nat) (p : Bool) (x : Nat) : (c.markWrite a n p).unnamed x = c.unnamed x :=
  Core.unnamed_congr (fun _ _ _ => by rw [Core.markWrite_ls]) (by simp) (by simp) (by simp) x

/-- What a store does to local store, its marks and the registers (R7, R108, R111, R112, R223); its journal record lies in the ranges that the core keeps itself. -/
theorem Core.store_facts (c : Core) (a n : Nat) (bs : List Byte) (p : Bool) (hl : bs.length = n) (hn : n ∈ [1, 2, 4, 8]) (h : a % n = 0) (hd : discards a = false) :
    let d := c.roomForJournal 1 8
    let e := d.journal (a / 8 * 8) 8
    (∀ x, (c.store a n bs p).ls.byte x = if a ≤ x ∧ x < a + n then e.blend x (bs.getD (x - a) 0)
      else if lsRow a = 6 ∧ (c.store a n bs p).unnamed x = true then 0 else e.ls.byte x) ∧
    (∀ x, (x < 0xF0000 + d.win.jbytes ∨ 0xF0000 + d.win.jbytes + 8 ≤ x) → e.ls.byte x = d.ls.byte x) ∧
    (∀ x, (c.store a n bs p).marks.contains x = if x = a / 8 then (p || (c.marks.contains x && decide (n ≠ 8))) else c.marks.contains x) ∧
    (c.store a n bs p).regs = d.regs := by
  intro d e
  have hs : c.store a n bs p = (e.putLs a bs).markWrite a n p := by unfold Core.store; rw [hd]; rfl
  rw [hs]
  refine ⟨fun x => ?_, fun x hx => ?_, fun x => ?_, ?_⟩
  · rw [Core.markWrite_unnamed, Core.markWrite_ls, Core.putLs_byte, hl]
  · exact Core.journal_apart _ _ _ hx
  · rw [Core.markWrite_contains _ _ _ _ hn h, (Core.putLs_fields e a bs).2.2.1]
    simp [e, d, Core.journal, Core.room_marks]
  · have hc := Core.putLs_fields e a bs
    simp only [Core.regs, Core.ctx, Core.ctxAt, Core.markWrite_ctxs, Core.markWrite_run, hc.1, hc.2.1]
    simp [e, Core.journal]

theorem lsRow_iff (a k : Nat) : lsRow a = k ↔
    (k = 0 ∧ a < 0xF0000) ∨ (k = 1 ∧ 0xF0000 ≤ a ∧ a < 0xF2000) ∨ (k = 2 ∧ 0xF2000 ≤ a ∧ a < 0xF4000) ∨ (k = 3 ∧ 0xF4000 ≤ a ∧ a < 0xFC000) ∨
    (k = 4 ∧ 0xFC000 ≤ a ∧ a < 0xFD000) ∨ (k = 5 ∧ 0xFD000 ≤ a ∧ a < 0xFD800) ∨ (k = 6 ∧ 0xFD800 ≤ a ∧ a < 0xFE000) ∨
    (k = 7 ∧ 0xFE000 ≤ a ∧ a < 0xFF000) ∨ (k = 8 ∧ 0xFF000 ≤ a) := by
  unfold lsRow
  repeat' split
  all_goals omega

theorem inOneRow_iff (ea : Int) (n : Nat) (hn : 0 < n) : inOneRow ea n = true ↔
    within ea n 0 0xF0000 ∨ within ea n 0xFC000 0xFD000 ∨ ∃ r ∈ systemRows, within ea n r.1 r.2 := by
  simp only [inOneRow, within, systemRows, Bool.and_eq_true, Bool.or_eq_true, decide_eq_true_eq, beq_iff_eq,
    List.mem_cons, List.not_mem_nil, or_false, exists_eq_or_imp, exists_eq_left]
  generalize hk : lsRow (ea.toNat + n - 1) = k
  rw [lsRow_iff] at hk ⊢
  rcases hk with ⟨rfl, _⟩ | ⟨rfl, _⟩ | ⟨rfl, _⟩ | ⟨rfl, _⟩ | ⟨rfl, _⟩ | ⟨rfl, _⟩ | ⟨rfl, _⟩ | ⟨rfl, _⟩ | ⟨rfl, _⟩ <;>
    simp only [true_and, false_and, false_or, or_false, reduceCtorEq, Nat.reduceEqDiff, Nat.zero_ne_one, Nat.one_ne_zero] <;> omega

theorem mayRead_iff (s : State) (ea : Int) (n : Nat) (hn : 0 < n) : s.core.mayRead ea n = true ↔ s.readable ea n := by
  unfold Core.mayRead State.readable
  rw [Bool.and_eq_true, inOneRow_iff ea n hn]
  simp only [within, systemRows, List.mem_cons, List.not_mem_nil, or_false, exists_eq_or_imp, exists_eq_left, Bool.or_eq_true]
  generalize hk : lsRow ea.toNat = k
  rw [lsRow_iff] at hk
  by_cases hp : s.core.prv = true
  · clear hk
    simp only [hp, true_or, and_true, true_and]
    constructor
    · rintro (h | h | h)
      · exact .inl h
      · exact .inr (.inl h)
      · exact .inr (.inr (.inr h))
    · rintro (h | h | h | h)
      · exact .inl h
      · exact .inr (.inl h)
      · have := h.1; right; right; omega
      · exact .inr (.inr h)
  · simp only [hp, false_and, or_false, false_or, Bool.false_eq_true]
    rcases hk with ⟨rfl, hk⟩ | ⟨rfl, hk⟩ | ⟨rfl, hk⟩ | ⟨rfl, hk⟩ | ⟨rfl, hk⟩ | ⟨rfl, hk⟩ | ⟨rfl, hk⟩ | ⟨rfl, hk⟩ | ⟨rfl, hk⟩ <;>
      simp only [Bool.and_eq_true, decide_eq_true_eq, and_true, and_false, Bool.false_eq_true, false_iff] <;> clear hp <;> omega

theorem mayWrite_iff (s : State) (ea : Int) (n : Nat) (hn : 0 < n) : s.core.mayWrite ea n = true ↔ s.writable ea n := by
  unfold Core.mayWrite State.writable
  rw [Bool.and_eq_true, inOneRow_iff ea n hn]
  simp only [within, systemRows, List.mem_cons, List.not_mem_nil, or_false, exists_eq_or_imp, exists_eq_left, Bool.or_eq_true, beq_iff_eq]
  rw [lsRow_iff]
  by_cases hp : s.core.prv = true
  · simp only [hp, true_or, and_true, true_and]
  · simp only [hp, false_and, or_false, false_or, Bool.false_eq_true]; constructor <;> intro h <;> first | (rcases h with ⟨h | h | h | h | h | h | h | h | h, _⟩  <;> omega) | exact ⟨Or.inl h, by simp; omega⟩

theorem psnUse_one {r : Regs} {a} (h : r.psn a = false) : psnUse r [a] = .ok () := by simp [psnUse, h]

theorem anyMarked_one (c : Core) (a n : Nat) (hn : n ∈ [1,2,4,8]) (h : a % n = 0) : c.anyMarked a n = c.marks.contains (a / 8) := by
  unfold Core.anyMarked
  rw [Bool.eq_iff_iff, List.any_eq_true, List.contains_iff_mem]
  simp only [Bool.and_eq_true, decide_eq_true_eq]
  simp only [List.mem_cons, List.not_mem_nil, or_false] at hn
  constructor
  · rintro ⟨w, hw, h1, h2⟩
    have : w = a / 8 := by rcases hn with rfl | rfl | rfl | rfl <;> omega
    exact this ▸ hw
  · intro hw
    exact ⟨_, hw, by rcases hn with rfl | rfl | rfl | rfl <;> omega, by rcases hn with rfl | rfl | rfl | rfl <;> omega⟩

theorem ea_mod {ea : Int} {n : Nat} (h0 : 0 ≤ ea) (h : ea % (n : Int) = 0) : ea.toNat % n = 0 := by
  have : ((ea.toNat % n : Nat) : Int) = 0 := by rw [Int.natCast_emod, Int.toNat_of_nonneg h0]; exact h
  omega

theorem readable_nonneg {s : State} {ea n} (h : s.readable ea n) : 0 ≤ ea := by
  simp only [State.readable, within, systemRows, List.mem_cons, List.not_mem_nil, or_false, exists_eq_or_imp, exists_eq_left] at h; omega

theorem writable_nonneg {s : State} {ea n} (h : s.writable ea n) : 0 ≤ ea := by
  simp only [State.writable, within, systemRows, List.mem_cons, List.not_mem_nil, or_false, exists_eq_or_imp, exists_eq_left] at h; omega

theorem number_eq (s : State) (a n : Nat) : s.core.rdNat a n = s.number a n := by
  rw [Core.rdNat, Laws.bytes_eq]; rfl

theorem loadRule {mk n sx ext} (hn : n ∈ [1,2,4,8]) (he : ∀ p d a im s, exec (mk p d a im) s = issue p (Core.load d a im n sx) s)
   (hx : ∀ (c : Core) a, c.loadVal a n sx = ext (c.rdNat a n)) : LoadRule mk n ext := by
  intro p d a im s h hc hr hm x
  have hn0 : 0 < n := by simp at hn; omega
  have : Core.load d a im n sx s.core = s.core.copyS d x (s.mark (s.ea a im).toNat) := by
    simp only [clean_cons] at hc
    have h1 : s.core.mayRead (s.core.regs.ea a im) n = true := (mayRead_iff s _ n hn0).2 hr
    have hm' : (s.core.regs.ea a im) % (n:Int) = 0 := hm
    simp only [Core.load, psnUse_one hc.1, Core.checkRead, h1, hx, hm', Bool.not_true, Bool.false_eq_true, if_false, ne_eq, not_true_eq_false]
    rw [anyMarked_one _ _ _ hn (show (s.core.regs.ea a im).toNat % n = 0 from ea_mod (readable_nonneg hr) hm), number_eq]
    rfl
  rw [he]
  cases hmk : s.mark (s.ea a im).toNat <;> rw [hmk] at this <;> 
    rw [issue_ok h (this.trans rfl)] <;> simp [psnFlag, State.putPoison, State.putS, State.withRegs, State.regs]

theorem discards_iff (a : Nat) : discards a = true ↔ discarded a := by
  unfold discards discarded
  simp only [Bool.or_eq_true, beq_iff_eq]
  generalize hk : lsRow a = k
  rw [lsRow_iff] at hk
  rcases hk with ⟨rfl, _⟩ | ⟨rfl, _⟩ | ⟨rfl, _⟩ | ⟨rfl, _⟩ | ⟨rfl, _⟩ | ⟨rfl, _⟩ | ⟨rfl, _⟩ | ⟨rfl, _⟩ | ⟨rfl, _⟩ <;> simp <;> omega

theorem natBytes_getD (x n i : Nat) (h : i < n) : (natBytes x n).getD i 0 = BitVec.ofNat 8 (x / 256 ^ i) := by
  induction n generalizing x i with
  | zero => omega
  | succ n ih =>
    cases i with
    | zero => simp [natBytes]
    | succ i => simp only [natBytes, List.getD_cons_succ]; rw [ih _ _ (by omega), Nat.div_div_eq_div_mul, Nat.pow_succ, Nat.mul_comm]

theorem byteOf_word (w : Word) (i : Nat) : BitVec.ofNat 8 (w.toNat / 256 ^ i) = w.extractLsb' (8 * i) 8 := by
  apply BitVec.eq_of_toNat_eq
  simp only [BitVec.toNat_ofNat, BitVec.extractLsb'_toNat, Nat.shiftRight_eq_div_pow]
  rw [Nat.pow_mul]

end Sys2Proof.Machine
end

