-- ==== Sys2Proof/Laws/PerInstr.lean ====
section
/-! SUPPORT. Each constructor's word gives the constructor back: the fields of the packed words, and the family EncodeWord, one lemma per constructor. -/
namespace Sys2Proof.Laws

theorem ofCode_code (ty : Ty) : Ty.ofCode ty.code = ty := by cases ty <;> rfl

theorem rz_ofCode_code (r : Rz) : Rz.ofCode r.code = r := by cases r <;> rfl

theorem rnd_ofCode_code (r : Rnd) : Rnd.ofCode r.code r.seed = r := by cases r <;> rfl

theorem vsrc_ofFields (a : VSrc) : VSrc.ofFields a.fqe a.fqi a.field = a := by cases a <;> rfl

theorem cmb_ofCode_code (m : Cmb) : Cmb.ofCode m.code = m := by cases m <;> rfl

theorem bit1_eq_one (b : Bool) : (bit1 b == 1#1) = b := by cases b <;> rfl

theorem shsrc_ofFields (sh : ShSrc) : ShSrc.ofFields sh.imm10 sh.field = sh := by
  cases sh with
  | reg b => decide +revert
  | imm k => simp only [ShSrc.ofFields, ShSrc.imm10, ShSrc.field]; revert k; decide

theorem scpy_ofFields (d : Option Reg) : scpyOfFields (scpyDN d) (scpyD d) = d := by cases d <;> rfl

theorem wOp_packReg (p : Pred) (op : BitVec 8) (fn : BitVec 6) (d a b c : Reg) (x : BitVec 26) : wOp (packReg p op fn d a b c x) = op := by
  apply BitVec.eq_of_getLsbD_eq
  intro i hi
  simp only [wOp, packReg, BitVec.getLsbD_extractLsb', BitVec.getLsbD_append, hi, decide_true, Bool.true_and]
  repeat first | rw [if_neg (by omega)] | rw [if_pos (by omega)]
  all_goals first | rfl | (congr 1; omega)

theorem wFn_packReg (p : Pred) (op : BitVec 8) (fn : BitVec 6) (d a b c : Reg) (x : BitVec 26) : wFn (packReg p op fn d a b c x) = fn := by
  apply BitVec.eq_of_getLsbD_eq
  intro i hi
  simp only [wFn, packReg, BitVec.getLsbD_extractLsb', BitVec.getLsbD_append, hi, decide_true, Bool.true_and]
  repeat first | rw [if_neg (by omega)] | rw [if_pos (by omega)]
  all_goals first | rfl | (congr 1; omega)

theorem wD_packReg (p : Pred) (op : BitVec 8) (fn : BitVec 6) (d a b c : Reg) (x : BitVec 26) : wD (packReg p op fn d a b c x) = d := by
  apply BitVec.eq_of_getLsbD_eq
  intro i hi
  simp only [wD, packReg, BitVec.getLsbD_extractLsb', BitVec.getLsbD_append, hi, decide_true, Bool.true_and]
  repeat first | rw [if_neg (by omega)] | rw [if_pos (by omega)]
  all_goals first | rfl | (congr 1; omega)

theorem wA_packReg (p : Pred) (op : BitVec 8) (fn : BitVec 6) (d a b c : Reg) (x : BitVec 26) : wA (packReg p op fn d a b c x) = a := by
  apply BitVec.eq_of_getLsbD_eq
  intro i hi
  simp only [wA, packReg, BitVec.getLsbD_extractLsb', BitVec.getLsbD_append, hi, decide_true, Bool.true_and]
  repeat first | rw [if_neg (by omega)] | rw [if_pos (by omega)]
  all_goals first | rfl | (congr 1; omega)

theorem wB_packReg (p : Pred) (op : BitVec 8) (fn : BitVec 6) (d a b c : Reg) (x : BitVec 26) : wB (packReg p op fn d a b c x) = b := by
  apply BitVec.eq_of_getLsbD_eq
  intro i hi
  simp only [wB, packReg, BitVec.getLsbD_extractLsb', BitVec.getLsbD_append, hi, decide_true, Bool.true_and]
  repeat first | rw [if_neg (by omega)] | rw [if_pos (by omega)]
  all_goals first | rfl | (congr 1; omega)

theorem wC_packReg (p : Pred) (op : BitVec 8) (fn : BitVec 6) (d a b c : Reg) (x : BitVec 26) : wC (packReg p op fn d a b c x) = c := by
  apply BitVec.eq_of_getLsbD_eq
  intro i hi
  simp only [wC, packReg, BitVec.getLsbD_extractLsb', BitVec.getLsbD_append, hi, decide_true, Bool.true_and]
  repeat first | rw [if_neg (by omega)] | rw [if_pos (by omega)]
  all_goals first | rfl | (congr 1; omega)

theorem packReg_p0 (p : Pred) (op : BitVec 8) (fn : BitVec 6) (d a b c : Reg) (x : BitVec 26) : (packReg p op fn d a b c x).extractLsb' 63 1 = bit1 p.n := by
  apply BitVec.eq_of_getLsbD_eq
  intro i hi
  simp only [packReg, BitVec.getLsbD_extractLsb', BitVec.getLsbD_append, hi, decide_true, Bool.true_and]
  repeat first | rw [if_neg (by omega)] | rw [if_pos (by omega)]
  all_goals first | rfl | (congr 1; omega)

theorem packReg_p1 (p : Pred) (op : BitVec 8) (fn : BitVec 6) (d a b c : Reg) (x : BitVec 26) : (packReg p op fn d a b c x).extractLsb' 60 3 = p.g := by
  apply BitVec.eq_of_getLsbD_eq
  intro i hi
  simp only [packReg, BitVec.getLsbD_extractLsb', BitVec.getLsbD_append, hi, decide_true, Bool.true_and]
  repeat first | rw [if_neg (by omega)] | rw [if_pos (by omega)]
  all_goals first | rfl | (congr 1; omega)

theorem wP_packReg (p : Pred) (op : BitVec 8) (fn : BitVec 6) (d a b c : Reg) (x : BitVec 26) : wP (packReg p op fn d a b c x) = p := by
  simp only [wP, packReg_p0, packReg_p1, bit1_eq_one]

theorem wOp_packImm (p : Pred) (op : BitVec 8) (fn : BitVec 6) (d a : Reg) (sub : BitVec 4) (im : BitVec 32) : wOp (packImm p op fn d a sub im) = op := by
  apply BitVec.eq_of_getLsbD_eq
  intro i hi
  simp only [wOp, packImm, BitVec.getLsbD_extractLsb', BitVec.getLsbD_append, hi, decide_true, Bool.true_and]
  repeat first | rw [if_neg (by omega)] | rw [if_pos (by omega)]
  all_goals first | rfl | (congr 1; omega)

theorem wFn_packImm (p : Pred) (op : BitVec 8) (fn : BitVec 6) (d a : Reg) (sub : BitVec 4) (im : BitVec 32) : wFn (packImm p op fn d a sub im) = fn := by
  apply BitVec.eq_of_getLsbD_eq
  intro i hi
  simp only [wFn, packImm, BitVec.getLsbD_extractLsb', BitVec.getLsbD_append, hi, decide_true, Bool.true_and]
  repeat first | rw [if_neg (by omega)] | rw [if_pos (by omega)]
  all_goals first | rfl | (congr 1; omega)

theorem wD_packImm (p : Pred) (op : BitVec 8) (fn : BitVec 6) (d a : Reg) (sub : BitVec 4) (im : BitVec 32) : wD (packImm p op fn d a sub im) = d := by
  apply BitVec.eq_of_getLsbD_eq
  intro i hi
  simp only [wD, packImm, BitVec.getLsbD_extractLsb', BitVec.getLsbD_append, hi, decide_true, Bool.true_and]
  repeat first | rw [if_neg (by omega)] | rw [if_pos (by omega)]
  all_goals first | rfl | (congr 1; omega)

theorem wA_packImm (p : Pred) (op : BitVec 8) (fn : BitVec 6) (d a : Reg) (sub : BitVec 4) (im : BitVec 32) : wA (packImm p op fn d a sub im) = a := by
  apply BitVec.eq_of_getLsbD_eq
  intro i hi
  simp only [wA, packImm, BitVec.getLsbD_extractLsb', BitVec.getLsbD_append, hi, decide_true, Bool.true_and]
  repeat first | rw [if_neg (by omega)] | rw [if_pos (by omega)]
  all_goals first | rfl | (congr 1; omega)

theorem wSub_packImm (p : Pred) (op : BitVec 8) (fn : BitVec 6) (d a : Reg) (sub : BitVec 4) (im : BitVec 32) : wSub (packImm p op fn d a sub im) = sub := by
  apply BitVec.eq_of_getLsbD_eq
  intro i hi
  simp only [wSub, packImm, BitVec.getLsbD_extractLsb', BitVec.getLsbD_append, hi, decide_true, Bool.true_and]
  repeat first | rw [if_neg (by omega)] | rw [if_pos (by omega)]
  all_goals first | rfl | (congr 1; omega)

theorem wI32_packImm (p : Pred) (op : BitVec 8) (fn : BitVec 6) (d a : Reg) (sub : BitVec 4) (im : BitVec 32) : wI32 (packImm p op fn d a sub im) = im := by
  apply BitVec.eq_of_getLsbD_eq
  intro i hi
  simp only [wI32, packImm, BitVec.getLsbD_extractLsb', BitVec.getLsbD_append, hi, decide_true, Bool.true_and]
  repeat first | rw [if_neg (by omega)] | rw [if_pos (by omega)]
  all_goals first | rfl | (congr 1; omega)

theorem packImm_p0 (p : Pred) (op : BitVec 8) (fn : BitVec 6) (d a : Reg) (sub : BitVec 4) (im : BitVec 32) : (packImm p op fn d a sub im).extractLsb' 63 1 = bit1 p.n := by
  apply BitVec.eq_of_getLsbD_eq
  intro i hi
  simp only [packImm, BitVec.getLsbD_extractLsb', BitVec.getLsbD_append, hi, decide_true, Bool.true_and]
  repeat first | rw [if_neg (by omega)] | rw [if_pos (by omega)]
  all_goals first | rfl | (congr 1; omega)

theorem packImm_p1 (p : Pred) (op : BitVec 8) (fn : BitVec 6) (d a : Reg) (sub : BitVec 4) (im : BitVec 32) : (packImm p op fn d a sub im).extractLsb' 60 3 = p.g := by
  apply BitVec.eq_of_getLsbD_eq
  intro i hi
  simp only [packImm, BitVec.getLsbD_extractLsb', BitVec.getLsbD_append, hi, decide_true, Bool.true_and]
  repeat first | rw [if_neg (by omega)] | rw [if_pos (by omega)]
  all_goals first | rfl | (congr 1; omega)

theorem wP_packImm (p : Pred) (op : BitVec 8) (fn : BitVec 6) (d a : Reg) (sub : BitVec 4) (im : BitVec 32) : wP (packImm p op fn d a sub im) = p := by
  simp only [wP, packImm_p0, packImm_p1, bit1_eq_one]

theorem wOp_packPrd (p : Pred) (op : BitVec 8) (fn : BitVec 6) (gd : GDst) (a b : Reg) (x : BitVec 26) : wOp (packPrd p op fn gd a b x) = op := by
  apply BitVec.eq_of_getLsbD_eq
  intro i hi
  simp only [wOp, packPrd, BitVec.getLsbD_extractLsb', BitVec.getLsbD_append, hi, decide_true, Bool.true_and]
  repeat first | rw [if_neg (by omega)] | rw [if_pos (by omega)]
  all_goals first | rfl | (congr 1; omega)

theorem wFn_packPrd (p : Pred) (op : BitVec 8) (fn : BitVec 6) (gd : GDst) (a b : Reg) (x : BitVec 26) : wFn (packPrd p op fn gd a b x) = fn := by
  apply BitVec.eq_of_getLsbD_eq
  intro i hi
  simp only [wFn, packPrd, BitVec.getLsbD_extractLsb', BitVec.getLsbD_append, hi, decide_true, Bool.true_and]
  repeat first | rw [if_neg (by omega)] | rw [if_pos (by omega)]
  all_goals first | rfl | (congr 1; omega)

theorem wA_packPrd (p : Pred) (op : BitVec 8) (fn : BitVec 6) (gd : GDst) (a b : Reg) (x : BitVec 26) : wA (packPrd p op fn gd a b x) = a := by
  apply BitVec.eq_of_getLsbD_eq
  intro i hi
  simp only [wA, packPrd, BitVec.getLsbD_extractLsb', BitVec.getLsbD_append, hi, decide_true, Bool.true_and]
  repeat first | rw [if_neg (by omega)] | rw [if_pos (by omega)]
  all_goals first | rfl | (congr 1; omega)

theorem wB_packPrd (p : Pred) (op : BitVec 8) (fn : BitVec 6) (gd : GDst) (a b : Reg) (x : BitVec 26) : wB (packPrd p op fn gd a b x) = b := by
  apply BitVec.eq_of_getLsbD_eq
  intro i hi
  simp only [wB, packPrd, BitVec.getLsbD_extractLsb', BitVec.getLsbD_append, hi, decide_true, Bool.true_and]
  repeat first | rw [if_neg (by omega)] | rw [if_pos (by omega)]
  all_goals first | rfl | (congr 1; omega)

theorem packPrd_p0 (p : Pred) (op : BitVec 8) (fn : BitVec 6) (gd : GDst) (a b : Reg) (x : BitVec 26) : (packPrd p op fn gd a b x).extractLsb' 63 1 = bit1 p.n := by
  apply BitVec.eq_of_getLsbD_eq
  intro i hi
  simp only [packPrd, BitVec.getLsbD_extractLsb', BitVec.getLsbD_append, hi, decide_true, Bool.true_and]
  repeat first | rw [if_neg (by omega)] | rw [if_pos (by omega)]
  all_goals first | rfl | (congr 1; omega)

theorem packPrd_p1 (p : Pred) (op : BitVec 8) (fn : BitVec 6) (gd : GDst) (a b : Reg) (x : BitVec 26) : (packPrd p op fn gd a b x).extractLsb' 60 3 = p.g := by
  apply BitVec.eq_of_getLsbD_eq
  intro i hi
  simp only [packPrd, BitVec.getLsbD_extractLsb', BitVec.getLsbD_append, hi, decide_true, Bool.true_and]
  repeat first | rw [if_neg (by omega)] | rw [if_pos (by omega)]
  all_goals first | rfl | (congr 1; omega)

theorem wP_packPrd (p : Pred) (op : BitVec 8) (fn : BitVec 6) (gd : GDst) (a b : Reg) (x : BitVec 26) : wP (packPrd p op fn gd a b x) = p := by
  simp only [wP, packPrd_p0, packPrd_p1, bit1_eq_one]

theorem packPrd_gd0 (p : Pred) (op : BitVec 8) (fn : BitVec 6) (gd : GDst) (a b : Reg) (x : BitVec 26) : (packPrd p op fn gd a b x).extractLsb' 43 3 = gd.pd1 := by
  apply BitVec.eq_of_getLsbD_eq
  intro i hi
  simp only [packPrd, BitVec.getLsbD_extractLsb', BitVec.getLsbD_append, hi, decide_true, Bool.true_and]
  repeat first | rw [if_neg (by omega)] | rw [if_pos (by omega)]
  all_goals first | rfl | (congr 1; omega)

theorem packPrd_gd1 (p : Pred) (op : BitVec 8) (fn : BitVec 6) (gd : GDst) (a b : Reg) (x : BitVec 26) : (packPrd p op fn gd a b x).extractLsb' 41 2 = gd.cmb.code := by
  apply BitVec.eq_of_getLsbD_eq
  intro i hi
  simp only [packPrd, BitVec.getLsbD_extractLsb', BitVec.getLsbD_append, hi, decide_true, Bool.true_and]
  repeat first | rw [if_neg (by omega)] | rw [if_pos (by omega)]
  all_goals first | rfl | (congr 1; omega)

theorem packPrd_gd2 (p : Pred) (op : BitVec 8) (fn : BitVec 6) (gd : GDst) (a b : Reg) (x : BitVec 26) : (packPrd p op fn gd a b x).extractLsb' 28 3 = gd.pd2 := by
  apply BitVec.eq_of_getLsbD_eq
  intro i hi
  simp only [packPrd, BitVec.getLsbD_extractLsb', BitVec.getLsbD_append, hi, decide_true, Bool.true_and]
  repeat first | rw [if_neg (by omega)] | rw [if_pos (by omega)]
  all_goals first | rfl | (congr 1; omega)

theorem wGd_packPrd (p : Pred) (op : BitVec 8) (fn : BitVec 6) (gd : GDst) (a b : Reg) (x : BitVec 26) : wGd (packPrd p op fn gd a b x) = gd := by
  simp only [wGd, packPrd_gd0, packPrd_gd1, packPrd_gd2, cmb_ofCode_code]

theorem wOp_packPri (p : Pred) (op : BitVec 8) (fn : BitVec 6) (gd : GDst) (a : Reg) (im : BitVec 32) : wOp (packPri p op fn gd a im) = op := by
  apply BitVec.eq_of_getLsbD_eq
  intro i hi
  simp only [wOp, packPri, BitVec.getLsbD_extractLsb', BitVec.getLsbD_append, hi, decide_true, Bool.true_and]
  repeat first | rw [if_neg (by omega)] | rw [if_pos (by omega)]
  all_goals first | rfl | (congr 1; omega)

theorem wFn_packPri (p : Pred) (op : BitVec 8) (fn : BitVec 6) (gd : GDst) (a : Reg) (im : BitVec 32) : wFn (packPri p op fn gd a im) = fn := by
  apply BitVec.eq_of_getLsbD_eq
  intro i hi
  simp only [wFn, packPri, BitVec.getLsbD_extractLsb', BitVec.getLsbD_append, hi, decide_true, Bool.true_and]
  repeat first | rw [if_neg (by omega)] | rw [if_pos (by omega)]
  all_goals first | rfl | (congr 1; omega)

theorem wA_packPri (p : Pred) (op : BitVec 8) (fn : BitVec 6) (gd : GDst) (a : Reg) (im : BitVec 32) : wA (packPri p op fn gd a im) = a := by
  apply BitVec.eq_of_getLsbD_eq
  intro i hi
  simp only [wA, packPri, BitVec.getLsbD_extractLsb', BitVec.getLsbD_append, hi, decide_true, Bool.true_and]
  repeat first | rw [if_neg (by omega)] | rw [if_pos (by omega)]
  all_goals first | rfl | (congr 1; omega)

theorem wI32_packPri (p : Pred) (op : BitVec 8) (fn : BitVec 6) (gd : GDst) (a : Reg) (im : BitVec 32) : wI32 (packPri p op fn gd a im) = im := by
  apply BitVec.eq_of_getLsbD_eq
  intro i hi
  simp only [wI32, packPri, BitVec.getLsbD_extractLsb', BitVec.getLsbD_append, hi, decide_true, Bool.true_and]
  repeat first | rw [if_neg (by omega)] | rw [if_pos (by omega)]
  all_goals first | rfl | (congr 1; omega)

theorem packPri_p0 (p : Pred) (op : BitVec 8) (fn : BitVec 6) (gd : GDst) (a : Reg) (im : BitVec 32) : (packPri p op fn gd a im).extractLsb' 63 1 = bit1 p.n := by
  apply BitVec.eq_of_getLsbD_eq
  intro i hi
  simp only [packPri, BitVec.getLsbD_extractLsb', BitVec.getLsbD_append, hi, decide_true, Bool.true_and]
  repeat first | rw [if_neg (by omega)] | rw [if_pos (by omega)]
  all_goals first | rfl | (congr 1; omega)

theorem packPri_p1 (p : Pred) (op : BitVec 8) (fn : BitVec 6) (gd : GDst) (a : Reg) (im : BitVec 32) : (packPri p op fn gd a im).extractLsb' 60 3 = p.g := by
  apply BitVec.eq_of_getLsbD_eq
  intro i hi
  simp only [packPri, BitVec.getLsbD_extractLsb', BitVec.getLsbD_append, hi, decide_true, Bool.true_and]
  repeat first | rw [if_neg (by omega)] | rw [if_pos (by omega)]
  all_goals first | rfl | (congr 1; omega)

theorem wP_packPri (p : Pred) (op : BitVec 8) (fn : BitVec 6) (gd : GDst) (a : Reg) (im : BitVec 32) : wP (packPri p op fn gd a im) = p := by
  simp only [wP, packPri_p0, packPri_p1, bit1_eq_one]

theorem packPri_gd0 (p : Pred) (op : BitVec 8) (fn : BitVec 6) (gd : GDst) (a : Reg) (im : BitVec 32) : (packPri p op fn gd a im).extractLsb' 43 3 = gd.pd1 := by
  apply BitVec.eq_of_getLsbD_eq
  intro i hi
  simp only [packPri, BitVec.getLsbD_extractLsb', BitVec.getLsbD_append, hi, decide_true, Bool.true_and]
  repeat first | rw [if_neg (by omega)] | rw [if_pos (by omega)]
  all_goals first | rfl | (congr 1; omega)

theorem packPri_gd1 (p : Pred) (op : BitVec 8) (fn : BitVec 6) (gd : GDst) (a : Reg) (im : BitVec 32) : (packPri p op fn gd a im).extractLsb' 41 2 = gd.cmb.code := by
  apply BitVec.eq_of_getLsbD_eq
  intro i hi
  simp only [packPri, BitVec.getLsbD_extractLsb', BitVec.getLsbD_append, hi, decide_true, Bool.true_and]
  repeat first | rw [if_neg (by omega)] | rw [if_pos (by omega)]
  all_goals first | rfl | (congr 1; omega)

theorem packPri_gd2 (p : Pred) (op : BitVec 8) (fn : BitVec 6) (gd : GDst) (a : Reg) (im : BitVec 32) : (packPri p op fn gd a im).extractLsb' 33 3 = gd.pd2 := by
  apply BitVec.eq_of_getLsbD_eq
  intro i hi
  simp only [packPri, BitVec.getLsbD_extractLsb', BitVec.getLsbD_append, hi, decide_true, Bool.true_and]
  repeat first | rw [if_neg (by omega)] | rw [if_pos (by omega)]
  all_goals first | rfl | (congr 1; omega)

theorem wGdi_packPri (p : Pred) (op : BitVec 8) (fn : BitVec 6) (gd : GDst) (a : Reg) (im : BitVec 32) : wGdi (packPri p op fn gd a im) = gd := by
  simp only [wGdi, packPri_gd0, packPri_gd1, packPri_gd2, cmb_ofCode_code]

theorem wTy_packReg (p : Pred) (op : BitVec 8) (fn : BitVec 6) (d a b c : Reg) (x : BitVec 26) : wTy (packReg p op fn d a b c x) = x.extractLsb' 22 4 := by
  apply BitVec.eq_of_getLsbD_eq
  intro i hi
  simp only [wTy, packReg, BitVec.getLsbD_extractLsb', BitVec.getLsbD_append, hi, decide_true, Bool.true_and]
  repeat first | rw [if_neg (by omega)] | rw [if_pos (by omega)]
  all_goals first | rfl | (congr 1; omega)

theorem wRm_packReg (p : Pred) (op : BitVec 8) (fn : BitVec 6) (d a b c : Reg) (x : BitVec 26) : wRm (packReg p op fn d a b c x) = x.extractLsb' 20 2 := by
  apply BitVec.eq_of_getLsbD_eq
  intro i hi
  simp only [wRm, packReg, BitVec.getLsbD_extractLsb', BitVec.getLsbD_append, hi, decide_true, Bool.true_and]
  repeat first | rw [if_neg (by omega)] | rw [if_pos (by omega)]
  all_goals first | rfl | (congr 1; omega)

theorem wMk_packReg (p : Pred) (op : BitVec 8) (fn : BitVec 6) (d a b c : Reg) (x : BitVec 26) : wMk (packReg p op fn d a b c x) = x.extractLsb' 17 3 := by
  apply BitVec.eq_of_getLsbD_eq
  intro i hi
  simp only [wMk, packReg, BitVec.getLsbD_extractLsb', BitVec.getLsbD_append, hi, decide_true, Bool.true_and]
  repeat first | rw [if_neg (by omega)] | rw [if_pos (by omega)]
  all_goals first | rfl | (congr 1; omega)

theorem wMa_packReg (p : Pred) (op : BitVec 8) (fn : BitVec 6) (d a b c : Reg) (x : BitVec 26) : wMa (packReg p op fn d a b c x) = x.extractLsb' 16 1 := by
  apply BitVec.eq_of_getLsbD_eq
  intro i hi
  simp only [wMa, packReg, BitVec.getLsbD_extractLsb', BitVec.getLsbD_append, hi, decide_true, Bool.true_and]
  repeat first | rw [if_neg (by omega)] | rw [if_pos (by omega)]
  all_goals first | rfl | (congr 1; omega)

theorem wFqe_packReg (p : Pred) (op : BitVec 8) (fn : BitVec 6) (d a b c : Reg) (x : BitVec 26) : wFqe (packReg p op fn d a b c x) = x.extractLsb' 15 1 := by
  apply BitVec.eq_of_getLsbD_eq
  intro i hi
  simp only [wFqe, packReg, BitVec.getLsbD_extractLsb', BitVec.getLsbD_append, hi, decide_true, Bool.true_and]
  repeat first | rw [if_neg (by omega)] | rw [if_pos (by omega)]
  all_goals first | rfl | (congr 1; omega)

theorem wFqi_packReg (p : Pred) (op : BitVec 8) (fn : BitVec 6) (d a b c : Reg) (x : BitVec 26) : wFqi (packReg p op fn d a b c x) = x.extractLsb' 14 1 := by
  apply BitVec.eq_of_getLsbD_eq
  intro i hi
  simp only [wFqi, packReg, BitVec.getLsbD_extractLsb', BitVec.getLsbD_append, hi, decide_true, Bool.true_and]
  repeat first | rw [if_neg (by omega)] | rw [if_pos (by omega)]
  all_goals first | rfl | (congr 1; omega)

theorem wTy2_packReg (p : Pred) (op : BitVec 8) (fn : BitVec 6) (d a b c : Reg) (x : BitVec 26) : wTy2 (packReg p op fn d a b c x) = x.extractLsb' 10 4 := by
  apply BitVec.eq_of_getLsbD_eq
  intro i hi
  simp only [wTy2, packReg, BitVec.getLsbD_extractLsb', BitVec.getLsbD_append, hi, decide_true, Bool.true_and]
  repeat first | rw [if_neg (by omega)] | rw [if_pos (by omega)]
  all_goals first | rfl | (congr 1; omega)

theorem wI10_packReg (p : Pred) (op : BitVec 8) (fn : BitVec 6) (d a b c : Reg) (x : BitVec 26) : wI10 (packReg p op fn d a b c x) = x.extractLsb' 0 10 := by
  apply BitVec.eq_of_getLsbD_eq
  intro i hi
  simp only [wI10, packReg, BitVec.getLsbD_extractLsb', BitVec.getLsbD_append, hi, decide_true, Bool.true_and]
  repeat first | rw [if_neg (by omega)] | rw [if_pos (by omega)]
  all_goals first | rfl | (congr 1; omega)

theorem wTy_packPrd (p : Pred) (op : BitVec 8) (fn : BitVec 6) (gd : GDst) (a b : Reg) (x : BitVec 26) : wTy (packPrd p op fn gd a b x) = x.extractLsb' 22 4 := by
  apply BitVec.eq_of_getLsbD_eq
  intro i hi
  simp only [wTy, packPrd, BitVec.getLsbD_extractLsb', BitVec.getLsbD_append, hi, decide_true, Bool.true_and]
  repeat first | rw [if_neg (by omega)] | rw [if_pos (by omega)]
  all_goals first | rfl | (congr 1; omega)

theorem wRm_packPrd (p : Pred) (op : BitVec 8) (fn : BitVec 6) (gd : GDst) (a b : Reg) (x : BitVec 26) : wRm (packPrd p op fn gd a b x) = x.extractLsb' 20 2 := by
  apply BitVec.eq_of_getLsbD_eq
  intro i hi
  simp only [wRm, packPrd, BitVec.getLsbD_extractLsb', BitVec.getLsbD_append, hi, decide_true, Bool.true_and]
  repeat first | rw [if_neg (by omega)] | rw [if_pos (by omega)]
  all_goals first | rfl | (congr 1; omega)

theorem wMk_packPrd (p : Pred) (op : BitVec 8) (fn : BitVec 6) (gd : GDst) (a b : Reg) (x : BitVec 26) : wMk (packPrd p op fn gd a b x) = x.extractLsb' 17 3 := by
  apply BitVec.eq_of_getLsbD_eq
  intro i hi
  simp only [wMk, packPrd, BitVec.getLsbD_extractLsb', BitVec.getLsbD_append, hi, decide_true, Bool.true_and]
  repeat first | rw [if_neg (by omega)] | rw [if_pos (by omega)]
  all_goals first | rfl | (congr 1; omega)

theorem wMa_packPrd (p : Pred) (op : BitVec 8) (fn : BitVec 6) (gd : GDst) (a b : Reg) (x : BitVec 26) : wMa (packPrd p op fn gd a b x) = x.extractLsb' 16 1 := by
  apply BitVec.eq_of_getLsbD_eq
  intro i hi
  simp only [wMa, packPrd, BitVec.getLsbD_extractLsb', BitVec.getLsbD_append, hi, decide_true, Bool.true_and]
  repeat first | rw [if_neg (by omega)] | rw [if_pos (by omega)]
  all_goals first | rfl | (congr 1; omega)

theorem wFqe_packPrd (p : Pred) (op : BitVec 8) (fn : BitVec 6) (gd : GDst) (a b : Reg) (x : BitVec 26) : wFqe (packPrd p op fn gd a b x) = x.extractLsb' 15 1 := by
  apply BitVec.eq_of_getLsbD_eq
  intro i hi
  simp only [wFqe, packPrd, BitVec.getLsbD_extractLsb', BitVec.getLsbD_append, hi, decide_true, Bool.true_and]
  repeat first | rw [if_neg (by omega)] | rw [if_pos (by omega)]
  all_goals first | rfl | (congr 1; omega)

theorem wFqi_packPrd (p : Pred) (op : BitVec 8) (fn : BitVec 6) (gd : GDst) (a b : Reg) (x : BitVec 26) : wFqi (packPrd p op fn gd a b x) = x.extractLsb' 14 1 := by
  apply BitVec.eq_of_getLsbD_eq
  intro i hi
  simp only [wFqi, packPrd, BitVec.getLsbD_extractLsb', BitVec.getLsbD_append, hi, decide_true, Bool.true_and]
  repeat first | rw [if_neg (by omega)] | rw [if_pos (by omega)]
  all_goals first | rfl | (congr 1; omega)

theorem wTy2_packPrd (p : Pred) (op : BitVec 8) (fn : BitVec 6) (gd : GDst) (a b : Reg) (x : BitVec 26) : wTy2 (packPrd p op fn gd a b x) = x.extractLsb' 10 4 := by
  apply BitVec.eq_of_getLsbD_eq
  intro i hi
  simp only [wTy2, packPrd, BitVec.getLsbD_extractLsb', BitVec.getLsbD_append, hi, decide_true, Bool.true_and]
  repeat first | rw [if_neg (by omega)] | rw [if_pos (by omega)]
  all_goals first | rfl | (congr 1; omega)

theorem wI10_packPrd (p : Pred) (op : BitVec 8) (fn : BitVec 6) (gd : GDst) (a b : Reg) (x : BitVec 26) : wI10 (packPrd p op fn gd a b x) = x.extractLsb' 0 10 := by
  apply BitVec.eq_of_getLsbD_eq
  intro i hi
  simp only [wI10, packPrd, BitVec.getLsbD_extractLsb', BitVec.getLsbD_append, hi, decide_true, Bool.true_and]
  repeat first | rw [if_neg (by omega)] | rw [if_pos (by omega)]
  all_goals first | rfl | (congr 1; omega)

theorem packX_ty (ty : BitVec 4) (rm : BitVec 2) (mk : BitVec 3) (ma fqe fqi : BitVec 1) (ty2 : BitVec 4) (im : BitVec 10) :
    (packX ty rm mk ma fqe fqi ty2 im).extractLsb' 22 4 = ty := by
  apply BitVec.eq_of_getLsbD_eq
  intro i hi
  simp only [packX, BitVec.getLsbD_extractLsb', BitVec.getLsbD_append, hi, decide_true, Bool.true_and]
  repeat first | rw [if_neg (by omega)] | rw [if_pos (by omega)]
  all_goals first | rfl | (congr 1; omega)

theorem packX_rm (ty : BitVec 4) (rm : BitVec 2) (mk : BitVec 3) (ma fqe fqi : BitVec 1) (ty2 : BitVec 4) (im : BitVec 10) :
    (packX ty rm mk ma fqe fqi ty2 im).extractLsb' 20 2 = rm := by
  apply BitVec.eq_of_getLsbD_eq
  intro i hi
  simp only [packX, BitVec.getLsbD_extractLsb', BitVec.getLsbD_append, hi, decide_true, Bool.true_and]
  repeat first | rw [if_neg (by omega)] | rw [if_pos (by omega)]
  all_goals first | rfl | (congr 1; omega)

theorem packX_mk (ty : BitVec 4) (rm : BitVec 2) (mk : BitVec 3) (ma fqe fqi : BitVec 1) (ty2 : BitVec 4) (im : BitVec 10) :
    (packX ty rm mk ma fqe fqi ty2 im).extractLsb' 17 3 = mk := by
  apply BitVec.eq_of_getLsbD_eq
  intro i hi
  simp only [packX, BitVec.getLsbD_extractLsb', BitVec.getLsbD_append, hi, decide_true, Bool.true_and]
  repeat first | rw [if_neg (by omega)] | rw [if_pos (by omega)]
  all_goals first | rfl | (congr 1; omega)

theorem packX_ma (ty : BitVec 4) (rm : BitVec 2) (mk : BitVec 3) (ma fqe fqi : BitVec 1) (ty2 : BitVec 4) (im : BitVec 10) :
    (packX ty rm mk ma fqe fqi ty2 im).extractLsb' 16 1 = ma := by
  apply BitVec.eq_of_getLsbD_eq
  intro i hi
  simp only [packX, BitVec.getLsbD_extractLsb', BitVec.getLsbD_append, hi, decide_true, Bool.true_and]
  repeat first | rw [if_neg (by omega)] | rw [if_pos (by omega)]
  all_goals first | rfl | (congr 1; omega)

theorem packX_fqe (ty : BitVec 4) (rm : BitVec 2) (mk : BitVec 3) (ma fqe fqi : BitVec 1) (ty2 : BitVec 4) (im : BitVec 10) :
    (packX ty rm mk ma fqe fqi ty2 im).extractLsb' 15 1 = fqe := by
  apply BitVec.eq_of_getLsbD_eq
  intro i hi
  simp only [packX, BitVec.getLsbD_extractLsb', BitVec.getLsbD_append, hi, decide_true, Bool.true_and]
  repeat first | rw [if_neg (by omega)] | rw [if_pos (by omega)]
  all_goals first | rfl | (congr 1; omega)

theorem packX_fqi (ty : BitVec 4) (rm : BitVec 2) (mk : BitVec 3) (ma fqe fqi : BitVec 1) (ty2 : BitVec 4) (im : BitVec 10) :
    (packX ty rm mk ma fqe fqi ty2 im).extractLsb' 14 1 = fqi := by
  apply BitVec.eq_of_getLsbD_eq
  intro i hi
  simp only [packX, BitVec.getLsbD_extractLsb', BitVec.getLsbD_append, hi, decide_true, Bool.true_and]
  repeat first | rw [if_neg (by omega)] | rw [if_pos (by omega)]
  all_goals first | rfl | (congr 1; omega)

theorem packX_ty2 (ty : BitVec 4) (rm : BitVec 2) (mk : BitVec 3) (ma fqe fqi : BitVec 1) (ty2 : BitVec 4) (im : BitVec 10) :
    (packX ty rm mk ma fqe fqi ty2 im).extractLsb' 10 4 = ty2 := by
  apply BitVec.eq_of_getLsbD_eq
  intro i hi
  simp only [packX, BitVec.getLsbD_extractLsb', BitVec.getLsbD_append, hi, decide_true, Bool.true_and]
  repeat first | rw [if_neg (by omega)] | rw [if_pos (by omega)]
  all_goals first | rfl | (congr 1; omega)

theorem packX_im (ty : BitVec 4) (rm : BitVec 2) (mk : BitVec 3) (ma fqe fqi : BitVec 1) (ty2 : BitVec 4) (im : BitVec 10) :
    (packX ty rm mk ma fqe fqi ty2 im).extractLsb' 0 10 = im := by
  apply BitVec.eq_of_getLsbD_eq
  intro i hi
  simp only [packX, BitVec.getLsbD_extractLsb', BitVec.getLsbD_append, hi, decide_true, Bool.true_and]
  repeat first | rw [if_neg (by omega)] | rw [if_pos (by omega)]
  all_goals first | rfl | (congr 1; omega)

/-- An operation with legal operands is the one its word stands for, before the checks of R77. -/
def EncodeWord.Statement (i : Instr) : Prop := i.wf = true → ∀ w, encode i = some w → candidate w = .ok i

theorem chImm0 (p : Pred) (op : BitVec 8) (fn : BitVec 6) (d a : Reg) (sub : BitVec 4) (ci : ChImm) :
    (packImm p op fn d a sub (0#17 ++ (ci.ctx ++ (bit1 ci.pin ++ (bit1 ci.x ++ (ci.prio ++ (0#2 ++ ci.ch))))))).extractLsb' 0 6 = ci.ch := by
  apply BitVec.eq_of_getLsbD_eq
  intro i hi
  simp only [packImm, BitVec.getLsbD_extractLsb', BitVec.getLsbD_append, hi, decide_true, Bool.true_and]
  repeat first | rw [if_neg (by omega)] | rw [if_pos (by omega)]
  all_goals first | rfl | (congr 1; omega)

theorem chImm1 (p : Pred) (op : BitVec 8) (fn : BitVec 6) (d a : Reg) (sub : BitVec 4) (ci : ChImm) :
    (packImm p op fn d a sub (0#17 ++ (ci.ctx ++ (bit1 ci.pin ++ (bit1 ci.x ++ (ci.prio ++ (0#2 ++ ci.ch))))))).extractLsb' 8 3 = ci.prio := by
  apply BitVec.eq_of_getLsbD_eq
  intro i hi
  simp only [packImm, BitVec.getLsbD_extractLsb', BitVec.getLsbD_append, hi, decide_true, Bool.true_and]
  repeat first | rw [if_neg (by omega)] | rw [if_pos (by omega)]
  all_goals first | rfl | (congr 1; omega)

theorem chImm2 (p : Pred) (op : BitVec 8) (fn : BitVec 6) (d a : Reg) (sub : BitVec 4) (ci : ChImm) :
    (packImm p op fn d a sub (0#17 ++ (ci.ctx ++ (bit1 ci.pin ++ (bit1 ci.x ++ (ci.prio ++ (0#2 ++ ci.ch))))))).extractLsb' 11 1 = bit1 ci.x := by
  apply BitVec.eq_of_getLsbD_eq
  intro i hi
  simp only [packImm, BitVec.getLsbD_extractLsb', BitVec.getLsbD_append, hi, decide_true, Bool.true_and]
  repeat first | rw [if_neg (by omega)] | rw [if_pos (by omega)]
  all_goals first | rfl | (congr 1; omega)

theorem chImm3 (p : Pred) (op : BitVec 8) (fn : BitVec 6) (d a : Reg) (sub : BitVec 4) (ci : ChImm) :
    (packImm p op fn d a sub (0#17 ++ (ci.ctx ++ (bit1 ci.pin ++ (bit1 ci.x ++ (ci.prio ++ (0#2 ++ ci.ch))))))).extractLsb' 12 1 = bit1 ci.pin := by
  apply BitVec.eq_of_getLsbD_eq
  intro i hi
  simp only [packImm, BitVec.getLsbD_extractLsb', BitVec.getLsbD_append, hi, decide_true, Bool.true_and]
  repeat first | rw [if_neg (by omega)] | rw [if_pos (by omega)]
  all_goals first | rfl | (congr 1; omega)

theorem chImm4 (p : Pred) (op : BitVec 8) (fn : BitVec 6) (d a : Reg) (sub : BitVec 4) (ci : ChImm) :
    (packImm p op fn d a sub (0#17 ++ (ci.ctx ++ (bit1 ci.pin ++ (bit1 ci.x ++ (ci.prio ++ (0#2 ++ ci.ch))))))).extractLsb' 13 2 = ci.ctx := by
  apply BitVec.eq_of_getLsbD_eq
  intro i hi
  simp only [packImm, BitVec.getLsbD_extractLsb', BitVec.getLsbD_append, hi, decide_true, Bool.true_and]
  repeat first | rw [if_neg (by omega)] | rw [if_pos (by omega)]
  all_goals first | rfl | (congr 1; omega)

theorem wCh_packImm (p : Pred) (op : BitVec 8) (fn : BitVec 6) (d a : Reg) (sub : BitVec 4) (ci : ChImm) :
    wCh (packImm p op fn d a sub (0#17 ++ (ci.ctx ++ (bit1 ci.pin ++ (bit1 ci.x ++ (ci.prio ++ (0#2 ++ ci.ch))))))) = ci := by
  simp only [wCh, chImm0, chImm1, chImm2, chImm3, chImm4, bit1_eq_one]

theorem fieldsReg (p : Pred) (op : BitVec 8) (fn : BitVec 6) (d a b c : Reg) (x : BitVec 26) :
    (wOp (packReg p op fn d a b c x) = op) ∧
    (wFn (packReg p op fn d a b c x) = fn) ∧
    (wD (packReg p op fn d a b c x) = d) ∧
    (wA (packReg p op fn d a b c x) = a) ∧
    (wB (packReg p op fn d a b c x) = b) ∧
    (wC (packReg p op fn d a b c x) = c) ∧
    (wP (packReg p op fn d a b c x) = p) ∧
    (wTy (packReg p op fn d a b c x) = x.extractLsb' 22 4) ∧
    (wRm (packReg p op fn d a b c x) = x.extractLsb' 20 2) ∧
    (wMk (packReg p op fn d a b c x) = x.extractLsb' 17 3) ∧
    (wMa (packReg p op fn d a b c x) = x.extractLsb' 16 1) ∧
    (wFqe (packReg p op fn d a b c x) = x.extractLsb' 15 1) ∧
    (wFqi (packReg p op fn d a b c x) = x.extractLsb' 14 1) ∧
    (wTy2 (packReg p op fn d a b c x) = x.extractLsb' 10 4) ∧
    (wI10 (packReg p op fn d a b c x) = x.extractLsb' 0 10) :=
  ⟨wOp_packReg .., wFn_packReg .., wD_packReg .., wA_packReg .., wB_packReg .., wC_packReg .., wP_packReg .., wTy_packReg .., wRm_packReg .., wMk_packReg .., wMa_packReg .., wFqe_packReg .., wFqi_packReg .., wTy2_packReg .., wI10_packReg ..⟩

theorem fieldsImm (p : Pred) (op : BitVec 8) (fn : BitVec 6) (d a : Reg) (sub : BitVec 4) (im : BitVec 32) :
    (wOp (packImm p op fn d a sub im) = op) ∧
    (wFn (packImm p op fn d a sub im) = fn) ∧
    (wD (packImm p op fn d a sub im) = d) ∧
    (wA (packImm p op fn d a sub im) = a) ∧
    (wSub (packImm p op fn d a sub im) = sub) ∧
    (wI32 (packImm p op fn d a sub im) = im) ∧
    (wP (packImm p op fn d a sub im) = p) :=
  ⟨wOp_packImm .., wFn_packImm .., wD_packImm .., wA_packImm .., wSub_packImm .., wI32_packImm .., wP_packImm ..⟩

theorem fieldsPrd (p : Pred) (op : BitVec 8) (fn : BitVec 6) (gd : GDst) (a b : Reg) (x : BitVec 26) :
    (wOp (packPrd p op fn gd a b x) = op) ∧
    (wFn (packPrd p op fn gd a b x) = fn) ∧
    (wA (packPrd p op fn gd a b x) = a) ∧
    (wB (packPrd p op fn gd a b x) = b) ∧
    (wP (packPrd p op fn gd a b x) = p) ∧
    (wGd (packPrd p op fn gd a b x) = gd) ∧
    (wTy (packPrd p op fn gd a b x) = x.extractLsb' 22 4) ∧
    (wRm (packPrd p op fn gd a b x) = x.extractLsb' 20 2) ∧
    (wMk (packPrd p op fn gd a b x) = x.extractLsb' 17 3) ∧
    (wMa (packPrd p op fn gd a b x) = x.extractLsb' 16 1) ∧
    (wFqe (packPrd p op fn gd a b x) = x.extractLsb' 15 1) ∧
    (wFqi (packPrd p op fn gd a b x) = x.extractLsb' 14 1) ∧
    (wTy2 (packPrd p op fn gd a b x) = x.extractLsb' 10 4) ∧
    (wI10 (packPrd p op fn gd a b x) = x.extractLsb' 0 10) :=
  ⟨wOp_packPrd .., wFn_packPrd .., wA_packPrd .., wB_packPrd .., wP_packPrd .., wGd_packPrd .., wTy_packPrd .., wRm_packPrd .., wMk_packPrd .., wMa_packPrd .., wFqe_packPrd .., wFqi_packPrd .., wTy2_packPrd .., wI10_packPrd ..⟩

theorem fieldsPri (p : Pred) (op : BitVec 8) (fn : BitVec 6) (gd : GDst) (a : Reg) (im : BitVec 32) :
    (wOp (packPri p op fn gd a im) = op) ∧
    (wFn (packPri p op fn gd a im) = fn) ∧
    (wA (packPri p op fn gd a im) = a) ∧
    (wI32 (packPri p op fn gd a im) = im) ∧
    (wP (packPri p op fn gd a im) = p) ∧
    (wGdi (packPri p op fn gd a im) = gd) :=
  ⟨wOp_packPri .., wFn_packPri .., wA_packPri .., wI32_packPri .., wP_packPri .., wGdi_packPri ..⟩

theorem fieldsX (ty : BitVec 4) (rm : BitVec 2) (mk : BitVec 3) (ma fqe fqi : BitVec 1) (ty2 : BitVec 4) (im : BitVec 10) :
    ((packX ty rm mk ma fqe fqi ty2 im).extractLsb' 22 4 = ty) ∧
    ((packX ty rm mk ma fqe fqi ty2 im).extractLsb' 20 2 = rm) ∧
    ((packX ty rm mk ma fqe fqi ty2 im).extractLsb' 17 3 = mk) ∧
    ((packX ty rm mk ma fqe fqi ty2 im).extractLsb' 16 1 = ma) ∧
    ((packX ty rm mk ma fqe fqi ty2 im).extractLsb' 15 1 = fqe) ∧
    ((packX ty rm mk ma fqe fqi ty2 im).extractLsb' 14 1 = fqi) ∧
    ((packX ty rm mk ma fqe fqi ty2 im).extractLsb' 10 4 = ty2) ∧
    ((packX ty rm mk ma fqe fqi ty2 im).extractLsb' 0 10 = im) :=
  ⟨packX_ty .., packX_rm .., packX_mk .., packX_ma .., packX_fqe .., packX_fqi .., packX_ty2 .., packX_im ..⟩

theorem candidate_01 {w : Word} (h : wOp w = 1#8) : candidate w = candidate01 w := by
  rw [candidate, h]; rfl

theorem candidate_02 {w : Word} (h : wOp w = 2#8) : candidate w = candidate02 w := by
  rw [candidate, h]; rfl

theorem candidate_03 {w : Word} (h : wOp w = 3#8) : candidate w = candidate03 w := by
  rw [candidate, h]; rfl

theorem candidate_04 {w : Word} (h : wOp w = 4#8) : candidate w = candidate04 w := by
  rw [candidate, h]; rfl

theorem candidate_05 {w : Word} (h : wOp w = 5#8) : candidate w = candidate05 w := by
  rw [candidate, h]; rfl

theorem candidate_06 {w : Word} (h : wOp w = 6#8) : candidate w = candidate06 w := by
  rw [candidate, h]; rfl

theorem candidate_07 {w : Word} (h : wOp w = 7#8) : candidate w = candidate07 w := by
  rw [candidate, h]; rfl

theorem candidate_08 {w : Word} (h : wOp w = 8#8) : candidate w = candidate08 w := by
  rw [candidate, h]; rfl

theorem candidate_09 {w : Word} (h : wOp w = 9#8) : candidate w = candidate09 w := by
  rw [candidate, h]; rfl

theorem candidate_10 {w : Word} (h : wOp w = 16#8) : candidate w = candidate10 w := by
  rw [candidate, h]; rfl

theorem candidate_11 {w : Word} (h : wOp w = 17#8) : candidate w = candidate11 w := by
  rw [candidate, h]; rfl

theorem candidate_12 {w : Word} (h : wOp w = 18#8) : candidate w = candidate12 w := by
  rw [candidate, h]; rfl

theorem candidate_18 {w : Word} (h : wOp w = 24#8) : candidate w = candidate18 w := by
  rw [candidate, h]; rfl

theorem candidate_19 {w : Word} (h : wOp w = 25#8) : candidate w = candidate19 w := by
  rw [candidate, h]; rfl

theorem candidate_1A {w : Word} (h : wOp w = 26#8) : candidate w = candidate1A w := by
  rw [candidate, h]; rfl

theorem candidate_40 {w : Word} (h : wOp w = 64#8) : candidate w = candidate40 w := by
  rw [candidate, h]; rfl

theorem candidate_41 {w : Word} (h : wOp w = 65#8) : candidate w = candidate41 w := by
  rw [candidate, h]; rfl

theorem candidate_42 {w : Word} (h : wOp w = 66#8) : candidate w = candidate42 w := by
  rw [candidate, h]; rfl

theorem candidate_43 {w : Word} (h : wOp w = 67#8) : candidate w = candidate43 w := by
  rw [candidate, h]; rfl

theorem candidate_44 {w : Word} (h : wOp w = 68#8) : candidate w = candidate44 w := by
  rw [candidate, h]; rfl

theorem candidate_45 {w : Word} (h : wOp w = 69#8) : candidate w = candidate45 w := by
  rw [candidate, h]; rfl

theorem candidate_46 {w : Word} (h : wOp w = 70#8) : candidate w = candidate46 w := by
  rw [candidate, h]; rfl

theorem candidate_47 {w : Word} (h : wOp w = 71#8) : candidate w = candidate47 w := by
  rw [candidate, h]; rfl

theorem candidate_48 {w : Word} (h : wOp w = 72#8) : candidate w = candidate48 w := by
  rw [candidate, h]; rfl

theorem candidate_49 {w : Word} (h : wOp w = 73#8) : candidate w = candidate49 w := by
  rw [candidate, h]; rfl

theorem candidate_4A {w : Word} (h : wOp w = 74#8) : candidate w = candidate4A w := by
  rw [candidate, h]; rfl

theorem candidate_4B {w : Word} (h : wOp w = 75#8) : candidate w = candidate4B w := by
  rw [candidate, h]; rfl

theorem candidate_4C {w : Word} (h : wOp w = 76#8) : candidate w = candidate4C w := by
  rw [candidate, h]; rfl

theorem candidate_80 {w : Word} (h : wOp w = 128#8) : candidate w = candidate80 w := by
  rw [candidate, h]; rfl

theorem candidate_81 {w : Word} (h : wOp w = 129#8) : candidate w = candidate81 w := by
  rw [candidate, h]; rfl

theorem candidate_82 {w : Word} (h : wOp w = 130#8) : candidate w = candidate82 w := by
  rw [candidate, h]; rfl

theorem candidate_83 {w : Word} (h : wOp w = 131#8) : candidate w = candidate83 w := by
  rw [candidate, h]; rfl

theorem candidate_84 {w : Word} (h : wOp w = 132#8) : candidate w = candidate84 w := by
  rw [candidate, h]; rfl

theorem candidate_A0 {w : Word} (h : wOp w = 160#8) : candidate w = candidateA0 w := by
  rw [candidate, h]; rfl

theorem candidate_A1 {w : Word} (h : wOp w = 161#8) : candidate w = candidateA1 w := by
  rw [candidate, h]; rfl

theorem candidate_A2 {w : Word} (h : wOp w = 162#8) : candidate w = candidateA2 w := by
  rw [candidate, h]; rfl

theorem candidate_A3 {w : Word} (h : wOp w = 163#8) : candidate w = candidateA3 w := by
  rw [candidate, h]; rfl

theorem candidate_A4 {w : Word} (h : wOp w = 164#8) : candidate w = candidateA4 w := by
  rw [candidate, h]; rfl

theorem candidate_A5 {w : Word} (h : wOp w = 165#8) : candidate w = candidateA5 w := by
  rw [candidate, h]; rfl

theorem candidate_A6 {w : Word} (h : wOp w = 166#8) : candidate w = candidateA6 w := by
  rw [candidate, h]; rfl

theorem candidate_A7 {w : Word} (h : wOp w = 167#8) : candidate w = candidateA7 w := by
  rw [candidate, h]; rfl

theorem candidate_A8 {w : Word} (h : wOp w = 168#8) : candidate w = candidateA8 w := by
  rw [candidate, h]; rfl

theorem candidate_C0 {w : Word} (h : wOp w = 192#8) : candidate w = candidateC0 w := by
  rw [candidate, h]; rfl

theorem candidate_C1 {w : Word} (h : wOp w = 193#8) : candidate w = candidateC1 w := by
  rw [candidate, h]; rfl

theorem candidate_C2 {w : Word} (h : wOp w = 194#8) : candidate w = candidateC2 w := by
  rw [candidate, h]; rfl

theorem candidate_C3 {w : Word} (h : wOp w = 195#8) : candidate w = candidateC3 w := by
  rw [candidate, h]; rfl

theorem candidate_C4 {w : Word} (h : wOp w = 196#8) : candidate w = candidateC4 w := by
  rw [candidate, h]; rfl

theorem EncodeWord.add : ∀ x0 x1 x2 x3, EncodeWord.Statement (.add x0 x1 x2 x3) := by
  intro x0 x1 x2 x3 hw w h
  cases h
  rw [candidate_01 (wOp_packReg ..)]
  simp only [candidate01, fieldsReg]
  rfl

theorem EncodeWord.sub : ∀ x0 x1 x2 x3, EncodeWord.Statement (.sub x0 x1 x2 x3) := by
  intro x0 x1 x2 x3 hw w h
  cases h
  rw [candidate_01 (wOp_packReg ..)]
  simp only [candidate01, fieldsReg]
  rfl

theorem EncodeWord.and : ∀ x0 x1 x2 x3, EncodeWord.Statement (.and x0 x1 x2 x3) := by
  intro x0 x1 x2 x3 hw w h
  cases h
  rw [candidate_01 (wOp_packReg ..)]
  simp only [candidate01, fieldsReg]
  rfl

theorem EncodeWord.or : ∀ x0 x1 x2 x3, EncodeWord.Statement (.or x0 x1 x2 x3) := by
  intro x0 x1 x2 x3 hw w h
  cases h
  rw [candidate_01 (wOp_packReg ..)]
  simp only [candidate01, fieldsReg]
  rfl

theorem EncodeWord.xor : ∀ x0 x1 x2 x3, EncodeWord.Statement (.xor x0 x1 x2 x3) := by
  intro x0 x1 x2 x3 hw w h
  cases h
  rw [candidate_01 (wOp_packReg ..)]
  simp only [candidate01, fieldsReg]
  rfl

theorem EncodeWord.andn : ∀ x0 x1 x2 x3, EncodeWord.Statement (.andn x0 x1 x2 x3) := by
  intro x0 x1 x2 x3 hw w h
  cases h
  rw [candidate_01 (wOp_packReg ..)]
  simp only [candidate01, fieldsReg]
  rfl

theorem EncodeWord.shl : ∀ x0 x1 x2 x3, EncodeWord.Statement (.shl x0 x1 x2 x3) := by
  intro x0 x1 x2 x3 hw w h
  cases h
  rw [candidate_01 (wOp_packReg ..)]
  simp only [candidate01, fieldsReg]
  rfl

theorem EncodeWord.shr : ∀ x0 x1 x2 x3, EncodeWord.Statement (.shr x0 x1 x2 x3) := by
  intro x0 x1 x2 x3 hw w h
  cases h
  rw [candidate_01 (wOp_packReg ..)]
  simp only [candidate01, fieldsReg]
  rfl

theorem EncodeWord.sra : ∀ x0 x1 x2 x3, EncodeWord.Statement (.sra x0 x1 x2 x3) := by
  intro x0 x1 x2 x3 hw w h
  cases h
  rw [candidate_01 (wOp_packReg ..)]
  simp only [candidate01, fieldsReg]
  rfl

theorem EncodeWord.ror : ∀ x0 x1 x2 x3, EncodeWord.Statement (.ror x0 x1 x2 x3) := by
  intro x0 x1 x2 x3 hw w h
  cases h
  rw [candidate_01 (wOp_packReg ..)]
  simp only [candidate01, fieldsReg]
  rfl

theorem EncodeWord.min : ∀ x0 x1 x2 x3, EncodeWord.Statement (.min x0 x1 x2 x3) := by
  intro x0 x1 x2 x3 hw w h
  cases h
  rw [candidate_01 (wOp_packReg ..)]
  simp only [candidate01, fieldsReg]
  rfl

theorem EncodeWord.max : ∀ x0 x1 x2 x3, EncodeWord.Statement (.max x0 x1 x2 x3) := by
  intro x0 x1 x2 x3 hw w h
  cases h
  rw [candidate_01 (wOp_packReg ..)]
  simp only [candidate01, fieldsReg]
  rfl

theorem EncodeWord.minn : ∀ x0 x1 x2 x3, EncodeWord.Statement (.minn x0 x1 x2 x3) := by
  intro x0 x1 x2 x3 hw w h
  cases h
  rw [candidate_01 (wOp_packReg ..)]
  simp only [candidate01, fieldsReg]
  rfl

theorem EncodeWord.maxn : ∀ x0 x1 x2 x3, EncodeWord.Statement (.maxn x0 x1 x2 x3) := by
  intro x0 x1 x2 x3 hw w h
  cases h
  rw [candidate_01 (wOp_packReg ..)]
  simp only [candidate01, fieldsReg]
  rfl

theorem EncodeWord.addi : ∀ x0 x1 x2 x3, EncodeWord.Statement (.addi x0 x1 x2 x3) := by
  intro x0 x1 x2 x3 hw w h
  cases h
  rw [candidate_02 (wOp_packImm ..)]
  simp only [candidate02, fieldsImm]
  rfl

theorem EncodeWord.andi : ∀ x0 x1 x2 x3, EncodeWord.Statement (.andi x0 x1 x2 x3) := by
  intro x0 x1 x2 x3 hw w h
  cases h
  rw [candidate_02 (wOp_packImm ..)]
  simp only [candidate02, fieldsImm]
  rfl

theorem EncodeWord.ori : ∀ x0 x1 x2 x3, EncodeWord.Statement (.ori x0 x1 x2 x3) := by
  intro x0 x1 x2 x3 hw w h
  cases h
  rw [candidate_02 (wOp_packImm ..)]
  simp only [candidate02, fieldsImm]
  rfl

theorem EncodeWord.xori : ∀ x0 x1 x2 x3, EncodeWord.Statement (.xori x0 x1 x2 x3) := by
  intro x0 x1 x2 x3 hw w h
  cases h
  rw [candidate_02 (wOp_packImm ..)]
  simp only [candidate02, fieldsImm]
  rfl

theorem EncodeWord.shli : ∀ x0 x1 x2 x3, EncodeWord.Statement (.shli x0 x1 x2 x3) := by
  intro x0 x1 x2 x3 hw w h
  cases h
  rw [candidate_02 (wOp_packImm ..)]
  simp only [candidate02, fieldsImm]
  refine congrArg Except.ok ?_
  congr 1 <;>
    (apply BitVec.eq_of_getLsbD_eq
     intro i hi
     simp only [BitVec.getLsbD_extractLsb', BitVec.getLsbD_append, hi, decide_true, Bool.true_and]
     repeat first | rw [if_neg (by omega)] | rw [if_pos (by omega)]
     all_goals first | rfl | (congr 1; omega))

theorem EncodeWord.shri : ∀ x0 x1 x2 x3, EncodeWord.Statement (.shri x0 x1 x2 x3) := by
  intro x0 x1 x2 x3 hw w h
  cases h
  rw [candidate_02 (wOp_packImm ..)]
  simp only [candidate02, fieldsImm]
  refine congrArg Except.ok ?_
  congr 1 <;>
    (apply BitVec.eq_of_getLsbD_eq
     intro i hi
     simp only [BitVec.getLsbD_extractLsb', BitVec.getLsbD_append, hi, decide_true, Bool.true_and]
     repeat first | rw [if_neg (by omega)] | rw [if_pos (by omega)]
     all_goals first | rfl | (congr 1; omega))

theorem EncodeWord.srai : ∀ x0 x1 x2 x3, EncodeWord.Statement (.srai x0 x1 x2 x3) := by
  intro x0 x1 x2 x3 hw w h
  cases h
  rw [candidate_02 (wOp_packImm ..)]
  simp only [candidate02, fieldsImm]
  refine congrArg Except.ok ?_
  congr 1 <;>
    (apply BitVec.eq_of_getLsbD_eq
     intro i hi
     simp only [BitVec.getLsbD_extractLsb', BitVec.getLsbD_append, hi, decide_true, Bool.true_and]
     repeat first | rw [if_neg (by omega)] | rw [if_pos (by omega)]
     all_goals first | rfl | (congr 1; omega))

theorem EncodeWord.mul : ∀ x0 x1 x2 x3, EncodeWord.Statement (.mul x0 x1 x2 x3) := by
  intro x0 x1 x2 x3 hw w h
  cases h
  rw [candidate_03 (wOp_packReg ..)]
  simp only [candidate03, fieldsReg]
  rfl

theorem EncodeWord.mulh : ∀ x0 x1 x2 x3, EncodeWord.Statement (.mulh x0 x1 x2 x3) := by
  intro x0 x1 x2 x3 hw w h
  cases h
  rw [candidate_03 (wOp_packReg ..)]
  simp only [candidate03, fieldsReg]
  rfl

theorem EncodeWord.mulhn : ∀ x0 x1 x2 x3, EncodeWord.Statement (.mulhn x0 x1 x2 x3) := by
  intro x0 x1 x2 x3 hw w h
  cases h
  rw [candidate_03 (wOp_packReg ..)]
  simp only [candidate03, fieldsReg]
  rfl

theorem EncodeWord.div : ∀ x0 x1 x2 x3, EncodeWord.Statement (.div x0 x1 x2 x3) := by
  intro x0 x1 x2 x3 hw w h
  cases h
  rw [candidate_03 (wOp_packReg ..)]
  simp only [candidate03, fieldsReg]
  rfl

theorem EncodeWord.divn : ∀ x0 x1 x2 x3, EncodeWord.Statement (.divn x0 x1 x2 x3) := by
  intro x0 x1 x2 x3 hw w h
  cases h
  rw [candidate_03 (wOp_packReg ..)]
  simp only [candidate03, fieldsReg]
  rfl

theorem EncodeWord.rem : ∀ x0 x1 x2 x3, EncodeWord.Statement (.rem x0 x1 x2 x3) := by
  intro x0 x1 x2 x3 hw w h
  cases h
  rw [candidate_03 (wOp_packReg ..)]
  simp only [candidate03, fieldsReg]
  rfl

theorem EncodeWord.remn : ∀ x0 x1 x2 x3, EncodeWord.Statement (.remn x0 x1 x2 x3) := by
  intro x0 x1 x2 x3 hw w h
  cases h
  rw [candidate_03 (wOp_packReg ..)]
  simp only [candidate03, fieldsReg]
  rfl

theorem EncodeWord.cmpEq : ∀ x0 x1 x2 x3, EncodeWord.Statement (.cmpEq x0 x1 x2 x3) := by
  intro x0 x1 x2 x3 hw w h
  cases h
  rw [candidate_04 (wOp_packPrd ..)]
  simp only [candidate04, fieldsPrd]
  rfl

theorem EncodeWord.cmpNe : ∀ x0 x1 x2 x3, EncodeWord.Statement (.cmpNe x0 x1 x2 x3) := by
  intro x0 x1 x2 x3 hw w h
  cases h
  rw [candidate_04 (wOp_packPrd ..)]
  simp only [candidate04, fieldsPrd]
  rfl

theorem EncodeWord.cmpLt : ∀ x0 x1 x2 x3, EncodeWord.Statement (.cmpLt x0 x1 x2 x3) := by
  intro x0 x1 x2 x3 hw w h
  cases h
  rw [candidate_04 (wOp_packPrd ..)]
  simp only [candidate04, fieldsPrd]
  rfl

theorem EncodeWord.cmpGe : ∀ x0 x1 x2 x3, EncodeWord.Statement (.cmpGe x0 x1 x2 x3) := by
  intro x0 x1 x2 x3 hw w h
  cases h
  rw [candidate_04 (wOp_packPrd ..)]
  simp only [candidate04, fieldsPrd]
  rfl

theorem EncodeWord.cmpLo : ∀ x0 x1 x2 x3, EncodeWord.Statement (.cmpLo x0 x1 x2 x3) := by
  intro x0 x1 x2 x3 hw w h
  cases h
  rw [candidate_04 (wOp_packPrd ..)]
  simp only [candidate04, fieldsPrd]
  rfl

theorem EncodeWord.cmpHs : ∀ x0 x1 x2 x3, EncodeWord.Statement (.cmpHs x0 x1 x2 x3) := by
  intro x0 x1 x2 x3 hw w h
  cases h
  rw [candidate_04 (wOp_packPrd ..)]
  simp only [candidate04, fieldsPrd]
  rfl

theorem EncodeWord.cmpiEq : ∀ x0 x1 x2 x3, EncodeWord.Statement (.cmpiEq x0 x1 x2 x3) := by
  intro x0 x1 x2 x3 hw w h
  cases h
  rw [candidate_04 (wOp_packPri ..)]
  simp only [candidate04, fieldsPri]
  rfl

theorem EncodeWord.cmpiNe : ∀ x0 x1 x2 x3, EncodeWord.Statement (.cmpiNe x0 x1 x2 x3) := by
  intro x0 x1 x2 x3 hw w h
  cases h
  rw [candidate_04 (wOp_packPri ..)]
  simp only [candidate04, fieldsPri]
  rfl

theorem EncodeWord.cmpiLt : ∀ x0 x1 x2 x3, EncodeWord.Statement (.cmpiLt x0 x1 x2 x3) := by
  intro x0 x1 x2 x3 hw w h
  cases h
  rw [candidate_04 (wOp_packPri ..)]
  simp only [candidate04, fieldsPri]
  rfl

theorem EncodeWord.cmpiGe : ∀ x0 x1 x2 x3, EncodeWord.Statement (.cmpiGe x0 x1 x2 x3) := by
  intro x0 x1 x2 x3 hw w h
  cases h
  rw [candidate_04 (wOp_packPri ..)]
  simp only [candidate04, fieldsPri]
  rfl

theorem EncodeWord.cmpiLo : ∀ x0 x1 x2 x3, EncodeWord.Statement (.cmpiLo x0 x1 x2 x3) := by
  intro x0 x1 x2 x3 hw w h
  cases h
  rw [candidate_04 (wOp_packPri ..)]
  simp only [candidate04, fieldsPri]
  rfl

theorem EncodeWord.cmpiHs : ∀ x0 x1 x2 x3, EncodeWord.Statement (.cmpiHs x0 x1 x2 x3) := by
  intro x0 x1 x2 x3 hw w h
  cases h
  rw [candidate_04 (wOp_packPri ..)]
  simp only [candidate04, fieldsPri]
  rfl

theorem EncodeWord.fcmpEq : ∀ x0 x1 x2 x3 x4, EncodeWord.Statement (.fcmpEq x0 x1 x2 x3 x4) := by
  intro x0 x1 x2 x3 x4 hw w h
  cases h
  rw [candidate_04 (wOp_packPrd ..)]
  simp only [candidate04, fieldsPrd, fieldsX, ofCode_code]
  rfl

theorem EncodeWord.fcmpLt : ∀ x0 x1 x2 x3 x4, EncodeWord.Statement (.fcmpLt x0 x1 x2 x3 x4) := by
  intro x0 x1 x2 x3 x4 hw w h
  cases h
  rw [candidate_04 (wOp_packPrd ..)]
  simp only [candidate04, fieldsPrd, fieldsX, ofCode_code]
  rfl

theorem EncodeWord.fcmpLe : ∀ x0 x1 x2 x3 x4, EncodeWord.Statement (.fcmpLe x0 x1 x2 x3 x4) := by
  intro x0 x1 x2 x3 x4 hw w h
  cases h
  rw [candidate_04 (wOp_packPrd ..)]
  simp only [candidate04, fieldsPrd, fieldsX, ofCode_code]
  rfl

theorem EncodeWord.fcmpUn : ∀ x0 x1 x2 x3 x4, EncodeWord.Statement (.fcmpUn x0 x1 x2 x3 x4) := by
  intro x0 x1 x2 x3 x4 hw w h
  cases h
  rw [candidate_04 (wOp_packPrd ..)]
  simp only [candidate04, fieldsPrd, fieldsX, ofCode_code]
  rfl

theorem EncodeWord.gand : ∀ x0 x1 x2 x3, EncodeWord.Statement (.gand x0 x1 x2 x3) := by
  intro x0 x1 x2 x3 hw w h
  cases h
  rw [candidate_05 (wOp_packPrd ..)]
  simp only [candidate05, fieldsPrd]
  refine congrArg Except.ok ?_
  congr 1 <;>
    (apply BitVec.eq_of_getLsbD_eq
     intro i hi
     simp only [BitVec.getLsbD_extractLsb', BitVec.getLsbD_append, hi, decide_true, Bool.true_and]
     repeat first | rw [if_neg (by omega)] | rw [if_pos (by omega)]
     all_goals first | rfl | (congr 1; omega))

theorem EncodeWord.gor : ∀ x0 x1 x2 x3, EncodeWord.Statement (.gor x0 x1 x2 x3) := by
  intro x0 x1 x2 x3 hw w h
  cases h
  rw [candidate_05 (wOp_packPrd ..)]
  simp only [candidate05, fieldsPrd]
  refine congrArg Except.ok ?_
  congr 1 <;>
    (apply BitVec.eq_of_getLsbD_eq
     intro i hi
     simp only [BitVec.getLsbD_extractLsb', BitVec.getLsbD_append, hi, decide_true, Bool.true_and]
     repeat first | rw [if_neg (by omega)] | rw [if_pos (by omega)]
     all_goals first | rfl | (congr 1; omega))

theorem EncodeWord.gxor : ∀ x0 x1 x2 x3, EncodeWord.Statement (.gxor x0 x1 x2 x3) := by
  intro x0 x1 x2 x3 hw w h
  cases h
  rw [candidate_05 (wOp_packPrd ..)]
  simp only [candidate05, fieldsPrd]
  refine congrArg Except.ok ?_
  congr 1 <;>
    (apply BitVec.eq_of_getLsbD_eq
     intro i hi
     simp only [BitVec.getLsbD_extractLsb', BitVec.getLsbD_append, hi, decide_true, Bool.true_and]
     repeat first | rw [if_neg (by omega)] | rw [if_pos (by omega)]
     all_goals first | rfl | (congr 1; omega))

theorem EncodeWord.gandn : ∀ x0 x1 x2 x3, EncodeWord.Statement (.gandn x0 x1 x2 x3) := by
  intro x0 x1 x2 x3 hw w h
  cases h
  rw [candidate_05 (wOp_packPrd ..)]
  simp only [candidate05, fieldsPrd]
  refine congrArg Except.ok ?_
  congr 1 <;>
    (apply BitVec.eq_of_getLsbD_eq
     intro i hi
     simp only [BitVec.getLsbD_extractLsb', BitVec.getLsbD_append, hi, decide_true, Bool.true_and]
     repeat first | rw [if_neg (by omega)] | rw [if_pos (by omega)]
     all_goals first | rfl | (congr 1; omega))

theorem EncodeWord.gset : ∀ x0 x1 x2, EncodeWord.Statement (.gset x0 x1 x2) := by
  intro x0 x1 x2 hw w h
  cases h
  rw [candidate_05 (wOp_packPrd ..)]
  simp only [candidate05, fieldsPrd, fieldsX]
  refine congrArg Except.ok ?_
  congr 1 <;>
    (apply BitVec.eq_of_getLsbD_eq
     intro i hi
     simp only [BitVec.getLsbD_extractLsb', BitVec.getLsbD_append, hi, decide_true, Bool.true_and]
     repeat first | rw [if_neg (by omega)] | rw [if_pos (by omega)]
     all_goals first | rfl | (congr 1; omega))

theorem EncodeWord.grd : ∀ x0 x1, EncodeWord.Statement (.grd x0 x1) := by
  intro x0 x1 hw w h
  cases h
  rw [candidate_05 (wOp_packReg ..)]
  simp only [candidate05, fieldsReg]
  rfl

theorem EncodeWord.fadd : ∀ x0 x1 x2 x3 x4 x5, EncodeWord.Statement (.fadd x0 x1 x2 x3 x4 x5) := by
  intro x0 x1 x2 x3 x4 x5 hw w h
  cases h
  rw [candidate_06 (wOp_packReg ..)]
  simp only [candidate06, fieldsReg, fieldsX, ofCode_code, rz_ofCode_code]
  rfl

theorem EncodeWord.fsub : ∀ x0 x1 x2 x3 x4 x5, EncodeWord.Statement (.fsub x0 x1 x2 x3 x4 x5) := by
  intro x0 x1 x2 x3 x4 x5 hw w h
  cases h
  rw [candidate_06 (wOp_packReg ..)]
  simp only [candidate06, fieldsReg, fieldsX, ofCode_code, rz_ofCode_code]
  rfl

theorem EncodeWord.fmul : ∀ x0 x1 x2 x3 x4 x5, EncodeWord.Statement (.fmul x0 x1 x2 x3 x4 x5) := by
  intro x0 x1 x2 x3 x4 x5 hw w h
  cases h
  rw [candidate_06 (wOp_packReg ..)]
  simp only [candidate06, fieldsReg, fieldsX, ofCode_code, rz_ofCode_code]
  rfl

theorem EncodeWord.fdiv : ∀ x0 x1 x2 x3 x4 x5, EncodeWord.Statement (.fdiv x0 x1 x2 x3 x4 x5) := by
  intro x0 x1 x2 x3 x4 x5 hw w h
  cases h
  rw [candidate_06 (wOp_packReg ..)]
  simp only [candidate06, fieldsReg, fieldsX, ofCode_code, rz_ofCode_code]
  rfl

theorem EncodeWord.fsqrt : ∀ x0 x1 x2 x3 x4, EncodeWord.Statement (.fsqrt x0 x1 x2 x3 x4) := by
  intro x0 x1 x2 x3 x4 hw w h
  cases h
  rw [candidate_06 (wOp_packReg ..)]
  simp only [candidate06, fieldsReg, fieldsX, ofCode_code, rz_ofCode_code]
  rfl

theorem EncodeWord.fma : ∀ x0 x1 x2 x3 x4 x5 x6, EncodeWord.Statement (.fma x0 x1 x2 x3 x4 x5 x6) := by
  intro x0 x1 x2 x3 x4 x5 x6 hw w h
  cases h
  rw [candidate_06 (wOp_packReg ..)]
  simp only [candidate06, fieldsReg, fieldsX, ofCode_code, rz_ofCode_code]
  rfl

theorem EncodeWord.fmin : ∀ x0 x1 x2 x3 x4 x5, EncodeWord.Statement (.fmin x0 x1 x2 x3 x4 x5) := by
  intro x0 x1 x2 x3 x4 x5 hw w h
  cases h
  rw [candidate_06 (wOp_packReg ..)]
  simp only [candidate06, fieldsReg, fieldsX, ofCode_code, rz_ofCode_code]
  rfl

theorem EncodeWord.fmax : ∀ x0 x1 x2 x3 x4 x5, EncodeWord.Statement (.fmax x0 x1 x2 x3 x4 x5) := by
  intro x0 x1 x2 x3 x4 x5 hw w h
  cases h
  rw [candidate_06 (wOp_packReg ..)]
  simp only [candidate06, fieldsReg, fieldsX, ofCode_code, rz_ofCode_code]
  rfl

theorem EncodeWord.cvt : ∀ x0 x1 x2 x3 x4 x5, EncodeWord.Statement (.cvt x0 x1 x2 x3 x4 x5) := by
  intro x0 x1 x2 x3 x4 x5 hw w h
  cases h
  rw [candidate_07 (wOp_packReg ..)]
  simp only [candidate07, fieldsReg, fieldsX, ofCode_code, rnd_ofCode_code]
  rfl

theorem EncodeWord.clz : ∀ x0 x1 x2, EncodeWord.Statement (.clz x0 x1 x2) := by
  intro x0 x1 x2 hw w h
  cases h
  rw [candidate_08 (wOp_packReg ..)]
  simp only [candidate08, fieldsReg]
  rfl

theorem EncodeWord.ctz : ∀ x0 x1 x2, EncodeWord.Statement (.ctz x0 x1 x2) := by
  intro x0 x1 x2 hw w h
  cases h
  rw [candidate_08 (wOp_packReg ..)]
  simp only [candidate08, fieldsReg]
  rfl

theorem EncodeWord.popc : ∀ x0 x1 x2, EncodeWord.Statement (.popc x0 x1 x2) := by
  intro x0 x1 x2 hw w h
  cases h
  rw [candidate_08 (wOp_packReg ..)]
  simp only [candidate08, fieldsReg]
  rfl

theorem EncodeWord.bext : ∀ x0 x1 x2 x3, EncodeWord.Statement (.bext x0 x1 x2 x3) := by
  intro x0 x1 x2 x3 hw w h
  cases h
  rw [candidate_08 (wOp_packReg ..)]
  simp only [candidate08, fieldsReg]
  rfl

theorem EncodeWord.bins : ∀ x0 x1 x2 x3, EncodeWord.Statement (.bins x0 x1 x2 x3) := by
  intro x0 x1 x2 x3 hw w h
  cases h
  rw [candidate_08 (wOp_packReg ..)]
  simp only [candidate08, fieldsReg]
  rfl

theorem EncodeWord.mov : ∀ x0 x1 x2, EncodeWord.Statement (.mov x0 x1 x2) := by
  intro x0 x1 x2 hw w h
  cases h
  rw [candidate_09 (wOp_packReg ..)]
  simp only [candidate09, fieldsReg]
  rfl

theorem EncodeWord.sel : ∀ x0 x1 x2 x3 x4, EncodeWord.Statement (.sel x0 x1 x2 x3 x4) := by
  intro x0 x1 x2 x3 x4 hw w h
  cases h
  rw [candidate_09 (wOp_packReg ..)]
  simp only [candidate09, fieldsReg]
  refine congrArg Except.ok ?_
  congr 1 <;>
    (apply BitVec.eq_of_getLsbD_eq
     intro i hi
     simp only [BitVec.getLsbD_extractLsb', BitVec.getLsbD_append, hi, decide_true, Bool.true_and]
     repeat first | rw [if_neg (by omega)] | rw [if_pos (by omega)]
     all_goals first | rfl | (congr 1; omega))

theorem EncodeWord.movi : ∀ x0 x1 x2, EncodeWord.Statement (.movi x0 x1 x2) := by
  intro x0 x1 x2 hw w h
  cases h
  rw [candidate_09 (wOp_packImm ..)]
  simp only [candidate09, fieldsImm]
  rfl

theorem EncodeWord.movih : ∀ x0 x1 x2, EncodeWord.Statement (.movih x0 x1 x2) := by
  intro x0 x1 x2 hw w h
  cases h
  rw [candidate_09 (wOp_packImm ..)]
  simp only [candidate09, fieldsImm]
  rfl

theorem EncodeWord.adr : ∀ x0 x1 x2, EncodeWord.Statement (.adr x0 x1 x2) := by
  intro x0 x1 x2 hw w h
  cases h
  rw [candidate_09 (wOp_packImm ..)]
  simp only [candidate09, fieldsImm]
  rfl

theorem EncodeWord.ldI8 : ∀ x0 x1 x2 x3, EncodeWord.Statement (.ldI8 x0 x1 x2 x3) := by
  intro x0 x1 x2 x3 hw w h
  cases h
  rw [candidate_10 (wOp_packImm ..)]
  simp only [candidate10, fieldsImm]
  rfl

theorem EncodeWord.ldI16 : ∀ x0 x1 x2 x3, EncodeWord.Statement (.ldI16 x0 x1 x2 x3) := by
  intro x0 x1 x2 x3 hw w h
  cases h
  rw [candidate_10 (wOp_packImm ..)]
  simp only [candidate10, fieldsImm]
  rfl

theorem EncodeWord.ldI32 : ∀ x0 x1 x2 x3, EncodeWord.Statement (.ldI32 x0 x1 x2 x3) := by
  intro x0 x1 x2 x3 hw w h
  cases h
  rw [candidate_10 (wOp_packImm ..)]
  simp only [candidate10, fieldsImm]
  rfl

theorem EncodeWord.ldI64 : ∀ x0 x1 x2 x3, EncodeWord.Statement (.ldI64 x0 x1 x2 x3) := by
  intro x0 x1 x2 x3 hw w h
  cases h
  rw [candidate_10 (wOp_packImm ..)]
  simp only [candidate10, fieldsImm]
  rfl

theorem EncodeWord.ldN8 : ∀ x0 x1 x2 x3, EncodeWord.Statement (.ldN8 x0 x1 x2 x3) := by
  intro x0 x1 x2 x3 hw w h
  cases h
  rw [candidate_10 (wOp_packImm ..)]
  simp only [candidate10, fieldsImm]
  rfl

theorem EncodeWord.ldN16 : ∀ x0 x1 x2 x3, EncodeWord.Statement (.ldN16 x0 x1 x2 x3) := by
  intro x0 x1 x2 x3 hw w h
  cases h
  rw [candidate_10 (wOp_packImm ..)]
  simp only [candidate10, fieldsImm]
  rfl

theorem EncodeWord.ldN32 : ∀ x0 x1 x2 x3, EncodeWord.Statement (.ldN32 x0 x1 x2 x3) := by
  intro x0 x1 x2 x3 hw w h
  cases h
  rw [candidate_10 (wOp_packImm ..)]
  simp only [candidate10, fieldsImm]
  rfl

theorem EncodeWord.stI8 : ∀ x0 x1 x2 x3, EncodeWord.Statement (.stI8 x0 x1 x2 x3) := by
  intro x0 x1 x2 x3 hw w h
  cases h
  rw [candidate_11 (wOp_packImm ..)]
  simp only [candidate11, fieldsImm]
  rfl

theorem EncodeWord.stI16 : ∀ x0 x1 x2 x3, EncodeWord.Statement (.stI16 x0 x1 x2 x3) := by
  intro x0 x1 x2 x3 hw w h
  cases h
  rw [candidate_11 (wOp_packImm ..)]
  simp only [candidate11, fieldsImm]
  rfl

theorem EncodeWord.stI32 : ∀ x0 x1 x2 x3, EncodeWord.Statement (.stI32 x0 x1 x2 x3) := by
  intro x0 x1 x2 x3 hw w h
  cases h
  rw [candidate_11 (wOp_packImm ..)]
  simp only [candidate11, fieldsImm]
  rfl

theorem EncodeWord.stI64 : ∀ x0 x1 x2 x3, EncodeWord.Statement (.stI64 x0 x1 x2 x3) := by
  intro x0 x1 x2 x3 hw w h
  cases h
  rw [candidate_11 (wOp_packImm ..)]
  simp only [candidate11, fieldsImm]
  rfl

theorem EncodeWord.amAdd : ∀ x0 x1 x2 x3 x4, EncodeWord.Statement (.amAdd x0 x1 x2 x3 x4) := by
  intro x0 x1 x2 x3 x4 hw w h
  cases h
  rw [candidate_12 (wOp_packReg ..)]
  simp only [candidate12, fieldsReg, fieldsX, ofCode_code]
  rfl

theorem EncodeWord.amAnd : ∀ x0 x1 x2 x3 x4, EncodeWord.Statement (.amAnd x0 x1 x2 x3 x4) := by
  intro x0 x1 x2 x3 x4 hw w h
  cases h
  rw [candidate_12 (wOp_packReg ..)]
  simp only [candidate12, fieldsReg, fieldsX, ofCode_code]
  rfl

theorem EncodeWord.amOr : ∀ x0 x1 x2 x3 x4, EncodeWord.Statement (.amOr x0 x1 x2 x3 x4) := by
  intro x0 x1 x2 x3 x4 hw w h
  cases h
  rw [candidate_12 (wOp_packReg ..)]
  simp only [candidate12, fieldsReg, fieldsX, ofCode_code]
  rfl

theorem EncodeWord.amXor : ∀ x0 x1 x2 x3 x4, EncodeWord.Statement (.amXor x0 x1 x2 x3 x4) := by
  intro x0 x1 x2 x3 x4 hw w h
  cases h
  rw [candidate_12 (wOp_packReg ..)]
  simp only [candidate12, fieldsReg, fieldsX, ofCode_code]
  rfl

theorem EncodeWord.amMin : ∀ x0 x1 x2 x3 x4, EncodeWord.Statement (.amMin x0 x1 x2 x3 x4) := by
  intro x0 x1 x2 x3 x4 hw w h
  cases h
  rw [candidate_12 (wOp_packReg ..)]
  simp only [candidate12, fieldsReg, fieldsX, ofCode_code]
  rfl

theorem EncodeWord.amMax : ∀ x0 x1 x2 x3 x4, EncodeWord.Statement (.amMax x0 x1 x2 x3 x4) := by
  intro x0 x1 x2 x3 x4 hw w h
  cases h
  rw [candidate_12 (wOp_packReg ..)]
  simp only [candidate12, fieldsReg, fieldsX, ofCode_code]
  rfl

theorem EncodeWord.amSwp : ∀ x0 x1 x2 x3 x4, EncodeWord.Statement (.amSwp x0 x1 x2 x3 x4) := by
  intro x0 x1 x2 x3 x4 hw w h
  cases h
  rw [candidate_12 (wOp_packReg ..)]
  simp only [candidate12, fieldsReg, fieldsX, ofCode_code]
  rfl

theorem EncodeWord.amCas : ∀ x0 x1 x2 x3 x4 x5, EncodeWord.Statement (.amCas x0 x1 x2 x3 x4 x5) := by
  intro x0 x1 x2 x3 x4 x5 hw w h
  cases h
  rw [candidate_12 (wOp_packReg ..)]
  simp only [candidate12, fieldsReg, fieldsX, ofCode_code]
  rfl

theorem EncodeWord.br : ∀ x0 x1, EncodeWord.Statement (.br x0 x1) := by
  intro x0 x1 hw w h
  cases h
  rw [candidate_18 (wOp_packImm ..)]
  simp only [candidate18, fieldsImm]
  rfl

theorem EncodeWord.call : ∀ x0 x1, EncodeWord.Statement (.call x0 x1) := by
  intro x0 x1 hw w h
  cases h
  rw [candidate_18 (wOp_packImm ..)]
  simp only [candidate18, fieldsImm]
  rfl

theorem EncodeWord.jmp : ∀ x0 x1, EncodeWord.Statement (.jmp x0 x1) := by
  intro x0 x1 hw w h
  cases h
  rw [candidate_18 (wOp_packReg ..)]
  simp only [candidate18, fieldsReg]
  rfl

theorem EncodeWord.callr : ∀ x0 x1, EncodeWord.Statement (.callr x0 x1) := by
  intro x0 x1 hw w h
  cases h
  rw [candidate_18 (wOp_packReg ..)]
  simp only [candidate18, fieldsReg]
  rfl

theorem EncodeWord.ret : ∀ x0 x1, EncodeWord.Statement (.ret x0 x1) := by
  intro x0 x1 hw w h
  cases h
  rw [candidate_18 (wOp_packReg ..)]
  simp only [candidate18, fieldsReg]
  rfl

theorem EncodeWord.loop : ∀ x0 x1 x2, EncodeWord.Statement (.loop x0 x1 x2) := by
  intro x0 x1 x2 hw w h
  cases h
  rw [candidate_19 (wOp_packImm ..)]
  simp only [candidate19, fieldsImm]
  rfl

theorem EncodeWord.crr : ∀ x0 x1 x2, EncodeWord.Statement (.crr x0 x1 x2) := by
  intro x0 x1 x2 hw w h
  cases h
  rw [candidate_1A (wOp_packImm ..)]
  simp only [candidate1A, fieldsImm]
  refine congrArg Except.ok ?_
  congr 1 <;>
    (apply BitVec.eq_of_getLsbD_eq
     intro i hi
     simp only [BitVec.getLsbD_extractLsb', BitVec.getLsbD_append, hi, decide_true, Bool.true_and]
     repeat first | rw [if_neg (by omega)] | rw [if_pos (by omega)]
     all_goals first | rfl | (congr 1; omega))

theorem EncodeWord.crw : ∀ x0 x1 x2, EncodeWord.Statement (.crw x0 x1 x2) := by
  intro x0 x1 x2 hw w h
  cases h
  rw [candidate_1A (wOp_packImm ..)]
  simp only [candidate1A, fieldsImm]
  have hs : BitVec.extractLsb' 0 12 (0#20 ++ x1 : BitVec 32) = x1 := by
    apply BitVec.eq_of_getLsbD_eq
    intro i hi
    simp only [BitVec.getLsbD_extractLsb', BitVec.getLsbD_append, hi, decide_true, Bool.true_and]
    repeat first | rw [if_neg (by omega)] | rw [if_pos (by omega)]
    all_goals first | rfl | (congr 1; omega) | simp
  change (crAssigned x1 && x1 != 0x040#12 && x1 != 0x031#12) = true at hw
  simp only [Bool.and_eq_true, bne_iff_ne] at hw
  change ite _ _ _ = _
  rw [hs, if_neg hw.1.2, if_neg hw.2]


theorem EncodeWord.crs : ∀ x0 x1 x2 x3, EncodeWord.Statement (.crs x0 x1 x2 x3) := by
  intro x0 x1 x2 x3 hw w h
  cases h
  rw [candidate_1A (wOp_packImm ..)]
  simp only [candidate1A, fieldsImm]
  refine congrArg Except.ok ?_
  congr 1 <;>
    (apply BitVec.eq_of_getLsbD_eq
     intro i hi
     simp only [BitVec.getLsbD_extractLsb', BitVec.getLsbD_append, hi, decide_true, Bool.true_and]
     repeat first | rw [if_neg (by omega)] | rw [if_pos (by omega)]
     all_goals first | rfl | (congr 1; omega))

theorem EncodeWord.crc : ∀ x0 x1 x2 x3, EncodeWord.Statement (.crc x0 x1 x2 x3) := by
  intro x0 x1 x2 x3 hw w h
  cases h
  rw [candidate_1A (wOp_packImm ..)]
  simp only [candidate1A, fieldsImm]
  refine congrArg Except.ok ?_
  congr 1 <;>
    (apply BitVec.eq_of_getLsbD_eq
     intro i hi
     simp only [BitVec.getLsbD_extractLsb', BitVec.getLsbD_append, hi, decide_true, Bool.true_and]
     repeat first | rw [if_neg (by omega)] | rw [if_pos (by omega)]
     all_goals first | rfl | (congr 1; omega))

theorem EncodeWord.pmapcInv : ∀ x0 x1, EncodeWord.Statement (.pmapcInv x0 x1) := by
  intro x0 x1 hw w h
  cases h
  rw [candidate_1A (wOp_packImm ..)]
  simp only [candidate1A, fieldsImm]
  refine congrArg Except.ok ?_
  congr 1 <;>
    (apply BitVec.eq_of_getLsbD_eq
     intro i hi
     simp only [BitVec.getLsbD_extractLsb', BitVec.getLsbD_append, hi, decide_true, Bool.true_and]
     repeat first | rw [if_neg (by omega)] | rw [if_pos (by omega)]
     all_goals first | rfl | (congr 1; omega))

theorem EncodeWord.islcfgUnbind : ∀ x0 x1, EncodeWord.Statement (.islcfgUnbind x0 x1) := by
  intro x0 x1 hw w h
  cases h
  rw [candidate_1A (wOp_packImm ..)]
  simp only [candidate1A, fieldsImm]
  refine congrArg Except.ok ?_
  congr 1 <;>
    (apply BitVec.eq_of_getLsbD_eq
     intro i hi
     simp only [BitVec.getLsbD_extractLsb', BitVec.getLsbD_append, hi, decide_true, Bool.true_and]
     repeat first | rw [if_neg (by omega)] | rw [if_pos (by omega)]
     all_goals first | rfl | (congr 1; omega))

theorem EncodeWord.vaddI : ∀ x0 x1 x2 x3 x4 x5, EncodeWord.Statement (.vaddI x0 x1 x2 x3 x4 x5) := by
  intro x0 x1 x2 x3 x4 x5 hw w h
  cases h
  rw [candidate_40 (wOp_packReg ..)]
  simp only [candidate40, fieldsReg, fieldsX, ofCode_code, vsrc_ofFields, wLane, bit1_eq_one]
  rfl

theorem EncodeWord.vsubI : ∀ x0 x1 x2 x3 x4 x5, EncodeWord.Statement (.vsubI x0 x1 x2 x3 x4 x5) := by
  intro x0 x1 x2 x3 x4 x5 hw w h
  cases h
  rw [candidate_40 (wOp_packReg ..)]
  simp only [candidate40, fieldsReg, fieldsX, ofCode_code, vsrc_ofFields, wLane, bit1_eq_one]
  rfl

theorem EncodeWord.vmulI : ∀ x0 x1 x2 x3 x4 x5, EncodeWord.Statement (.vmulI x0 x1 x2 x3 x4 x5) := by
  intro x0 x1 x2 x3 x4 x5 hw w h
  cases h
  rw [candidate_40 (wOp_packReg ..)]
  simp only [candidate40, fieldsReg, fieldsX, ofCode_code, vsrc_ofFields, wLane, bit1_eq_one]
  rfl

theorem EncodeWord.vmulh : ∀ x0 x1 x2 x3 x4 x5, EncodeWord.Statement (.vmulh x0 x1 x2 x3 x4 x5) := by
  intro x0 x1 x2 x3 x4 x5 hw w h
  cases h
  rw [candidate_40 (wOp_packReg ..)]
  simp only [candidate40, fieldsReg, fieldsX, ofCode_code, vsrc_ofFields, wLane, bit1_eq_one]
  rfl

theorem EncodeWord.vminI : ∀ x0 x1 x2 x3 x4 x5, EncodeWord.Statement (.vminI x0 x1 x2 x3 x4 x5) := by
  intro x0 x1 x2 x3 x4 x5 hw w h
  cases h
  rw [candidate_40 (wOp_packReg ..)]
  simp only [candidate40, fieldsReg, fieldsX, ofCode_code, vsrc_ofFields, wLane, bit1_eq_one]
  rfl

theorem EncodeWord.vmaxI : ∀ x0 x1 x2 x3 x4 x5, EncodeWord.Statement (.vmaxI x0 x1 x2 x3 x4 x5) := by
  intro x0 x1 x2 x3 x4 x5 hw w h
  cases h
  rw [candidate_40 (wOp_packReg ..)]
  simp only [candidate40, fieldsReg, fieldsX, ofCode_code, vsrc_ofFields, wLane, bit1_eq_one]
  rfl

theorem EncodeWord.vand : ∀ x0 x1 x2 x3 x4 x5, EncodeWord.Statement (.vand x0 x1 x2 x3 x4 x5) := by
  intro x0 x1 x2 x3 x4 x5 hw w h
  cases h
  rw [candidate_40 (wOp_packReg ..)]
  simp only [candidate40, fieldsReg, fieldsX, ofCode_code, vsrc_ofFields, wLane, bit1_eq_one]
  rfl

theorem EncodeWord.vor : ∀ x0 x1 x2 x3 x4 x5, EncodeWord.Statement (.vor x0 x1 x2 x3 x4 x5) := by
  intro x0 x1 x2 x3 x4 x5 hw w h
  cases h
  rw [candidate_40 (wOp_packReg ..)]
  simp only [candidate40, fieldsReg, fieldsX, ofCode_code, vsrc_ofFields, wLane, bit1_eq_one]
  rfl

theorem EncodeWord.vxor : ∀ x0 x1 x2 x3 x4 x5, EncodeWord.Statement (.vxor x0 x1 x2 x3 x4 x5) := by
  intro x0 x1 x2 x3 x4 x5 hw w h
  cases h
  rw [candidate_40 (wOp_packReg ..)]
  simp only [candidate40, fieldsReg, fieldsX, ofCode_code, vsrc_ofFields, wLane, bit1_eq_one]
  rfl

theorem EncodeWord.vshl : ∀ x0 x1 x2 x3 x4 x5, EncodeWord.Statement (.vshl x0 x1 x2 x3 x4 x5) := by
  intro x0 x1 x2 x3 x4 x5 hw w h
  cases h
  rw [candidate_40 (wOp_packReg ..)]
  simp only [candidate40, fieldsReg, fieldsX, ofCode_code, vsrc_ofFields, shsrc_ofFields, wLane, bit1_eq_one]
  rfl

theorem EncodeWord.vshr : ∀ x0 x1 x2 x3 x4 x5, EncodeWord.Statement (.vshr x0 x1 x2 x3 x4 x5) := by
  intro x0 x1 x2 x3 x4 x5 hw w h
  cases h
  rw [candidate_40 (wOp_packReg ..)]
  simp only [candidate40, fieldsReg, fieldsX, ofCode_code, vsrc_ofFields, shsrc_ofFields, wLane, bit1_eq_one]
  rfl

theorem EncodeWord.vsra : ∀ x0 x1 x2 x3 x4 x5, EncodeWord.Statement (.vsra x0 x1 x2 x3 x4 x5) := by
  intro x0 x1 x2 x3 x4 x5 hw w h
  cases h
  rw [candidate_40 (wOp_packReg ..)]
  simp only [candidate40, fieldsReg, fieldsX, ofCode_code, vsrc_ofFields, shsrc_ofFields, wLane, bit1_eq_one]
  rfl

theorem EncodeWord.vabsI : ∀ x0 x1 x2 x3 x4, EncodeWord.Statement (.vabsI x0 x1 x2 x3 x4) := by
  intro x0 x1 x2 x3 x4 hw w h
  cases h
  rw [candidate_40 (wOp_packReg ..)]
  simp only [candidate40, fieldsReg, fieldsX, ofCode_code, vsrc_ofFields, wLane, bit1_eq_one]
  rfl

theorem EncodeWord.vnegI : ∀ x0 x1 x2 x3 x4, EncodeWord.Statement (.vnegI x0 x1 x2 x3 x4) := by
  intro x0 x1 x2 x3 x4 hw w h
  cases h
  rw [candidate_40 (wOp_packReg ..)]
  simp only [candidate40, fieldsReg, fieldsX, ofCode_code, vsrc_ofFields, wLane, bit1_eq_one]
  rfl

theorem EncodeWord.vadds : ∀ x0 x1 x2 x3 x4 x5, EncodeWord.Statement (.vadds x0 x1 x2 x3 x4 x5) := by
  intro x0 x1 x2 x3 x4 x5 hw w h
  cases h
  rw [candidate_40 (wOp_packReg ..)]
  simp only [candidate40, fieldsReg, fieldsX, ofCode_code, vsrc_ofFields, wLane, bit1_eq_one]
  rfl

theorem EncodeWord.vsubs : ∀ x0 x1 x2 x3 x4 x5, EncodeWord.Statement (.vsubs x0 x1 x2 x3 x4 x5) := by
  intro x0 x1 x2 x3 x4 x5 hw w h
  cases h
  rw [candidate_40 (wOp_packReg ..)]
  simp only [candidate40, fieldsReg, fieldsX, ofCode_code, vsrc_ofFields, wLane, bit1_eq_one]
  rfl

theorem EncodeWord.vaddF : ∀ x0 x1 x2 x3 x4 x5 x6, EncodeWord.Statement (.vaddF x0 x1 x2 x3 x4 x5 x6) := by
  intro x0 x1 x2 x3 x4 x5 x6 hw w h
  cases h
  rw [candidate_41 (wOp_packReg ..)]
  simp only [candidate41, fieldsReg, fieldsX, ofCode_code, rz_ofCode_code, vsrc_ofFields, wLane, bit1_eq_one]
  rfl

theorem EncodeWord.vsubF : ∀ x0 x1 x2 x3 x4 x5 x6, EncodeWord.Statement (.vsubF x0 x1 x2 x3 x4 x5 x6) := by
  intro x0 x1 x2 x3 x4 x5 x6 hw w h
  cases h
  rw [candidate_41 (wOp_packReg ..)]
  simp only [candidate41, fieldsReg, fieldsX, ofCode_code, rz_ofCode_code, vsrc_ofFields, wLane, bit1_eq_one]
  rfl

theorem EncodeWord.vmulF : ∀ x0 x1 x2 x3 x4 x5 x6, EncodeWord.Statement (.vmulF x0 x1 x2 x3 x4 x5 x6) := by
  intro x0 x1 x2 x3 x4 x5 x6 hw w h
  cases h
  rw [candidate_41 (wOp_packReg ..)]
  simp only [candidate41, fieldsReg, fieldsX, ofCode_code, rz_ofCode_code, vsrc_ofFields, wLane, bit1_eq_one]
  rfl

theorem EncodeWord.vminF : ∀ x0 x1 x2 x3 x4 x5, EncodeWord.Statement (.vminF x0 x1 x2 x3 x4 x5) := by
  intro x0 x1 x2 x3 x4 x5 hw w h
  cases h
  rw [candidate_41 (wOp_packReg ..)]
  simp only [candidate41, fieldsReg, fieldsX, ofCode_code, vsrc_ofFields, wLane, bit1_eq_one]
  rfl

theorem EncodeWord.vmaxF : ∀ x0 x1 x2 x3 x4 x5, EncodeWord.Statement (.vmaxF x0 x1 x2 x3 x4 x5) := by
  intro x0 x1 x2 x3 x4 x5 hw w h
  cases h
  rw [candidate_41 (wOp_packReg ..)]
  simp only [candidate41, fieldsReg, fieldsX, ofCode_code, vsrc_ofFields, wLane, bit1_eq_one]
  rfl

theorem EncodeWord.vabsF : ∀ x0 x1 x2 x3 x4, EncodeWord.Statement (.vabsF x0 x1 x2 x3 x4) := by
  intro x0 x1 x2 x3 x4 hw w h
  cases h
  rw [candidate_41 (wOp_packReg ..)]
  simp only [candidate41, fieldsReg, fieldsX, ofCode_code, vsrc_ofFields, wLane, bit1_eq_one]
  rfl

theorem EncodeWord.vnegF : ∀ x0 x1 x2 x3 x4, EncodeWord.Statement (.vnegF x0 x1 x2 x3 x4) := by
  intro x0 x1 x2 x3 x4 hw w h
  cases h
  rw [candidate_41 (wOp_packReg ..)]
  simp only [candidate41, fieldsReg, fieldsX, ofCode_code, vsrc_ofFields, wLane, bit1_eq_one]
  rfl

theorem EncodeWord.vfma : ∀ x0 x1 x2 x3 x4 x5 x6 x7, EncodeWord.Statement (.vfma x0 x1 x2 x3 x4 x5 x6 x7) := by
  intro x0 x1 x2 x3 x4 x5 x6 x7 hw w h
  cases h
  rw [candidate_42 (wOp_packReg ..)]
  simp only [candidate42, fieldsReg, fieldsX, ofCode_code, rz_ofCode_code, vsrc_ofFields, wLane, bit1_eq_one]
  rfl

theorem EncodeWord.vfms : ∀ x0 x1 x2 x3 x4 x5 x6 x7, EncodeWord.Statement (.vfms x0 x1 x2 x3 x4 x5 x6 x7) := by
  intro x0 x1 x2 x3 x4 x5 x6 x7 hw w h
  cases h
  rw [candidate_42 (wOp_packReg ..)]
  simp only [candidate42, fieldsReg, fieldsX, ofCode_code, rz_ofCode_code, vsrc_ofFields, wLane, bit1_eq_one]
  rfl

theorem EncodeWord.vfnma : ∀ x0 x1 x2 x3 x4 x5 x6 x7, EncodeWord.Statement (.vfnma x0 x1 x2 x3 x4 x5 x6 x7) := by
  intro x0 x1 x2 x3 x4 x5 x6 x7 hw w h
  cases h
  rw [candidate_42 (wOp_packReg ..)]
  simp only [candidate42, fieldsReg, fieldsX, ofCode_code, rz_ofCode_code, vsrc_ofFields, wLane, bit1_eq_one]
  rfl

theorem EncodeWord.vdot : ∀ x0 x1 x2 x3 x4 x5 x6, EncodeWord.Statement (.vdot x0 x1 x2 x3 x4 x5 x6) := by
  intro x0 x1 x2 x3 x4 x5 x6 hw w h
  cases h
  rw [candidate_42 (wOp_packReg ..)]
  simp only [candidate42, fieldsReg, fieldsX, ofCode_code, vsrc_ofFields, wLane, bit1_eq_one]
  rfl

theorem EncodeWord.vcmpEq : ∀ x0 x1 x2 x3 x4 x5, EncodeWord.Statement (.vcmpEq x0 x1 x2 x3 x4 x5) := by
  intro x0 x1 x2 x3 x4 x5 hw w h
  cases h
  rw [candidate_43 (wOp_packReg ..)]
  simp only [candidate43, fieldsReg, fieldsX, ofCode_code, vsrc_ofFields, wLane, bit1_eq_one]
  refine congrArg Except.ok ?_
  congr 1 <;>
    (apply BitVec.eq_of_getLsbD_eq
     intro i hi
     simp only [BitVec.getLsbD_extractLsb', BitVec.getLsbD_append, hi, decide_true, Bool.true_and]
     repeat first | rw [if_neg (by omega)] | rw [if_pos (by omega)]
     all_goals first | rfl | (congr 1; omega))

theorem EncodeWord.vcmpNe : ∀ x0 x1 x2 x3 x4 x5, EncodeWord.Statement (.vcmpNe x0 x1 x2 x3 x4 x5) := by
  intro x0 x1 x2 x3 x4 x5 hw w h
  cases h
  rw [candidate_43 (wOp_packReg ..)]
  simp only [candidate43, fieldsReg, fieldsX, ofCode_code, vsrc_ofFields, wLane, bit1_eq_one]
  refine congrArg Except.ok ?_
  congr 1 <;>
    (apply BitVec.eq_of_getLsbD_eq
     intro i hi
     simp only [BitVec.getLsbD_extractLsb', BitVec.getLsbD_append, hi, decide_true, Bool.true_and]
     repeat first | rw [if_neg (by omega)] | rw [if_pos (by omega)]
     all_goals first | rfl | (congr 1; omega))

theorem EncodeWord.vcmpLt : ∀ x0 x1 x2 x3 x4 x5, EncodeWord.Statement (.vcmpLt x0 x1 x2 x3 x4 x5) := by
  intro x0 x1 x2 x3 x4 x5 hw w h
  cases h
  rw [candidate_43 (wOp_packReg ..)]
  simp only [candidate43, fieldsReg, fieldsX, ofCode_code, vsrc_ofFields, wLane, bit1_eq_one]
  refine congrArg Except.ok ?_
  congr 1 <;>
    (apply BitVec.eq_of_getLsbD_eq
     intro i hi
     simp only [BitVec.getLsbD_extractLsb', BitVec.getLsbD_append, hi, decide_true, Bool.true_and]
     repeat first | rw [if_neg (by omega)] | rw [if_pos (by omega)]
     all_goals first | rfl | (congr 1; omega))

theorem EncodeWord.vcmpGe : ∀ x0 x1 x2 x3 x4 x5, EncodeWord.Statement (.vcmpGe x0 x1 x2 x3 x4 x5) := by
  intro x0 x1 x2 x3 x4 x5 hw w h
  cases h
  rw [candidate_43 (wOp_packReg ..)]
  simp only [candidate43, fieldsReg, fieldsX, ofCode_code, vsrc_ofFields, wLane, bit1_eq_one]
  refine congrArg Except.ok ?_
  congr 1 <;>
    (apply BitVec.eq_of_getLsbD_eq
     intro i hi
     simp only [BitVec.getLsbD_extractLsb', BitVec.getLsbD_append, hi, decide_true, Bool.true_and]
     repeat first | rw [if_neg (by omega)] | rw [if_pos (by omega)]
     all_goals first | rfl | (congr 1; omega))

theorem EncodeWord.vcmpLo : ∀ x0 x1 x2 x3 x4 x5, EncodeWord.Statement (.vcmpLo x0 x1 x2 x3 x4 x5) := by
  intro x0 x1 x2 x3 x4 x5 hw w h
  cases h
  rw [candidate_43 (wOp_packReg ..)]
  simp only [candidate43, fieldsReg, fieldsX, ofCode_code, vsrc_ofFields, wLane, bit1_eq_one]
  refine congrArg Except.ok ?_
  congr 1 <;>
    (apply BitVec.eq_of_getLsbD_eq
     intro i hi
     simp only [BitVec.getLsbD_extractLsb', BitVec.getLsbD_append, hi, decide_true, Bool.true_and]
     repeat first | rw [if_neg (by omega)] | rw [if_pos (by omega)]
     all_goals first | rfl | (congr 1; omega))

theorem EncodeWord.vcmpHs : ∀ x0 x1 x2 x3 x4 x5, EncodeWord.Statement (.vcmpHs x0 x1 x2 x3 x4 x5) := by
  intro x0 x1 x2 x3 x4 x5 hw w h
  cases h
  rw [candidate_43 (wOp_packReg ..)]
  simp only [candidate43, fieldsReg, fieldsX, ofCode_code, vsrc_ofFields, wLane, bit1_eq_one]
  refine congrArg Except.ok ?_
  congr 1 <;>
    (apply BitVec.eq_of_getLsbD_eq
     intro i hi
     simp only [BitVec.getLsbD_extractLsb', BitVec.getLsbD_append, hi, decide_true, Bool.true_and]
     repeat first | rw [if_neg (by omega)] | rw [if_pos (by omega)]
     all_goals first | rfl | (congr 1; omega))

theorem EncodeWord.vcmpEqF : ∀ x0 x1 x2 x3 x4 x5, EncodeWord.Statement (.vcmpEqF x0 x1 x2 x3 x4 x5) := by
  intro x0 x1 x2 x3 x4 x5 hw w h
  cases h
  rw [candidate_43 (wOp_packReg ..)]
  simp only [candidate43, fieldsReg, fieldsX, ofCode_code, vsrc_ofFields, wLane, bit1_eq_one]
  refine congrArg Except.ok ?_
  congr 1 <;>
    (apply BitVec.eq_of_getLsbD_eq
     intro i hi
     simp only [BitVec.getLsbD_extractLsb', BitVec.getLsbD_append, hi, decide_true, Bool.true_and]
     repeat first | rw [if_neg (by omega)] | rw [if_pos (by omega)]
     all_goals first | rfl | (congr 1; omega))

theorem EncodeWord.vcmpLtF : ∀ x0 x1 x2 x3 x4 x5, EncodeWord.Statement (.vcmpLtF x0 x1 x2 x3 x4 x5) := by
  intro x0 x1 x2 x3 x4 x5 hw w h
  cases h
  rw [candidate_43 (wOp_packReg ..)]
  simp only [candidate43, fieldsReg, fieldsX, ofCode_code, vsrc_ofFields, wLane, bit1_eq_one]
  refine congrArg Except.ok ?_
  congr 1 <;>
    (apply BitVec.eq_of_getLsbD_eq
     intro i hi
     simp only [BitVec.getLsbD_extractLsb', BitVec.getLsbD_append, hi, decide_true, Bool.true_and]
     repeat first | rw [if_neg (by omega)] | rw [if_pos (by omega)]
     all_goals first | rfl | (congr 1; omega))

theorem EncodeWord.vcmpLeF : ∀ x0 x1 x2 x3 x4 x5, EncodeWord.Statement (.vcmpLeF x0 x1 x2 x3 x4 x5) := by
  intro x0 x1 x2 x3 x4 x5 hw w h
  cases h
  rw [candidate_43 (wOp_packReg ..)]
  simp only [candidate43, fieldsReg, fieldsX, ofCode_code, vsrc_ofFields, wLane, bit1_eq_one]
  refine congrArg Except.ok ?_
  congr 1 <;>
    (apply BitVec.eq_of_getLsbD_eq
     intro i hi
     simp only [BitVec.getLsbD_extractLsb', BitVec.getLsbD_append, hi, decide_true, Bool.true_and]
     repeat first | rw [if_neg (by omega)] | rw [if_pos (by omega)]
     all_goals first | rfl | (congr 1; omega))

theorem EncodeWord.vcmpUnF : ∀ x0 x1 x2 x3 x4 x5, EncodeWord.Statement (.vcmpUnF x0 x1 x2 x3 x4 x5) := by
  intro x0 x1 x2 x3 x4 x5 hw w h
  cases h
  rw [candidate_43 (wOp_packReg ..)]
  simp only [candidate43, fieldsReg, fieldsX, ofCode_code, vsrc_ofFields, wLane, bit1_eq_one]
  refine congrArg Except.ok ?_
  congr 1 <;>
    (apply BitVec.eq_of_getLsbD_eq
     intro i hi
     simp only [BitVec.getLsbD_extractLsb', BitVec.getLsbD_append, hi, decide_true, Bool.true_and]
     repeat first | rw [if_neg (by omega)] | rw [if_pos (by omega)]
     all_goals first | rfl | (congr 1; omega))

theorem EncodeWord.mand : ∀ x0 x1 x2 x3, EncodeWord.Statement (.mand x0 x1 x2 x3) := by
  intro x0 x1 x2 x3 hw w h
  cases h
  rw [candidate_44 (wOp_packReg ..)]
  simp only [candidate44, fieldsReg]
  refine congrArg Except.ok ?_
  congr 1 <;>
    (apply BitVec.eq_of_getLsbD_eq
     intro i hi
     simp only [BitVec.getLsbD_extractLsb', BitVec.getLsbD_append, hi, decide_true, Bool.true_and]
     repeat first | rw [if_neg (by omega)] | rw [if_pos (by omega)]
     all_goals first | rfl | (congr 1; omega))

theorem EncodeWord.mor : ∀ x0 x1 x2 x3, EncodeWord.Statement (.mor x0 x1 x2 x3) := by
  intro x0 x1 x2 x3 hw w h
  cases h
  rw [candidate_44 (wOp_packReg ..)]
  simp only [candidate44, fieldsReg]
  refine congrArg Except.ok ?_
  congr 1 <;>
    (apply BitVec.eq_of_getLsbD_eq
     intro i hi
     simp only [BitVec.getLsbD_extractLsb', BitVec.getLsbD_append, hi, decide_true, Bool.true_and]
     repeat first | rw [if_neg (by omega)] | rw [if_pos (by omega)]
     all_goals first | rfl | (congr 1; omega))

theorem EncodeWord.mxor : ∀ x0 x1 x2 x3, EncodeWord.Statement (.mxor x0 x1 x2 x3) := by
  intro x0 x1 x2 x3 hw w h
  cases h
  rw [candidate_44 (wOp_packReg ..)]
  simp only [candidate44, fieldsReg]
  refine congrArg Except.ok ?_
  congr 1 <;>
    (apply BitVec.eq_of_getLsbD_eq
     intro i hi
     simp only [BitVec.getLsbD_extractLsb', BitVec.getLsbD_append, hi, decide_true, Bool.true_and]
     repeat first | rw [if_neg (by omega)] | rw [if_pos (by omega)]
     all_goals first | rfl | (congr 1; omega))

theorem EncodeWord.mandn : ∀ x0 x1 x2 x3, EncodeWord.Statement (.mandn x0 x1 x2 x3) := by
  intro x0 x1 x2 x3 hw w h
  cases h
  rw [candidate_44 (wOp_packReg ..)]
  simp only [candidate44, fieldsReg]
  refine congrArg Except.ok ?_
  congr 1 <;>
    (apply BitVec.eq_of_getLsbD_eq
     intro i hi
     simp only [BitVec.getLsbD_extractLsb', BitVec.getLsbD_append, hi, decide_true, Bool.true_and]
     repeat first | rw [if_neg (by omega)] | rw [if_pos (by omega)]
     all_goals first | rfl | (congr 1; omega))

theorem EncodeWord.mpopc : ∀ x0 x1 x2, EncodeWord.Statement (.mpopc x0 x1 x2) := by
  intro x0 x1 x2 hw w h
  cases h
  rw [candidate_44 (wOp_packReg ..)]
  simp only [candidate44, fieldsReg]
  refine congrArg Except.ok ?_
  congr 1 <;>
    (apply BitVec.eq_of_getLsbD_eq
     intro i hi
     simp only [BitVec.getLsbD_extractLsb', BitVec.getLsbD_append, hi, decide_true, Bool.true_and]
     repeat first | rw [if_neg (by omega)] | rw [if_pos (by omega)]
     all_goals first | rfl | (congr 1; omega))

theorem EncodeWord.mfirst : ∀ x0 x1 x2, EncodeWord.Statement (.mfirst x0 x1 x2) := by
  intro x0 x1 x2 hw w h
  cases h
  rw [candidate_44 (wOp_packReg ..)]
  simp only [candidate44, fieldsReg]
  refine congrArg Except.ok ?_
  congr 1 <;>
    (apply BitVec.eq_of_getLsbD_eq
     intro i hi
     simp only [BitVec.getLsbD_extractLsb', BitVec.getLsbD_append, hi, decide_true, Bool.true_and]
     repeat first | rw [if_neg (by omega)] | rw [if_pos (by omega)]
     all_goals first | rfl | (congr 1; omega))

theorem EncodeWord.mtos : ∀ x0 x1 x2, EncodeWord.Statement (.mtos x0 x1 x2) := by
  intro x0 x1 x2 hw w h
  cases h
  rw [candidate_44 (wOp_packReg ..)]
  simp only [candidate44, fieldsReg]
  refine congrArg Except.ok ?_
  congr 1 <;>
    (apply BitVec.eq_of_getLsbD_eq
     intro i hi
     simp only [BitVec.getLsbD_extractLsb', BitVec.getLsbD_append, hi, decide_true, Bool.true_and]
     repeat first | rw [if_neg (by omega)] | rw [if_pos (by omega)]
     all_goals first | rfl | (congr 1; omega))

theorem EncodeWord.mfroms : ∀ x0 x1 x2, EncodeWord.Statement (.mfroms x0 x1 x2) := by
  intro x0 x1 x2 hw w h
  cases h
  rw [candidate_44 (wOp_packReg ..)]
  simp only [candidate44, fieldsReg]
  refine congrArg Except.ok ?_
  congr 1 <;>
    (apply BitVec.eq_of_getLsbD_eq
     intro i hi
     simp only [BitVec.getLsbD_extractLsb', BitVec.getLsbD_append, hi, decide_true, Bool.true_and]
     repeat first | rw [if_neg (by omega)] | rw [if_pos (by omega)]
     all_goals first | rfl | (congr 1; omega))

theorem EncodeWord.vperm : ∀ x0 x1 x2 x3 x4 x5, EncodeWord.Statement (.vperm x0 x1 x2 x3 x4 x5) := by
  intro x0 x1 x2 x3 x4 x5 hw w h
  cases h
  rw [candidate_45 (wOp_packReg ..)]
  simp only [candidate45, fieldsReg, fieldsX, ofCode_code, vsrc_ofFields, wLane, bit1_eq_one]
  rfl

theorem EncodeWord.vbcast : ∀ x0 x1 x2 x3 x4, EncodeWord.Statement (.vbcast x0 x1 x2 x3 x4) := by
  intro x0 x1 x2 x3 x4 hw w h
  cases h
  rw [candidate_45 (wOp_packReg ..)]
  simp only [candidate45, fieldsReg, fieldsX, ofCode_code, wLane, bit1_eq_one]
  rfl

theorem EncodeWord.vins : ∀ x0 x1 x2 x3 x4 x5, EncodeWord.Statement (.vins x0 x1 x2 x3 x4 x5) := by
  intro x0 x1 x2 x3 x4 x5 hw w h
  cases h
  rw [candidate_45 (wOp_packReg ..)]
  simp only [candidate45, fieldsReg, fieldsX, ofCode_code, wLane, bit1_eq_one]
  rfl

theorem EncodeWord.vext : ∀ x0 x1 x2 x3 x4, EncodeWord.Statement (.vext x0 x1 x2 x3 x4) := by
  intro x0 x1 x2 x3 x4 hw w h
  cases h
  rw [candidate_45 (wOp_packReg ..)]
  simp only [candidate45, fieldsReg, fieldsX, ofCode_code, vsrc_ofFields]
  rfl

theorem EncodeWord.vslide : ∀ x0 x1 x2 x3 x4 x5 x6, EncodeWord.Statement (.vslide x0 x1 x2 x3 x4 x5 x6) := by
  intro x0 x1 x2 x3 x4 x5 x6 hw w h
  cases h
  rw [candidate_45 (wOp_packReg ..)]
  simp only [candidate45, fieldsReg, fieldsX, ofCode_code, vsrc_ofFields, wLane, bit1_eq_one]
  rfl

theorem EncodeWord.vslided : ∀ x0 x1 x2 x3 x4 x5 x6, EncodeWord.Statement (.vslided x0 x1 x2 x3 x4 x5 x6) := by
  intro x0 x1 x2 x3 x4 x5 x6 hw w h
  cases h
  rw [candidate_45 (wOp_packReg ..)]
  simp only [candidate45, fieldsReg, fieldsX, ofCode_code, vsrc_ofFields, wLane, bit1_eq_one]
  rfl

theorem EncodeWord.vcomp : ∀ x0 x1 x2 x3 x4, EncodeWord.Statement (.vcomp x0 x1 x2 x3 x4) := by
  intro x0 x1 x2 x3 x4 hw w h
  cases h
  rw [candidate_45 (wOp_packReg ..)]
  simp only [candidate45, fieldsReg, fieldsX, ofCode_code, vsrc_ofFields, wLane, bit1_eq_one]
  rfl

theorem EncodeWord.vexpd : ∀ x0 x1 x2 x3 x4, EncodeWord.Statement (.vexpd x0 x1 x2 x3 x4) := by
  intro x0 x1 x2 x3 x4 hw w h
  cases h
  rw [candidate_45 (wOp_packReg ..)]
  simp only [candidate45, fieldsReg, fieldsX, ofCode_code, vsrc_ofFields, wLane, bit1_eq_one]
  rfl

theorem EncodeWord.vzip : ∀ x0 x1 x2 x3 x4 x5 x6, EncodeWord.Statement (.vzip x0 x1 x2 x3 x4 x5 x6) := by
  intro x0 x1 x2 x3 x4 x5 x6 hw w h
  cases h
  rw [candidate_45 (wOp_packReg ..)]
  simp only [candidate45, fieldsReg, fieldsX, ofCode_code, vsrc_ofFields, wLane, bit1_eq_one]
  refine congrArg Except.ok ?_
  congr 1 <;>
    (apply BitVec.eq_of_getLsbD_eq
     intro i hi
     simp only [BitVec.getLsbD_extractLsb', BitVec.getLsbD_append, hi, decide_true, Bool.true_and]
     repeat first | rw [if_neg (by omega)] | rw [if_pos (by omega)]
     all_goals first | rfl | (congr 1; omega))

theorem EncodeWord.vunzip : ∀ x0 x1 x2 x3 x4 x5 x6, EncodeWord.Statement (.vunzip x0 x1 x2 x3 x4 x5 x6) := by
  intro x0 x1 x2 x3 x4 x5 x6 hw w h
  cases h
  rw [candidate_45 (wOp_packReg ..)]
  simp only [candidate45, fieldsReg, fieldsX, ofCode_code, vsrc_ofFields, wLane, bit1_eq_one]
  refine congrArg Except.ok ?_
  congr 1 <;>
    (apply BitVec.eq_of_getLsbD_eq
     intro i hi
     simp only [BitVec.getLsbD_extractLsb', BitVec.getLsbD_append, hi, decide_true, Bool.true_and]
     repeat first | rw [if_neg (by omega)] | rw [if_pos (by omega)]
     all_goals first | rfl | (congr 1; omega))

theorem EncodeWord.vredAdd : ∀ x0 x1 x2 x3 x4 x5, EncodeWord.Statement (.vredAdd x0 x1 x2 x3 x4 x5) := by
  intro x0 x1 x2 x3 x4 x5 hw w h
  cases h
  rw [candidate_46 (wOp_packReg ..)]
  simp only [candidate46, fieldsReg, fieldsX, ofCode_code, rz_ofCode_code, vsrc_ofFields]
  rfl

theorem EncodeWord.vredMin : ∀ x0 x1 x2 x3 x4, EncodeWord.Statement (.vredMin x0 x1 x2 x3 x4) := by
  intro x0 x1 x2 x3 x4 hw w h
  cases h
  rw [candidate_46 (wOp_packReg ..)]
  simp only [candidate46, fieldsReg, fieldsX, ofCode_code, vsrc_ofFields]
  rfl

theorem EncodeWord.vredMax : ∀ x0 x1 x2 x3 x4, EncodeWord.Statement (.vredMax x0 x1 x2 x3 x4) := by
  intro x0 x1 x2 x3 x4 hw w h
  cases h
  rw [candidate_46 (wOp_packReg ..)]
  simp only [candidate46, fieldsReg, fieldsX, ofCode_code, vsrc_ofFields]
  rfl

theorem EncodeWord.vredAnd : ∀ x0 x1 x2 x3 x4, EncodeWord.Statement (.vredAnd x0 x1 x2 x3 x4) := by
  intro x0 x1 x2 x3 x4 hw w h
  cases h
  rw [candidate_46 (wOp_packReg ..)]
  simp only [candidate46, fieldsReg, fieldsX, ofCode_code, vsrc_ofFields]
  rfl

theorem EncodeWord.vredOr : ∀ x0 x1 x2 x3 x4, EncodeWord.Statement (.vredOr x0 x1 x2 x3 x4) := by
  intro x0 x1 x2 x3 x4 hw w h
  cases h
  rw [candidate_46 (wOp_packReg ..)]
  simp only [candidate46, fieldsReg, fieldsX, ofCode_code, vsrc_ofFields]
  rfl

theorem EncodeWord.vredXor : ∀ x0 x1 x2 x3 x4, EncodeWord.Statement (.vredXor x0 x1 x2 x3 x4) := by
  intro x0 x1 x2 x3 x4 hw w h
  cases h
  rw [candidate_46 (wOp_packReg ..)]
  simp only [candidate46, fieldsReg, fieldsX, ofCode_code, vsrc_ofFields]
  rfl

theorem EncodeWord.vcvt : ∀ x0 x1 x2 x3 x4 x5 x6 x7, EncodeWord.Statement (.vcvt x0 x1 x2 x3 x4 x5 x6 x7) := by
  intro x0 x1 x2 x3 x4 x5 x6 x7 hw w h
  cases h
  rw [candidate_47 (wOp_packReg ..)]
  simp only [candidate47, fieldsReg, fieldsX, ofCode_code, rnd_ofCode_code, vsrc_ofFields, wLane, bit1_eq_one]
  refine congrArg Except.ok ?_
  congr 1 <;>
    (apply BitVec.eq_of_getLsbD_eq
     intro i hi
     simp only [BitVec.getLsbD_extractLsb', BitVec.getLsbD_append, hi, decide_true, Bool.true_and]
     repeat first | rw [if_neg (by omega)] | rw [if_pos (by omega)]
     all_goals first | rfl | (congr 1; omega))

theorem EncodeWord.badd : ∀ x0 x1 x2 x3 x4 x5 x6, EncodeWord.Statement (.badd x0 x1 x2 x3 x4 x5 x6) := by
  intro x0 x1 x2 x3 x4 x5 x6 hw w h
  cases h
  rw [candidate_48 (wOp_packReg ..)]
  simp only [candidate48, fieldsReg, fieldsX, ofCode_code, rnd_ofCode_code, vsrc_ofFields, wLane, bit1_eq_one]
  rfl

theorem EncodeWord.bsub : ∀ x0 x1 x2 x3 x4 x5 x6, EncodeWord.Statement (.bsub x0 x1 x2 x3 x4 x5 x6) := by
  intro x0 x1 x2 x3 x4 x5 x6 hw w h
  cases h
  rw [candidate_48 (wOp_packReg ..)]
  simp only [candidate48, fieldsReg, fieldsX, ofCode_code, rnd_ofCode_code, vsrc_ofFields, wLane, bit1_eq_one]
  rfl

theorem EncodeWord.bmul : ∀ x0 x1 x2 x3 x4 x5 x6, EncodeWord.Statement (.bmul x0 x1 x2 x3 x4 x5 x6) := by
  intro x0 x1 x2 x3 x4 x5 x6 hw w h
  cases h
  rw [candidate_48 (wOp_packReg ..)]
  simp only [candidate48, fieldsReg, fieldsX, ofCode_code, rnd_ofCode_code, vsrc_ofFields, wLane, bit1_eq_one]
  rfl

theorem EncodeWord.bmin : ∀ x0 x1 x2 x3 x4 x5 x6, EncodeWord.Statement (.bmin x0 x1 x2 x3 x4 x5 x6) := by
  intro x0 x1 x2 x3 x4 x5 x6 hw w h
  cases h
  rw [candidate_48 (wOp_packReg ..)]
  simp only [candidate48, fieldsReg, fieldsX, ofCode_code, rnd_ofCode_code, vsrc_ofFields, wLane, bit1_eq_one]
  rfl

theorem EncodeWord.bmax : ∀ x0 x1 x2 x3 x4 x5 x6, EncodeWord.Statement (.bmax x0 x1 x2 x3 x4 x5 x6) := by
  intro x0 x1 x2 x3 x4 x5 x6 hw w h
  cases h
  rw [candidate_48 (wOp_packReg ..)]
  simp only [candidate48, fieldsReg, fieldsX, ofCode_code, rnd_ofCode_code, vsrc_ofFields, wLane, bit1_eq_one]
  rfl

theorem EncodeWord.bneg : ∀ x0 x1 x2 x3 x4 x5, EncodeWord.Statement (.bneg x0 x1 x2 x3 x4 x5) := by
  intro x0 x1 x2 x3 x4 x5 hw w h
  cases h
  rw [candidate_48 (wOp_packReg ..)]
  simp only [candidate48, fieldsReg, fieldsX, ofCode_code, rnd_ofCode_code, vsrc_ofFields, wLane, bit1_eq_one]
  rfl

theorem EncodeWord.bscale : ∀ x0 x1 x2 x3 x4 x5 x6, EncodeWord.Statement (.bscale x0 x1 x2 x3 x4 x5 x6) := by
  intro x0 x1 x2 x3 x4 x5 x6 hw w h
  cases h
  rw [candidate_48 (wOp_packReg ..)]
  simp only [candidate48, fieldsReg, fieldsX, ofCode_code, rnd_ofCode_code, vsrc_ofFields, wLane, bit1_eq_one]
  rfl

theorem EncodeWord.bnorm : ∀ x0 x1 x2 x3 x4 x5, EncodeWord.Statement (.bnorm x0 x1 x2 x3 x4 x5) := by
  intro x0 x1 x2 x3 x4 x5 hw w h
  cases h
  rw [candidate_49 (wOp_packReg ..)]
  simp only [candidate49, fieldsReg, fieldsX, ofCode_code, rnd_ofCode_code, vsrc_ofFields, wLane, bit1_eq_one]
  rfl

theorem EncodeWord.btof : ∀ x0 x1 x2 x3 x4 x5 x6 x7, EncodeWord.Statement (.btof x0 x1 x2 x3 x4 x5 x6 x7) := by
  intro x0 x1 x2 x3 x4 x5 x6 x7 hw w h
  cases h
  rw [candidate_49 (wOp_packReg ..)]
  simp only [candidate49, fieldsReg, fieldsX, ofCode_code, rnd_ofCode_code, vsrc_ofFields, wLane, bit1_eq_one]
  refine congrArg Except.ok ?_
  congr 1 <;>
    (apply BitVec.eq_of_getLsbD_eq
     intro i hi
     simp only [BitVec.getLsbD_extractLsb', BitVec.getLsbD_append, hi, decide_true, Bool.true_and]
     repeat first | rw [if_neg (by omega)] | rw [if_pos (by omega)]
     all_goals first | rfl | (congr 1; omega))

theorem EncodeWord.bfromf : ∀ x0 x1 x2 x3 x4 x5 x6 x7, EncodeWord.Statement (.bfromf x0 x1 x2 x3 x4 x5 x6 x7) := by
  intro x0 x1 x2 x3 x4 x5 x6 x7 hw w h
  cases h
  rw [candidate_49 (wOp_packReg ..)]
  simp only [candidate49, fieldsReg, fieldsX, ofCode_code, rnd_ofCode_code]
  refine congrArg Except.ok ?_
  congr 1 <;>
    (apply BitVec.eq_of_getLsbD_eq
     intro i hi
     simp only [BitVec.getLsbD_extractLsb', BitVec.getLsbD_append, hi, decide_true, Bool.true_and]
     repeat first | rw [if_neg (by omega)] | rw [if_pos (by omega)]
     all_goals first | rfl | (congr 1; omega))

theorem EncodeWord.brefmt : ∀ x0 x1 x2 x3 x4 x5 x6 x7, EncodeWord.Statement (.brefmt x0 x1 x2 x3 x4 x5 x6 x7) := by
  intro x0 x1 x2 x3 x4 x5 x6 x7 hw w h
  cases h
  rw [candidate_49 (wOp_packReg ..)]
  simp only [candidate49, fieldsReg, fieldsX, ofCode_code, rnd_ofCode_code, vsrc_ofFields, wLane, bit1_eq_one]
  refine congrArg Except.ok ?_
  congr 1 <;>
    (apply BitVec.eq_of_getLsbD_eq
     intro i hi
     simp only [BitVec.getLsbD_extractLsb', BitVec.getLsbD_append, hi, decide_true, Bool.true_and]
     repeat first | rw [if_neg (by omega)] | rw [if_pos (by omega)]
     all_goals first | rfl | (congr 1; omega))

theorem EncodeWord.bgeth : ∀ x0 x1 x2 x3, EncodeWord.Statement (.bgeth x0 x1 x2 x3) := by
  intro x0 x1 x2 x3 hw w h
  cases h
  rw [candidate_49 (wOp_packReg ..)]
  simp only [candidate49, fieldsReg, fieldsX, vsrc_ofFields]
  refine congrArg Except.ok ?_
  congr 1 <;>
    (apply BitVec.eq_of_getLsbD_eq
     intro i hi
     simp only [BitVec.getLsbD_extractLsb', BitVec.getLsbD_append, hi, decide_true, Bool.true_and]
     repeat first | rw [if_neg (by omega)] | rw [if_pos (by omega)]
     all_goals first | rfl | (congr 1; omega))

theorem EncodeWord.bseth : ∀ x0 x1 x2 x3, EncodeWord.Statement (.bseth x0 x1 x2 x3) := by
  intro x0 x1 x2 x3 hw w h
  cases h
  rw [candidate_49 (wOp_packReg ..)]
  simp only [candidate49, fieldsReg, fieldsX]
  refine congrArg Except.ok ?_
  congr 1 <;>
    (apply BitVec.eq_of_getLsbD_eq
     intro i hi
     simp only [BitVec.getLsbD_extractLsb', BitVec.getLsbD_append, hi, decide_true, Bool.true_and]
     repeat first | rw [if_neg (by omega)] | rw [if_pos (by omega)]
     all_goals first | rfl | (congr 1; omega))

theorem EncodeWord.vrcp : ∀ x0 x1 x2 x3, EncodeWord.Statement (.vrcp x0 x1 x2 x3) := by
  intro x0 x1 x2 x3 hw w h
  cases h
  rw [candidate_4A (wOp_packReg ..)]
  simp only [candidate4A, fieldsReg, fieldsX, vsrc_ofFields, wLane, bit1_eq_one]
  rfl

theorem EncodeWord.vrsq : ∀ x0 x1 x2 x3, EncodeWord.Statement (.vrsq x0 x1 x2 x3) := by
  intro x0 x1 x2 x3 hw w h
  cases h
  rw [candidate_4A (wOp_packReg ..)]
  simp only [candidate4A, fieldsReg, fieldsX, vsrc_ofFields, wLane, bit1_eq_one]
  rfl

theorem EncodeWord.vexp2 : ∀ x0 x1 x2 x3, EncodeWord.Statement (.vexp2 x0 x1 x2 x3) := by
  intro x0 x1 x2 x3 hw w h
  cases h
  rw [candidate_4A (wOp_packReg ..)]
  simp only [candidate4A, fieldsReg, fieldsX, vsrc_ofFields, wLane, bit1_eq_one]
  rfl

theorem EncodeWord.vlog2 : ∀ x0 x1 x2 x3, EncodeWord.Statement (.vlog2 x0 x1 x2 x3) := by
  intro x0 x1 x2 x3 hw w h
  cases h
  rw [candidate_4A (wOp_packReg ..)]
  simp only [candidate4A, fieldsReg, fieldsX, vsrc_ofFields, wLane, bit1_eq_one]
  rfl

theorem EncodeWord.vld : ∀ x0 x1 x2 x3 x4, EncodeWord.Statement (.vld x0 x1 x2 x3 x4) := by
  intro x0 x1 x2 x3 x4 hw w h
  cases h
  rw [candidate_4B (wOp_packReg ..)]
  simp only [candidate4B, fieldsReg, fieldsX, wLane, bit1_eq_one]
  rfl

theorem EncodeWord.vst : ∀ x0 x1 x2 x3 x4, EncodeWord.Statement (.vst x0 x1 x2 x3 x4) := by
  intro x0 x1 x2 x3 x4 hw w h
  cases h
  rw [candidate_4B (wOp_packReg ..)]
  simp only [candidate4B, fieldsReg, fieldsX]
  rfl

theorem EncodeWord.vldx : ∀ x0 x1 x2 x3 x4, EncodeWord.Statement (.vldx x0 x1 x2 x3 x4) := by
  intro x0 x1 x2 x3 x4 hw w h
  cases h
  rw [candidate_4B (wOp_packReg ..)]
  simp only [candidate4B, fieldsReg, fieldsX, wLane, bit1_eq_one]
  rfl

theorem EncodeWord.vstx : ∀ x0 x1 x2 x3 x4, EncodeWord.Statement (.vstx x0 x1 x2 x3 x4) := by
  intro x0 x1 x2 x3 x4 hw w h
  cases h
  rw [candidate_4B (wOp_packReg ..)]
  simp only [candidate4B, fieldsReg, fieldsX]
  rfl

theorem EncodeWord.bld : ∀ x0 x1 x2 x3 x4 x5, EncodeWord.Statement (.bld x0 x1 x2 x3 x4 x5) := by
  intro x0 x1 x2 x3 x4 x5 hw w h
  cases h
  rw [candidate_4B (wOp_packReg ..)]
  simp only [candidate4B, fieldsReg, fieldsX, ofCode_code]
  rfl

theorem EncodeWord.bst : ∀ x0 x1 x2 x3 x4 x5, EncodeWord.Statement (.bst x0 x1 x2 x3 x4 x5) := by
  intro x0 x1 x2 x3 x4 x5 hw w h
  cases h
  rw [candidate_4B (wOp_packReg ..)]
  simp only [candidate4B, fieldsReg, fieldsX, ofCode_code]
  rfl

theorem EncodeWord.fqpop : ∀ x0 x1 x2, EncodeWord.Statement (.fqpop x0 x1 x2) := by
  intro x0 x1 x2 hw w h
  cases h
  rw [candidate_4C (wOp_packReg ..)]
  simp only [candidate4C, fieldsReg, fieldsX]
  rfl

theorem EncodeWord.fqdrop : ∀ x0 x1, EncodeWord.Statement (.fqdrop x0 x1) := by
  intro x0 x1 hw w h
  cases h
  rw [candidate_4C (wOp_packReg ..)]
  simp only [candidate4C, fieldsReg, fieldsX]
  rfl

theorem EncodeWord.fqmark : ∀ x0 x1 x2 x3, EncodeWord.Statement (.fqmark x0 x1 x2 x3) := by
  intro x0 x1 x2 x3 hw w h
  cases h
  rw [candidate_4C (wOp_packPrd ..)]
  simp only [candidate4C, fieldsPrd, fieldsX]
  refine congrArg Except.ok ?_
  congr 1 <;>
    (apply BitVec.eq_of_getLsbD_eq
     intro i hi
     simp only [BitVec.getLsbD_extractLsb', BitVec.getLsbD_append, hi, decide_true, Bool.true_and]
     repeat first | rw [if_neg (by omega)] | rw [if_pos (by omega)]
     all_goals first | rfl | (congr 1; omega))

theorem EncodeWord.mma : ∀ x0 x1 x2 x3 x4 x5 x6 x7, EncodeWord.Statement (.mma x0 x1 x2 x3 x4 x5 x6 x7) := by
  intro x0 x1 x2 x3 x4 x5 x6 x7 hw w h
  cases h
  rw [candidate_80 (wOp_packReg ..)]
  simp only [candidate80, fieldsReg, fieldsX, ofCode_code]
  refine congrArg Except.ok ?_
  congr 1 <;>
    (apply BitVec.eq_of_getLsbD_eq
     intro i hi
     simp only [BitVec.getLsbD_extractLsb', BitVec.getLsbD_append, hi, decide_true, Bool.true_and]
     repeat first | rw [if_neg (by omega)] | rw [if_pos (by omega)]
     all_goals first | rfl | (congr 1; omega))

theorem EncodeWord.mman : ∀ x0 x1 x2 x3 x4 x5 x6 x7, EncodeWord.Statement (.mman x0 x1 x2 x3 x4 x5 x6 x7) := by
  intro x0 x1 x2 x3 x4 x5 x6 x7 hw w h
  cases h
  rw [candidate_80 (wOp_packReg ..)]
  simp only [candidate80, fieldsReg, fieldsX, ofCode_code]
  refine congrArg Except.ok ?_
  congr 1 <;>
    (apply BitVec.eq_of_getLsbD_eq
     intro i hi
     simp only [BitVec.getLsbD_extractLsb', BitVec.getLsbD_append, hi, decide_true, Bool.true_and]
     repeat first | rw [if_neg (by omega)] | rw [if_pos (by omega)]
     all_goals first | rfl | (congr 1; omega))

theorem EncodeWord.mmaTileWrite : ∀ x0, EncodeWord.Statement (.mmaTileWrite x0) := fun _ _ _ h => nomatch h

theorem EncodeWord.accz : ∀ x0 x1 x2, EncodeWord.Statement (.accz x0 x1 x2) := by
  intro x0 x1 x2 hw w h
  cases h
  rw [candidate_81 (wOp_packReg ..)]
  simp only [candidate81, fieldsReg, fieldsX]
  refine congrArg Except.ok ?_
  congr 1 <;>
    (apply BitVec.eq_of_getLsbD_eq
     intro i hi
     simp only [BitVec.getLsbD_extractLsb', BitVec.getLsbD_append, hi, decide_true, Bool.true_and]
     repeat first | rw [if_neg (by omega)] | rw [if_pos (by omega)]
     all_goals first | rfl | (congr 1; omega))

theorem EncodeWord.accmode : ∀ x0 x1 x2, EncodeWord.Statement (.accmode x0 x1 x2) := by
  intro x0 x1 x2 hw w h
  cases h
  rw [candidate_81 (wOp_packReg ..)]
  simp only [candidate81, fieldsReg, fieldsX]
  refine congrArg Except.ok ?_
  congr 1 <;>
    (apply BitVec.eq_of_getLsbD_eq
     intro i hi
     simp only [BitVec.getLsbD_extractLsb', BitVec.getLsbD_append, hi, decide_true, Bool.true_and]
     repeat first | rw [if_neg (by omega)] | rw [if_pos (by omega)]
     all_goals first | rfl | (congr 1; omega))

theorem EncodeWord.accrd : ∀ x0 x1 x2 x3 x4 x5 x6, EncodeWord.Statement (.accrd x0 x1 x2 x3 x4 x5 x6) := by
  intro x0 x1 x2 x3 x4 x5 x6 hw w h
  cases h
  rw [candidate_81 (wOp_packReg ..)]
  simp only [candidate81, fieldsReg, fieldsX, ofCode_code, rnd_ofCode_code]
  refine congrArg Except.ok ?_
  congr 1 <;>
    (apply BitVec.eq_of_getLsbD_eq
     intro i hi
     simp only [BitVec.getLsbD_extractLsb', BitVec.getLsbD_append, hi, decide_true, Bool.true_and]
     repeat first | rw [if_neg (by omega)] | rw [if_pos (by omega)]
     all_goals first | rfl | (congr 1; omega))

theorem EncodeWord.accwr : ∀ x0 x1 x2 x3 x4 x5, EncodeWord.Statement (.accwr x0 x1 x2 x3 x4 x5) := by
  intro x0 x1 x2 x3 x4 x5 hw w h
  cases h
  rw [candidate_81 (wOp_packReg ..)]
  simp only [candidate81, fieldsReg, fieldsX, ofCode_code]
  refine congrArg Except.ok ?_
  congr 1 <;>
    (apply BitVec.eq_of_getLsbD_eq
     intro i hi
     simp only [BitVec.getLsbD_extractLsb', BitVec.getLsbD_append, hi, decide_true, Bool.true_and]
     repeat first | rw [if_neg (by omega)] | rw [if_pos (by omega)]
     all_goals first | rfl | (congr 1; omega))

theorem EncodeWord.accexp : ∀ x0 x1 x2 x3 x4 x5 x6, EncodeWord.Statement (.accexp x0 x1 x2 x3 x4 x5 x6) := by
  intro x0 x1 x2 x3 x4 x5 x6 hw w h
  cases h
  rw [candidate_81 (wOp_packReg ..)]
  simp only [candidate81, fieldsReg, fieldsX, ofCode_code, rnd_ofCode_code]
  refine congrArg Except.ok ?_
  congr 1 <;>
    (apply BitVec.eq_of_getLsbD_eq
     intro i hi
     simp only [BitVec.getLsbD_extractLsb', BitVec.getLsbD_append, hi, decide_true, Bool.true_and]
     repeat first | rw [if_neg (by omega)] | rw [if_pos (by omega)]
     all_goals first | rfl | (congr 1; omega))

theorem EncodeWord.accswp : ∀ x0 x1 x2, EncodeWord.Statement (.accswp x0 x1 x2) := by
  intro x0 x1 x2 hw w h
  cases h
  rw [candidate_81 (wOp_packReg ..)]
  simp only [candidate81, fieldsReg]
  refine congrArg Except.ok ?_
  congr 1 <;>
    (apply BitVec.eq_of_getLsbD_eq
     intro i hi
     simp only [BitVec.getLsbD_extractLsb', BitVec.getLsbD_append, hi, decide_true, Bool.true_and]
     repeat first | rw [if_neg (by omega)] | rw [if_pos (by omega)]
     all_goals first | rfl | (congr 1; omega))

theorem EncodeWord.accsc : ∀ x0 x1 x2, EncodeWord.Statement (.accsc x0 x1 x2) := by
  intro x0 x1 x2 hw w h
  cases h
  rw [candidate_81 (wOp_packReg ..)]
  simp only [candidate81, fieldsReg]
  refine congrArg Except.ok ?_
  congr 1 <;>
    (apply BitVec.eq_of_getLsbD_eq
     intro i hi
     simp only [BitVec.getLsbD_extractLsb', BitVec.getLsbD_append, hi, decide_true, Bool.true_and]
     repeat first | rw [if_neg (by omega)] | rw [if_pos (by omega)]
     all_goals first | rfl | (congr 1; omega))

theorem EncodeWord.accscFit : ∀ x0 x1, EncodeWord.Statement (.accscFit x0 x1) := by
  intro x0 x1 hw w h
  cases h
  rw [candidate_81 (wOp_packReg ..)]
  simp only [candidate81, fieldsReg, fieldsX]
  refine congrArg Except.ok ?_
  congr 1 <;>
    (apply BitVec.eq_of_getLsbD_eq
     intro i hi
     simp only [BitVec.getLsbD_extractLsb', BitVec.getLsbD_append, hi, decide_true, Bool.true_and]
     repeat first | rw [if_neg (by omega)] | rw [if_pos (by omega)]
     all_goals first | rfl | (congr 1; omega))

theorem EncodeWord.accraw : ∀ x0 x1 x2 x3 x4, EncodeWord.Statement (.accraw x0 x1 x2 x3 x4) := by
  intro x0 x1 x2 x3 x4 hw w h
  cases h
  rw [candidate_81 (wOp_packReg ..)]
  simp only [candidate81, fieldsReg, fieldsX]
  have hs : BitVec.extractLsb' 9 1 (0#3 ++ (x4 ++ x3) : BitVec 10) = 0#1 := by
    apply BitVec.eq_of_getLsbD_eq
    intro i hi
    simp only [BitVec.getLsbD_extractLsb', BitVec.getLsbD_append, hi, decide_true, Bool.true_and]
    repeat first | rw [if_neg (by omega)] | rw [if_pos (by omega)]
    all_goals first | rfl | (congr 1; omega) | simp
  change ite _ _ _ = _
  rw [hs, if_neg (by decide)]
  refine congrArg Except.ok ?_
  congr 1 <;>
    (apply BitVec.eq_of_getLsbD_eq
     intro i hi
     simp only [BitVec.getLsbD_extractLsb', BitVec.getLsbD_append, hi, decide_true, Bool.true_and]
     repeat first | rw [if_neg (by omega)] | rw [if_pos (by omega)]
     all_goals first | rfl | (congr 1; omega) | simp)

theorem EncodeWord.accrawOrg : ∀ x0 x1 x2, EncodeWord.Statement (.accrawOrg x0 x1 x2) := by
  intro x0 x1 x2 hw w h
  cases h
  rw [candidate_81 (wOp_packReg ..)]
  simp only [candidate81, fieldsReg, fieldsX]
  refine congrArg Except.ok ?_
  congr 1 <;>
    (apply BitVec.eq_of_getLsbD_eq
     intro i hi
     simp only [BitVec.getLsbD_extractLsb', BitVec.getLsbD_append, hi, decide_true, Bool.true_and]
     repeat first | rw [if_neg (by omega)] | rw [if_pos (by omega)]
     all_goals first | rfl | (congr 1; omega))

theorem EncodeWord.macq : ∀ x0 x1, EncodeWord.Statement (.macq x0 x1) := by
  intro x0 x1 hw w h
  cases h
  rw [candidate_82 (wOp_packPrd ..)]
  simp only [candidate82, fieldsPrd]
  rfl

theorem EncodeWord.mrel : ∀ x0, EncodeWord.Statement (.mrel x0) := by
  intro x0 hw w h
  cases h
  rw [candidate_82 (wOp_packReg ..)]
  simp only [candidate82, fieldsReg]
  rfl

theorem EncodeWord.mxfr : ∀ x0, EncodeWord.Statement (.mxfr x0) := by
  intro x0 hw w h
  cases h
  rw [candidate_82 (wOp_packReg ..)]
  simp only [candidate82, fieldsReg]
  rfl

theorem EncodeWord.mxfrMigrate : ∀ x0 x1 x2, EncodeWord.Statement (.mxfrMigrate x0 x1 x2) := by
  intro x0 x1 x2 hw w h
  cases h
  rw [candidate_82 (wOp_packReg ..)]
  simp only [candidate82, fieldsReg, fieldsX]
  refine congrArg Except.ok ?_
  congr 1 <;>
    (apply BitVec.eq_of_getLsbD_eq
     intro i hi
     simp only [BitVec.getLsbD_extractLsb', BitVec.getLsbD_append, hi, decide_true, Bool.true_and]
     repeat first | rw [if_neg (by omega)] | rw [if_pos (by omega)]
     all_goals first | rfl | (congr 1; omega))

theorem EncodeWord.migrationDone : ∀ x0, EncodeWord.Statement (.migrationDone x0) := fun _ _ _ h => nomatch h

theorem EncodeWord.twr : ∀ x0 x1 x2, EncodeWord.Statement (.twr x0 x1 x2) := by
  intro x0 x1 x2 hw w h
  cases h
  rw [candidate_83 (wOp_packReg ..)]
  simp only [candidate83, fieldsReg]
  refine congrArg Except.ok ?_
  congr 1 <;>
    (apply BitVec.eq_of_getLsbD_eq
     intro i hi
     simp only [BitVec.getLsbD_extractLsb', BitVec.getLsbD_append, hi, decide_true, Bool.true_and]
     repeat first | rw [if_neg (by omega)] | rw [if_pos (by omega)]
     all_goals first | rfl | (congr 1; omega))

theorem EncodeWord.tww : ∀ x0 x1 x2, EncodeWord.Statement (.tww x0 x1 x2) := by
  intro x0 x1 x2 hw w h
  cases h
  rw [candidate_83 (wOp_packReg ..)]
  simp only [candidate83, fieldsReg]
  refine congrArg Except.ok ?_
  congr 1 <;>
    (apply BitVec.eq_of_getLsbD_eq
     intro i hi
     simp only [BitVec.getLsbD_extractLsb', BitVec.getLsbD_append, hi, decide_true, Bool.true_and]
     repeat first | rw [if_neg (by omega)] | rw [if_pos (by omega)]
     all_goals first | rfl | (congr 1; omega))

theorem EncodeWord.xcht : ∀ x0 x1 x2, EncodeWord.Statement (.xcht x0 x1 x2) := by
  intro x0 x1 x2 hw w h
  cases h
  rw [candidate_83 (wOp_packReg ..)]
  simp only [candidate83, fieldsReg]
  refine congrArg Except.ok ?_
  congr 1 <;>
    (apply BitVec.eq_of_getLsbD_eq
     intro i hi
     simp only [BitVec.getLsbD_extractLsb', BitVec.getLsbD_append, hi, decide_true, Bool.true_and]
     repeat first | rw [if_neg (by omega)] | rw [if_pos (by omega)]
     all_goals first | rfl | (congr 1; omega))

theorem EncodeWord.blld : ∀ x0 x1 x2 x3 x4, EncodeWord.Statement (.blld x0 x1 x2 x3 x4) := by
  intro x0 x1 x2 x3 x4 hw w h
  cases h
  rw [candidate_84 (wOp_packReg ..)]
  simp only [candidate84, fieldsReg, fieldsX, ofCode_code]
  refine congrArg Except.ok ?_
  congr 1 <;>
    (apply BitVec.eq_of_getLsbD_eq
     intro i hi
     simp only [BitVec.getLsbD_extractLsb', BitVec.getLsbD_append, hi, decide_true, Bool.true_and]
     repeat first | rw [if_neg (by omega)] | rw [if_pos (by omega)]
     all_goals first | rfl | (congr 1; omega))

theorem EncodeWord.blmv : ∀ x0 x1 x2 x3 x4, EncodeWord.Statement (.blmv x0 x1 x2 x3 x4) := by
  intro x0 x1 x2 x3 x4 hw w h
  cases h
  rw [candidate_84 (wOp_packReg ..)]
  simp only [candidate84, fieldsReg, fieldsX, ofCode_code]
  refine congrArg Except.ok ?_
  congr 1 <;>
    (apply BitVec.eq_of_getLsbD_eq
     intro i hi
     simp only [BitVec.getLsbD_extractLsb', BitVec.getLsbD_append, hi, decide_true, Bool.true_and]
     repeat first | rw [if_neg (by omega)] | rw [if_pos (by omega)]
     all_goals first | rfl | (congr 1; omega))

theorem EncodeWord.blclr : ∀ x0 x1, EncodeWord.Statement (.blclr x0 x1) := by
  intro x0 x1 hw w h
  cases h
  rw [candidate_84 (wOp_packReg ..)]
  simp only [candidate84, fieldsReg]
  refine congrArg Except.ok ?_
  congr 1 <;>
    (apply BitVec.eq_of_getLsbD_eq
     intro i hi
     simp only [BitVec.getLsbD_extractLsb', BitVec.getLsbD_append, hi, decide_true, Bool.true_and]
     repeat first | rw [if_neg (by omega)] | rw [if_pos (by omega)]
     all_goals first | rfl | (congr 1; omega))

theorem EncodeWord.send : ∀ x0 x1 x2 x3 x4, EncodeWord.Statement (.send x0 x1 x2 x3 x4) := by
  intro x0 x1 x2 x3 x4 hw w h
  cases h
  rw [candidate_A0 (wOp_packReg ..)]
  simp only [candidateA0, fieldsReg, fieldsX]
  refine congrArg Except.ok ?_
  congr 1 <;>
    (apply BitVec.eq_of_getLsbD_eq
     intro i hi
     simp only [BitVec.getLsbD_extractLsb', BitVec.getLsbD_append, hi, decide_true, Bool.true_and]
     repeat first | rw [if_neg (by omega)] | rw [if_pos (by omega)]
     all_goals first | rfl | (congr 1; omega))

theorem EncodeWord.sendRel : ∀ x0 x1 x2 x3 x4, EncodeWord.Statement (.sendRel x0 x1 x2 x3 x4) := by
  intro x0 x1 x2 x3 x4 hw w h
  cases h
  rw [candidate_A0 (wOp_packReg ..)]
  simp only [candidateA0, fieldsReg, fieldsX]
  refine congrArg Except.ok ?_
  congr 1 <;>
    (apply BitVec.eq_of_getLsbD_eq
     intro i hi
     simp only [BitVec.getLsbD_extractLsb', BitVec.getLsbD_append, hi, decide_true, Bool.true_and]
     repeat first | rw [if_neg (by omega)] | rw [if_pos (by omega)]
     all_goals first | rfl | (congr 1; omega))

theorem EncodeWord.xsend : ∀ x0 x1 x2 x3 x4, EncodeWord.Statement (.xsend x0 x1 x2 x3 x4) := by
  intro x0 x1 x2 x3 x4 hw w h
  cases h
  rw [candidate_A0 (wOp_packReg ..)]
  simp only [candidateA0, fieldsReg, fieldsX]
  refine congrArg Except.ok ?_
  congr 1 <;>
    (apply BitVec.eq_of_getLsbD_eq
     intro i hi
     simp only [BitVec.getLsbD_extractLsb', BitVec.getLsbD_append, hi, decide_true, Bool.true_and]
     repeat first | rw [if_neg (by omega)] | rw [if_pos (by omega)]
     all_goals first | rfl | (congr 1; omega))

theorem EncodeWord.xsendRel : ∀ x0 x1 x2 x3 x4, EncodeWord.Statement (.xsendRel x0 x1 x2 x3 x4) := by
  intro x0 x1 x2 x3 x4 hw w h
  cases h
  rw [candidate_A0 (wOp_packReg ..)]
  simp only [candidateA0, fieldsReg, fieldsX]
  refine congrArg Except.ok ?_
  congr 1 <;>
    (apply BitVec.eq_of_getLsbD_eq
     intro i hi
     simp only [BitVec.getLsbD_extractLsb', BitVec.getLsbD_append, hi, decide_true, Bool.true_and]
     repeat first | rw [if_neg (by omega)] | rw [if_pos (by omega)]
     all_goals first | rfl | (congr 1; omega))

theorem EncodeWord.chbindWake : ∀ x0 x1 x2, EncodeWord.Statement (.chbindWake x0 x1 x2) := by
  intro x0 x1 x2 hw w h
  cases h
  rw [candidate_A1 (wOp_packImm ..)]
  simp only [candidateA1, fieldsImm]
  rw [wCh_packImm]
  rfl

theorem EncodeWord.chbindLand : ∀ x0 x1 x2 x3, EncodeWord.Statement (.chbindLand x0 x1 x2 x3) := by
  intro x0 x1 x2 x3 hw w h
  cases h
  rw [candidate_A1 (wOp_packImm ..)]
  simp only [candidateA1, fieldsImm]
  rw [wCh_packImm]
  rfl

theorem EncodeWord.chbindFeed : ∀ x0 x1 x2 x3, EncodeWord.Statement (.chbindFeed x0 x1 x2 x3) := by
  intro x0 x1 x2 x3 hw w h
  cases h
  rw [candidate_A1 (wOp_packImm ..)]
  simp only [candidateA1, fieldsImm]
  rw [wCh_packImm]
  rfl

theorem EncodeWord.jset : ∀ x0 x1 x2 x3 x4 x5, EncodeWord.Statement (.jset x0 x1 x2 x3 x4 x5) := by
  intro x0 x1 x2 x3 x4 x5 hw w h
  cases h
  rw [candidate_A1 (wOp_packReg ..)]
  simp only [candidateA1, fieldsReg, fieldsX]
  refine congrArg Except.ok ?_
  congr 1 <;>
    (apply BitVec.eq_of_getLsbD_eq
     intro i hi
     simp only [BitVec.getLsbD_extractLsb', BitVec.getLsbD_append, hi, decide_true, Bool.true_and]
     repeat first | rw [if_neg (by omega)] | rw [if_pos (by omega)]
     all_goals first | rfl | (congr 1; omega))

theorem EncodeWord.chunb : ∀ x0 x1, EncodeWord.Statement (.chunb x0 x1) := by
  intro x0 x1 hw w h
  cases h
  rw [candidate_A1 (wOp_packImm ..)]
  simp only [candidateA1, fieldsImm]
  refine congrArg Except.ok ?_
  congr 1 <;>
    (apply BitVec.eq_of_getLsbD_eq
     intro i hi
     simp only [BitVec.getLsbD_extractLsb', BitVec.getLsbD_append, hi, decide_true, Bool.true_and]
     repeat first | rw [if_neg (by omega)] | rw [if_pos (by omega)]
     all_goals first | rfl | (congr 1; omega))

theorem EncodeWord.chst : ∀ x0 x1 x2, EncodeWord.Statement (.chst x0 x1 x2) := by
  intro x0 x1 x2 hw w h
  cases h
  rw [candidate_A1 (wOp_packImm ..)]
  simp only [candidateA1, fieldsImm]
  refine congrArg Except.ok ?_
  congr 1 <;>
    (apply BitVec.eq_of_getLsbD_eq
     intro i hi
     simp only [BitVec.getLsbD_extractLsb', BitVec.getLsbD_append, hi, decide_true, Bool.true_and]
     repeat first | rw [if_neg (by omega)] | rw [if_pos (by omega)]
     all_goals first | rfl | (congr 1; omega))

theorem EncodeWord.awaitCtr : ∀ x0 x1 x2, EncodeWord.Statement (.awaitCtr x0 x1 x2) := by
  intro x0 x1 x2 hw w h
  cases h
  rw [candidate_A2 (wOp_packImm ..)]
  simp only [candidateA2, fieldsImm]
  refine congrArg Except.ok ?_
  congr 1 <;>
    (apply BitVec.eq_of_getLsbD_eq
     intro i hi
     simp only [BitVec.getLsbD_extractLsb', BitVec.getLsbD_append, hi, decide_true, Bool.true_and]
     repeat first | rw [if_neg (by omega)] | rw [if_pos (by omega)]
     all_goals first | rfl | (congr 1; omega))

theorem EncodeWord.awaitBatch : ∀ x0 x1, EncodeWord.Statement (.awaitBatch x0 x1) := by
  intro x0 x1 hw w h
  cases h
  rw [candidate_A2 (wOp_packImm ..)]
  simp only [candidateA2, fieldsImm]
  rfl

theorem EncodeWord.awaitLic : ∀ x0, EncodeWord.Statement (.awaitLic x0) := by
  intro x0 hw w h
  cases h
  rw [candidate_A2 (wOp_packImm ..)]
  simp only [candidateA2, fieldsImm]
  rfl

theorem EncodeWord.awaitTkt : ∀ x0 x1, EncodeWord.Statement (.awaitTkt x0 x1) := by
  intro x0 x1 hw w h
  cases h
  rw [candidate_A2 (wOp_packImm ..)]
  simp only [candidateA2, fieldsImm]
  rfl

theorem EncodeWord.awaitChan : ∀ x0 x1, EncodeWord.Statement (.awaitChan x0 x1) := by
  intro x0 x1 hw w h
  cases h
  rw [candidate_A2 (wOp_packImm ..)]
  simp only [candidateA2, fieldsImm]
  refine congrArg Except.ok ?_
  congr 1 <;>
    (apply BitVec.eq_of_getLsbD_eq
     intro i hi
     simp only [BitVec.getLsbD_extractLsb', BitVec.getLsbD_append, hi, decide_true, Bool.true_and]
     repeat first | rw [if_neg (by omega)] | rw [if_pos (by omega)]
     all_goals first | rfl | (congr 1; omega))

theorem EncodeWord.yield : ∀ x0, EncodeWord.Statement (.yield x0) := by
  intro x0 hw w h
  cases h
  rw [candidate_A2 (wOp_packReg ..)]
  simp only [candidateA2, fieldsReg]
  rfl

theorem EncodeWord.endAct : ∀ x0, EncodeWord.Statement (.endAct x0) := by
  intro x0 hw w h
  cases h
  rw [candidate_A2 (wOp_packReg ..)]
  simp only [candidateA2, fieldsReg]
  rfl

theorem EncodeWord.slvl : ∀ x0 x1 x2 x3 x4, EncodeWord.Statement (.slvl x0 x1 x2 x3 x4) := by
  intro x0 x1 x2 x3 x4 hw w h
  cases h
  rw [candidate_A3 (wOp_packReg ..)]
  simp only [candidateA3, fieldsReg, fieldsX]
  refine congrArg Except.ok ?_
  congr 1 <;>
    (apply BitVec.eq_of_getLsbD_eq
     intro i hi
     simp only [BitVec.getLsbD_extractLsb', BitVec.getLsbD_append, hi, decide_true, Bool.true_and]
     repeat first | rw [if_neg (by omega)] | rw [if_pos (by omega)]
     all_goals first | rfl | (congr 1; omega))

theorem EncodeWord.scpy : ∀ x0 x1 x2 x3 x4 x5 x6 x7, EncodeWord.Statement (.scpy x0 x1 x2 x3 x4 x5 x6 x7) := by
  intro x0 x1 x2 x3 x4 x5 x6 x7 hw w h
  cases h
  rw [candidate_A3 (wOp_packReg ..)]
  simp only [candidateA3, fieldsReg, fieldsX]
  have hs : BitVec.extractLsb' 4 1 (0#2 ++ (x7 ++ (scpyDN x1 ++ (x6 ++ x5))) : BitVec 10) = scpyDN x1 := by
    apply BitVec.eq_of_getLsbD_eq
    intro i hi
    simp only [BitVec.getLsbD_extractLsb', BitVec.getLsbD_append, hi, decide_true, Bool.true_and]
    repeat first | rw [if_neg (by omega)] | rw [if_pos (by omega)]
    all_goals first | rfl | (congr 1; omega) | simp
  rw [hs, scpy_ofFields x1]
  refine congrArg Except.ok ?_
  congr 1 <;>
    (apply BitVec.eq_of_getLsbD_eq
     intro i hi
     simp only [BitVec.getLsbD_extractLsb', BitVec.getLsbD_append, hi, decide_true, Bool.true_and]
     repeat first | rw [if_neg (by omega)] | rw [if_pos (by omega)]
     all_goals first | rfl | (congr 1; omega) | simp)

theorem EncodeWord.sgth : ∀ x0 x1 x2 x3 x4 x5 x6, EncodeWord.Statement (.sgth x0 x1 x2 x3 x4 x5 x6) := by
  intro x0 x1 x2 x3 x4 x5 x6 hw w h
  cases h
  rw [candidate_A3 (wOp_packReg ..)]
  simp only [candidateA3, fieldsReg, fieldsX]
  refine congrArg Except.ok ?_
  congr 1 <;>
    (apply BitVec.eq_of_getLsbD_eq
     intro i hi
     simp only [BitVec.getLsbD_extractLsb', BitVec.getLsbD_append, hi, decide_true, Bool.true_and]
     repeat first | rw [if_neg (by omega)] | rw [if_pos (by omega)]
     all_goals first | rfl | (congr 1; omega))

theorem EncodeWord.sfq : ∀ x0 x1 x2 x3 x4 x5 x6 x7, EncodeWord.Statement (.sfq x0 x1 x2 x3 x4 x5 x6 x7) := by
  intro x0 x1 x2 x3 x4 x5 x6 x7 hw w h
  cases h
  rw [candidate_A3 (wOp_packReg ..)]
  simp only [candidateA3, fieldsReg, fieldsX]
  have hs : BitVec.extractLsb' 2 1 (x7 ++ (x6 ++ (x5 ++ (0#1 ++ x4))) : BitVec 10) = 0#1 := by
    apply BitVec.eq_of_getLsbD_eq
    intro i hi
    simp only [BitVec.getLsbD_extractLsb', BitVec.getLsbD_append, hi, decide_true, Bool.true_and]
    repeat first | rw [if_neg (by omega)] | rw [if_pos (by omega)]
    all_goals first | rfl | (congr 1; omega) | simp
  change ite _ _ _ = _
  rw [hs, if_neg (by decide)]
  refine congrArg Except.ok ?_
  congr 1 <;>
    (apply BitVec.eq_of_getLsbD_eq
     intro i hi
     simp only [BitVec.getLsbD_extractLsb', BitVec.getLsbD_append, hi, decide_true, Bool.true_and]
     repeat first | rw [if_neg (by omega)] | rw [if_pos (by omega)]
     all_goals first | rfl | (congr 1; omega) | simp)

theorem EncodeWord.sfqRemote : ∀ x0 x1 x2 x3 x4 x5 x6, EncodeWord.Statement (.sfqRemote x0 x1 x2 x3 x4 x5 x6) := by
  intro x0 x1 x2 x3 x4 x5 x6 hw w h
  cases h
  rw [candidate_A3 (wOp_packReg ..)]
  simp only [candidateA3, fieldsReg, fieldsX]
  have hs : BitVec.extractLsb' 2 1 (x6 ++ (x5 ++ (0#1 ++ (1#1 ++ 0#2))) : BitVec 10) = 1#1 := by
    apply BitVec.eq_of_getLsbD_eq
    intro i hi
    simp only [BitVec.getLsbD_extractLsb', BitVec.getLsbD_append, hi, decide_true, Bool.true_and]
    repeat first | rw [if_neg (by omega)] | rw [if_pos (by omega)]
    all_goals first | rfl | (congr 1; omega) | simp
  change ite _ _ _ = _
  rw [hs, if_pos rfl]
  refine congrArg Except.ok ?_
  congr 1 <;>
    (apply BitVec.eq_of_getLsbD_eq
     intro i hi
     simp only [BitVec.getLsbD_extractLsb', BitVec.getLsbD_append, hi, decide_true, Bool.true_and]
     repeat first | rw [if_neg (by omega)] | rw [if_pos (by omega)]
     all_goals first | rfl | (congr 1; omega) | simp)

theorem EncodeWord.sbar : ∀ x0 x1, EncodeWord.Statement (.sbar x0 x1) := by
  intro x0 x1 hw w h
  cases h
  rw [candidate_A3 (wOp_packReg ..)]
  simp only [candidateA3, fieldsReg, fieldsX]
  refine congrArg Except.ok ?_
  congr 1 <;>
    (apply BitVec.eq_of_getLsbD_eq
     intro i hi
     simp only [BitVec.getLsbD_extractLsb', BitVec.getLsbD_append, hi, decide_true, Bool.true_and]
     repeat first | rw [if_neg (by omega)] | rw [if_pos (by omega)]
     all_goals first | rfl | (congr 1; omega))

theorem EncodeWord.bseal : ∀ x0 x1, EncodeWord.Statement (.bseal x0 x1) := by
  intro x0 x1 hw w h
  cases h
  rw [candidate_A4 (wOp_packReg ..)]
  simp only [candidateA4, fieldsReg]
  rfl

theorem EncodeWord.waitb : ∀ x0 x1, EncodeWord.Statement (.waitb x0 x1) := by
  intro x0 x1 hw w h
  cases h
  rw [candidate_A4 (wOp_packImm ..)]
  simp only [candidateA4, fieldsImm]
  refine congrArg Except.ok ?_
  congr 1 <;>
    (apply BitVec.eq_of_getLsbD_eq
     intro i hi
     simp only [BitVec.getLsbD_extractLsb', BitVec.getLsbD_append, hi, decide_true, Bool.true_and]
     repeat first | rw [if_neg (by omega)] | rw [if_pos (by omega)]
     all_goals first | rfl | (congr 1; omega))

theorem EncodeWord.bstat : ∀ x0 x1 x2, EncodeWord.Statement (.bstat x0 x1 x2) := by
  intro x0 x1 x2 hw w h
  cases h
  rw [candidate_A4 (wOp_packReg ..)]
  simp only [candidateA4, fieldsReg]
  rfl

theorem EncodeWord.put : ∀ x0 x1 x2 x3 x4, EncodeWord.Statement (.put x0 x1 x2 x3 x4) := by
  intro x0 x1 x2 x3 x4 hw w h
  cases h
  rw [candidate_A5 (wOp_packReg ..)]
  simp only [candidateA5, fieldsReg]
  rfl

theorem EncodeWord.get : ∀ x0 x1 x2 x3 x4, EncodeWord.Statement (.get x0 x1 x2 x3 x4) := by
  intro x0 x1 x2 x3 x4 hw w h
  cases h
  rw [candidate_A5 (wOp_packReg ..)]
  simp only [candidateA5, fieldsReg]
  rfl

theorem EncodeWord.tkst : ∀ x0 x1 x2, EncodeWord.Statement (.tkst x0 x1 x2) := by
  intro x0 x1 x2 hw w h
  cases h
  rw [candidate_A5 (wOp_packReg ..)]
  simp only [candidateA5, fieldsReg]
  rfl

theorem EncodeWord.tkstValue : ∀ x0 x1 x2, EncodeWord.Statement (.tkstValue x0 x1 x2) := by
  intro x0 x1 x2 hw w h
  cases h
  rw [candidate_A5 (wOp_packReg ..)]
  simp only [candidateA5, fieldsReg, fieldsX]
  refine congrArg Except.ok ?_
  congr 1 <;>
    (apply BitVec.eq_of_getLsbD_eq
     intro i hi
     simp only [BitVec.getLsbD_extractLsb', BitVec.getLsbD_append, hi, decide_true, Bool.true_and]
     repeat first | rw [if_neg (by omega)] | rw [if_pos (by omega)]
     all_goals first | rfl | (congr 1; omega))

theorem EncodeWord.raAdd : ∀ x0 x1 x2 x3 x4, EncodeWord.Statement (.raAdd x0 x1 x2 x3 x4) := by
  intro x0 x1 x2 x3 x4 hw w h
  cases h
  rw [candidate_A5 (wOp_packReg ..)]
  simp only [candidateA5, fieldsReg, fieldsX, ofCode_code]
  rfl

theorem EncodeWord.raAnd : ∀ x0 x1 x2 x3 x4, EncodeWord.Statement (.raAnd x0 x1 x2 x3 x4) := by
  intro x0 x1 x2 x3 x4 hw w h
  cases h
  rw [candidate_A5 (wOp_packReg ..)]
  simp only [candidateA5, fieldsReg, fieldsX, ofCode_code]
  rfl

theorem EncodeWord.raOr : ∀ x0 x1 x2 x3 x4, EncodeWord.Statement (.raOr x0 x1 x2 x3 x4) := by
  intro x0 x1 x2 x3 x4 hw w h
  cases h
  rw [candidate_A5 (wOp_packReg ..)]
  simp only [candidateA5, fieldsReg, fieldsX, ofCode_code]
  rfl

theorem EncodeWord.raXor : ∀ x0 x1 x2 x3 x4, EncodeWord.Statement (.raXor x0 x1 x2 x3 x4) := by
  intro x0 x1 x2 x3 x4 hw w h
  cases h
  rw [candidate_A5 (wOp_packReg ..)]
  simp only [candidateA5, fieldsReg, fieldsX, ofCode_code]
  rfl

theorem EncodeWord.raMin : ∀ x0 x1 x2 x3 x4, EncodeWord.Statement (.raMin x0 x1 x2 x3 x4) := by
  intro x0 x1 x2 x3 x4 hw w h
  cases h
  rw [candidate_A5 (wOp_packReg ..)]
  simp only [candidateA5, fieldsReg, fieldsX, ofCode_code]
  rfl

theorem EncodeWord.raMax : ∀ x0 x1 x2 x3 x4, EncodeWord.Statement (.raMax x0 x1 x2 x3 x4) := by
  intro x0 x1 x2 x3 x4 hw w h
  cases h
  rw [candidate_A5 (wOp_packReg ..)]
  simp only [candidateA5, fieldsReg, fieldsX, ofCode_code]
  rfl

theorem EncodeWord.raSwp : ∀ x0 x1 x2 x3 x4, EncodeWord.Statement (.raSwp x0 x1 x2 x3 x4) := by
  intro x0 x1 x2 x3 x4 hw w h
  cases h
  rw [candidate_A5 (wOp_packReg ..)]
  simp only [candidateA5, fieldsReg, fieldsX, ofCode_code]
  rfl

theorem EncodeWord.raCas : ∀ x0 x1 x2 x3 x4 x5, EncodeWord.Statement (.raCas x0 x1 x2 x3 x4 x5) := by
  intro x0 x1 x2 x3 x4 x5 hw w h
  cases h
  rw [candidate_A5 (wOp_packReg ..)]
  simp only [candidateA5, fieldsReg, fieldsX, ofCode_code]
  rfl

theorem EncodeWord.ctrb : ∀ x0 x1 x2 x3 x4, EncodeWord.Statement (.ctrb x0 x1 x2 x3 x4) := by
  intro x0 x1 x2 x3 x4 hw w h
  cases h
  rw [candidate_A6 (wOp_packReg ..)]
  simp only [candidateA6, fieldsReg, fieldsX]
  refine congrArg Except.ok ?_
  congr 1 <;>
    (apply BitVec.eq_of_getLsbD_eq
     intro i hi
     simp only [BitVec.getLsbD_extractLsb', BitVec.getLsbD_append, hi, decide_true, Bool.true_and]
     repeat first | rw [if_neg (by omega)] | rw [if_pos (by omega)]
     all_goals first | rfl | (congr 1; omega))

theorem EncodeWord.tbuild : ∀ x0 x1 x2, EncodeWord.Statement (.tbuild x0 x1 x2) := by
  intro x0 x1 x2 hw w h
  cases h
  rw [candidate_A6 (wOp_packReg ..)]
  simp only [candidateA6, fieldsReg]
  rfl

theorem EncodeWord.tfree : ∀ x0 x1 x2, EncodeWord.Statement (.tfree x0 x1 x2) := by
  intro x0 x1 x2 hw w h
  cases h
  rw [candidate_A6 (wOp_packReg ..)]
  simp only [candidateA6, fieldsReg]
  rfl

theorem EncodeWord.tabort : ∀ x0 x1, EncodeWord.Statement (.tabort x0 x1) := by
  intro x0 x1 hw w h
  cases h
  rw [candidate_A6 (wOp_packReg ..)]
  simp only [candidateA6, fieldsReg]
  rfl

theorem EncodeWord.tqryStatus : ∀ x0 x1 x2, EncodeWord.Statement (.tqryStatus x0 x1 x2) := by
  intro x0 x1 x2 hw w h
  cases h
  rw [candidate_A6 (wOp_packReg ..)]
  simp only [candidateA6, fieldsReg]
  rfl

theorem EncodeWord.tqryDoneBitmap : ∀ x0 x1 x2, EncodeWord.Statement (.tqryDoneBitmap x0 x1 x2) := by
  intro x0 x1 x2 hw w h
  cases h
  rw [candidate_A6 (wOp_packReg ..)]
  simp only [candidateA6, fieldsReg, fieldsX]
  rfl

theorem EncodeWord.tqryQuorumCount : ∀ x0 x1 x2, EncodeWord.Statement (.tqryQuorumCount x0 x1 x2) := by
  intro x0 x1 x2 hw w h
  cases h
  rw [candidate_A6 (wOp_packReg ..)]
  simp only [candidateA6, fieldsReg, fieldsX]
  rfl

theorem EncodeWord.fenceCtx : ∀ x0, EncodeWord.Statement (.fenceCtx x0) := by
  intro x0 hw w h
  cases h
  rw [candidate_A7 (wOp_packImm ..)]
  simp only [candidateA7, fieldsImm]
  rfl

theorem EncodeWord.fenceCore : ∀ x0, EncodeWord.Statement (.fenceCore x0) := by
  intro x0 hw w h
  cases h
  rw [candidate_A7 (wOp_packImm ..)]
  simp only [candidateA7, fieldsImm]
  rfl

theorem EncodeWord.fencePair : ∀ x0, EncodeWord.Statement (.fencePair x0) := by
  intro x0 hw w h
  cases h
  rw [candidate_A7 (wOp_packImm ..)]
  simp only [candidateA7, fieldsImm]
  rfl

theorem EncodeWord.fenceGrp : ∀ x0, EncodeWord.Statement (.fenceGrp x0) := by
  intro x0 hw w h
  cases h
  rw [candidate_A7 (wOp_packImm ..)]
  simp only [candidateA7, fieldsImm]
  rfl

theorem EncodeWord.fenceMod : ∀ x0, EncodeWord.Statement (.fenceMod x0) := by
  intro x0 hw w h
  cases h
  rw [candidate_A7 (wOp_packImm ..)]
  simp only [candidateA7, fieldsImm]
  rfl

theorem EncodeWord.fenceSys : ∀ x0, EncodeWord.Statement (.fenceSys x0) := by
  intro x0 hw w h
  cases h
  rw [candidate_A7 (wOp_packImm ..)]
  simp only [candidateA7, fieldsImm]
  rfl

theorem EncodeWord.acset : ∀ x0 x1 x2, EncodeWord.Statement (.acset x0 x1 x2) := by
  intro x0 x1 x2 hw w h
  cases h
  rw [candidate_A8 (wOp_packReg ..)]
  simp only [candidateA8, fieldsReg, fieldsX]
  refine congrArg Except.ok ?_
  congr 1 <;>
    (apply BitVec.eq_of_getLsbD_eq
     intro i hi
     simp only [BitVec.getLsbD_extractLsb', BitVec.getLsbD_append, hi, decide_true, Bool.true_and]
     repeat first | rw [if_neg (by omega)] | rw [if_pos (by omega)]
     all_goals first | rfl | (congr 1; omega))

theorem EncodeWord.acadd : ∀ x0 x1 x2 x3, EncodeWord.Statement (.acadd x0 x1 x2 x3) := by
  intro x0 x1 x2 x3 hw w h
  cases h
  rw [candidate_A8 (wOp_packReg ..)]
  simp only [candidateA8, fieldsReg, fieldsX]
  refine congrArg Except.ok ?_
  congr 1 <;>
    (apply BitVec.eq_of_getLsbD_eq
     intro i hi
     simp only [BitVec.getLsbD_extractLsb', BitVec.getLsbD_append, hi, decide_true, Bool.true_and]
     repeat first | rw [if_neg (by omega)] | rw [if_pos (by omega)]
     all_goals first | rfl | (congr 1; omega))

theorem EncodeWord.acrd : ∀ x0 x1 x2, EncodeWord.Statement (.acrd x0 x1 x2) := by
  intro x0 x1 x2 hw w h
  cases h
  rw [candidate_A8 (wOp_packReg ..)]
  simp only [candidateA8, fieldsReg, fieldsX]
  refine congrArg Except.ok ?_
  congr 1 <;>
    (apply BitVec.eq_of_getLsbD_eq
     intro i hi
     simp only [BitVec.getLsbD_extractLsb', BitVec.getLsbD_append, hi, decide_true, Bool.true_and]
     repeat first | rw [if_neg (by omega)] | rw [if_pos (by omega)]
     all_goals first | rfl | (congr 1; omega))

theorem EncodeWord.suspend : ∀ x0 x1 x2 x3 x4, EncodeWord.Statement (.suspend x0 x1 x2 x3 x4) := by
  intro x0 x1 x2 x3 x4 hw w h
  cases h
  rw [candidate_C0 (wOp_packReg ..)]
  simp only [candidateC0, fieldsReg]
  rfl

theorem EncodeWord.resume : ∀ x0 x1 x2 x3 x4 x5, EncodeWord.Statement (.resume x0 x1 x2 x3 x4 x5) := by
  intro x0 x1 x2 x3 x4 x5 hw w h
  cases h
  rw [candidate_C0 (wOp_packReg ..)]
  simp only [candidateC0, fieldsReg, fieldsX]
  refine congrArg Except.ok ?_
  congr 1 <;>
    (apply BitVec.eq_of_getLsbD_eq
     intro i hi
     simp only [BitVec.getLsbD_extractLsb', BitVec.getLsbD_append, hi, decide_true, Bool.true_and]
     repeat first | rw [if_neg (by omega)] | rw [if_pos (by omega)]
     all_goals first | rfl | (congr 1; omega))

theorem EncodeWord.resumeSt : ∀ x0 x1 x2 x3 x4 x5, EncodeWord.Statement (.resumeSt x0 x1 x2 x3 x4 x5) := by
  intro x0 x1 x2 x3 x4 x5 hw w h
  cases h
  rw [candidate_C0 (wOp_packReg ..)]
  simp only [candidateC0, fieldsReg, fieldsX]
  refine congrArg Except.ok ?_
  congr 1 <;>
    (apply BitVec.eq_of_getLsbD_eq
     intro i hi
     simp only [BitVec.getLsbD_extractLsb', BitVec.getLsbD_append, hi, decide_true, Bool.true_and]
     repeat first | rw [if_neg (by omega)] | rw [if_pos (by omega)]
     all_goals first | rfl | (congr 1; omega))

theorem EncodeWord.copy : ∀ x0 x1 x2 x3 x4, EncodeWord.Statement (.copy x0 x1 x2 x3 x4) := by
  intro x0 x1 x2 x3 x4 hw w h
  cases h
  rw [candidate_C0 (wOp_packReg ..)]
  simp only [candidateC0, fieldsReg]
  rfl

theorem EncodeWord.copySt : ∀ x0 x1 x2 x3 x4, EncodeWord.Statement (.copySt x0 x1 x2 x3 x4) := by
  intro x0 x1 x2 x3 x4 hw w h
  cases h
  rw [candidate_C0 (wOp_packReg ..)]
  simp only [candidateC0, fieldsReg]
  rfl

theorem EncodeWord.discard : ∀ x0 x1 x2 x3, EncodeWord.Statement (.discard x0 x1 x2 x3) := by
  intro x0 x1 x2 x3 hw w h
  cases h
  rw [candidate_C0 (wOp_packReg ..)]
  simp only [candidateC0, fieldsReg]
  rfl

theorem EncodeWord.discardSt : ∀ x0 x1 x2 x3, EncodeWord.Statement (.discardSt x0 x1 x2 x3) := by
  intro x0 x1 x2 x3 hw w h
  cases h
  rw [candidate_C0 (wOp_packReg ..)]
  simp only [candidateC0, fieldsReg]
  rfl

theorem EncodeWord.trap : ∀ x0 x1, EncodeWord.Statement (.trap x0 x1) := by
  intro x0 x1 hw w h
  cases h
  rw [candidate_C1 (wOp_packReg ..)]
  simp only [candidateC1, fieldsReg, fieldsX]
  rfl

theorem EncodeWord.bkpt : ∀ x0 x1, EncodeWord.Statement (.bkpt x0 x1) := by
  intro x0 x1 hw w h
  cases h
  rw [candidate_C1 (wOp_packReg ..)]
  simp only [candidateC1, fieldsReg, fieldsX]
  rfl

theorem EncodeWord.tretReissue : ∀ x0, EncodeWord.Statement (.tretReissue x0) := by
  intro x0 hw w h
  cases h
  rw [candidate_C1 (wOp_packReg ..)]
  simp only [candidateC1, fieldsReg]
  rfl

theorem EncodeWord.tretNext : ∀ x0, EncodeWord.Statement (.tretNext x0) := by
  intro x0 hw w h
  cases h
  rw [candidate_C1 (wOp_packReg ..)]
  simp only [candidateC1, fieldsReg, fieldsX]
  refine congrArg Except.ok ?_
  congr 1 <;>
    (apply BitVec.eq_of_getLsbD_eq
     intro i hi
     simp only [BitVec.getLsbD_extractLsb', BitVec.getLsbD_append, hi, decide_true, Bool.true_and]
     repeat first | rw [if_neg (by omega)] | rw [if_pos (by omega)]
     all_goals first | rfl | (congr 1; omega))

theorem EncodeWord.tretTarget : ∀ x0 x1, EncodeWord.Statement (.tretTarget x0 x1) := by
  intro x0 x1 hw w h
  cases h
  rw [candidate_C1 (wOp_packReg ..)]
  simp only [candidateC1, fieldsReg, fieldsX]
  refine congrArg Except.ok ?_
  congr 1 <;>
    (apply BitVec.eq_of_getLsbD_eq
     intro i hi
     simp only [BitVec.getLsbD_extractLsb', BitVec.getLsbD_append, hi, decide_true, Bool.true_and]
     repeat first | rw [if_neg (by omega)] | rw [if_pos (by omega)]
     all_goals first | rfl | (congr 1; omega))

theorem EncodeWord.isbind : ∀ x0 x1 x2, EncodeWord.Statement (.isbind x0 x1 x2) := by
  intro x0 x1 x2 hw w h
  cases h
  rw [candidate_C2 (wOp_packReg ..)]
  simp only [candidateC2, fieldsReg]
  rfl

theorem EncodeWord.isrel : ∀ x0, EncodeWord.Statement (.isrel x0) := by
  intro x0 hw w h
  cases h
  rw [candidate_C2 (wOp_packReg ..)]
  simp only [candidateC2, fieldsReg]
  rfl

theorem EncodeWord.isendLatch : ∀ x0 x1 x2 x3 x4 x5, EncodeWord.Statement (.isendLatch x0 x1 x2 x3 x4 x5) := by
  intro x0 x1 x2 x3 x4 x5 hw w h
  cases h
  rw [candidate_C2 (wOp_packReg ..)]
  simp only [candidateC2, fieldsReg, fieldsX, ofCode_code]
  have hs : ∀ (y : BitVec 5) (z : BitVec 1), BitVec.extractLsb' 0 2 (y ++ (0#4 ++ z) : BitVec 10) ≠ 2#2 := by decide
  change ite _ _ _ = _
  rw [if_neg (hs x4 x3)]
  refine congrArg Except.ok ?_
  congr 1 <;>
    (apply BitVec.eq_of_getLsbD_eq
     intro i hi
     simp only [BitVec.getLsbD_extractLsb', BitVec.getLsbD_append, hi, decide_true, Bool.true_and]
     repeat first | rw [if_neg (by omega)] | rw [if_pos (by omega)]
     all_goals first | rfl | (congr 1; omega) | simp)

theorem EncodeWord.isendTwin : ∀ x0 x1 x2 x3, EncodeWord.Statement (.isendTwin x0 x1 x2 x3) := by
  intro x0 x1 x2 x3 hw w h
  cases h
  rw [candidate_C2 (wOp_packReg ..)]
  simp only [candidateC2, fieldsReg, fieldsX]
  have hs : BitVec.extractLsb' 0 2 (0#5 ++ (x3 ++ 2#2) : BitVec 10) = 2#2 := by
    apply BitVec.eq_of_getLsbD_eq
    intro i hi
    simp only [BitVec.getLsbD_extractLsb', BitVec.getLsbD_append, hi, decide_true, Bool.true_and]
    repeat first | rw [if_neg (by omega)] | rw [if_pos (by omega)]
    all_goals first | rfl | (congr 1; omega) | simp
  change ite _ _ _ = _
  rw [hs, if_pos rfl]
  refine congrArg Except.ok ?_
  congr 1 <;>
    (apply BitVec.eq_of_getLsbD_eq
     intro i hi
     simp only [BitVec.getLsbD_extractLsb', BitVec.getLsbD_append, hi, decide_true, Bool.true_and]
     repeat first | rw [if_neg (by omega)] | rw [if_pos (by omega)]
     all_goals first | rfl | (congr 1; omega) | simp)

theorem EncodeWord.issync : ∀ x0 x1, EncodeWord.Statement (.issync x0 x1) := by
  intro x0 x1 hw w h
  cases h
  rw [candidate_C2 (wOp_packReg ..)]
  simp only [candidateC2, fieldsReg]
  rfl

theorem EncodeWord.scheduleValueReached : ∀ x0, EncodeWord.Statement (.scheduleValueReached x0) := fun _ _ _ h => nomatch h

theorem EncodeWord.launch : ∀ x0 x1 x2 x3, EncodeWord.Statement (.launch x0 x1 x2 x3) := by
  intro x0 x1 x2 x3 hw w h
  cases h
  rw [candidate_C3 (wOp_packReg ..)]
  simp only [candidateC3, fieldsReg]
  rfl

theorem EncodeWord.evsig : ∀ x0 x1 x2, EncodeWord.Statement (.evsig x0 x1 x2) := by
  intro x0 x1 x2 hw w h
  cases h
  rw [candidate_C3 (wOp_packReg ..)]
  simp only [candidateC3, fieldsReg]
  rfl

theorem EncodeWord.evarm : ∀ x0 x1 x2 x3, EncodeWord.Statement (.evarm x0 x1 x2 x3) := by
  intro x0 x1 x2 x3 hw w h
  cases h
  rw [candidate_C3 (wOp_packReg ..)]
  simp only [candidateC3, fieldsReg, fieldsX]
  refine congrArg Except.ok ?_
  congr 1 <;>
    (apply BitVec.eq_of_getLsbD_eq
     intro i hi
     simp only [BitVec.getLsbD_extractLsb', BitVec.getLsbD_append, hi, decide_true, Bool.true_and]
     repeat first | rw [if_neg (by omega)] | rw [if_pos (by omega)]
     all_goals first | rfl | (congr 1; omega))

theorem EncodeWord.evrd : ∀ x0 x1 x2 x3, EncodeWord.Statement (.evrd x0 x1 x2 x3) := by
  intro x0 x1 x2 x3 hw w h
  cases h
  rw [candidate_C3 (wOp_packReg ..)]
  simp only [candidateC3, fieldsReg]
  rfl

theorem EncodeWord.psnqScalar : ∀ x0 x1 x2, EncodeWord.Statement (.psnqScalar x0 x1 x2) := by
  intro x0 x1 x2 hw w h
  cases h
  rw [candidate_C4 (wOp_packReg ..)]
  simp only [candidateC4, fieldsReg]
  rfl

theorem EncodeWord.psnqVector : ∀ x0 x1 x2 x3 x4, EncodeWord.Statement (.psnqVector x0 x1 x2 x3 x4) := by
  intro x0 x1 x2 x3 x4 hw w h
  cases h
  rw [candidate_C4 (wOp_packReg ..)]
  simp only [candidateC4, fieldsReg, fieldsX]
  have hs : BitVec.extractLsb' 0 2 (0#5 ++ (x4 ++ (x3 ++ 1#2)) : BitVec 10) = 1#2 := by
    apply BitVec.eq_of_getLsbD_eq
    intro i hi
    simp only [BitVec.getLsbD_extractLsb', BitVec.getLsbD_append, hi, decide_true, Bool.true_and]
    repeat first | rw [if_neg (by omega)] | rw [if_pos (by omega)]
    all_goals first | rfl | (congr 1; omega) | simp
  change ite _ _ _ = _
  rw [hs, if_pos rfl]
  refine congrArg Except.ok ?_
  congr 1 <;>
    (apply BitVec.eq_of_getLsbD_eq
     intro i hi
     simp only [BitVec.getLsbD_extractLsb', BitVec.getLsbD_append, hi, decide_true, Bool.true_and]
     repeat first | rw [if_neg (by omega)] | rw [if_pos (by omega)]
     all_goals first | rfl | (congr 1; omega) | simp)

theorem EncodeWord.psnqAcc : ∀ x0 x1 x2 x3, EncodeWord.Statement (.psnqAcc x0 x1 x2 x3) := by
  intro x0 x1 x2 x3 hw w h
  cases h
  rw [candidate_C4 (wOp_packReg ..)]
  simp only [candidateC4, fieldsReg, fieldsX]
  have hs : BitVec.extractLsb' 0 2 (0#7 ++ (x3 ++ 2#2) : BitVec 10) = 2#2 := by
    apply BitVec.eq_of_getLsbD_eq
    intro i hi
    simp only [BitVec.getLsbD_extractLsb', BitVec.getLsbD_append, hi, decide_true, Bool.true_and]
    repeat first | rw [if_neg (by omega)] | rw [if_pos (by omega)]
    all_goals first | rfl | (congr 1; omega) | simp
  change ite _ _ _ = _
  rw [hs, if_neg (by decide), if_pos rfl]
  refine congrArg Except.ok ?_
  congr 1 <;>
    (apply BitVec.eq_of_getLsbD_eq
     intro i hi
     simp only [BitVec.getLsbD_extractLsb', BitVec.getLsbD_append, hi, decide_true, Bool.true_and]
     repeat first | rw [if_neg (by omega)] | rw [if_pos (by omega)]
     all_goals first | rfl | (congr 1; omega) | simp)

theorem EncodeWord.psnqTwin : ∀ x0 x1 x2 x3, EncodeWord.Statement (.psnqTwin x0 x1 x2 x3) := by
  intro x0 x1 x2 x3 hw w h
  cases h
  rw [candidate_C4 (wOp_packReg ..)]
  simp only [candidateC4, fieldsReg, fieldsX]
  have hs : BitVec.extractLsb' 0 2 (0#7 ++ (x3 ++ 3#2) : BitVec 10) = 3#2 := by
    apply BitVec.eq_of_getLsbD_eq
    intro i hi
    simp only [BitVec.getLsbD_extractLsb', BitVec.getLsbD_append, hi, decide_true, Bool.true_and]
    repeat first | rw [if_neg (by omega)] | rw [if_pos (by omega)]
    all_goals first | rfl | (congr 1; omega) | simp
  change ite _ _ _ = _
  rw [hs, if_neg (by decide), if_neg (by decide), if_pos rfl]
  refine congrArg Except.ok ?_
  congr 1 <;>
    (apply BitVec.eq_of_getLsbD_eq
     intro i hi
     simp only [BitVec.getLsbD_extractLsb', BitVec.getLsbD_append, hi, decide_true, Bool.true_and]
     repeat first | rw [if_neg (by omega)] | rw [if_pos (by omega)]
     all_goals first | rfl | (congr 1; omega) | simp)

theorem EncodeWord.psncls : ∀ x0 x1, EncodeWord.Statement (.psncls x0 x1) := by
  intro x0 x1 hw w h
  cases h
  rw [candidate_C4 (wOp_packReg ..)]
  simp only [candidateC4, fieldsReg]
  rfl

theorem EncodeWord.psnclv : ∀ x0 x1, EncodeWord.Statement (.psnclv x0 x1) := by
  intro x0 x1 hw w h
  cases h
  rw [candidate_C4 (wOp_packReg ..)]
  simp only [candidateC4, fieldsReg]
  rfl

theorem EncodeWord.psncla : ∀ x0 x1, EncodeWord.Statement (.psncla x0 x1) := by
  intro x0 x1 hw w h
  cases h
  rw [candidate_C4 (wOp_packReg ..)]
  simp only [candidateC4, fieldsReg]
  refine congrArg Except.ok ?_
  congr 1 <;>
    (apply BitVec.eq_of_getLsbD_eq
     intro i hi
     simp only [BitVec.getLsbD_extractLsb', BitVec.getLsbD_append, hi, decide_true, Bool.true_and]
     repeat first | rw [if_neg (by omega)] | rw [if_pos (by omega)]
     all_goals first | rfl | (congr 1; omega))

theorem EncodeWord.selectActivation : ∀ x0, EncodeWord.Statement (.selectActivation x0) := fun _ _ _ h => nomatch h

theorem EncodeWord.conditionMet : ∀ x0 x1, EncodeWord.Statement (.conditionMet x0 x1) := fun _ _ _ _ h => nomatch h

theorem EncodeWord.watchdogExpiry : ∀ x0, EncodeWord.Statement (.watchdogExpiry x0) := fun _ _ _ h => nomatch h

theorem EncodeWord.messageOffer : ∀ x0, EncodeWord.Statement (.messageOffer x0) := fun _ _ _ h => nomatch h

theorem EncodeWord.reoffer : ∀ x0 x1, EncodeWord.Statement (.reoffer x0 x1) := fun _ _ _ _ h => nomatch h

theorem EncodeWord.putPerform : ∀ x0, EncodeWord.Statement (.putPerform x0) := fun _ _ _ h => nomatch h

theorem EncodeWord.getServe : ∀ x0, EncodeWord.Statement (.getServe x0) := fun _ _ _ h => nomatch h

theorem EncodeWord.raPerform : ∀ x0, EncodeWord.Statement (.raPerform x0) := fun _ _ _ h => nomatch h

theorem EncodeWord.streamStorePerform : ∀ x0, EncodeWord.Statement (.streamStorePerform x0) := fun _ _ _ h => nomatch h

theorem EncodeWord.streamReadServe : ∀ x0, EncodeWord.Statement (.streamReadServe x0) := fun _ _ _ h => nomatch h

theorem EncodeWord.acknowledgement : ∀ x0, EncodeWord.Statement (.acknowledgement x0) := fun _ _ _ h => nomatch h

theorem EncodeWord.getData : ∀ x0, EncodeWord.Statement (.getData x0) := fun _ _ _ h => nomatch h

theorem EncodeWord.refusal : ∀ x0, EncodeWord.Statement (.refusal x0) := fun _ _ _ h => nomatch h

theorem EncodeWord.staleName : ∀ x0, EncodeWord.Statement (.staleName x0) := fun _ _ _ h => nomatch h

theorem EncodeWord.retranslateCheck : ∀ x0 x1, EncodeWord.Statement (.retranslateCheck x0 x1) := fun _ _ _ _ h => nomatch h

theorem EncodeWord.deliveryFailure : ∀ x0, EncodeWord.Statement (.deliveryFailure x0) := fun _ _ _ h => nomatch h

theorem EncodeWord.unlistedKind : ∀ x0, EncodeWord.Statement (.unlistedKind x0) := fun _ _ _ h => nomatch h

theorem EncodeWord.streamStart : ∀ x0 x1, EncodeWord.Statement (.streamStart x0 x1) := fun _ _ _ _ h => nomatch h

theorem EncodeWord.streamFinish : ∀ x0 x1, EncodeWord.Statement (.streamFinish x0 x1) := fun _ _ _ _ h => nomatch h

theorem EncodeWord.timedLanding : ∀ x0 x1, EncodeWord.Statement (.timedLanding x0 x1) := fun _ _ _ _ h => nomatch h

theorem EncodeWord.islandBind : ∀ x0 x1, EncodeWord.Statement (.islandBind x0 x1) := fun _ _ _ _ h => nomatch h

theorem EncodeWord.isto : ∀ x0 x1, EncodeWord.Statement (.isto x0 x1) := fun _ _ _ _ h => nomatch h

theorem EncodeWord.droopTrip : ∀ x0, EncodeWord.Statement (.droopTrip x0) := fun _ _ _ h => nomatch h

theorem EncodeWord.droopClear : ∀ x0, EncodeWord.Statement (.droopClear x0) := fun _ _ _ h => nomatch h

theorem EncodeWord.epochStep : ∀ x0, EncodeWord.Statement (.epochStep x0) := fun _ _ _ h => nomatch h

theorem EncodeWord.launchEnqueue : ∀ x0, EncodeWord.Statement (.launchEnqueue x0) := fun _ _ _ h => nomatch h

theorem EncodeWord.recordSlotWrite : ∀ x0 x1 x2, EncodeWord.Statement (.recordSlotWrite x0 x1 x2) := fun _ _ _ _ _ h => nomatch h

theorem EncodeWord.startGroup : ∀ x0, EncodeWord.Statement (.startGroup x0) := fun _ _ _ h => nomatch h

theorem EncodeWord.eventSignal : ∀ x0, EncodeWord.Statement (.eventSignal x0) := fun _ _ _ h => nomatch h

theorem EncodeWord.evrdResponse : ∀ x0, EncodeWord.Statement (.evrdResponse x0) := fun _ _ _ h => nomatch h

theorem EncodeWord.faultRecordPost : ∀ x0, EncodeWord.Statement (.faultRecordPost x0) := fun _ _ _ h => nomatch h

theorem EncodeWord.treeBuild : ∀ x0, EncodeWord.Statement (.treeBuild x0) := fun _ _ _ h => nomatch h

theorem EncodeWord.treeRemove : ∀ x0, EncodeWord.Statement (.treeRemove x0) := fun _ _ _ h => nomatch h

theorem EncodeWord.terminationProbe : ∀ x0, EncodeWord.Statement (.terminationProbe x0) := fun _ _ _ h => nomatch h

theorem EncodeWord.probeWave : ∀ x0, EncodeWord.Statement (.probeWave x0) := fun _ _ _ h => nomatch h

theorem EncodeWord.pageRelease : ∀ x0, EncodeWord.Statement (.pageRelease x0) := fun _ _ _ h => nomatch h

theorem EncodeWord.scrubDone : ∀ x0, EncodeWord.Statement (.scrubDone x0) := fun _ _ _ h => nomatch h

theorem EncodeWord.compaction : ∀ x0, EncodeWord.Statement (.compaction x0) := fun _ _ _ h => nomatch h

theorem EncodeWord.preemption : ∀ x0, EncodeWord.Statement (.preemption x0) := fun _ _ _ h => nomatch h

theorem EncodeWord.sprigMarker : ∀ x0, EncodeWord.Statement (.sprigMarker x0) := fun _ _ _ h => nomatch h

theorem EncodeWord.sealSprig : ∀ x0, EncodeWord.Statement (.sealSprig x0) := fun _ _ _ h => nomatch h

theorem EncodeWord.debtResolution : ∀ x0 x1, EncodeWord.Statement (.debtResolution x0 x1) := fun _ _ _ _ h => nomatch h

theorem EncodeWord.sprigStep : ∀ x0, EncodeWord.Statement (.sprigStep x0) := fun _ _ _ h => nomatch h

theorem EncodeWord.autoResume : ∀ x0, EncodeWord.Statement (.autoResume x0) := fun _ _ _ h => nomatch h

theorem EncodeWord.generationClose : ∀ x0 x1, EncodeWord.Statement (.generationClose x0 x1) := fun _ _ _ _ h => nomatch h

theorem EncodeWord.drainMarker : ∀ x0 x1 x2 x3, EncodeWord.Statement (.drainMarker x0 x1 x2 x3) := fun _ _ _ _ _ _ h => nomatch h

theorem EncodeWord.allDrained : ∀ x0, EncodeWord.Statement (.allDrained x0) := fun _ _ _ h => nomatch h

theorem EncodeWord.generationOpen : ∀ x0 x1, EncodeWord.Statement (.generationOpen x0 x1) := fun _ _ _ _ h => nomatch h

theorem EncodeWord.rotationDue : ∀ x0, EncodeWord.Statement (.rotationDue x0) := fun _ _ _ h => nomatch h

theorem EncodeWord.rotate : ∀ x0, EncodeWord.Statement (.rotate x0) := fun _ _ _ h => nomatch h

theorem EncodeWord.detectedTransient : ∀ x0 x1, EncodeWord.Statement (.detectedTransient x0 x1) := fun _ _ _ _ h => nomatch h

theorem EncodeWord.uncorrectableError : ∀ x0 x1, EncodeWord.Statement (.uncorrectableError x0 x1) := fun _ _ _ _ h => nomatch h

theorem EncodeWord.correctableError : EncodeWord.Statement (.correctableError) := fun _ _ h => nomatch h

theorem EncodeWord.linkRetry : ∀ x0 x1, EncodeWord.Statement (.linkRetry x0 x1) := fun _ _ _ _ h => nomatch h

theorem EncodeWord.retireCore : ∀ x0 x1, EncodeWord.Statement (.retireCore x0 x1) := fun _ _ _ _ h => nomatch h

theorem EncodeWord.cxlAccess : ∀ x0, EncodeWord.Statement (.cxlAccess x0) := fun _ _ _ h => nomatch h

theorem EncodeWord.cxlCompletion : ∀ x0 x1, EncodeWord.Statement (.cxlCompletion x0 x1) := fun _ _ _ _ h => nomatch h

theorem EncodeWord.cxlTimeout : ∀ x0, EncodeWord.Statement (.cxlTimeout x0) := fun _ _ _ h => nomatch h

theorem EncodeWord.walkComplete : ∀ x0, EncodeWord.Statement (.walkComplete x0) := fun _ _ _ h => nomatch h

theorem EncodeWord.hostAccess : ∀ x0 x1 x2 x3, EncodeWord.Statement (.hostAccess x0 x1 x2 x3) := fun _ _ _ _ _ _ h => nomatch h

theorem EncodeWord.birsp : ∀ x0 x1 x2, EncodeWord.Statement (.birsp x0 x1 x2) := fun _ _ _ _ _ h => nomatch h

theorem EncodeWord.xinv : ∀ x0 x1, EncodeWord.Statement (.xinv x0 x1) := fun _ _ _ _ h => nomatch h

theorem EncodeWord.eventWordAdd : ∀ x0 x1, EncodeWord.Statement (.eventWordAdd x0 x1) := fun _ _ _ _ h => nomatch h

theorem EncodeWord.clrf : ∀ x0, EncodeWord.Statement (.clrf x0) := fun _ _ _ h => nomatch h

theorem EncodeWord.msixArm : ∀ x0 x1, EncodeWord.Statement (.msixArm x0 x1) := fun _ _ _ _ h => nomatch h

theorem EncodeWord.faultLogEmpty : ∀ x0, EncodeWord.Statement (.faultLogEmpty x0) := fun _ _ _ h => nomatch h

theorem EncodeWord.mgmtLogEmpty : EncodeWord.Statement (.mgmtLogEmpty) := fun _ _ h => nomatch h

theorem EncodeWord.treeSlotSelect : ∀ x0, EncodeWord.Statement (.treeSlotSelect x0) := fun _ _ _ h => nomatch h

theorem EncodeWord.routeUpdate : ∀ x0 x1 x2, EncodeWord.Statement (.routeUpdate x0 x1 x2) := fun _ _ _ _ _ h => nomatch h

theorem EncodeWord.mgmtWrite : ∀ x0 x1, EncodeWord.Statement (.mgmtWrite x0 x1) := fun _ _ _ _ h => nomatch h

theorem EncodeWord.go : EncodeWord.Statement (.go) := fun _ _ h => nomatch h

theorem EncodeWord.rst : EncodeWord.Statement (.rst) := fun _ _ h => nomatch h

theorem EncodeWord.moduleReset : EncodeWord.Statement (.moduleReset) := fun _ _ h => nomatch h

theorem EncodeWord.nonceWrite : ∀ x0 x1, EncodeWord.Statement (.nonceWrite x0 x1) := fun _ _ _ _ h => nomatch h

theorem EncodeWord.attestReady : EncodeWord.Statement (.attestReady) := fun _ _ h => nomatch h

theorem EncodeWord.thermalTrip : ∀ x0, EncodeWord.Statement (.thermalTrip x0) := fun _ _ _ h => nomatch h

theorem EncodeWord.combineUnit : ∀ x0, EncodeWord.Statement (.combineUnit x0) := fun _ _ _ h => nomatch h

theorem EncodeWord.rnq : ∀ x0, EncodeWord.Statement (.rnq x0) := fun _ _ _ h => nomatch h

theorem EncodeWord.rnm : ∀ x0, EncodeWord.Statement (.rnm x0) := fun _ _ _ h => nomatch h

theorem EncodeWord.resultDelivery : ∀ x0, EncodeWord.Statement (.resultDelivery x0) := fun _ _ _ h => nomatch h

theorem EncodeWord.quorumWait : ∀ x0 x1 x2 x3, EncodeWord.Statement (.quorumWait x0 x1 x2 x3) := fun _ _ _ _ _ _ h => nomatch h

theorem EncodeWord.quorumDeadline : ∀ x0 x1, EncodeWord.Statement (.quorumDeadline x0 x1) := fun _ _ _ _ h => nomatch h

theorem EncodeWord.treeJoin : ∀ x0, EncodeWord.Statement (.treeJoin x0) := fun _ _ _ h => nomatch h

theorem EncodeWord.treePartial : ∀ x0, EncodeWord.Statement (.treePartial x0) := fun _ _ _ h => nomatch h

theorem EncodeWord.detach : ∀ x0 x1 x2, EncodeWord.Statement (.detach x0 x1 x2) := fun _ _ _ _ _ h => nomatch h

theorem EncodeWord.frameReceive : ∀ x0 x1, EncodeWord.Statement (.frameReceive x0 x1) := fun _ _ _ _ h => nomatch h

theorem EncodeWord.frameResend : ∀ x0 x1, EncodeWord.Statement (.frameResend x0 x1) := fun _ _ _ _ h => nomatch h

theorem EncodeWord.ackTimer : ∀ x0 x1, EncodeWord.Statement (.ackTimer x0 x1) := fun _ _ _ _ h => nomatch h

theorem EncodeWord.handshake : ∀ x0 x1, EncodeWord.Statement (.handshake x0 x1) := fun _ _ _ _ h => nomatch h

theorem EncodeWord.sessionClose : ∀ x0 x1, EncodeWord.Statement (.sessionClose x0 x1) := fun _ _ _ _ h => nomatch h

theorem EncodeWord.sessionTimeout : ∀ x0 x1, EncodeWord.Statement (.sessionTimeout x0 x1) := fun _ _ _ _ h => nomatch h

theorem EncodeWord.rekey : ∀ x0 x1, EncodeWord.Statement (.rekey x0 x1) := fun _ _ _ _ h => nomatch h

theorem EncodeWord.localRetry : ∀ x0 x1, EncodeWord.Statement (.localRetry x0 x1) := fun _ _ _ _ h => nomatch h

theorem EncodeWord.retraining : ∀ x0, EncodeWord.Statement (.retraining x0) := fun _ _ _ h => nomatch h

theorem EncodeWord.linkDown : ∀ x0, EncodeWord.Statement (.linkDown x0) := fun _ _ _ h => nomatch h

theorem EncodeWord.killGroup : ∀ x0, EncodeWord.Statement (.killGroup x0) := fun _ _ _ h => nomatch h

theorem EncodeWord.suspendRequest : ∀ x0, EncodeWord.Statement (.suspendRequest x0) := fun _ _ _ h => nomatch h

theorem EncodeWord.sprigOperationRequest : ∀ x0, EncodeWord.Statement (.sprigOperationRequest x0) := fun _ _ _ h => nomatch h

theorem EncodeWord.advanceSpacingElapsed : ∀ x0, EncodeWord.Statement (.advanceSpacingElapsed x0) := fun _ _ _ h => nomatch h

theorem EncodeWord.localLinkAck : ∀ x0 x1, EncodeWord.Statement (.localLinkAck x0 x1) := fun _ _ _ _ h => nomatch h

theorem EncodeWord.retrainingComplete : ∀ x0, EncodeWord.Statement (.retrainingComplete x0) := fun _ _ _ h => nomatch h

theorem EncodeWord.selfTestFailure : ∀ x0, EncodeWord.Statement (.selfTestFailure x0) := fun _ _ _ h => nomatch h

theorem EncodeWord.powerLoss : EncodeWord.Statement (.powerLoss) := fun _ _ h => nomatch h

theorem EncodeWord.clearBar : ∀ x0 x1, EncodeWord.Statement (.clearBar x0 x1) := fun _ _ _ _ h => nomatch h

theorem EncodeWord.firmwareUpdate : ∀ x0 x1, EncodeWord.Statement (.firmwareUpdate x0 x1) := fun _ _ _ _ h => nomatch h

theorem EncodeWord.raiseFusedMinimum : ∀ x0 x1, EncodeWord.Statement (.raiseFusedMinimum x0 x1) := fun _ _ _ _ h => nomatch h

end Sys2Proof.Laws
end

