-- ==== Sys2Proof/Laws/Vector.lean ====
section
/-! SUPPORT. Vector results, lane by lane, and operands read from registers or feed queues (R120 to R125, R142). -/
namespace Sys2Proof.Machine
open Sys2Proof.Laws

/-- The number that lanes of a width form, lane 0 lowest. -/
def laneNum (w : Nat) : List Nat → Nat
  | [] => 0
  | x :: xs => x % 2 ^ w + 2 ^ w * laneNum w xs

theorem laneNum_lt (w : Nat) (xs : List Nat) : laneNum w xs < 2 ^ (w * xs.length) := by
  induction xs with
  | nil => simp [laneNum]
  | cons x xs ih =>
    have h := Nat.mod_lt x (Nat.two_pow_pos w)
    rw [laneNum, List.length_cons, Nat.mul_add, Nat.mul_one, Nat.pow_add]
    calc x % 2 ^ w + 2 ^ w * laneNum w xs < 2 ^ w + 2 ^ w * laneNum w xs := by omega
      _ = 2 ^ w * (laneNum w xs + 1) := by rw [Nat.mul_add, Nat.mul_one, Nat.add_comm]
      _ ≤ 2 ^ w * 2 ^ (w * xs.length) := Nat.mul_le_mul_left _ ih
      _ = _ := Nat.mul_comm _ _

theorem laneNum_get (w : Nat) (xs : List Nat) (i : Nat) (h : i < xs.length) : laneNum w xs / 2 ^ (w * i) % 2 ^ w = xs[i] % 2 ^ w := by
  induction xs generalizing i with
  | nil => simp at h
  | cons x xs ih =>
    have hx := Nat.mod_lt x (Nat.two_pow_pos w)
    cases i with
    | zero => simp [laneNum, Nat.add_mul_mod_self_left]
    | succ i =>
      rw [laneNum, Nat.mul_add, Nat.mul_one, Nat.add_comm (w * i), Nat.pow_add, ← Nat.div_div_eq_div_mul,
        Nat.add_mul_div_left _ _ (Nat.two_pow_pos w), Nat.div_eq_of_lt hx, Nat.zero_add]
      simpa using ih i (by simpa using h)

theorem lanes_toNat (w : Nat) (hw : w ≤ 64) (rs : List FRes) (h : w * rs.length ≤ 512) :
    (rs.foldr (fun x (acc : VData) => (acc <<< w) ||| (x.bits.setWidth 512 &&& BitVec.ofNat 512 (2 ^ w - 1))) 0).toNat = laneNum w (rs.map fun r => r.bits.toNat) := by
  induction rs with
  | nil => simp [laneNum]
  | cons r rs ih =>
    rw [List.length_cons, Nat.mul_add, Nat.mul_one] at h
    have ih := ih (by omega)
    have hl := laneNum_lt w (rs.map fun r => r.bits.toNat)
    rw [List.length_map] at hl
    rw [List.foldr_cons, BitVec.toNat_or, BitVec.toNat_shiftLeft, ih, List.map_cons, laneNum, BitVec.toNat_and]
    have h5 : 2 ^ w - 1 < 2 ^ 512 := Nat.lt_of_le_of_lt (Nat.sub_le _ _) (Nat.pow_lt_pow_right (by decide) (by omega))
    have h1 : (BitVec.ofNat 512 (2 ^ w - 1)).toNat = 2 ^ w - 1 := by rw [BitVec.toNat_ofNat, Nat.mod_eq_of_lt h5]
    have h6 : r.bits.toNat < 2 ^ 512 := Nat.lt_of_lt_of_le r.bits.isLt (Nat.pow_le_pow_right (by decide) (by decide))
    have h2 : (r.bits.setWidth 512).toNat = r.bits.toNat := by rw [BitVec.toNat_setWidth, Nat.mod_eq_of_lt h6]
    rw [h1, h2, Nat.and_two_pow_sub_one_eq_mod]
    have h3 : laneNum w (rs.map fun r => r.bits.toNat) * 2 ^ w < 2 ^ 512 := by
      calc _ < 2 ^ (w * rs.length) * 2 ^ w := Nat.mul_lt_mul_of_pos_right hl (Nat.two_pow_pos w)
        _ = 2 ^ (w * rs.length + w) := by rw [Nat.pow_add]
        _ ≤ 2 ^ 512 := Nat.pow_le_pow_right (by omega) h
    rw [Nat.shiftLeft_eq, Nat.mod_eq_of_lt h3, Nat.mul_comm (laneNum _ _), ← Nat.two_pow_add_eq_or_of_lt (Nat.mod_lt _ (Nat.two_pow_pos w)), Nat.add_comm]

theorem lane_fold (w : Nat) (hw : w ≤ 64) (rs : List FRes) (h : w * rs.length ≤ 512) (i : Nat) (hi : i < rs.length) (sd : Side) :
    VVal.lane ⟨rs.foldr (fun x (acc : VData) => (acc <<< w) ||| (x.bits.setWidth 512 &&& BitVec.ofNat 512 (2 ^ w - 1))) 0, sd⟩ w i =
      BitVec.ofNat 64 (rs[i].bits.toNat % 2 ^ w) := by
  apply BitVec.eq_of_toNat_eq
  unfold VVal.lane
  rw [BitVec.toNat_setWidth, BitVec.extractLsb'_toNat, lanes_toNat w hw rs h, BitVec.toNat_ofNat, Nat.shiftRight_eq_div_pow,
    laneNum_get _ _ _ (by simpa using hi)]
  simp

theorem orFlags_get (rs : List FRes) (b : Nat) : (orFlags rs).getLsbD b = rs.any fun r => r.flags.getLsbD b := by
  unfold orFlags
  suffices h : ∀ (a : Flags), (rs.foldl (fun a r => a ||| r.flags) a).getLsbD b = (a.getLsbD b || rs.any fun r => r.flags.getLsbD b) by
    rw [h]; simp
  intro a
  induction rs generalizing a with
  | nil => simp
  | cons r rs ih => simp [ih, Bool.or_assoc]

theorem poisonAt_nil_flat {α} (l : List α) (f : α → List Org) (h : ∀ x ∈ l, f x = []) : l.flatMap f = [] := by
  simpa using h

/-- What `putLanes` gives when it meets no poison. -/
theorem putLanes_clean (c : Core) (s : State) (d l w n keep orgs f) (hw : w ≤ 64) (hn : w * n ≤ 512)
   (ho : orgs = []) (hk : ∀ i < n, c.regs.stays l keep i = true → (c.regs.rdVV d).poisonAt (w * i) w = []) :
    ∃ data fl, LaneData c.regs (c.regs.rdVV d) l w n keep f data fl ∧ s.setCore (c.putLanes d l w n keep orgs f) = s.putV c d ⟨data, 0⟩ fl := by
  subst ho
  have hkp : keptPoison (c.regs.rdVV d) w n (fun i => keep i || (!c.regs.active l i && !l.ag)) = [] := by
    unfold keptPoison
    apply poisonAt_nil_flat
    intro i hi
    rw [List.mem_range] at hi
    split
    · exact hk i hi ‹_›
    · rfl
  let rs : List FRes := (List.range n).map fun i => if c.regs.computed l keep i = true then f i else (⟨if c.regs.stays l keep i = true then (c.regs.rdVV d).lane w i else 0, 0⟩ : FRes)
  refine ⟨rs.foldr (fun x (acc : VData) => (acc <<< w) ||| (x.bits.setWidth 512 &&& BitVec.ofNat 512 (2 ^ w - 1))) 0, orFlags rs, ?_, ?_⟩
  rotate_left
  · unfold Core.putLanes
    dsimp only
    rw [hkp]
    simp only [List.append_nil]
    unfold Core.putV
    rfl
  · constructor
    · intro i hi
      have hlen : rs.length = n := by simp [rs]
      rw [lane_fold w hw _ (by rw [hlen]; exact hn) i (by rw [hlen]; exact hi)]
      simp only [rs, List.getElem_map, List.getElem_range]
      have hl : ((c.regs.rdVV d).lane w i).toNat % 2 ^ w = ((c.regs.rdVV d).lane w i).toNat := by
        apply Nat.mod_eq_of_lt
        unfold VVal.lane
        rw [BitVec.toNat_setWidth, BitVec.extractLsb'_toNat]
        exact Nat.lt_of_le_of_lt (Nat.mod_le _ _) (Nat.mod_lt _ (Nat.two_pow_pos w))
      by_cases e : c.regs.computed l keep i = true
      · rw [if_pos e, if_pos e]
      · rw [if_neg e, if_neg e]
        by_cases e2 : c.regs.stays l keep i = true
        · rw [if_pos e2]; dsimp only; rw [hl, BitVec.ofNat_toNat, BitVec.setWidth_eq]
        · rw [if_neg e2]; simp
    · intro b
      rw [orFlags_get]
      simp only [rs]
      rw [List.any_map]
      congr 1; funext i
      simp only [Function.comp]
      cases c.regs.computed l keep i <;> simp

theorem withA_reads {c : Core} {a x c'} (h : readsA c a x c') (f : VVal → Core → Except Trap Core) : c.withA a f = f x c' := by
  cases a with
  | reg i => obtain ⟨rfl, rfl⟩ := h; rfl
  | fq q => obtain ⟨e, es, h1, rfl, rfl⟩ := h; simp only [Core.withA, h1]

theorem types_ok {ty} (h : ty ∈ laneTypes) : ty.width ≤ 64 ∧ ty.width * ty.lanes ≤ 512 := by
  simp only [laneTypes, List.mem_cons, List.not_mem_nil, or_false] at h
  rcases h with rfl | rfl | rfl | rfl | rfl | rfl | rfl | rfl | rfl | rfl | rfl <;> decide

theorem laneData_congr {r old l w n keep f g data fl} (h : LaneData r old l w n keep f data fl) (hb : ∀ i, (f i).bits.toNat % 2 ^ w = (g i).bits.toNat % 2 ^ w) (hf : ∀ i, (f i).flags = (g i).flags) : LaneData r old l w n keep g data fl := by
  refine ⟨fun i hi => ?_, fun b => ?_⟩
  · rw [h.1 i hi, hb]
  · rw [h.2 b]; simp only [hf]

theorem vecRule2 {mk} {f : Ty → BitVec 64 → BitVec 64 → FRes} {g} (he : ∀ p d a b ty l s, exec (mk p d a b ty l) s = issue p (Core.vec2 d a b ty l (f ty)) s)
   (hfg : ∀ ty ∈ laneTypes, ∀ (u v : BitVec 64), u.toNat < 2 ^ ty.width → v.toNat < 2 ^ ty.width → (f ty u v).bits.toNat % 2 ^ ty.width = (g ty u v).bits.toNat % 2 ^ ty.width ∧ (f ty u v).flags = (g ty u v).flags) : VecRule2 mk g := by
  intro p d a b ty l s x c ht h hr y hc
  obtain ⟨hw, hn⟩ := types_ok ht
  have hk : ∀ i < ty.lanes, c.regs.stays l everyLane i = true → (c.regs.rdVV d).poisonAt (ty.width * i) ty.width = [] := fun i hi => (hc.2 i hi).2
  have ho : lanesPoison [x, y] ty.width (c.regs.activeLanes l ty.lanes) = [] := by
    have hx : x.whole = false := hc.1 x (by simp)
    have hy : y.whole = false := hc.1 y (by simp)
    have hwp : wholePoison [x, y] = [] := by simp [wholePoison, hx, hy]
    unfold lanesPoison
    rw [hwp, List.nil_append]
    apply poisonAt_nil_flat
    intro i hi
    simp only [Regs.activeLanes, List.mem_filter, List.mem_range] at hi
    have := (hc.2 i hi.1).1 (by simp [Regs.computed, hi.2, everyLane])
    simp [this]
  obtain ⟨data, fl, h1, h2⟩ := putLanes_clean c s d l ty.width ty.lanes everyLane _ (fun i => f ty (x.lane ty.width i) (y.lane ty.width i)) hw hn ho hk
  have hlt : ∀ (z : VVal) i, (z.lane ty.width i).toNat < 2 ^ ty.width := by
    intro z i; unfold VVal.lane; rw [BitVec.toNat_setWidth, BitVec.extractLsb'_toNat]; exact Nat.lt_of_le_of_lt (Nat.mod_le _ _) (Nat.mod_lt _ (Nat.two_pow_pos _))
  refine ⟨data, fl, laneData_congr h1 (fun i => (hfg ty ht _ _ (hlt _ _) (hlt _ _)).1) (fun i => (hfg ty ht _ _ (hlt _ _) (hlt _ _)).2), ?_⟩
  rw [he, issue_ok h (c := c.putLanes d l ty.width ty.lanes everyLane (lanesPoison [x, y] ty.width (c.regs.activeLanes l ty.lanes)) (fun i => f ty (x.lane ty.width i) (y.lane ty.width i)))]
  · rw [h2]
  · unfold Core.vec2; rw [withA_reads hr]; rfl

theorem tvals {ty} (h : ty ∈ laneTypes) : ty.width = 8 ∨ ty.width = 16 ∨ ty.width = 32 ∨ ty.width = 64 := by
  simp only [laneTypes, List.mem_cons, List.not_mem_nil, or_false] at h
  rcases h with rfl | rfl | rfl | rfl | rfl | rfl | rfl | rfl | rfl | rfl | rfl <;> decide

theorem value_mod (ty : Ty) (x : BitVec 64) : ty.value x % 2 ^ ty.width = (x.toNat : Int) % 2 ^ ty.width := by
  have : ((x.toNat % 2 ^ ty.width : Nat) : Int) % 2 ^ ty.width = (x.toNat : Int) % 2 ^ ty.width := by
    push_cast; exact Int.emod_emod_of_dvd _ (Int.dvd_refl _)
  unfold Ty.value
  dsimp only
  split
  · rw [← this]; simp [Int.sub_emod_right]
  · exact this

theorem low_wrap (ty : Ty) (h : ty ∈ laneTypes) (x y : BitVec 64) : ty.low (x + y) = (wrapLane ty (ty.value x + ty.value y)).bits := by
  unfold wrapLane Ty.low
  rw [Int.add_emod, value_mod, value_mod, ← Int.add_emod]
  apply BitVec.eq_of_toNat_eq
  rcases tvals h with e | e | e | e <;> rw [e] <;> simp [BitVec.toNat_add] <;> omega

theorem vaddI_rule : VecRule2 .vaddI (fun ty a b => wrapLane ty (ty.value a + ty.value b)) :=
  vecRule2 (f := fun ty x y => plain (ty.low (x + y))) (fun p d a b ty l s => exec_vaddI s p d a b ty l) (fun ty h u v hu hv => by
    constructor
    · show (ty.low (u + v)).toNat % _ = _; rw [low_wrap ty h]
    · rfl)

theorem vand_rule : VecRule2 .vand (fun _ a b => ⟨a &&& b, 0⟩) := vecRule2 (f := fun _ x y => plain (x &&& y)) (fun p d a b ty l s => exec_vand s p d a b ty l) (fun ty h u v hu hv => ⟨rfl, rfl⟩)

theorem withA_wait (p : Pred) (q : BitVec 1) (f : VVal → Core → Except Trap Core) (s : State) (hp : s.executes p)
    (hq : (s.core.ctx.feed q).live = []) : issue p (fun c => c.withA (.fq q) f) s = .next (s.feedWait q) := by
  refine (issue_ok (c := s.core.feedStall q) hp ?_).trans ?_
  · simp [Core.withA, hq]
  · unfold State.feedWait Core.feedStall
    cases h : (s.core.ctx.feed q).kept <;> simp

end Sys2Proof.Machine
end

