-- ==== Sys2Proof/Tests/Slice0.lean ====
section
/-! SUPPORT. Tests: encodings that the specification writes out, ill-formed instructions that are refused, single steps, and a witness for the hypotheses of every statement. -/
namespace Sys2Proof.Tests
set_option Elab.async false
open Sys2Proof Sys2Proof.Machine

/-- The machine as `withFetchWord` leaves it: core 0 runs context 0 at pc 0; then core 0 is changed. -/
def focus (f : Core → Core) : Machine.State :=
  let s := Machine.State.reset.withFetchWord 64 0
  s.setCoreAt 0 (f (s.coreAt 0))

/-- Core 0 with scalar registers set, some of them poisoned. -/
def scalars (xs : List (Reg × Word)) (bad : List Reg) (c : Core) : Core :=
  c.modRegs fun r => bad.foldl (fun r i => r.wrS i 0 true) (xs.foldl (fun r x => r.wrS x.1 x.2 false) r)

/-- The guard g0, which always executes. -/
def g0 : Pred := ⟨false, 0⟩

/-- Every lane, under m0. -/
def every : Lane := ⟨0, false⟩

/-- The running context is privileged. -/
def priv (c : Core) : Core := c.setCtx { c.ctx with prv := true }

/-- Vector registers set. -/
def vecs (xs : List (Reg × VVal)) (c : Core) : Core := c.modRegs fun r => xs.foldl (fun r x => r.wrVV x.1 x.2) r

/-- Entries in feed queue 0. -/
def feeds (es : List FqEntry) (c : Core) : Core := c.setCtx { c.ctx with fq0 := ⟨es, [], 0⟩ }

/-- A group on page 0 that holds nothing but what is needed. -/
def grp : Group :=
  { gid := 1, asid := 5, dom := 0, pages := [0], sct := false, wid := 0, hgt := 0, words := [0x0005000000000000, 0, 0, 0, 0, 0, 0, 0], queue := 2, imgLen := 0,
    enda := 0, regions := [], isls := [⟨7, 0, 0, 1, 1, 2⟩], cdig := 0, container := [], nfail := 0, faddr := 0, tstart := none, stores := 0, probe := none, ended := none,
    endAt := 0, susp := none, wantSusp := none, halted := false }

/-- The group runs: core 0 has its GRPID and a page-map entry for page 0. -/
def inGroup (f : Core → Core) : Machine.State :=
  let s := focus fun c => f { c.wrBytes 0xFC000 [0, 4, 0, 0] with grpid := 1 }
  { s with seq := { s.seq with groups := [grp] } }

/-- Core 0 with a channel bound. -/
def bindCh (ch : Nat) (w0 w1 : Word) (c : Core) : Core := c.writeBinding ch w0 w1 0

/-- Where the requests and reports of these witnesses were made. -/
def here : Site := ⟨0, false, 0, 0⟩

/-- A request of the launch sequencer from core 0 in group 1. -/
def asks (op : SeqOp) (a b c : Word) (ws : List Word) (s : Machine.State) : Machine.State := { s with seqIn := [⟨op, 0, 1, 3, a, b, c, ws, false, here, false, false, none⟩] }

/-- A message to core 0 from core 1 of the same module. -/
def mess (kind : BitVec 6) (ch : BitVec 6) (bs : List MByte) : Msg :=
  { kind := kind, cls := 0, smod := 0, src := 1, dmod := 0, dst := 0, grp := 1, tkt := 0, len := BitVec.ofNat 12 bs.length, ch := ch, laddr := 0x100, aux := 0x03,
    payload := bs, why := .op 0, back := 0, home := some 1 }

/-- A message in flight. -/
def flies (m : Msg) (s : Machine.State) : Machine.State := { s with flight := [m] }

/-! ### Witnesses: the hypotheses of each statement hold somewhere -/

/-- s1 all ones, s2 the least signed value, s3 the last word of the program range, s4 the top of the record area, s5 one past the program range; s7 poisoned. -/
def sc : Machine.State := focus (scalars [(1, 0xFFFFFFFFFFFFFFFF), (2, 0x8000000000000000), (3, 0xEFFF8), (4, 0xFCFF8), (5, 0xF0000), (6, 0xEFFFC), (8, 0xF0F3F), (9, 1)] [7])

theorem witness_DecodeOfEncode :
    (Instr.movi g0 3 4).wf = true ∧ encode (.movi g0 3 4) = some 0x0090860000000004 ∧
    (Instr.stI64 ⟨true, 7⟩ 31 31 0xFFFFFFFF).wf = true ∧ (encode (.stI64 ⟨true, 7⟩ 31 31 0xFFFFFFFF)).isSome = true := by decide +kernel

theorem witness_DecodedWordIsAnEncoding : (decode 0x0A20800000000000).toOption = some (.endAct g0) := by decide +kernel

theorem witness_FalseGuardOnlyPasses :
    encode (.br ⟨true, 0⟩ 1) = some 0x8180000000000001 ∧ sc.regs.guard (wP 0x8180000000000001) = false ∧
    encode (.endAct ⟨false, 7⟩) = some 0x7A20800000000000 ∧ sc.regs.guard (wP 0x7A20800000000000) = false := by decide +kernel

/-- The word of MOVI at the pc. -/
def fetches (w : Nat) : Machine.State := Machine.State.reset.withFetchWord 64 w

theorem witness_StepRunsDecodedInstruction :
    (fetches 0x0090860000000004).turn = some (.issue 0) ∧ State.mayIssue { fetches 0x0090860000000004 with turn := none } 0 = true ∧
    (decode (BitVec.ofNat 64 (leNat ((fetches 0x0090860000000004).core.ls.bytes 0 8)))).toOption = some (.movi g0 3 4) := by decide +kernel

/-- The pc at an address. -/
def at' (pc : LAddr) : Machine.State := focus fun c => c.modRegs fun r => { r with pc := pc }

theorem witness_IllegalFetchTraps :
    (fetches 0).turn = some (.issue 0) ∧ State.mayIssue { fetches 0 with turn := none } 0 = true ∧
    (decode (fetches 0).core.fetchWord).toOption = none ∧
    State.mayIssue { at' 0xF0000 with turn := none } 0 = true ∧ 0xF0000 ≤ (at' 0xF0000).regs.pc.toNat ∧
    State.mayIssue { at' 0xEFFF8 with turn := none } 0 = true ∧ (at' 0xEFFF8).regs.pc.toNat < 0xF0000 ∧
    (decode (at' 0xEFFF8).core.fetchWord).toOption = none := by decide +kernel

theorem witness_ScalarIntegers :
    sc.executes g0 ∧ sc.clean [1, 2] ∧ sc.clean [8, 8, 8] ∧ (sc.regs.rdS 1).toNat = 2 ^ 64 - 1 ∧ (sc.regs.rdS 2).toInt = -2 ^ 63 := by
  unfold State.executes State.clean; decide +kernel

theorem witness_ScalarMovesAndCompares : sc.executes g0 ∧ sc.clean [2, 9] ∧ sc.clean [] ∧ sc.regs.psn 7 = true ∧ sc.regs.psn 0 = false ∧
    ([2, 7] : List Reg) = [2] ++ 7 :: [] ∧ sc.clean [2] := by
  unfold State.executes State.clean; decide +kernel

theorem witness_ScalarFloats : sc.executes g0 ∧ sc.clean [1, 2] ∧ sc.clean [1, 2, 9] ∧ sc.tainted [1, 7] ∧ sc.tainted [7, 1, 2] ∧
    sc.clean (1 :: (Rnd.sr 2).srcs) := by
  unfold State.executes State.clean State.tainted; decide +kernel

/-- As `sc`, with privilege. -/
def scPriv : Machine.State := focus fun c => priv (scalars [(3, 0xEFFF8), (5, 0xF0000), (10, 0xFFFF8)] [7] c)

theorem witness_MemoryAccesses :
    sc.executes g0 ∧ sc.clean [3] ∧ sc.readable (sc.ea 3 0) 8 ∧ sc.ea 3 0 % 8 = 0 ∧ sc.readable (sc.ea 3 7) 1 ∧ sc.readable (sc.ea 4 0) 8 ∧
    sc.writable (sc.ea 3 0) 8 ∧ ¬ discarded (sc.ea 3 0) ∧ sc.writable (sc.ea 3 6) 2 ∧ sc.ea 3 6 % 2 = 0 ∧
    scPriv.executes g0 ∧ scPriv.clean [5] ∧ scPriv.writable (scPriv.ea 5 0) 8 ∧ discarded (scPriv.ea 5 0) ∧ scPriv.ea 5 0 % 8 = 0 ∧
    sc.writable (sc.regs.rdS 3).toNat 8 ∧ (sc.regs.rdS 3).toNat % 8 = 0 ∧ scPriv.writable (scPriv.regs.rdS 5).toNat 4 := by
  repeat' apply And.intro
  all_goals try unfold State.executes
  all_goals try unfold State.clean
  all_goals try unfold State.readable
  all_goals try unfold State.writable
  all_goals try unfold discarded
  all_goals try unfold within
  all_goals decide +kernel

theorem witness_AccessTraps :
    sc.executes g0 ∧ sc.regs.psn 7 = true ∧ sc.regs.psn 5 = false ∧ ¬ sc.readable (sc.ea 5 0) 8 ∧ ¬ sc.writable (sc.ea 5 0) 1 ∧
    ¬ sc.writable (sc.ea 4 0) 8 ∧ sc.readable (sc.ea 3 (-1)) 8 ∧ sc.ea 3 (-1) % 8 ≠ 0 ∧ sc.writable (sc.ea 3 (-1)) 8 ∧
    ¬ sc.readable (sc.ea 6 0) 8 ∧ ¬ sc.writable (sc.regs.rdS 5).toNat 4 ∧ sc.writable (sc.regs.rdS 9).toNat 4 ∧ (sc.regs.rdS 9).toNat % 4 ≠ 0 := by
  repeat' apply And.intro
  all_goals try unfold State.executes
  all_goals try unfold State.readable
  all_goals try unfold State.writable
  all_goals try unfold within
  all_goals decide +kernel

theorem witness_ControlTransfers :
    ¬ sc.executes ⟨true, 0⟩ ∧ sc.executes g0 ∧ legalTarget ((at' 0xEFFF0).regs.pc.toNat + 8 * (1#32).toInt) ∧
    ¬ legalTarget ((at' 0xEFFF0).regs.pc.toNat + 8 * (2#32).toInt) ∧ ¬ legalTarget ((at' 0).regs.pc.toNat + 8 * (-1#32).toInt) ∧
    sc.regs.psn 7 = true ∧ sc.regs.psn 3 = false ∧ legalTarget (sc.regs.rdS 3).toNat ∧ ¬ legalTarget (sc.regs.rdS 6).toNat := by
  repeat' apply And.intro
  all_goals try unfold State.executes
  all_goals try unfold legalTarget
  all_goals decide +kernel

theorem witness_CountedLoop :
    sc.executes g0 ∧ sc.regs.psn 7 = true ∧ sc.regs.psn 9 = false ∧ sc.regs.rdS 9 - 1 = 0 ∧ sc.regs.psn 2 = false ∧ sc.regs.rdS 2 - 1 ≠ 0 ∧
    sc.regs.psn 10 = false ∧ sc.regs.rdS 10 - 1 ≠ 0 := by
  repeat' apply And.intro
  all_goals try unfold State.executes
  all_goals decide +kernel

/-- Core 0 is bound to island 7 and has privilege. -/
def isl0 : Machine.State := focus fun c => { scalars [(1, 1), (2, 2)] [] (priv c) with islBnd := true, islIid := 7 }

theorem witness_ControlRegisters :
    sc.executes g0 ∧ sc.core.mma = none ∧ sc.quern.hand = none ∧ sc.clean [1] ∧ scPriv.executes g0 ∧ scPriv.clean [3] ∧
    scPriv.core.mma = none ∧ scPriv.core.prv = true ∧ sc.core.prv = false ∧ sc.regs.psn 7 = true ∧ scPriv.regs.psn 7 = true ∧
    crPriv 0x001 = true ∧ crPriv 0x010 = false ∧ crPriv 0x061 = true ∧ crPriv 0x020 = false ∧
    sc.settled ∧ scPriv.settled ∧ scPriv.core.islBnd = false ∧ (scPriv.regs.rdS 3).getLsbD 0 = false ∧ isl0.executes g0 ∧ isl0.core.prv = true ∧ isl0.core.islBnd = true ∧
    isl0.clean [1, 2] ∧ (isl0.regs.rdS 1).getLsbD 0 = true ∧ (isl0.regs.rdS 2).getLsbD 0 = false := by
  repeat' apply And.intro
  all_goals try unfold State.executes
  all_goals try unfold State.clean
  all_goals try unfold State.settled
  all_goals decide +kernel

/-- An entry of a feed queue whose first word and line are marked. -/
def entry : FqEntry := ⟨0x123456789, 0, 0x101, none⟩

/-- v1 and v2 hold lanes, v3 is poisoned, queue 0 holds two entries and queue 1 none; m1 is half set, m2 full. -/
def ve : Machine.State := focus fun c => feeds [entry, ⟨1, 0, 0, none⟩] ((vecs [(1, ⟨0x80000000FFFFFFFF7F800000, 0⟩), (2, ⟨0x21, 0⟩), (3, poisonReg (c.ownOrigin .nan))]
  (scalars [(1, 0xFFFF), (2, 0x40), (3, 63)] [7] c)).modRegs fun r => ((r.wrM 1 0xFFFF).wrM 2 0xFFFFFFFFFFFFFFFF))

theorem witness_VectorArithmetic :
    ve.executes g0 ∧ readsA ve.core (.reg 1) (ve.core.regs.rdVV 1) ve.core ∧
    readsA ve.core (.fq 0) ⟨entry.data, entry.side⟩ (ve.core.consume 0) ∧ Ty.f32 ∈ laneTypes ∧ Ty.n8 ∈ laneTypes ∧
    LanesClean ve.core.regs (ve.core.regs.rdVV 4) ⟨1, false⟩ 32 16 everyLane [ve.core.regs.rdVV 1, ve.core.regs.rdVV 2]
      (fun i => (ve.core.regs.rdVV 1).poisonAt (32 * i) 32 = [] ∧ (ve.core.regs.rdVV 2).poisonAt (32 * i) 32 = []) ∧
    LanesClean ve.core.regs (ve.core.regs.rdVV 4) every 8 64 everyLane [ve.core.regs.rdVV 1] (fun i => (ve.core.regs.rdVV 1).poisonAt (8 * i) 8 = []) ∧
    LanesClean (ve.core.consume 0).regs ((ve.core.consume 0).regs.rdVV 3) ⟨2, true⟩ 32 16 everyLane [⟨entry.data, entry.side⟩]
      (fun i => (⟨entry.data, entry.side⟩ : VVal).poisonAt (32 * i) 32 = []) := by
  refine ⟨by unfold State.executes; decide +kernel, ⟨rfl, rfl⟩, ⟨entry, [⟨1, 0, 0, none⟩], by decide +kernel, rfl, rfl⟩, by decide, by decide, ?_, ?_, ?_⟩ <;>
    unfold LanesClean <;> decide +kernel

/-- What an instruction meets is poison. -/
def met (os : List Org) : Bool := !os.isEmpty

theorem witness_poisoned_lanes :
    readsA ve.core (.reg 3) (ve.core.regs.rdVV 3) ve.core ∧
    met (poisonMet ve.regs 4 every 32 16 everyLane [ve.regs.rdVV 3, ve.regs.rdVV 1]) = true ∧ met (poisonMet ve.regs 3 ⟨1, false⟩ 8 64 everyLane [ve.regs.rdVV 1]) = true ∧
    met (poisonMet ve.regs 4 every 32 16 everyLane [ve.regs.rdVV 1, ve.regs.rdVV 3, ve.regs.rdVV 2]) = true ∧ met (wholePoison [ve.regs.rdVV 3]) = true ∧
    met (scalarPoison ve.core [7]) = true ∧ met (keptOrgs ve.regs 3 ⟨1, false⟩ 8 64 everyLane) = true ∧ met (ve.regs.rdVV 3).poisonAll = true ∧
    ((ve.regs.rdVV 3).whole = true ∨ ∃ i, i < 64 ∧ (ve.regs.rdM 1).getLsbD i = true ∧ (ve.regs.rdVV 3).poisonAt (8 * i) 8 ≠ []) ∧
    ¬ ((ve.regs.rdVV 1).whole = true ∨ ∃ i, i < 16 ∧ (ve.regs.rdM 1).getLsbD i = true ∧ (ve.regs.rdVV 1).poisonAt (32 * i) 32 ≠ []) := by
  refine ⟨⟨rfl, rfl⟩, ?_, ?_, ?_, ?_, ?_, ?_, ?_, ?_, ?_⟩
  all_goals decide +kernel

theorem witness_VectorMasks :
    ve.executes g0 ∧ readsA ve.core (.reg 1) (ve.core.regs.rdVV 1) ve.core ∧ Ty.n8 ∈ laneTypes ∧
    (∀ i, i < Ty.n8.lanes → ve.core.regs.active every i = true → (ve.core.regs.rdVV 1).poisonAt (8 * i) 8 = [] ∧ (ve.core.regs.rdVV 2).poisonAt (8 * i) 8 = []) ∧
    (ve.core.regs.rdVV 1).whole = false ∧ (ve.core.regs.rdVV 2).whole = false ∧ (ve.regs.rdVV 3).whole = true ∧
    (ve.regs.active ⟨1, false⟩ 0 = true ∧ (ve.regs.rdVV 3).poisonAt 0 8 ≠ []) ∧
    (∀ i, i < Ty.n8.lanes → (ve.regs.rdVV 1).poisonAt (8 * i) 8 = []) ∧ ve.regs.psn 1 = false ∧ ve.regs.psn 7 = true := by
  refine ⟨by unfold State.executes; decide +kernel, ⟨rfl, rfl⟩, by decide, ?_, ?_, ?_, ?_, ?_, ?_, ?_, ?_⟩ <;> decide +kernel

theorem witness_VectorRearrangement :
    ve.executes g0 ∧ ve.clean [1] ∧ readsA ve.core (.reg 1) (ve.core.regs.rdVV 1) ve.core ∧ (ve.core.regs.rdVV 1).poisonAll = [] ∧
    LanesClean ve.core.regs (ve.core.regs.rdVV 4) ⟨1, false⟩ 8 64 everyLane []
      (fun _ => (true = true → (ve.core.regs.rdVV 1).poisonAll = []) ∧ (true = true → (ve.core.regs.rdVV 2).poisonAll = [])) ∧
    (ve.core.regs.rdVV 1).whole = false ∧ (ve.core.regs.rdVV 2).whole = false ∧
    (∀ i, i < 64 → (PermSrc.ofA (i + 0)).readsB = false) ∧
    LanesClean ve.core.regs (ve.core.regs.rdVV 4) every 8 64 everyLane [] (fun _ => True) ∧
    LanesClean ve.core.regs (ve.core.regs.rdVV 4) every 8 64 (fun i => i != (63 : BitVec 10).toNat) [] (fun _ => True) ∧
    (∀ i, i < 64 → (ve.core.regs.rdVV 4).poisonAt (8 * i) 8 = []) ∧
    ∀ i, i < 64 → (ve.core.regs.rdM 2).getLsbD i = true → (ve.core.regs.rdVV 1).poisonAt (8 * i) 8 = [] := by
  refine ⟨by unfold State.executes; decide +kernel, by unfold State.clean; decide +kernel, ⟨rfl, rfl⟩, by decide +kernel, ?_, ?_, ?_, ?_, ?_, ?_, ?_, ?_⟩ <;>
    (try unfold LanesClean) <;> decide +kernel

theorem witness_VectorConversionAndPoison :
    ve.executes g0 ∧ readsA ve.core (.reg 1) (ve.core.regs.rdVV 1) ve.core ∧ readsA ve.core (.reg 3) (ve.core.regs.rdVV 3) ve.core ∧
    ve.core.regs.psn (Rnd.sr 1).seed = false ∧ Rnd.rne.srcs = [] ∧
    LanesClean ve.core.regs (ve.core.regs.rdVV 4) ⟨2, false⟩ 8 64 (fun j => decide (Ty.f32.lanes < Ty.i8.lanes) && !(decide (48 ≤ j) && decide (j < 64))) [ve.core.regs.rdVV 1]
      (fun j => (ve.core.regs.rdVV 1).poisonAt (32 * (j - 48)) 32 = []) ∧
    (wholePoison [ve.core.regs.rdVV 3, ve.core.regs.rdVV 2] ≠ []) ∧ wholePoison [ve.core.regs.rdVV 1, ve.core.regs.rdVV 2] = [] ∧
    (((List.range 16).flatMap fun i => if ve.core.regs.active every i then (ve.core.regs.rdVV 3).poisonAt (32 * i) 32 else []) ≠ []) := by
  refine ⟨by unfold State.executes; decide +kernel, ⟨rfl, rfl⟩, ⟨rfl, rfl⟩, ?_, ?_, ?_, ?_, ?_, ?_⟩ <;> (try unfold LanesClean) <;> decide +kernel


/-- v1 and v2 hold VB8 blocks of scale 0, with elements 1 and -1 in v1; v3 is poisoned; v5 and v6 hold f32 lanes. -/
def bl : Machine.State := focus fun c => feeds [entry] (vecs [(1, ⟨0xFF01, (mkHdr 2 0 0 false false).setWidth 128⟩), (2, ⟨0x7F, 0⟩), (3, poisonReg (c.ownOrigin .nan)),
  (5, ⟨0x3F800000, 0⟩), (6, ⟨0x7F7FFFFF, 0⟩)] (scalars [(1, 7)] [7] c))

theorem witness_BlockArithmetic :
    bl.executes g0 ∧ readsA bl.core (.reg 5) (bl.core.regs.rdVV 5) bl.core ∧ Ty.vb16 ∈ blockTypes ∧ seedClean bl.core.regs .rne ∧ seedClean bl.core.regs (.sr 1) ∧
    BlocksClean bl.core.regs (bl.core.regs.rdVV 4) every .vb16 everyLane [bl.core.regs.rdVV 4, bl.core.regs.rdVV 4]
      (fun k => (bl.core.regs.rdVV 4).blkPoison .vb16 (bl.core.ownOrigin .fmt) k ++ (bl.core.regs.rdVV 4).blkPoison .vb16 (bl.core.ownOrigin .fmt) k) ∧
    BlocksClean bl.core.regs (bl.core.regs.rdVV 4) ⟨1, false⟩ .vb4 (fun j => !(decide (2 ≤ j) && decide (j < 4))) [bl.core.regs.rdVV 5] (fun _ => []) ∧
    LanesClean bl.core.regs (bl.core.regs.rdVV 4) every 16 32 everyLane [bl.core.regs.rdVV 4] (fun j => 32 + j < 64 → (bl.core.regs.rdVV 4).blkPoison .vb8 (bl.core.ownOrigin .fmt) 1 = []) ∧
    (3 : BitVec 10).toNat < Ty.vb4.blocks ∧ (bl.regs.rdVV 5).poisonAll = [] ∧ (bl.regs.rdVV 6).poisonAll = [] := by
  refine ⟨by unfold State.executes; decide +kernel, ⟨rfl, rfl⟩, by decide, ?_, ?_, ?_, ?_, ?_, ?_, ?_, ?_⟩
  all_goals try unfold seedClean
  all_goals try unfold BlocksClean
  all_goals try unfold LanesClean
  all_goals decide +kernel

theorem witness_BlockHeadersAndFeeds :
    bl.executes g0 ∧ readsA bl.core (.reg 3) (bl.core.regs.rdVV 3) bl.core ∧ bl.regs.psn 7 = true ∧ bl.regs.psn 1 = false ∧
    readsA bl.core (.fq 0) ⟨entry.data, entry.side⟩ (bl.core.consume 0) ∧ (bl.core.ctx.feed 0).live = [entry] ∧ (bl.core.ctx.feed 1).live = [] := by
  refine ⟨by unfold State.executes; decide +kernel, ⟨rfl, rfl⟩, ?_, ?_, ⟨entry, [], by decide +kernel, rfl, rfl⟩, ?_, ?_⟩ <;> decide +kernel

theorem witness_poisoned_blocks :
    met (scalarPoison bl.core [7] ++ wholePoison [bl.regs.rdVV 1]) = true ∧ met (wholePoison [bl.regs.rdVV 3]) = true ∧
    met (scalarPoison bl.core Rnd.rne.srcs ++ (bl.regs.rdVV 3).poisonAll ++ if Ty.f32 = .f32 then (bl.regs.rdVV 5).poisonAll else []) = true ∧
    met (((List.range 2).flatMap fun k => if bl.regs.computed every everyLane k then (bl.regs.rdVV 3).blkPoison .vb8 (bl.core.ownOrigin .fmt) k else [])) = true := by
  repeat' apply And.intro
  all_goals decide +kernel

/-- s1 is 64 below the top of the program range, s2 a header place, s3 to s5 places of gathers; a marked word at 0x100; privilege with s6 in the journal. -/
def vm : Machine.State := focus fun c => { (vecs [(1, ⟨0x40, 0⟩), (2, ⟨0xEFFC0, 0⟩), (3, poisonReg (c.ownOrigin .nan))]
  (scalars [(1, 0xEFFC0), (2, 0xEFFF8), (3, 0xC0), (6, 0xF0000)] [7] (priv c))).modRegs (fun r => r.wrM 1 1) with marks := [32] }

theorem witness_VectorMemory :
    vm.executes g0 ∧ vm.clean [1, 2] ∧ vm.readable (vm.ea10 1 64 0) 64 ∧ vm.ea10 1 64 0 % 64 = 0 ∧ vm.ea10 3 64 1 = 0x100 ∧ vm.mark 0x100 = true ∧
    LanesClean vm.regs (vm.regs.rdVV 4) every 8 64 everyLane [] (fun i => vm.mark ((vm.ea10 1 64 0).toNat + i) = false) ∧
    LanesClean vm.regs (vm.regs.rdVV 4) ⟨1, false⟩ 8 64 everyLane [] (fun _ => True) ∧ vm.core.beside = [] ∧ (vm.regs.rdVV 1).whole = false ∧ vm.regs.active ⟨1, false⟩ 0 = true ∧
    (∀ i, i < 16 → vm.regs.active ⟨1, true⟩ i = true → (vm.regs.rdVV 1).poisonAt (32 * i) 32 = [] ∧
      vm.readable ((vm.regs.rdS 3).toNat + ((vm.regs.rdVV 1).lane 32 i).toNat) 4 ∧ (((vm.regs.rdS 3).toNat + ((vm.regs.rdVV 1).lane 32 i).toNat : Nat) : Int) % 4 = 0) ∧
    vm.writable (vm.ea10 1 64 0) 64 ∧ ¬ discarded (vm.ea10 1 64 0) ∧ discarded (vm.ea10 6 64 0) ∧ vm.writable (vm.ea10 6 64 0) 64 ∧ (vm.regs.rdM 1).getLsbD 0 = true ∧
    (∀ i ∈ (List.range 16).filter fun i => (vm.regs.rdM 1).getLsbD i, (vm.regs.rdVV 1).poisonAt (32 * i) 32 = [] ∧
      vm.writable ((vm.regs.rdS 3).toNat + ((vm.regs.rdVV 1).lane 32 i).toNat) 4) ∧
    vm.ea10 2 8 0 % 8 = 0 ∧ vm.readable (vm.ea10 2 8 0) 8 ∧ vm.writable (vm.ea10 2 8 0) 8 := by
  refine ⟨?_, ?_, ?_, ?_, ?_, ?_, ?_, ?_, ?_, ?_, ?_, ?_, ?_, ?_, ?_, ?_, ?_, ?_, ?_, ?_, ?_⟩
  all_goals try unfold State.executes
  all_goals try unfold State.clean
  all_goals try unfold LanesClean
  all_goals try unfold State.readable
  all_goals try unfold State.writable
  all_goals try unfold discarded
  all_goals try unfold within
  all_goals decide +kernel

theorem witness_TileUpdateIsLeastScale : [2 ^ 47 - 1, 0].length = [((1 : Int), (0 : Int)), (0, 0)].length ∧ (32767 : Int) ≤ 32767 := by decide

/-- Core 0 holds the licence; latch 0 has the tag of VB8 and latch 1 that of BF16; accumulator 1 is in FP32 mode; s1 is the lowest address of a tile that ends at the top. -/
def mx : Machine.State :=
  let s := focus fun c => ((scalars [(1, 0xEF000), (2, 0xEFF00), (3, 2), (4, 0x2000)] [7] c).putLatch 0 ⟨latchTag .vb8, 0, 0⟩).putLatch 1 ⟨latchTag .bf16, 0, 0⟩
  let s := s.setCore (s.core.setAcc 1 { Acc.zero with fp32 := true })
  s.setQuern { s.quern with holder := some false }

/-- With an MMA in flight. -/
def mxBusy : Machine.State := mx.setCore { mx.core with mma := some ⟨0, 0, false, .vb8, false, [], [], 0, 0, none⟩ }

theorem witness_MatrixMultiply :
    Ty.vb8 ∈ latchTypes ∧ mx.executes g0 ∧ mx.settled ∧ mx.licensed ∧ mx.quern.rreq = none ∧
    (mx.core.latchAt 0).tag = latchTag .vb8 ∧ ((mx.core.accAt 0).fp32 = true ↔ Ty.vb8 ∉ blockTypes) ∧ mx.clean [1, 2, 0] ∧
    (mx.regs.rdS 1).toNat + (31 * 2 + 2) * 32 ≤ 0xF0000 ∧ (mx.regs.rdS 1).toNat % 32 = 0 ∧ (mx.regs.rdS 2).toNat + (31 * 2 + 2) * 4 = 0xF0000 ∧
    (mx.core.latchAt 1).tag = latchTag .bf16 ∧ ((mx.core.accAt 1).fp32 = true ↔ Ty.bf16 ∉ blockTypes) ∧
    (∃ m, (mxBusy.coreAt 0).mma = some m ∧ m.hit = none) ∧ ¬ sc.licensed := by
  refine ⟨?_, ?_, ⟨?_, ?_⟩, ⟨?_, ?_⟩, ?_, ?_, ?_, ?_, ?_, ?_, ?_, ?_, ?_, ⟨_, rfl, rfl⟩, fun h => absurd h.1 ?_⟩
  all_goals try unfold State.executes
  all_goals try unfold State.clean
  all_goals decide +kernel

/-- A release request of group 5 stands at the holder, due or not; another core has asked or not. -/
def mxAsked (due : Nat) (twin : Bool) : Machine.State := mx.setQuern { mx.quern with rreq := some (5, due), reqRun := if twin then some 0 else none }

/-- A tile comes to core 0, for accumulator 2. -/
def mxComes : Machine.State := mx.setQuern { mx.quern with holder := none, hand := some ⟨false, 1, 2⟩ }

theorem witness_MatrixMultiply_traps :
    (mxAsked 0 true).licensed ∧ (mxAsked 0 true).quern.rreq = some (5, 0) ∧ 0 < ({ mxAsked 0 true with cycle := 1 } : Machine.State).cycle ∧
    (((mxAsked 0 true).quern.stamp 1).req true).isSome = true ∧ ((mxAsked 0 false).quern.stamp 1).req true = none ∧ (mxAsked 9 false).cycle ≤ 9 ∧ (mxAsked 9 false).quern.rreq = some (5, 9) ∧
    (mx.core.latchAt 1).tag ≠ latchTag .vb8 ∧ (mx.core.accAt 1).fp32 = true ∧ Ty.vb8 ∈ blockTypes ∧ ([1, 2, 7] : List Reg) = [1, 2] ++ 7 :: [] ∧ mx.clean [1, 2] ∧ mx.regs.psn 7 = true ∧
    ¬ ((mx.regs.rdS 2).toNat + (31 * 2 + 2) * 32 ≤ 0xF0000) ∧ (mx.regs.rdS 1).toNat + (31 * 3 + 2) * 32 ≤ 0xF0000 ∧ ¬ ((mx.regs.rdS 2).toNat + (31 * 3 + 2) * 4 ≤ 0xF0000) ∧ mx.regs.psn 3 = false ∧ (mx.regs.rdS 2).toNat % 32 = 0 ∧ (mx.regs.rdS 3).toNat % 32 ≠ 0 ∧ (mx.regs.rdS 3).toNat % 4 ≠ 0 ∧
    (∃ m, mxComes.quern.hand = some m ∧ m.toRunner = isRunner mxComes.cur ∧ m.dst = 2) ∧ (mxComes.migrate (quernOf mxComes.cur)).core.mma = none := by
  refine ⟨⟨?_, ?_⟩, ?_, ?_, ?_, ?_, ?_, ?_, ?_, ?_, ?_, ?_, ?_, ?_, ?_, ?_, ?_, ?_, ?_, ?_, ?_, ⟨_, rfl, ?_, ?_⟩, ?_⟩
  all_goals try unfold State.clean
  all_goals decide +kernel

/-- As `mx`, with v3 poisoned, a poisoned tile 2, and marked words under a latch's tile. -/
def mxBad : Machine.State :=
  let s := mx.setCore { vecs [(3, poisonReg (mx.core.ownOrigin .nan))] mx.core with marks := [0x2000 / 8, 0xEF000 / 8] }
  s.setCore (s.core.setAcc 2 ((s.core.accAt 2).poison [s.core.ownOrigin .spsn] 0))

theorem witness_AccumulatorsAndLatches_poisoned :
    met ((if orgCause (mxBad.core.accAt 2).org ≠ 0 ∨ (mxBad.core.accAt 2).ptl = true then [(mxBad.core.accAt 2).org] else []) ++ scalarPoison mxBad.core Rnd.rne.srcs) = true ∧
    (mxBad.core.accAt 1).fp32 ≠ decide (Ty.f32 = .i64) ∧ met (mxBad.regs.rdVV 3).poisonAll = true ∧ (mxBad.core.accAt 0).fp32 = false ∧ mxBad.regs.psn 7 = true ∧
    mxBad.markBefore 0 0x2000 32 = true ∧ mxBad.markBefore 0 0xEF000 64 = true ∧ met ((mxBad.regs.rdVV 3).poisonAt 0 256) = true ∧ mxBad.core.beside = [] := by
  repeat' apply And.intro
  all_goals decide +kernel

theorem witness_AccumulatorsAndLatches :
    mx.executes g0 ∧ mx.settled ∧ (1 + 1) * Ty.f32.lanes ≤ 32 ∧ (3 + 1) * Ty.i64.lanes ≤ 32 ∧ orgCause (mx.core.accAt 0).org = 0 ∧ (mx.core.accAt 0).ptl = false ∧
    (mx.core.accAt 1).fp32 = decide (Ty.i64 = .i64) ∧ (mx.core.accAt 0).fp32 ≠ decide (Ty.i64 = .i64) ∧ (mx.regs.rdVV 1).poisonAll = [] ∧ mx.regs.psn 3 = false ∧
    (∀ x ∈ (mx.core.accAt 0).n.toList, x = 0) ∧ mx.core.prv = false ∧ vm.core.prv = true ∧
    (mx.quern.twCycle = mx.cycle → ∀ e ∈ mx.quern.twLog, e.reg ≠ 7) ∧
    Ty.vb4 ∈ latchTypes ∧ mx.clean [4, 1] ∧ mx.readable (mx.regs.rdS 4).toNat 2048 ∧ mx.readable (mx.regs.rdS 1).toNat (4 * 128) ∧ (mx.regs.rdS 1).toNat % 64 = 0 ∧
    mx.core.marks = [] ∧ mx.core.beside = [] := by
  refine ⟨?_, ⟨?_, ?_⟩, ?_, ?_, ?_, ?_, ?_, ?_, ?_, ?_, fun x hx => ?_, ?_, ?_, ?_, ?_, ?_, ?_, ?_, ?_, ?_, ?_⟩
  case refine_12 =>
    have h : (mx.core.accAt 0).n = Vector.replicate 1024 0 := rfl
    rw [h] at hx
    exact (Vector.mem_replicate.1 (Vector.mem_toList_iff.1 hx)).2
  all_goals try unfold State.executes
  all_goals try unfold State.clean
  all_goals try unfold State.readable
  all_goals try unfold within
  all_goals decide +kernel

/-- Quanta in the pool of field 0 and nobody holds the licence. -/
def lic : Machine.State := (focus id).addPool 0 5

/-- A tile is on its way to the runner. -/
def moving : Machine.State := mx.setQuern { mx.quern with holder := none, hand := some ⟨true, 0, 3⟩ }

/-- The runner holds it. -/
def mxRunner : Machine.State := mx.setQuern { mx.quern with holder := some true }

/-- The runner has given the licence up in this very cycle, with a release request outstanding. -/
def given : Machine.State := let s := focus id; s.setQuern { s.quern with was := some (s.cycle, ⟨some true, none, none, none, some (0, 9)⟩) }

/-- Core 0 has taken the licence in this very cycle. -/
def taken : Machine.State := let s := focus id; s.setQuern { s.quern with holder := some false, was := some (s.cycle, ⟨none, none, none, none, none⟩) }

theorem witness_MatrixLicence :
    mx.executes g0 ∧ mx.settled ∧ mx.licensed ∧ mx.quern.req true = none ∧ ((mx.quern.setReq true (some 3)).req (!isRunner mx.cur)).isSome = true ∧
    (¬ lic.licensed ∧ ¬ (lic.quern.holder = some (isRunner lic.cur) ∧ lic.quern.hand = none) ∧ (lic.quern.view lic.cycle).holder = none ∧ (lic.quern.view lic.cycle).hand = none ∧
      lic.quern.holder = none ∧ lic.quern.hand = none ∧ ¬ (lic.quern.view lic.cycle).twinAhead (isRunner lic.cur) = true ∧ 0 < (lic.fieldAt (fieldOf lic.cur)).pool) ∧
    (given.executes g0 ∧ ¬ given.licensed ∧ (given.quern.view given.cycle).holder ≠ none ∧ given.quern.holder = none ∧ given.quern.hand = none) ∧
    (taken.executes g0 ∧ ¬ taken.licensed ∧ taken.quern.holder = some (isRunner taken.cur) ∧ taken.quern.hand = none) ∧
    ¬ sc.licensed ∧ (sc.fieldAt (fieldOf sc.cur)).pool = 0 ∧ sc.quern.holder = none ∧ ¬ mxRunner.licensed ∧ mxRunner.quern.holder ≠ none ∧
    0 < 65536 ∧ (moving.quernAt 0).hand = some ⟨true, 0, 3⟩ := by
  refine ⟨?_, ⟨?_, ?_⟩, ⟨?_, ?_⟩, ?_, ?_, ⟨fun h => absurd h.1 ?_, ?_, ?_, ?_, ?_, ?_, ?_, ?_⟩, ⟨?_, fun h => absurd h.1 ?_, ?_, ?_, ?_⟩,
    ⟨?_, fun h => absurd h.1 ?_, ?_, ?_⟩, fun h => absurd h.1 ?_, ?_, ?_, fun h => absurd h.1 ?_, ?_, ?_, ?_⟩
  all_goals try unfold State.executes
  all_goals decide +kernel


/-- s1 = relative address 0, s2 = a payload's address, s3 its length, s4 the longest length; s5 names module 0, s6 module 9; s8 a local address at the top; a marked word at 0x80; s7 poisoned. -/
def ob : Machine.State := inGroup fun c => { scalars [(1, 0), (2, 0x80), (3, 8), (4, 2048), (5, 0x05012A32), (6, 0x900000000), (8, 0xEFFF8), (9, 0xEF800), (10, 0xFFFF), (11, 0x10000), (12, 0xFEFF), (13, 0xFF00)] [7] c with
  marks := [16], slots := [(255, ⟨0xFFFF, 3, true, 0, false⟩)] }

theorem named_ob : NamedFrom ob.core 0 (ob.core.pageLookup 0).1 0 :=
  ⟨by decide +kernel, by decide +kernel, by decide +kernel, by decide +kernel, rfl, by decide +kernel⟩

theorem witness_OutboundOperations :
    ob.executes g0 ∧ ((55 : BitVec 6).toNat < 56 ∨ ob.core.prv = true) ∧ ob.clean [1, 9, 4] ∧ ob.payloadOk 9 4 ∧ ob.payloadOk 2 3 ∧ ob.payloadOk 2 0 ∧
    (ob.regs.rdS 5).extractLsb' 52 12 = 0 ∧ (ob.regs.rdS 1).extractLsb' 17 7 = 0 ∧
    (ob.regs.rdS 1).extractLsb' 32 20 = ob.core.name.extractLsb' 32 20 ∧ (ob.regs.rdS 6).extractLsb' 32 20 ≠ ob.core.name.extractLsb' 32 20 ∧
    (ob.regs.rdS 6).extractLsb' 17 7 = 0 ∧ (∃ x ∈ ob.seenBy (fun _ => 0) 0x80 8, x.2 = true) ∧ (∀ x ∈ ob.seenBy (fun _ => 0) 0x88 8, x.2 = false) ∧
    (ob.regs.rdS 8).extractLsb' 26 6 = 0 ∧ (ob.regs.rdS 8).extractLsb' 58 6 = 0 ∧ (0 : BitVec 6) ++ (ob.regs.rdS 8).extractLsb' 32 26 = 0 ∧ ((ob.regs.rdS 8).setWidth 20).toNat + 8 ≤ 0xF0000 ∧ ((ob.regs.rdS 8).setWidth 20).toNat % 8 = 0 ∧
    Ty.n64 ∈ [Ty.i32, .i64, .n32, .n64] := by
  repeat' apply And.intro
  all_goals try unfold State.executes
  all_goals try unfold State.clean
  all_goals try unfold State.payloadOk
  all_goals try unfold State.readable
  all_goals try unfold within
  all_goals decide +kernel

/-- As `ob`, with privilege and operands of the sequencer's instructions: s1 a line, s2 a queue, s3 a sprig, s4 the highest address of a counter. -/
def sq : Machine.State := inGroup fun c => priv (scalars [(1, 0xEFFC0), (2, 15), (3, 0xFFFFFFFFF000), (4, 0xEFFF8), (5, 0xFFFF)] [7] c)

theorem witness_TicketsAndSequencerRequests :
    ob.executes g0 ∧ ob.clean [10, 11, 12] ∧ (ob.regs.rdS 10).toNat < 2 ^ 16 ∧ ob.slot 0xFFFF ⟨0xFFFF, 3, true, 0, false⟩ ∧
    (∀ x, ¬ ob.slot 5 x) ∧ 2 ^ 16 ≤ (ob.regs.rdS 11).toNat ∧
    sq.executes g0 ∧ sq.clean [1, 2, 3, 4, 5] ∧ (sq.regs.rdS 1).toNat + 64 ≤ 0xF0000 ∧ (sq.regs.rdS 1).toNat % 64 = 0 ∧ (sq.regs.rdS 2).toNat < 16 ∧
    (sq.regs.rdS 3).toNat < 2 ^ 48 ∧ (sq.regs.rdS 3).toNat % 4096 = 0 ∧ (sq.regs.rdS 5).toNat < 2 ^ 16 ∧ sq.core.prv = true ∧
    (sq.regs.rdS 4).toNat + 8 ≤ 0xF0000 ∧ (sq.regs.rdS 4).toNat % 8 = 0 ∧ (ob.regs.rdS 12).toNat < 0xFF00 ∧ ob.core.prv = false ∧
    0xFF00 ≤ (ob.regs.rdS 13).toNat % 2 ^ 16 := by
  refine ⟨?_, ?_, ?_, ⟨?_, ?_⟩, fun x h => ?_, ?_, ?_, ?_, ?_, ?_, ?_, ?_, ?_, ?_, ?_, ?_, ?_, ?_, ?_, ?_⟩
  case refine_6 =>
    have : NMap.get? ob.core.slots ((5 : BitVec 16).toNat % 256) = none := by decide +kernel
    exact absurd (this.symm.trans h.1) (by simp)
  all_goals try unfold State.executes
  all_goals try unfold State.clean
  all_goals decide +kernel

/-- A one-step sum tree of core 0 and core 1, rooted at core 0: FORM 0, TYPE i32, OPC of that type, SLEN 1. -/
def desc : List Word := [0x30000, 0, 3, 0, 1, 0, 0, 0]

/-- A router entry of that tree. -/
def ent : Entry := { router := 0, slot := 0, par := 0, chm := 0, step := 0, bufb := 0, nbuf := 1, sc := [0], held := [], since := [], att := 0, hand := none, got := [], prog := none }

/-- The tree itself. -/
def tree : Tree :=
  { gid := 1, tid := 0, desc := desc, members := [0, 1], root := 0, entries := [ent], step := 0, sums := [], qsince := none, rnm := [], joins := [], gone := [], rel := [] }

/-- `ob` with the tree. -/
def obTree : Machine.State := { ob with trees := [tree] }

/-- Two steps of the tree are open at core 0. -/
def obBusy : Machine.State := obTree.setCore (obTree.core.setTreeMem 0 { obTree.core.treeMem 0 with issued := 2, opens := [⟨0, 0, false, 1, 0⟩, ⟨1, 0, false, 2, 0⟩] })

theorem witness_Trees :
    ob.executes g0 ∧ ob.clean [1, 2, 4] ∧ ob.tree? 0 = none ∧ ob.core.ticketBusy = false ∧
    obTree.tree? 0 = some tree ∧ obTree.cur ∈ tree.members ∧ (0x80 : Nat) + 64 * descSlen tree.desc ≤ 0xF0000 ∧ (0x80 : Nat) % 64 = 0 ∧
    (obTree.core.treeMem 0).opens.length < 2 ∧ 2 ≤ (obBusy.core.treeMem 0).opens.length ∧ obTree.core.holdRoom (recordSize 64) = true ∧
    (∃ e ∈ tree.entries, e.router = obTree.cur) ∧ tree.gid = obTree.core.gid ∧
    (asks .tbuild 0 0 0 desc ob).seqReq? 0 .tbuild = some ⟨.tbuild, 0, 1, 3, 0, 0, 0, desc, false, here, false, false, none⟩ ∧
    (asks .tbuild 0 0 0 desc ob).group? 1 = some grp ∧ grp.descOk desc = true ∧ grp.descOk [0] = false ∧ (asks .tbuild 0 0 0 desc sc).group? 1 = none ∧
    ((asks .tbuild 0 0 0 desc obTree).tree? (descTid desc)).isSome = true ∧ (asks .tbuild 0 0 0 desc ob).tree? (descTid desc) = none ∧ descXm desc = false ∧
    (asks .tfree 0 0 0 [] ob).seqReq? 0 .tfree = some ⟨.tfree, 0, 1, 3, 0, 0, 0, [], false, here, false, false, none⟩ ∧ (asks .tfree 0 0 0 [] ob).tree? 0 = none ∧
    (asks .tfree 0 0 0 [] obTree).tree? 0 = some tree ∧ tree.gid = 1 := by
  repeat' apply And.intro
  all_goals try unfold State.executes
  all_goals try unfold State.clean
  all_goals decide +kernel

/-- Channel 3 WAKE, channel 5 in join set 2, channel 6 FEED of context 1; context 2 waits for channel 3; s1 a task entry, s2 a ring of 2 MiB at most, s3 a mask of channels. -/
def ch : Machine.State := focus fun c =>
  let c := bindCh 3 (bindingWord 0x40 0 false false 0 1 0) 0 (bindCh 5 (bindingWord 0x40 2 false false 0 0 1) 0x20 (bindCh 6 (bindingWord 0x40 0 false true 1 0 3) 1
    (scalars [(1, 0xEFFF8), (2, 0x0D70000), (3, 0xFF00000000000F), (4, 0x0080000000000000), (6, 0x1D70000), (8, 1)] [7] c)))
  c.setCtxAt 2 { c.ctxAt 2 with st := .parked, wait := .chan 3 }

theorem witness_ChannelBindings :
    ch.executes g0 ∧ ¬ ch.mayBind 56 ∧ ch.mayBind 55 ∧ scPriv.mayBind 63 ∧ ch.clean [1, 2, 8] ∧ entryOk (ch.regs.rdS 1) ∧ ch.core.bound 3 = true ∧ ch.core.bound 55 = false ∧
    (ch.regs.rdS 8).toNat < 2 ∧ ch.core.feedTaken 0 1 = false ∧ (ch.regs.rdS 2).toNat < 2 ^ 28 ∧ (ch.regs.rdS 2).toNat / 2 ^ 20 % 16 = 13 ∧
    (ch.regs.rdS 2).toNat % 2 ^ 20 + 64 * 2 ^ 13 ≤ 0xF0000 ∧ (ch.regs.rdS 2).toNat % 2 ^ 20 % 64 = 0 ∧
    ch.core.setMembers 4 = [] ∧ ((List.range 64).filter fun k => (ch.regs.rdS 4).getLsbD k) = [55] ∧ (ch.regs.rdS 4).toNat < 2 ^ 56 ∧
    (∃ x ∈ ch.core.ctxs.toList, x.st = .parked ∧ x.wait = .chan 3) ∧ (¬ ∃ x ∈ ch.core.ctxs.toList, x.st = .parked ∧ x.wait = .chan 5) ∧
    ch.core.bound 5 = true ∧ ch.core.chMode 5 = 1 ∧ ch.core.bound 6 = true ∧ ch.core.chMode 6 ≠ 1 := by
  repeat' apply And.intro
  all_goals try unfold State.executes
  all_goals try unfold State.clean
  all_goals try unfold State.mayBind
  all_goals try unfold entryOk
  all_goals decide +kernel

/-- The core holds the licence. -/
def holds : Machine.State := ob.setQuern { ob.quern with holder := some false }

/-- The core has asked for the licence. -/
def asked : Machine.State := ob.setQuern { ob.quern with reqBed := some 0 }

/-- It has asked and holds the licence. -/
def askedHolds : Machine.State := ob.setQuern { ob.quern with reqBed := some 0, holder := some false }

theorem witness_BoundariesAndBatches :
    ob.executes g0 ∧ ob.clean [10, 11] ∧ (ob.regs.rdS 10).toNat < 2 ^ 16 ∧ 2 ^ 16 ≤ (ob.regs.rdS 11).toNat ∧
    holds.licensed ∧ holds.quern.req (isRunner holds.cur) = none ∧ (asked.quern.req (isRunner asked.cur)).isSome = true ∧ ¬ asked.licensed ∧
    (askedHolds.quern.req (isRunner askedHolds.cur)).isSome = true ∧ askedHolds.licensed ∧
    (∃ x ∈ ch.core.ctxs.toList, (x.st = .parked ∨ x.st = .ready) ∧ x.wait = .chan 3) ∧
    (¬ ∃ x ∈ ch.core.ctxs.toList, (x.st = .parked ∨ x.st = .ready) ∧ x.wait = .chan 5) ∧ ¬ (ch.core.bound 5 = true ∧ ch.core.chMode 5 = 0) ∧
    (¬ ∃ x ∈ sc.core.ctxs.toList, (x.st = .parked ∨ x.st = .ready) ∧ x.wait = .chan 3) ∧ ch.core.bound 3 = true ∧ ch.core.chMode 3 = 0 := by
  refine ⟨?_, ?_, ?_, ?_, ⟨?_, ?_⟩, ?_, ?_, fun h => absurd h.1 ?_, ?_, ⟨?_, ?_⟩, ?_, ?_, ?_, ?_, ?_, ?_⟩
  all_goals try unfold State.executes
  all_goals try unfold State.clean
  all_goals decide +kernel

/-- v1 is a pattern of one run of 64 bytes; s1 is 64 below the top, s2 a target word on the twin, s3 a list, s4 asks for two rows of 8 bytes, s5 is a word on relative core 0 at address 0. -/
def stm : Machine.State := inGroup fun c => vecs [(1, ⟨64, 0⟩)] (scalars [(1, 0xEFFC0), (2, 0xEFFC0), (3, 0x100), (4, 0x8000002), (5, 0), (6, 0xF0000)] [7] c)

/-- A local copy at the stream unit, not started, and a barrier behind it. -/
def stq : Machine.State := stm.setCore { stm.core with streams := [stm.core.newStream 0 .scpy] }

/-- A barrier alone. -/
def stb : Machine.State := stm.setCore { stm.core with streams := [stm.core.newStream 0 .sbar] }

/-- A copy of no bytes that has started. -/
def std' : Machine.State := stm.setCore { stm.core with streams := [{ stm.core.newStream 0 .scpy with started := true, eosDone := true }] }

theorem named_stm : Endpoint stm.core (stm.regs.rdS 2) (stm.core.pageLookup 0).1 0 ∧ Endpoint stm.core (stm.regs.rdS 5) (stm.core.pageLookup 0).1 0 :=
  ⟨⟨by decide +kernel, by decide +kernel, by decide +kernel, by decide +kernel, by decide +kernel, by decide +kernel, rfl, by decide +kernel⟩,
    ⟨by decide +kernel, by decide +kernel, by decide +kernel, by decide +kernel, by decide +kernel, by decide +kernel, rfl, by decide +kernel⟩⟩

theorem named_high : Endpoint stm.core (stm.regs.rdS 6) (stm.core.pageLookup 0).1 0 ∧ 0xF0000 ≤ (stm.regs.rdS 6).toNat % 2 ^ 20 ∧ stm.clean [6, 3, 4, 1] :=
  ⟨⟨by decide +kernel, by decide +kernel, by decide +kernel, by decide +kernel, by decide +kernel, by decide +kernel, rfl, by decide +kernel⟩, by decide +kernel,
    by unfold State.clean; decide +kernel⟩

theorem witness_StreamCommands :
    stm.executes g0 ∧ stm.clean [1, 2, 3, 4, 5] ∧ (∀ i, i < 8 → (stm.regs.rdVV 2).poisonAt (64 * i) 64 = []) ∧ (stm.regs.rdVV 1).poisoned = false ∧
    patOk (stm.regs.rdV 1) = true ∧ patTotal (stm.regs.rdV 1) = 64 ∧ patternFits 0xEFFC0 (stm.regs.rdV 1) ∧
    StreamEnd stm.core 0 (stm.regs.rdS 1) stm.core ∧ StreamEnd stm.core 2 (stm.regs.rdS 2) (stm.core.pageLookup 0).1 ∧
    endPlace 0 (stm.regs.rdS 1) + 64 ≤ 0xF0000 ∧ endPlace 2 (stm.regs.rdS 2) + 64 ≤ 0xF0000 ∧
    (stm.regs.rdS 4).toNat % 2 ^ 24 = 2 ∧ (stm.regs.rdS 4).toNat / 2 ^ 24 = 8 ∧ (stm.regs.rdS 3).toNat + 4 * 2 ≤ 0xF0000 ∧ (stm.regs.rdS 3).toNat % 4 = 0 ∧
    (stm.regs.rdS 5).setWidth 20 = 0#20 ∧
    (stq.coreAt 0).streams.find? (fun x => x.id == 0) = some (stm.core.newStream 0 .scpy) ∧ (stm.core.newStream 0 .scpy).started = false ∧
    (stq.coreAt 0).queueReady (stm.core.newStream 0 .scpy) = true ∧ (stq.coreAt 0).barrierReady (stm.core.newStream 0 .scpy) = true ∧
    (stq.coreAt 0).heldReady (stm.core.newStream 0 .scpy) = true ∧ (stq.coreAt 0).captured = false ∧
    (∀ o ∈ (stq.coreAt 0).ops, (stm.core.newStream 0 .scpy).held = some o.id → o.owes = none) ∧
    (∀ d ∈ stb.seq.debts, d.core = 0 → d.stream ≠ 0) ∧ (∀ y ∈ (stb.coreAt 0).streams, y.kind ≠ .sbar → 0 ≤ y.id) ∧
    (std'.coreAt 0).streams.all (fun x => x.started && x.done) = true := by
  refine ⟨?_, ?_, ?_, ?_, ?_, ?_, ?_, by rw [StreamEnd, if_neg (by decide)], by rw [StreamEnd, if_pos (by decide)]; exact ⟨by decide +kernel, 0, named_stm.1⟩, ?_, ?_, ?_, ?_, ?_, ?_, ?_, ?_, ?_, ?_, ?_, ?_, ?_, fun o ho => (nomatch ho), ?_, ?_, ?_⟩
  all_goals try unfold State.executes
  all_goals try unfold State.clean
  all_goals try unfold patternFits
  all_goals decide +kernel

/-- A handler at 0xEFFF8. -/
def hnd : Machine.State := focus fun c => { c with trapvec := 0xEFFF9 }

/-- Inside the handler, with a record of a trap at 0xEFFF8. -/
def inHnd : Machine.State := focus fun c =>
  let c := c.modRegs fun r => { (r.wrS 1 0xEFFF8 false).wrS 7 0 true with handler := true }
  { c.setCtx { c.ctx with trapRec := c.ctx.trapRec.set 0 0x00400000000EFFF0 } with trapvec := 1 }

theorem witness_Traps :
    hnd.core.mma = none ∧ hnd.core.trapvec.getLsbD 0 = true ∧ hnd.regs.handler = false ∧ sc.core.mma = none ∧ sc.core.trapvec.getLsbD 0 = false ∧
    hnd.quern.sends (isRunner hnd.cur) = false ∧ sc.quern.sends (isRunner sc.cur) = false ∧
    inHnd.core.mma = none ∧ inHnd.regs.handler = true ∧ inHnd.quern.sends (isRunner inHnd.cur) = false ∧ moving.quern.sends (isRunner moving.cur) = true := by decide +kernel

theorem witness_TrapInstructions :
    sc.executes g0 ∧ sc.regs.handler = false ∧ inHnd.executes g0 ∧ inHnd.regs.handler = true ∧
    legalTarget ((inHnd.core.ctx.trapRec[0]).toNat % 2 ^ 20 : Nat) ∧ legalTarget (((inHnd.core.ctx.trapRec[0]).toNat % 2 ^ 20 : Nat) + 8) ∧
    inHnd.regs.psn 7 = true ∧ inHnd.regs.psn 1 = false ∧ legalTarget (inHnd.regs.rdS 1).toNat ∧
    (bl.regs.rdVV 3).whole = true ∧ (bl.regs.rdVV 1).whole = false ∧ (bl.regs.rdVV 1).bad 0 = false ∧
    (⟨0, (mkHdr 255 0 2 false false).setWidth 128⟩ : VVal).whole = false ∧ (⟨0, (mkHdr 255 0 2 false false).setWidth 128⟩ : VVal).bad 0 = true ∧
    bl.settled ∧ bl.core.prv = false ∧ vm.settled ∧ vm.core.prv = true ∧ (bl.quern.twCycle = bl.cycle → ∀ e ∈ bl.quern.twLog, e.reg ≠ 7) := by
  repeat' apply And.intro
  all_goals try unfold State.executes
  all_goals try unfold legalTarget
  all_goals decide +kernel


/-- s1 the highest sprig address, s2 the rights, s3 the longest limit, s4 beyond any address, s5 privileged rights, s6 and s9 reserved bits, s8 a misaligned address. -/
def su : Machine.State := inGroup fun c => scalars [(1, 0xFFFFFFFFF000), (2, 0x8007FFFF), (3, 60000000), (4, 0x1000000000000), (5, 0x80000), (6, 0x400000), (8, 8), (9, 0x100000000), (10, 60000001)] [7] c

/-- Core 0 is bound to island 7 with its twin; its schedule value is 100; a latch column and a twin-window value arrive at it. s1 to s4 schedule values, s5 relative address 0. -/
def isl : Machine.State :=
  let s := inGroup fun c => { scalars [(1, 99), (2, 100), (3, 101), (5, 0)] [7] (priv c) with
    islBnd := true, islIid := 7, islPad := 2, scnt := 100, landing := [⟨100, 0, 1, 31, 0, .vb4, 0, 0, [], 0, none, true⟩, ⟨100, 0, 2, 0, 7, .none, 1, 0, [], 0, none, true⟩] }
  { s with seq := { s.seq with islands := [⟨1, 7, 2, [0, 65536], [], 0, [], false, false⟩] } }

/-- It waits for a schedule value. -/
def islWait : Machine.State := isl.setCore { isl.core with sync := some 100 }

/-- The twin has asked to be bound, 1 ms ago. -/
def bound1 : Machine.State := { ob with seq := { ob.seq with binds := [⟨1, 7, 65536, 4, false, 0⟩] }, cycle := 3300000 }

theorem named_isl : NamedFrom isl.core ((isl.regs.rdS 5).setWidth 32) (isl.core.pageLookup 0).1 0 :=
  ⟨by decide +kernel, by decide +kernel, by decide +kernel, by decide +kernel, rfl, by decide +kernel⟩

/-- As that, and the twin is bound to an island already. -/
def bound2 : Machine.State := bound1.upd 65536 fun c => { c with islBnd := true }

/-- A timed message to core 0 is due and has not arrived. -/
def late : Landing := ⟨100, 0, 1, 31, 0, .vb4, 0, 0, [], 0, none, false⟩

/-- It is on its way. -/
def islLate : Machine.State := isl.setCore { isl.core with landing := [late] }

/-- The island of `grp`. -/
def idesc : IslandDesc := ⟨7, 0, 0, 1, 1, 2⟩

/-- The request to bind it. -/
def askBind : SeqReq := ⟨.isbind, 0, 1, 3, 7, 0, 0, [], false, here, false, false, none⟩

/-- The group of `su` is being suspended already. -/
def suAgain : Machine.State := su.modGroup 1 fun g => { g with susp := some ⟨.program, 0x10000, false, 0, none, 330000, none, 5, [], [], [], 0, false⟩ }

/-- Core 0 has left its island, and its twin has not. -/
def islLeft : Machine.State :=
  let s := isl.setCore { isl.core with islBnd := false }
  { s with seq := { s.seq with islands := [⟨1, 7, 2, [0, 65536], [0], 0, [], false, false⟩] } }

theorem witness_IslandsAndSuspending :
    su.executes g0 ∧ su.clean [1, 2, 3, 4, 5, 6, 8, 9, 10] ∧ (su.regs.rdS 5).extractLsb' 19 3 ≠ 0 ∧ su.core.prv = false ∧ (su.regs.rdS 2).extractLsb' 19 3 = 0 ∧
    2 ^ 48 ≤ (su.regs.rdS 4).toNat ∧ (su.regs.rdS 1).toNat < 2 ^ 48 ∧ (su.regs.rdS 6).extractLsb' 22 9 ≠ 0 ∧ 2 ^ 32 ≤ (su.regs.rdS 9).toNat ∧ 60000000 < (su.regs.rdS 10).toNat ∧
    (su.regs.rdS 2).extractLsb' 22 9 = 0 ∧ (su.regs.rdS 2).toNat < 2 ^ 32 ∧ (su.regs.rdS 3).toNat ≤ 60000000 ∧ (su.regs.rdS 8).toNat % 4096 ≠ 0 ∧ (su.regs.rdS 1).toNat % 4096 = 0 ∧
    (¬ ∃ g ∈ su.seq.groups, g.gid = su.core.grpid.setWidth 16 ∧ g.susp.isSome = true) ∧
    (∃ g ∈ suAgain.seq.groups, g.gid = suAgain.core.grpid.setWidth 16 ∧ g.susp.isSome = true) ∧ (isl.coreAt (twinOf 0)).landing = [] ∧
    (∀ b ∈ (asks .isbind 7 0 0 [] bound1).seq.binds, b.gid = 1 → b.iid = 7 → b.held = false → (asks .isbind 7 0 0 [] bound1).cycle ≤ b.since + 3300000) ∧
    ((asks .isbind 7 0 0 [] islLeft).bindRefused grp (some idesc) 0 = false ∧ (∃ i ∈ (asks .isbind 7 0 0 [] islLeft).seq.islands, i.gid = 1 ∧ (i.iid = 7 ∨ 0 ∈ i.members)) ∧ islLeft.seq.binds = []) ∧
    (isl.core.islBnd = true ∧ (isl.regs.rdS 2).getLsbD 0 = false) ∧
    isl.executes g0 ∧ isl.core.islBnd = true ∧ sc.core.islBnd = false ∧ isl.core.prv = true ∧ isl.clean [1, 2, 3, 5] ∧ (isl.regs.rdS 1).getLsbD 0 = true ∧ (isl.regs.rdS 2).getLsbD 0 = false ∧
    (isl.regs.rdS 1).toNat < isl.core.scnt.toNat ∧ (isl.regs.rdS 2).setWidth 48 = isl.core.scnt ∧ isl.core.scnt.toNat < (isl.regs.rdS 3).toNat ∧
    (isl.regs.rdS 5).toNat < 2 ^ 32 ∧ isl.islandOf isl.cur = some ⟨1, 7, 2, [0, 65536], [], 0, [], false, false⟩ ∧ (0 : Word).toNat % 2 ^ 17 ∈ [0, 65536] ∧
    (islWait.coreAt 0).sync = some (islWait.coreAt 0).scnt ∧ (islWait.coreAt 0).ctx.st = .running ∧ (islWait.coreAt 0).ctx.wd < (islWait.coreAt 0).ctx.wdLimit ∧
    (islLate.coreAt 0).landing[0]? = some late ∧ late.arrived = false ∧ late.val = (islLate.coreAt 0).scnt ∧ (islLate.coreAt 0).captured = false ∧ (islLate.islandOf 0).isSome = true ∧
    (isl.coreAt 0).landing[0]? = some ⟨100, 0, 1, 31, 0, .vb4, 0, 0, [], 0, none, true⟩ ∧ (isl.coreAt 0).landing[1]? = some ⟨100, 0, 2, 0, 7, .none, 1, 0, [], 0, none, true⟩ ∧ (isl.coreAt 0).captured = false ∧
    100#48 = (isl.coreAt 0).scnt ∧ (∀ y ∈ (isl.coreAt 0).landing, y.val = 100 → (0 : BitVec 32).toNat ≤ y.src.toNat) ∧ (1 : BitVec 2).toNat < 2 ∧ (⟨1, 0⟩ : VVal).poisonAll = [] ∧
    ob.group? 1 = some grp ∧ grp.isls.find? (fun d => d.iid == 7) = some idesc ∧ (asks .isbind 7 0 0 [] ob).requested 0 .isbind askBind ∧ askBind.a.extractLsb' 0 16 = 7 ∧
    (asks .isbind 7 0 0 [] ob).bindRefused grp (some idesc) 0 = false ∧ (asks .isbind 7 0 0 [] isl).bindRefused grp (some idesc) 0 = true ∧
    (∀ i ∈ ob.seq.islands, ¬ (i.gid = 1 ∧ i.iid = 7)) ∧ grp.susp = none ∧ grp.islandCores idesc = [0, 65536] ∧
    (asks .isbind 7 0 0 [] bound1).bindRefused grp (some idesc) 0 = false ∧ bound1.padTooSmall [0, 65536] 0 = true ∧ bound1.padTooSmall [0, 65536] 2 = false ∧ (∀ k ∈ [0, 65536], (bound1.coreAt k).islBnd = false) ∧
    (asks .isbind 7 0 0 [] bound2).bindRefused grp (some idesc) 0 = false ∧ bound2.padTooSmall [0, 65536] 2 = false ∧ (bound2.coreAt 65536).islBnd = true ∧
    (∀ k ∈ grp.islandCores idesc, k < 2 ^ 17) ∧ (⟨1, 7, 65536, 4, false, 0⟩ : BindReq) ∈ bound1.seq.binds ∧ 0 + 3300000 ≤ bound1.cycle := by
  repeat' apply And.intro
  all_goals try unfold State.executes
  all_goals try unfold State.clean
  all_goals try unfold State.requested
  all_goals decide +kernel

/-- Context 2 is parked on a counter that has its value, and the watchdog of context 0 has run out. -/
def waiting2 : Machine.State := focus fun c =>
  (c.setCtxAt 2 { c.ctxAt 2 with st := .parked, wait := .ctr 15 0 }).setCtx { c.ctx with wd := 0x400000 }

/-- No context runs, and context 2 is READY. -/
def ready2 : Machine.State := focus fun c => (c.setCtxAt 2 { c.ctxAt 2 with st := .ready, wait := .tkt 3 }).setCtx { c.ctx with st := .free }

/-- A message waits at TASK channel 3 for a context. -/
def start3 : Machine.State := focus fun c =>
  { (bindCh 3 (bindingWord 0x40 0 false false 0 1 0) 0 c).setCtx { c.ctx with st := .free } with pend := [⟨0, 3, 5, 0xF4600, 8, 9, false, false, 0, 0, 1, 0⟩] }

/-- As `waiting2`, with a tile on its way to the twin. -/
def leaving : Machine.State := waiting2.setQuernAt 0 { waiting2.quernAt 0 with hand := some ⟨true, 0, 3⟩ }

theorem witness_Activations :
    (waiting2.coreAt 0).captured = false ∧ ((waiting2.coreAt 0).ctxAt 2).st = .parked ∧
    (waiting2.coreAt 0).met 2 (((waiting2.quernAt 0).view waiting2.cycle).held (isRunner 0)) ((waiting2.coreAt 0).ctxAt 2).wait = true ∧
    (waiting2.coreAt 0).ctx.st = .running ∧ (waiting2.coreAt 0).ctx.wdLimit ≤ (waiting2.coreAt 0).ctx.wd ∧
    (ready2.coreAt 0).maySelect = true ∧ (ready2.coreAt 0).candidates ≠ [] ∧ ¬ ((ready2.coreAt 0).ctxAt 2).wait.isChan = true ∧
    (start3.coreAt 0).maySelect = true ∧ (start3.coreAt 0).candidates ≠ [] ∧ (waiting2.quernAt 0).sends (isRunner 0) = false ∧
    (ready2.quernAt 0).sends (isRunner 0) = false ∧ (start3.quernAt 0).sends (isRunner 0) = false ∧
    (leaving.quernAt 0).sends (isRunner 0) = true ∧ (leaving.coreAt 0).ctx.st = .running ∧ (leaving.coreAt 0).ctx.wdLimit ≤ (leaving.coreAt 0).ctx.wd := by
  refine ⟨?_, ?_, ?_, ?_, ?_, ?_, List.ne_nil_of_length_pos ?_, ?_, ?_, List.ne_nil_of_length_pos ?_, ?_, ?_, ?_, ?_, ?_, ?_⟩
  all_goals decide +kernel

/-- The group of core 0 is being resumed. -/
def resumed2 : Machine.State := { ready2 with seq := { ready2.seq with resuming := [((ready2.coreAt 0).gid, none)] } }

theorem witness_Activations_resuming :
    (resumed2.quernAt (quernOf 0)).sends (isRunner 0) = false ∧ (∃ e ∈ resumed2.seq.resuming, e.1 = (resumed2.coreAt 0).gid) ∧ ready2.seq.resuming = [] := by decide +kernel

/-- Channels by mode: 0 TASK, 1 a member of join set 2, 2 LAND with ACT into 64 bytes, 3 LAND without, 4 FEED into queue 1 of context 1, 5 TASK that takes messages from outside. -/
def modes : Core := (inGroup fun c => bindCh 0 (bindingWord 0x40 0 false false 0 1 0) 0 (bindCh 1 (bindingWord 0x40 2 false false 0 0 1) 0 (bindCh 2 (bindingWord 0x40 0 false false 0 0 2) 0x14000080
    (bindCh 3 (bindingWord 0x40 0 false false 0 0 2) 0x04000080 (bindCh 4 (bindingWord 0x40 0 false true 1 0 3) 1 (bindCh 5 (bindingWord 0x40 0 true false 0 0 0) 0 c)))))).core

/-- n bytes for a channel, from inside the group or from outside. -/
def inc (ch : BitVec 6) (n : Nat) (out : Bool) : Incoming := ⟨ch, 1, List.replicate n (7, false), out, 1, none⟩

/-- Eight messages wait at each of the channels 0 and 2, and sixteen tokens at channel 1; FEED queue 1 of context 1 is full. -/
def full : Core :=
  let p (ch : BitVec 6) : Pend := ⟨0, ch, 5, 0xF4000, 8, 9, false, false, 0, 0, 1, 0⟩
  let c := { modes with pend := List.replicate 8 (p 0) ++ List.replicate 8 (p 2), tokens := List.replicate 16 ⟨1, 0, false, 0, 0⟩ }
  c.setCtxAt 1 { c.ctxAt 1 with fq1 := ⟨List.replicate 16 ⟨0, 0, 0, none⟩, [], 0⟩ }

theorem witness_MessageOffers :
    (flies (mess 1 0 []) (inGroup id)).delivers 0 (mess 1 0 []) 0 ∧ (mess 1 0 []).kind = 1 ∧
    (flies (mess 1 0 []) (focus id)).arrive 0 = some (mess 1 0 []) ∧ (mess 1 0 []).dmod = (focus id).modId ∧
    (flies (mess 1 0 []) (focus id)).serving? (pageOf ((mess 1 0 []).dst.toNat % 2 ^ 17)) = none ∧ (mess 1 0 []).home.isSome = true ∧
    modes.bound 6 = false ∧ (inc 0 8 true).outside = true ∧ modes.chX 0 = false ∧
    (modes.bound 0 = true ∧ modes.chMode 0 = 0 ∧ 512 < (inc 0 513 false).bytes.length ∧ (inc 0 512 false).bytes.length ≤ 512 ∧
      8 ≤ (full.pend.filter fun x => x.ch == 0).length ∧ (modes.pend.filter fun x => x.ch == 0).length < 8 ∧ (modes.freeRun 0 ((512 + 63) / 64)).isSome = true) ∧
    (modes.bound 5 = true ∧ modes.chMode 5 = 0 ∧ modes.chX 5 = true) ∧
    (modes.bound 1 = true ∧ modes.chMode 1 = 1 ∧ 8 < (inc 1 9 false).bytes.length ∧ (inc 1 8 false).bytes.length ≤ 8 ∧
      16 ≤ (full.tokens.filter fun t => t.ch == 1).length ∧ (modes.tokens.filter fun t => t.ch == 1).length < 16) ∧
    (modes.bound 2 = true ∧ modes.chMode 2 = 2 ∧ (modes.chDesc 2).getLsbD 28 = true ∧ 8 ≤ (full.pend.filter fun x => x.ch == 2).length ∧
      (modes.pend.filter fun x => x.ch == 2).length < 8 ∧ modes.bound 3 = true ∧ modes.chMode 3 = 2 ∧ (modes.chDesc 3).getLsbD 28 = false ∧
      (⟨8, 56⟩ : Progress).done < ({ inc 3 16 false with prog := some ⟨8, 56⟩ } : Incoming).bytes.length ∧ (inc 3 0 false).bytes.length ≤ ((inc 3 0 false).prog.getD ⟨0, 0⟩).done ∧
      (modes.chDesc 2).toNat % 2 ^ 20 + 64 * 2 ^ ((modes.chDesc 2).toNat / 2 ^ 20 % 16) ≤ 0xF0000) ∧ modes.chMode 0 ≠ 2 ∧
    (modes.bound 4 = true ∧ modes.chMode 4 = 3 ∧ (modes.chCtx 4) = 1 ∧ (inc 4 0 false).bytes.length = 0 ∧ (inc 4 65 false).bytes.length % 64 ≠ 0 ∧
      (inc 4 64 false).bytes.length ≠ 8 ∧ (inc 4 64 false).bytes.length % 64 = 0 ∧
      16 - (((full.ctxAt 1).feed 1).live.length + ((full.ctxAt 1).feed 1).kept.length) < 64 / 64 ∧
      (inc 4 8 false).bytes.length = 8 ∧ (inc 4 1088 false).bytes.length / 64 > 16 ∧ (modes.pend.filter fun x => x.ch == 4).length = 0 ∧
      16 - (((modes.ctxAt 1).feed 1).live.length + ((modes.ctxAt 1).feed 1).kept.length) ≠ 0 ∧
      (inc 4 1024 false).bytes.length / 64 ≤ 16 - (((modes.ctxAt 1).feed 1).live.length + ((modes.ctxAt 1).feed 1).kept.length)) := by
  repeat' apply And.intro
  all_goals decide +kernel

/-- The sequencer's message to channel 0 of core 0, sent by no core, refused n times: an arm's of 8 bytes or a record of 64. -/
def seqMsg (n : Nat) (len : Nat) : Msg := { mess 0x34 0 (List.replicate len (7, false)) with home := none, tries := n }

/-- It meets core 0, which has captured and whose sprig is sealed, or which has not; eight messages wait there or none. -/
def meets (m : Msg) (cap : Bool) (f : Core → Core) : Machine.State :=
  let s := flies m (inGroup fun c => f { bindCh 0 (bindingWord 0x40 0 false false 0 1 0) 0 c with captured := cap })
  if cap then s.modGroup 1 fun g => { g with susp := some ⟨.program, 0x10000, false, 0, none, 330000, none, 5, [0], [], [], 0, true⟩ } else s

/-- Eight messages wait at channel 0. -/
def eight (c : Core) : Core := { c with pend := List.replicate 8 ⟨0, 0, 5, 0xF4000, 8, 9, false, false, 0, 0, 1, 0⟩ }

/-- What is offered. -/
def seqInc (n : Nat) : Incoming := ⟨0, 0, List.replicate n (7, false), false, 1, none⟩

theorem witness_MessageOffers_sequencer :
    (meets (mess 1 0 []) true id).arrive 0 = some (mess 1 0 []) ∧ ((meets (mess 1 0 []) true id).serving? 0).any (fun g => g.susp.any Susp.isSealed) = true ∧
    ((meets (mess 1 0 []) true id).coreAt 0).captured = true ∧ (mess 1 0 []).prog = none ∧
    (∀ n ∈ [0, 15], ∀ l ∈ [8, 64], (meets (seqMsg n l) false id).arrive 0 = some (seqMsg n l) ∧ (seqMsg n l).kind = 0x34 ∧ (seqMsg n l).again ≤ (meets (seqMsg n l) false id).cycle ∧
      (meets (seqMsg n l) false id).serving? 0 = some grp ∧ ((meets (seqMsg n l) false id).coreAt 0).captured = false ∧ grp.gid = (seqMsg n l).grp) ∧
    (match ((meets (seqMsg 0 8) false id).coreAt 0).offer (seqInc 8) with | .took _ => true | _ => false) = true ∧
    (match ((meets (seqMsg 0 64) false eight).coreAt 0).offer (seqInc 64) with | .refused => true | _ => false) = true ∧
    (match ((inGroup id).coreAt 0).offer (seqInc 64) with | .failed _ => true | _ => false) = true ∧
    (∃ g, modes.freeRun 0 ((128 + 63) / 64) = some g) ∧ (⟨0, 64⟩ : Progress).done + 64 < 128 ∧ (128 : Nat) ≤ (⟨64, 64⟩ : Progress).done + 64 := by
  refine ⟨?_, ?_, ?_, ?_, ?_, ?_, ?_, ?_, ⟨0, ?_⟩, ?_, ?_⟩
  all_goals decide +kernel

/-- A store of two lines, before its first line and after it. -/
def twoLines : Msg := mess 2 0 (List.replicate 128 (7, false))

/-- Its first line is written. -/
def secondLine : Msg := { twoLines with prog := some ⟨64, 0⟩ }

theorem witness_RemoteRequests :
    (flies (mess 2 0 [(7, true)]) (inGroup id)).delivers 0 (mess 2 0 [(7, true)]) 0 ∧ (flies (mess 3 0 []) (inGroup id)).delivers 0 (mess 3 0 []) 0 ∧
    (flies (mess 4 0 []) (inGroup id)).delivers 0 (mess 4 0 []) 0 ∧ (flies (mess 5 0 []) (inGroup id)).delivers 0 (mess 5 0 []) 0 ∧
    (flies (mess 6 0 []) (inGroup id)).delivers 0 (mess 6 0 []) 0 ∧
    (flies twoLines (inGroup id)).delivers 0 twoLines 0 ∧ 0 + min (twoLines.payload.length - 0) (64 - (twoLines.laddr.toNat + 0) % 64) < twoLines.payload.length ∧
    (flies secondLine (inGroup id)).delivers 0 secondLine 0 ∧ (secondLine.prog.map Progress.done) = some 64 ∧
    secondLine.payload.length ≤ 64 + min (secondLine.payload.length - 64) (64 - (secondLine.laddr.toNat + 64) % 64) := by
  refine ⟨⟨?_, ?_, ?_, ?_, ?_⟩, ⟨?_, ?_, ?_, ?_, ?_⟩, ⟨?_, ?_, ?_, ?_, ?_⟩, ⟨?_, ?_, ?_, ?_, ?_⟩, ⟨?_, ?_, ?_, ?_, ?_⟩, ⟨?_, ?_, ?_, ?_, ?_⟩, ?_, ⟨?_, ?_, ?_, ?_, ?_⟩, ?_, ?_⟩
  all_goals decide +kernel

/-- An operation of core 0, with number 0, as it stands. -/
def anOp (st : OpSt) (rel : Option (BitVec 32)) (dst : Word) (tkt : Option (BitVec 16)) : Op :=
  { id := 0, ctx := 0, op := 0xA0, fn := 0, tkt := tkt, cls := 1, kind := 1, ch := 3, dst := dst, rel := rel, laddr := 0, opa := 0, opb := 0, opc := 0, psn := false, ty := .none, payload := [],
    prv := false, committed := true, st := st, resend := false, since := 0, after := Prereq.none, off := 0, size := 64, pc := 0, word := 0, owes := none }

/-- The operation is in the hold buffer of core 0, and an answer of this kind is on its way. -/
def answered (o : Op) (kind : BitVec 6) (aux : BitVec 12) : Machine.State :=
  flies { mess kind 0 [] with home := some 0, aux := aux } { ob.setCore { ob.core with ops := [o], slots := [(3, ⟨3, 3, false, 0, false⟩)] } with cycle := 64 }

/-- The answer. -/
def answer (kind : BitVec 6) (aux : BitVec 12) : Msg := { mess kind 0 [] with home := some 0, aux := aux }

/-- The acknowledgement of a stream's store. -/
def storeDone : Msg := { mess 0x10 0 [] with home := some 0, why := .store 0 0 }

/-- A stale operation in the hold buffer: its page's entry is as it was, has another generation, or is gone. -/
def staleAt (rel : BitVec 32) (dst : Word) : Machine.State := answered (anOp .stale (some rel) dst none) 0x3F 0

theorem named_stale : NamedFrom ((staleAt 0 0).coreAt 0) 0 (((staleAt 0 0).coreAt 0).pageLookup 0).1 0 ∧
    NamedFrom ((staleAt 0 0x1000000).coreAt 0) 0 (((staleAt 0 0x1000000).coreAt 0).pageLookup 0).1 0 :=
  ⟨⟨by decide +kernel, by decide +kernel, by decide +kernel, by decide +kernel, rfl, by decide +kernel⟩,
    ⟨by decide +kernel, by decide +kernel, by decide +kernel, by decide +kernel, rfl, by decide +kernel⟩⟩

/-- A store of stream command 5 that was recorded as a token and goes again. -/
def owing : Op := { anOp .sent none 0 none with owes := some 5 }

/-- The answer to a GET, of two lines. -/
def twoBack : Msg := { answer 0x11 0 with payload := List.replicate 128 (7, false) }

theorem witness_Answers :
    (answer 0x10 0).why = .op 0 ∧ (answered (anOp .sent none 0 (some 3)) 0x10 0).returns 0 (answer 0x10 0) 0 0x10 ∧
    (¬ ∃ o ∈ ((answered (anOp .sent none 0 none) 0x10 0).coreAt 0).ops, o.id = 0 ∧ o.tkt.isSome = true) ∧
    (∃ o ∈ ((answered (anOp .sent none 0 (some 3)) 0x10 0).coreAt 0).ops, o.id = 0 ∧ o.tkt.isSome = true) ∧
    ((answered (anOp .sent none 0 (some 3)) 0x10 0).coreAt 0).heldTicket 3 = some ⟨3, 3, false, 0, false⟩ ∧
    (answered (anOp .sent none 0 none) 0x11 0).returns 0 (answer 0x11 0) 0 0x11 ∧
    ((answered (anOp .sent none 0 none) 0x11 0).coreAt 0).ops.find? (fun o => o.id == 0) = some (anOp .sent none 0 none) ∧
    (answered (anOp .sent none 0 none) 0x13 0).returns 0 (answer 0x13 0) 0 0x13 ∧
    (answered (anOp .sent none 0 none) 0x14 0).returns 0 (answer 0x14 0) 0 0x14 ∧ (anOp .sent none 0 none).rel = none ∧ (anOp .sent (some 0) 0 none).rel.isSome = true ∧
    (answered (anOp .sent none 0 none) 0x15 Cause.nochn.code).returns 0 (answer 0x15 Cause.nochn.code) 0 0x15 ∧ (anOp .sent none 0 none).tkt = none ∧
    (answer 0x15 Cause.nochn.code).aux = Cause.nochn.code ∧
    ((answered (anOp .refused none 0 none) 0x3F 0).coreAt 0).ops.find? (fun o => o.id == 0) = some (anOp .refused none 0 none) ∧
    ((answered (anOp .refused none 0 none) 0x3F 0).coreAt 0).captured = false ∧ 0 + 64 ≤ (answered (anOp .refused none 0 none) 0x3F 0).cycle ∧
    ((staleAt 0 0).coreAt 0).ops.find? (fun o => o.id == 0 && o.st == .stale && decide (o.since + 64 ≤ (staleAt 0 0).cycle)) = some (anOp .stale (some 0) 0 none) ∧
    (0 : Word).extractLsb' 24 8 ≠ (0x1000000 : Word).extractLsb' 24 8 ∧
    ((staleAt 0x10000 0).coreAt 0).relToNamed 0x10000 = none ∧
    (staleAt 0 0).flight[0]? = some (answer 0x3F 0) ∧ listedKind (answer 0x3F 0).kind = false ∧
    storeDone.why = .store 0 0 ∧ (flies storeDone ob).returns 0 storeDone 0 0x10 ∧ (anOp .stale (some 0x10000) 0 none).owes = none ∧
    (∀ o ∈ ((answered (anOp .sent none 0 (some 3)) 0x10 0).coreAt 0).ops, o.id = 0 → o.owes = none) ∧
    ((answered owing 0x10 0).coreAt 0).ops.filter (fun o => o.id == 0) = [owing] ∧ owing.owes = some 5 ∧ owing.tkt = none ∧ (answered owing 0x10 0).returns 0 (answer 0x10 0) 0 0x10 ∧
    (answered (anOp .sent none 0 none) 0x11 0).returns 0 (answer 0x11 0) 0 0x11 ∧ (answer 0x11 0).payload.length ≤ 0 ∧
    (flies twoBack (answered (anOp .sent none 0 none) 0x11 0)).returns 0 twoBack 0 0x11 ∧ twoBack.why = .op 0 ∧
    0 + min (twoBack.payload.length - 0) (64 - (twoBack.back.toNat + 0) % 64) < twoBack.payload.length := by
  repeat' apply And.intro
  all_goals decide +kernel

/-- A unit with a body, of core 0 at its own port. -/
def unit (step : Nat) (body : CBody) : CUnit := ⟨1, 0, step, 0, 0, 5, 0, body, 1, [0], 0⟩

theorem witness_CombineArithmetic :
    (∀ x ∈ [unit 0 (.fixed (List.replicate 32 (2 ^ 31)) false false)], ∃ i t, x.body = .fixed ((fun _ => List.replicate 32 (2 ^ 31)) x) i t ∧ (List.replicate 32 ((2 : Int) ^ 31)).length = 32) ∧
    (∀ x ∈ [unit 0 (.poison 5)], ∀ r, x.body ≠ .raw r) ∧ (∃ x ∈ [unit 0 (.poison 5)], ∃ o, x.body = .poison o) ∧
    (∀ x ∈ [(-2 : Int) ^ 31, 2 ^ 31 - 1], -2 ^ 31 ≤ x ∧ x ≤ 2 ^ 31 - 1) ∧ (∃ x ∈ [(2 : Int) ^ 31], x < -2 ^ 31 ∨ 2 ^ 31 - 1 < x) := by
  refine ⟨fun x hx => ⟨false, false, ?_, by simp⟩, fun x hx r => ?_, ⟨_, List.mem_singleton.2 rfl, 5, rfl⟩, by decide, by decide⟩
  · rw [List.mem_singleton.1 hx]; rfl
  · rw [List.mem_singleton.1 hx]; simp [unit]

/-- The tree of blocks: OPC 12, TYPE vb8. -/
def descB : List Word := [0x5C000, 0, 3, 0, 1, 0, 0, 0]

/-- The quorum tree, with a deadline of 1 µs. -/
def descQ : List Word := [0x230000, 0, 3, 0, 1, 1, 0, 0]

/-- A tree that joins module 9. -/
def descX : List Word := [0x130000, 0, 3, 0, 1, 0, 9, 0]

/-- Core 0 has its own port as the only input of the entry. -/
def entL : Entry := { ent with chm := 0x20, held := [unit 0 (.raw (List.replicate 64 (0, false)))], since := [(0, 0)] }

/-- A tree with this descriptor, at step 1 of which one unit is held. -/
def treeOf (d : List Word) : Tree := { tree with desc := d, entries := [entL], qsince := some 0, joins := [(9, 1)] }

/-- The combine plane holds these units, one request for a new scale, one commit of it on its way to core 1, and one result; 1 µs has passed. -/
def plane (t : Tree) (us : List CUnit) (q : CRnm) (x : CDown) : Machine.State :=
  let s := { ob with trees := [t], cunits := us, rnqs := [q], rnms := [{ q with router := 1 }], downs := [x], cycle := 3300 }
  s.setCore { bindCh 3 (bindingWord 0x40 0 false false 0 0 0) 0 (s.core.setTreeMem 0 { s.core.treeMem 0 with issued := 1, opens := [⟨0, 0x100, true, 1, 0⟩] }) with
    ops := [anOp .sent none 0 (some 1)] }

/-- As that, but the member asked for its result as a message. -/
def planeMsg (t : Tree) (x : CDown) : Machine.State :=
  let s := plane t [] ⟨1, 0, 0, 0, 0, 0⟩ x
  s.setCore (s.core.setTreeMem 0 { s.core.treeMem 0 with opens := [⟨0, 0x100, false, 1, 0⟩] })

/-- A request of the current step and scale. -/
def rq (step : Nat) (scale : BitVec 8) : CRnm := ⟨1, 0, step, 0, scale, 0⟩

/-- A part of a result for core 0, or a notice. -/
def res (pos : Nat) (bs : Option (List MByte)) : CDown := ⟨1, 0, 0, pos, 0, bs, [], 1, [0], [5], [], 0⟩

/-- A tree of two positions whose results go to channel 3. -/
def desc2 : List Word := [0x3030000, 0, 3, 0, 2, 0, 0, 0]

/-- The tree is at its second step. -/
def later (t : Tree) : Tree := { t with step := 1 }

/-- Every position of the quorum tree is summed. -/
def summed : Tree := { treeOf descQ with sums := [unit 0 (.raw (List.replicate 64 (0, false)))] }

/-- Messages of module 9 about its trees have come in. -/
def laned (ms : List LaneMsg) : Machine.State := { plane (treeOf descX) [] (rq 0 0) (res 0 none) with laneIn := ms }

/-- 64 bytes. -/
def line64 : List MByte := List.replicate 64 (7, false)

theorem witness_CombinePlane_units :
    let s := plane (treeOf descB) [unit 0 (.raw []), unit 0 (.raw [])] (rq 0 0) (res 0 none)
    s.treeAt 0 0 (treeOf descB) entL ∧ s.cunits[0]? = some (unit 0 (.raw [])) ∧ descOpc descB = 12 ∧ (treeOf descB).step = 0 ∧ entL.step = 0 ∧
    (entL.held.filter fun x => x.port == 5).length < 2 ∧ descTy descB ≠ .vb16 ∧
    (s.takeUnit (treeOf descB) entL (unit 0 (.raw []))).stamp = entL.sc.getD 0 0 ∧ (s.takeUnit (treeOf descB) entL (unit 0 (.raw []))).att = entL.att ∧
    (s.takeUnit (treeOf descB) entL { unit 0 (.fixed [] false false) with stamp := 9, port := 1 }).stamp ≠ entL.sc.getD 0 0 ∧
    (plane (treeOf desc) [unit 0 (.raw [])] (rq 0 0) (res 0 none)).treeAt 0 0 (treeOf desc) entL ∧ descOpc desc ≠ 12 ∧
    (plane (later (treeOf desc)) [] (rq 0 0) (res 0 none)).treeAt 0 0 (later (treeOf desc)) entL ∧ (unit 0 (.raw [])).step < (later (treeOf desc)).step ∧
    ({ unit 0 (.raw []) with port := 1 } : CUnit).port ≠ 5 ∧ ({ plane (later (treeOf desc)) [] (rq 0 0) (res 0 none) with downs := [] } : Machine.State).owes (later (treeOf desc)) 0 0 = false ∧
    s.rnqs[0]? = some (rq 0 0) ∧ s.tree? 0 = some (treeOf descB) ∧ (treeOf descB).entries.find? (fun e => e.router == (treeOf descB).root) = some entL ∧ entL.par ≠ 6 ∧
    entL.sc.getD 0 0 = (rq 0 0).scale ∧ entL.sc.getD 0 0 ≠ (rq 0 9).scale ∧
    s.rnms[0]? = some { rq 0 0 with router := 1 } ∧ ((nextHop 1 (treeOf descB).root).map Prod.snd).getD (treeOf descB).root = 0 ∧ (∀ x ∈ s.rnms, x.router ≠ 0) ∧
    (∀ e ∈ (treeOf descB).entries, e.router = 1 → 0 ≤ e.step) := by
  repeat' apply And.intro
  all_goals try unfold State.treeAt
  all_goals decide +kernel

theorem witness_CombinePlane_results :
    (∀ x ∈ [res 0 none, res 0 (some line64)], (plane (treeOf desc) [] (rq 0 0) x).downs[0]? = some x ∧ 5 ∈ x.todo ∧ (plane (treeOf desc) [] (rq 0 0) x).treeAt 0 0 (treeOf desc) entL ∧
      ((plane (treeOf desc) [] (rq 0 0) x).coreAt 0).captured = false ∧ x.again ≤ 3300 ∧
      ((plane (treeOf desc) [] (rq 0 0) x).coreAt 0).openFor 0 0 = some ⟨0, 0x100, true, 1, 0⟩) ∧ entL.hand = none ∧ line64.length = 64 ∧
    descParts desc = 1 ∧ descParts desc2 = 2 ∧
    (∀ k ∈ [0, 1], (planeMsg (treeOf desc2) (res k (some line64))).treeAt 0 0 (treeOf desc2) entL ∧
      ((planeMsg (treeOf desc2) (res k (some line64))).coreAt 0).openFor 0 0 = some ⟨0, 0x100, false, 1, 0⟩) ∧
    (match ((planeMsg (treeOf desc2) (res 1 (some line64))).coreAt 0).offer ((planeMsg (treeOf desc2) (res 1 (some line64))).resultMsg (treeOf desc2) entL line64) with
      | .took _ => true | _ => false) = true ∧
    (plane (treeOf descQ) [] (rq 0 0) (res 0 none)).treeAt 0 0 (treeOf descQ) entL ∧ (treeOf descQ).gid = 1 ∧ descQrm descQ = true ∧ NMap.get? entL.since 0 = some 0 ∧
    (plane (treeOf descQ) [] (rq 0 0) (res 0 none)).upFull (treeOf descQ) entL = false ∧ 0 + 3300 ≤ (plane (treeOf descQ) [] (rq 0 0) (res 0 none)).cycle ∧
    summed.qsince = some 0 ∧ descDln descQ ≠ 0 ∧ 0 + 3300 * descDln descQ ≤ (plane summed [] (rq 0 0) (res 0 none)).cycle ∧
    (∀ p, p < descPositions summed.desc → ∃ u ∈ summed.sums, u.pos = p) ∧ (∀ k ∈ summed.members, ((plane summed [] (rq 0 0) (res 0 none)).coreAt k).captured = false) := by
  repeat' apply And.intro
  all_goals try unfold State.treeAt
  all_goals decide +kernel

theorem witness_CombinePlane_lanes :
    let s := laned [LaneMsg.to 9 .join 0, LaneMsg.to 9 .joined 0, LaneMsg.to 9 .rnm 0, LaneMsg.to 9 .join 1]
    let u := laned [LaneMsg.to 9 .rnq 0]
    s.laneIn[0]? = some (LaneMsg.to 9 .join 0) ∧ s.laneIn[1]? = some (LaneMsg.to 9 .joined 0) ∧ s.laneIn[2]? = some (LaneMsg.to 9 .rnm 0) ∧
    (∀ x ∈ s.laneIn.take 2, x.kind.combines = true → ¬ (x.peer = 9 ∧ x.tid = 0)) ∧ s.laneIn[3]? = some (LaneMsg.to 9 .join 1) ∧ s.tree? 1 = none ∧ s.tree? 0 = some (treeOf descX) ∧
    u.laneIn[0]? = some (LaneMsg.to 9 .rnq 0) ∧ (LaneMsg.to 9 .rnq 0).step = (treeOf descX).step ∧ (LaneMsg.to 9 .rnq 0).stamp = entL.sc.getD 0 0 ∧
    ({ LaneMsg.to 9 .part 0 with step := 1 } : LaneMsg).step ≠ (treeOf descX).step ∧
    descXm descX = true ∧ descRmod descX = 9 ∧ (9 : BitVec 20) ≠ s.modId ∧ (∃ k ∈ (treeOf descX).members, 0 < ((s.coreAt k).treeMem 0).issued) ∧
    descXm [0x130000, 0, 3, 0, 1, 0, 0, 0] = true ∧ descRmod [0x130000, 0, 3, 0, 1, 0, 0, 0] = ob.modId ∧
    descXm desc = false ∧ (∃ j ∈ (treeOf desc).joins, j.1 = 9) := by
  repeat' apply And.intro
  all_goals decide +kernel

/-- A tree of which this module holds the root. -/
def descJ : List Word := [0x130000, 0, 3, 0, 1, 0, 0, 0]

/-- A message of module 9 about the tree 0. -/
def fromNine (k : LaneKind) (d : List Word) : LaneMsg := { LaneMsg.to 9 k 0 with desc := d }

/-- The root's tree has a step to come, at which module 9 is a part; its messages have come in. -/
def rooted (t : Tree) (ms : List LaneMsg) : Machine.State := { ob with trees := [t], laneIn := ms }

/-- The root entry waits for the result of an earlier step. -/
def behindT : Tree := { treeOf descJ with step := 1, entries := [{ entL with held := [] }] }

/-- The port of core 0 is in the midst of another message. -/
def portBusy : Machine.State := flies { mess 1 0 (List.replicate 128 (7, false)) with prog := some ⟨64, 0⟩ } ob

/-- A sum that 32 bits do not hold. -/
def wideT (sc : BitVec 8) : Tree :=
  { summed with desc := [0x25C000, 0, 3, 0, 1, 1, 0, 0], entries := [{ entL with sc := [sc] }], sums := [unit 0 (.fixed (2 ^ 31 :: List.replicate 31 0) false false)] }

theorem witness_CombinePlane_spanning :
    let s := rooted (treeOf descJ) [fromNine .join descJ, fromNine .part [], fromNine .abort []]
    s.laneIn[0]? = some (fromNine .join descJ) ∧ s.tree? 0 = some (treeOf descJ) ∧ descXm descJ = true ∧ descRmod descJ = s.modId ∧ (treeOf descJ).step = 0 ∧
    (∀ k ∈ (treeOf descJ).members, ((s.coreAt k).treeMem 0).issued = 0) ∧ descForm descJ = descForm (fromNine .join descJ).desc ∧
    ¬ (descForm (treeOf descJ).desc = descForm [0x10000] ∧ descOpc (treeOf descJ).desc = descOpc [0x10000] ∧ descTy (treeOf descJ).desc = descTy [0x10000] ∧ descSlen (treeOf descJ).desc = descSlen [0x10000]) ∧
    (treeOf descJ).joins.findIdx? (fun j => j.1 == 9) = some 0 ∧ (9 : BitVec 20) ∉ (treeOf descJ).gone ∧ (fromNine .part []).step = (treeOf descJ).step ∧ entL.step = 0 ∧ (fromNine .part []).att = entL.att ∧
    descOpc descJ ≠ 12 ∧ (treeOf descJ).has entL (8 + 0) 0 = false ∧ (treeOf descJ).isJoin s.modId = false ∧ (treeOf descX).isJoin s.modId = true ∧ (fromNine .abort []).step ≤ (treeOf descJ).step ∧
    ({ fromNine .part [] with step := 1 } : LaneMsg).step = behindT.step ∧ entL.step ≠ 1 ∧ (∀ p < 9, behindT.has { entL with held := [] } p 0 = false) ∧
    portBusy.portHeld 0 0 = true ∧ (plane (treeOf desc) [] (rq 0 0) (res 0 none)).portHeld 0 0 = false ∧
    ((∃ n i b, (unit 0 (.fixed (2 ^ 31 :: List.replicate 31 0) false false)).body = .fixed n i b ∧ ∃ x ∈ n, x < -2 ^ 31 ∨ 2 ^ 31 - 1 < x) ∧ ((wideT 9).rootScales.getD 0 0).toNat < 254) ∧
    ¬ ((wideT 254).rootScales.getD 0 0).toNat < 254 ∧ ¬ (descXm descJ = true ∧ descRmod descJ = 9 ∧ (9 : BitVec 20) ≠ s.modId) ∧ (∃ j ∈ (treeOf descJ).joins, j.1 = 9) := by
  refine ⟨?_, ?_, ?_, ?_, ?_, ?_, ?_, ?_, ?_, ?_, ?_, ?_, ?_, ?_, ?_, ?_, ?_, ?_, ?_, ?_, ?_, ?_, ?_, ⟨⟨_, _, _, rfl, 2 ^ 31, ?_, ?_⟩, ?_⟩, ?_, ?_, ?_⟩
  all_goals decide +kernel

/-- Queue 3 holds as many records as it can, of which the first says nothing, and its fault log is full. -/
def fullQ : Machine.State := sc.setQueue 3 { LQueue.empty with recs := List.replicate 256 ⟨List.replicate 8 0, none, none, none⟩, log := List.replicate 256 [] }

/-- One place is left. -/
def almostQ : Machine.State := fullQ.setQueue 3 { fullQ.queueAt 3 with recs := List.replicate 255 ⟨[], none, none, none⟩ }

theorem witness_RecordSlots :
    (6 : BitVec 3) ≠ 7 ∧ (sc.queueAt 3).recs.length < 256 ∧ (almostQ.queueAt 3).recs.length = 255 ∧
    256 ≤ (fullQ.queueAt 3).recs.length := by decide +kernel

/-- A container of 128 bytes: one page, no image bytes, channel 0. -/
def container : List Byte :=
  natBytes 0x156580001 8 ++ natBytes 0 8 ++ natBytes 0 8 ++ natBytes 1 8 ++
    natBytes 0x3541eb2a5c05f83e54541b92b988a1fd252c995d538e254612a1ac0dd8a4e97a 32 ++ natBytes 1 64

/-- Memory of 1 GiB at port 0 is mapped to address space 5, one to one; a container at 0x3000 and one that is none at 0x4000; the module runs. -/
def mm (s : Machine.State) : Machine.State :=
  { s with boot := { s.boot with phase := 4 }
           edge := { Edge.reset with roles := [(0, 2)], sets := [(0, (0x8000010000000000, 0x1000, 0))], xlat := [(0, [⟨5, 3, 0, 0, true⟩])], mem := Mem.putBytes [] 0x3000 container } }

/-- A record of address space 5 that asks for an image and a dependence. -/
def recFor (img dep : Word) : List Word := [0x0005000000000000 ||| img, dep, 0, 0, 0, 0, 0, 0]

/-- The head of queue 2. -/
def headed (ws : List Word) (s : Machine.State) : Machine.State := s.setQueue 2 { LQueue.empty with recs := [⟨ws, none, none, none⟩] }

/-- The group asks to launch a record. -/
def askLaunch : SeqReq := ⟨.launch, 0, 1, 3, 0, 3, 0, List.replicate 8 0, false, here, false, false, none⟩

theorem image_ok : (parseImage container).isSome = true ∧ ((mm sc).fetchImage 5 0x3000).map Prod.snd = some container := by decide +kernel

/-- A group still has the page that is to be freed for queue 2. -/
def noRoom (s : Machine.State) : Machine.State := { s with seq := { s.seq with groups := [grp], making := some (2, [0]) } }

/-- The head passes its checks now: what is then known of its dependence, and whether its pages can be found. -/
def heads (s : Machine.State) (ws : List Word) (dep : Option Bool) (now : Bool) : Bool :=
  recOk ws && (s.fetchImage (recAsid ws) (recImg ws)).any fun x => (parseImage x.2).any fun img =>
    let u := x.1.modHead 2 fun h => { h with image := some x.2, dep := if recDept ws = 0 ∨ recDept ws ≤ (x.1.eventAt (recDepe ws)).count then some true else none }
    x.1.everPlaced img.sct img.pages img.w img.h && (recDept ws == 0 || !(x.1.eventAt (recDepe ws)).fail) && (u.queueAt 2).recs.head?.any (fun h => h.dep == dep) &&
      (u.placeHead 2 img.sct img.pages img.w img.h).isSome == now

/-- The head has passed its checks before. -/
def passed (dep : Option Bool) : Machine.State := mm (sc.setQueue 2 { LQueue.empty with recs := [⟨recFor 0x3000 1, some container, dep, none⟩] })

theorem witness_LaunchRequests :
    (asks .launch 0 3 0 (List.replicate 8 0) ob).requested 0 .launch askLaunch ∧ (asks .launch 0 3 0 (List.replicate 8 0) ob).group? askLaunch.gid = some grp ∧
    ((asks .launch 0 3 0 (List.replicate 8 0) ob).queueAt 3).recs.length < 256 ∧ 256 ≤ ((asks .launch 0 3 0 (List.replicate 8 0) (fullQ)).queueAt 3).recs.length ∧
    (List.replicate 8 (0 : Word)).length = 8 ∧ grp.pages.length ≤ 1024 ∧ (List.replicate 0 (0 : Byte)).length ≤ 0xF0000 ∧ (63 : Nat) < 64 := by
  repeat' apply And.intro
  all_goals try unfold State.requested
  all_goals decide +kernel

theorem witness_Launching :
    (mm (headed (recFor 0x3000 0) sc)).boot.phase = 4 ∧ ((mm (headed (recFor 0x3000 0) sc)).queueAt 2).recs.head? = some ⟨recFor 0x3000 0, none, none, none⟩ ∧
    recOk (recFor 0x3000 0) = true ∧ recOk [1] = false ∧ recAsid (recFor 0x3000 0) = 5 ∧ recImg (recFor 0x3000 0) = 0x3000 ∧ ((mm sc).fetchImage 6 0x3000).isNone = true ∧
    ((mm sc).fetchImage 5 0x4000).any (fun r => (parseImage r.2).isNone) = true ∧
    recDept (recFor 0x3000 0) = 0 ∧ recDept (recFor 0x3000 1) ≠ 0 ∧ (((mm sc).setEvent 0 ⟨1, true⟩).eventAt 0).fail = true ∧
    heads (mm (headed (recFor 0x3000 0) sc)) (recFor 0x3000 0) (some true) true = true ∧ heads (mm (headed (recFor 0x3000 1) sc)) (recFor 0x3000 1) none true = true ∧
    heads ((mm (headed (recFor 0x3000 1) sc)).setEvent 0 ⟨1, false⟩) (recFor 0x3000 1) (some true) true = true ∧
    heads (mm (headed (recFor 0x3000 0) (noRoom sc))) (recFor 0x3000 0) (some true) false = true ∧ ((mm (headed (recFor 0x3000 0) (noRoom sc))).queueAt 2).why = 0 ∧
    (∀ e ∈ (mm (headed (recFor 0x3000 0) sc)).seq.resumes, e.queue = 2 → e.moved = some 2) ∧ (∀ j : BitVec 4, j.toNat < 2 → (mm (headed (recFor 0x3000 0) sc)).headReady j = false) := by
  repeat' apply And.intro
  all_goals decide +kernel

theorem witness_Launching_checked : ∃ img, ∀ dep, ∃ r h,
    (passed dep).boot.phase = 4 ∧ ((passed dep).queueAt 2).recs.head? = some r ∧ (passed dep).checked 2 r (passed dep) container img ∧
    ((passed dep).queueAt 2).recs.head? = some h ∧ h.dep = dep ∧ r.image.isSome = true := by
  obtain ⟨img, hi⟩ := Option.isSome_iff_exists.1 image_ok.1
  exact ⟨img, fun dep => ⟨_, _, rfl, rfl, .inl ⟨rfl, hi, rfl⟩, rfl, rfl, rfl⟩⟩

theorem witness_Launching_dependence :
    ((passed none).eventAt 0).fail = false ∧ ((passed none).eventAt 0).count < recDept (recFor 0x3000 1) ∧ (((passed none).setEvent 0 ⟨1, true⟩).eventAt 0).fail = true ∧
    recDept (recFor 0x3000 1) ≤ (((passed none).setEvent 0 ⟨1, false⟩).eventAt 0).count ∧ recDepe (recFor 0x3000 1) = 0 := by
  repeat' apply And.intro
  all_goals decide +kernel

/-- An arm of core 0 for event 7 at 10. -/
def arm7 : Arm := ⟨0, 1, 3, 7, 10⟩

/-- Core 0 has as many arms as it may have. -/
def armed : Machine.State := { ob with seq := { ob.seq with arms := List.replicate 16 ⟨0, 1, 9, 8, 1⟩ } }

/-- A request about event 7. -/
def askEv (op : SeqOp) (b : Word) : SeqReq := ⟨op, 0, 1, 3, 7, b, 0, [], false, here, false, false, none⟩

theorem witness_Events :
    (asks .evsig 7 5 0 [] ob).requested 0 .evsig (askEv .evsig 5) ∧ (asks .evarm 7 0x30000000A 0 [] ob).requested 0 .evarm (askEv .evarm 0x30000000A) ∧
    (asks .evarm 7 0x30000000A 0 [] ob).seqReq? 0 .evsig = none ∧ ¬ arm7.thr ≤ (ob.eventAt 7).count ∧
    (asks .evarm 7 0x300000000 0 [] ob).requested 0 .evarm (askEv .evarm 0x300000000) ∧ (0 : BitVec 32) ≤ (ob.eventAt 7).count ∧
    16 ≤ ((armed.seq.arms.filter fun x => !(x.core == 0 && x.ch == 3)).filter fun x => x.core == 0).length ∧
    ¬ (4096 ≤ (ob.seq.arms.filter fun x => !(x.core == 0 && x.ch == 3)).length ∨ 16 ≤ ((ob.seq.arms.filter fun x => !(x.core == 0 && x.ch == 3)).filter fun x => x.core == 0).length) ∧
    (asks .evrd 7 0 0 [] ob).requested 0 .evrd (askEv .evrd 0) ∧
    (∀ x ∈ ob.edge.msix, x.1 ≠ 0 → x.2.getLsbD 63 = false) ∧ (0x8000000700000000 : Word).getLsbD 63 = true ∧
    (0x8000000700000000 : Word).extractLsb' 0 32 ≤ (ob.eventAt 7).count ∧ ¬ (0x8000000700000001 : Word).extractLsb' 0 32 ≤ (ob.eventAt 7).count := by
  repeat' apply And.intro
  all_goals try unfold State.requested
  all_goals decide +kernel

/-- A group that has its fault channel, channel 0 (FCV = 1), and has ended or not. -/
def grpF (ended : Option (BitVec 12)) : Group := { grp with words := [0x0005000000000000, 0, 0x10000000, 0, 0, 0, 0, 0], ended := ended }

/-- Its report, refused so often already. -/
def rep (tries : Nat) : Report := ⟨1, List.replicate 8 0, 0, tries, 0⟩

/-- It is on its way; channel 0 of core 0 is bound, and holds eight messages or none. -/
def posted (ended : Option (BitVec 12)) (tries n : Nat) : Machine.State :=
  let s := inGroup fun c => { bindCh 0 (bindingWord 0x40 0 false false 0 0 0) 0 c with pend := List.replicate n ⟨0, 0, 5, 0xF4000, 8, 9, false, false, 0, 0, 1, 0⟩ }
  { s with seq := { s.seq with groups := [grpF ended] }, posts := [rep tries] }

/-- What is offered to the channel. -/
def offered : Incoming := ⟨0, 0, Machine.wordBytes (List.replicate 8 0), false, 1, none⟩

/-- The group is being suspended and its first core has captured; or it is sealed. -/
def away (isSealed : Bool) : Group :=
  { grpF none with susp := some ⟨.program, 0x10000, false, 0, none, 330000, none, 5, [0], [], [], 0, isSealed⟩ }

/-- The report meets the captured core. -/
def postedAway : Machine.State :=
  let s := (posted none 0 0).upd 0 fun c => { c with captured := true }
  { s with seq := { s.seq with groups := [away false] } }

/-- The group is idle; `inProbe` has its first wave; `endedG` has ended. -/
def idleG : Machine.State := { (inGroup fun c => c.setCtx { c.ctx with st := .free }) with cycle := 1920 }

/-- The first wave found nothing on its way. -/
def inProbe : Machine.State := idleG.modGroup 1 fun g => { g with probe := some (0, 0) }

/-- A core of the group has something to do. -/
def busyG : Machine.State := (inGroup id).modGroup 1 fun g => { g with probe := some (0, 0) }

theorem witness_GroupEndAndReports :
    (posted none 0 0).posts[0]? = some (rep 0) ∧ (rep 0).again ≤ (posted none 0 0).cycle ∧ (∀ x ∈ (posted none 0 0).posts.take 0, ¬ (x.gid = 1 ∧ x.src = 0)) ∧ (posted none 0 0).group? 1 = some (grpF none) ∧ (posted (some 0) 0 0).group? 1 = some (grpF (some 0)) ∧
    ¬ (grpF (some 0)).ended = none ∧ (grpF none).ended = none ∧ recFcv (grpF none).words = true ∧ ((posted none 0 0).coreAt (grpF none).rel0).bound (recFch (grpF none).words).toNat = true ∧
    ((posted none 0 0).coreAt (grpF none).rel0).chMode (recFch (grpF none).words).toNat = 0 ∧ ((posted none 0 0).coreAt (grpF none).rel0).captured = false ∧
    (match ((posted none 0 0).coreAt 0).offer offered with | .took _ => true | _ => false) = true ∧
    (match ((posted none 15 8).coreAt 0).offer offered with | .refused => true | _ => false) = true ∧ 15 ≤ 15 ∧
    postedAway.posts[0]? = some (rep 0) ∧ postedAway.group? 1 = some (away false) ∧ (postedAway.coreAt (away false).rel0).captured = true ∧
    (away false).susp = some ⟨.program, 0x10000, false, 0, none, 330000, none, 5, [0], [], [], 0, false⟩ ∧ (away false).rel0 ∈ [0] ∧
    (away true).ended = none ∧ (away true).susp = some ⟨.program, 0x10000, false, 0, none, 330000, none, 5, [0], [], [], 0, true⟩ ∧ grpF none ∈ (posted none 0 0).seq.groups ∧
    (∀ a ∈ sc.advances, ∀ p ∈ a.pages, p ∉ (away true).pages) ∧ (∀ d ∈ sc.seq.debts, d.gid ≠ 1) ∧ sc.seq.resumes = [] ∧
    (sc.queueAt 3).log.length < 256 ∧ (fullQ.queueAt 3).log.length = 256 ∧
    idleG.group? 1 = some grp ∧ grp.open' = true ∧ (idleG.wave grp).1 = true ∧ (idleG.wave grp).2.1 = (idleG.wave grp).2.2 ∧
    inProbe.group? 1 = some { grp with probe := some (0, 0) } ∧ (inProbe.wave grp).1 = true ∧ (inProbe.wave grp).2 = (0, 0) ∧
    (busyG.wave grp).1 = false ∧ (posted (some 0) 0 0).storesOut (grpF (some 0)) = false ∧ sc.group? 1 = none ∧
    ((idleG.setPage 0 ⟨none, false, true, 0, none⟩).pageAt 0).scrubbing = true ∧ ((idleG.setPage 0 ⟨none, false, true, 0, none⟩).pageAt 0).scrubAt + 1920 ≤ idleG.cycle := by
  repeat' apply And.intro
  all_goals decide +kernel

/-- A suspension into system memory at a virtual address or in the compaction area, whose recorded members are given. -/
def susp (phys : Bool) (rec : List Nat) : Susp := ⟨.program, 0x10000, phys, 0, none, 330000, none, 5, rec, [], [], 0, false⟩

/-- A group with it. -/
def grpS (phys : Bool) (rec : List Nat) : Group := { grp with susp := some (susp phys rec) }

/-- The group is being suspended; every member is captured when all are recorded. -/
def suspending (phys : Bool) (rec : List Nat) (f : Core → Core) : Machine.State :=
  let s := mm (inGroup f)
  { s with seq := { s.seq with groups := [grpS phys rec] } }

/-- The request of core 0 to be suspended into 0x10000. -/
def askSusp : SeqReq := ⟨.suspend, 0, 1, 3, 0x10000, 0, 0, [], false, here, false, false, none⟩

theorem marking_ok (f : Core → Core) : (suspending false [] f).marking (grpS false []) (susp false []) 0 :=
  ⟨rfl, rfl, rfl, by decide⟩

/-- Line 0 of a sprig whose stamp is 5, with all rights but perhaps one, of domain 0. -/
def l0 (st : Nat) (rights : BitVec 6) : List Byte := line0 st 5 rights 0 0

/-- The sequencer wants to suspend the group, and there is room in the compaction area. -/
def wanted : Machine.State := let s := mm (ob.modGroup 1 fun g => { g with wantSusp := some .retire }); { s with boot := { s.boot with compSize := 0x1000000000 } }

/-- The group has ended. -/
def ended1 : Group := { grp with ended := some 0 }

/-- Every member has captured, and the sprig's place is not mapped. -/
def noSprig : Machine.State :=
  let s := inGroup fun c => { c with captured := true }
  { s with seq := { s.seq with groups := [grpS false grp.cores] } }

theorem witness_Suspension :
    (asks .suspend 0x10000 0 0 [] (mm ob)).requested 0 .suspend askSusp ∧ (asks .suspend 0x10000 0 0 [] (mm ob)).group? askSusp.gid = some grp ∧ grp.probe = none ∧
    (grpS false []).susp.isSome = true ∧ grp.susp = none ∧ grp.ended = none ∧
    ((mm ob).objWrite false 5 0x10000 (line0 0 (0#20 ++ (1#24 ++ 0#20)) 0 0 0)).isSome = true ∧ (ob.objWrite false 5 0x10000 (line0 0 (0#20 ++ (1#24 ++ 0#20)) 0 0 0)).isNone = true ∧
    ((suspending false [] fun c => { c with captured := true }).coreAt 0).captured = true ∧ ((suspending false [] id).coreAt 0).captured = false ∧
    (suspending false [] id).islandOf 0 = none ∧ ((suspending false [] fun c => { c with stalled := true }).coreAt 0).mayCapture = true ∧
    ((suspending false [] id).coreAt 0).mayCapture = false ∧ ((suspending false [] id).coreAt 0).stopping = false ∧
    isl.islandOf 0 = some ⟨1, 7, 2, [0, 65536], [], 0, [], false, false⟩ ∧
    (isl.modGroup 1 fun g => { g with susp := some (susp false []) }).owner? (pageOf 0) = some (grpS false []) ∧
    (isl.modGroup 1 fun g => { g with susp := some (susp false []) }).islandOf 0 = some ⟨1, 7, 2, [0, 65536], [], 0, [], false, false⟩ ∧
    wanted.owner? (pageOf 0) = some { grp with wantSusp := some .retire } ∧ wanted.mayHaveEnded grp = false ∧ (wanted.beginWanted { grp with wantSusp := some .retire } .retire).isSome = true ∧
    (∀ m ∈ (suspending false [] id).flight, m.prog.isSome = true → keyOfAddr m.dst ≠ 0) ∧ ((grpS false []).ended = none ∧ (ended1.ended.isSome = true ∧ ended1.susp = none)) ∧
    (noSprig.drained (grpS false grp.cores) (susp false grp.cores) = true ∧
      ((noSprig.objWrite false 5 (0x10000 + 64) []).bind fun s => s.objWrite false 5 0x10000 (l0 1 0)).isNone = true) ∧
    (suspending true grp.cores fun c => { c with captured := true }).group? 1 = some (grpS true grp.cores) ∧ (susp true grp.cores).isSealed = false ∧
    (suspending true grp.cores fun c => { c with captured := true }).drained (grpS true grp.cores) (susp true grp.cores) = true ∧
    ((suspending false [] id).coreAt 0).landing = [] ∧ (isl.coreAt 0).landing ≠ [] := by
  repeat' apply And.intro
  all_goals try unfold State.requested
  all_goals decide +kernel

/-- A group without pages, whose sprig is short. -/
def grpE : Group := { grpS true [] with pages := [] }

/-- It is ready to be sealed. -/
def sealing : Machine.State := { mm sc with seq := { sc.seq with groups := [grpE] } }

theorem witness_Suspension_seal :
    sealing.group? 1 = some grpE ∧ sealing.drained grpE (susp true []) = true ∧
    ((sealing.objWrite true 5 (0x10000 + 64) ((sealing.sprigBytes grpE (susp true [])).drop 64)).bind fun s => s.objWrite true 5 0x10000 (l0 1 0)).isSome = true := by
  repeat' apply And.intro
  all_goals decide +kernel

theorem witness_Sprigs_steps :
    (l0 1 0x3F).length = 64 ∧ lineStamp (l0 1 0x3F) ≠ 6 ∧ lineStamp (l0 1 0x3F) = 5 ∧ lineState (l0 0 0x3F) = 0 ∧ lineState (l0 1 0x3F) = 1 ∧
    (lineRights (l0 1 0x2F)).getLsbD 4 = false ∧ lineDom (l0 1 0x2F) ≠ 9 ∧ lineDom (l0 1 0x2F) = 0 ∧ (lineRights (l0 1 0x3F)).getLsbD 4 = true ∧
    (lineRights (l0 1 0x3E)).getLsbD 0 = false ∧ (lineRights (l0 1 0x3F)).getLsbD 0 = true ∧ (lineRights (l0 3 0x3F)).getLsbD 5 = true ∧ lineState (l0 3 0x3F) = 3 ∧ lineState (l0 2 0x3F) = 2 ∧
    (lineRights (l0 1 0x3D)).getLsbD 1 = false ∧ (lineRights (l0 1 0x3B)).getLsbD 2 = false ∧ lineState (l0 4 0x3F) = 4 := by decide +kernel

/-- The header (as far as it is not zero) of a sprig of `size` bytes at 0x20000 with line 0, address space 5, the container at 0x3000 and its digest, no sections. -/
def sprigOf (rights : BitVec 6) (size : Nat) : List Byte :=
  l0 1 rights ++ natBytes 0 8 ++ natBytes 5 8 ++ natBytes 0 8 ++ natBytes 0x3000 8 ++ (container.drop 32).take 32 ++ natBytes size 8

/-- With the digest of the whole. -/
def sprigD : List Byte := sprigOf 0x3F 512 ++ List.replicate 88 0 ++ natBytes 0x3924d6e5f92eee56c7da83b35041e433c722ded7c37aa0eff91ee8d004185949 32

/-- With a tree whose descriptor is all zero. -/
def sprigT : List Byte := sprigOf 0x3F 512 ++ List.replicate 120 0 ++ natBytes (8 * 2 ^ 56 + 384) 8 ++ natBytes (2 ^ 48 + 128) 8

/-- Memory holds a sprig. -/
def withSprig (bs : List Byte) (s : Machine.State) : Machine.State :=
  let s := mm s
  { s with edge := { s.edge with mem := Mem.putBytes s.edge.mem 0x20000 bs } }

/-- Memory holds one that is whole, and a sprig's line at 0x30000 that is none. -/
def hasSprig (s : Machine.State) : Machine.State := withSprig sprigD s

/-- Its pages may not be written. -/
def readOnly (s : Machine.State) : Machine.State := { s with edge := { s.edge with xlat := [(0, [⟨5, 3, 0, 0, false⟩])] } }

/-- A request on it. -/
def askSprig (op : SeqOp) (c : Word) : SeqReq := ⟨op, 0, 1, 3, 0x20000, 5, c, [], false, here, false, false, none⟩

/-- A request on it has passed its checks. -/
def job (op : SeqOp) (a : Word) : SprigJob := ⟨{ askSprig op 0x100000 with a := a }, 5, 0, [1], []⟩

/-- What the step of a request runs through: the header, the step, and the object. -/
def goesOn (s : Machine.State) (j : SprigJob) (f : Machine.State → List Byte → List Byte → Bool) : Bool :=
  (s.objRead false j.asid j.req.a.toNat 512).any fun r => headerOk r.2 && match sprigStep j.req.op (r.2.take 64) j.req.b j.req.force j.dom with
    | .ok l => (r.1.objRead false j.asid j.req.a.toNat (if j.req.op = .discard then 512 else sprigSize r.2)).any fun v => f v.1 l v.2
    | .error _ => false

/-- Line 0 can be written. -/
def writes (v : Machine.State) (l _bs : List Byte) : Bool := (v.objWrite false 5 0x20000 l).isSome

/-- A debt of a sprig in the compaction area. -/
def debt : Debt := ⟨1, 5, true, 0x20000, 0x20200, 0, 0, 0⟩

/-- An entry of the resume list. -/
def entryR : ResumeEnt := ⟨1, 0x20000, 0x1000, 2, List.replicate 8 0, 0, 0, none, [0], true, none⟩

/-- The state of such a resume. -/
def resuming : Machine.State := let s := hasSprig sc; { s with seq := { s.seq with resumes := [entryR], debts := [debt] } }

/-- A request of module 9 or its answer has come in. -/
def lanes (k : LaneKind) : Machine.State := { ob with laneIn := [LaneMsg.to 9 k 0] }

theorem witness_Sprigs_requests :
    (asks .resume 0x20000 5 0x100000 [] ob).sprigReq? 0 = some (askSprig .resume 0x100000) ∧ (asks .copy 0x20000 5 0 [] ob).sprigReq? 0 = some (askSprig .copy 0) ∧
    (asks .discard 0x20000 5 0 [] ob).sprigReq? 0 = some (askSprig .discard 0) ∧ ob.group? 1 = some grp ∧
    placementOk 0x200000 = false ∧ placementOk 0x100000 = true ∧ (0x100000 : Word).getLsbD 20 = true ∧ placementOk 9 = true ∧ (9 : Word).getLsbD 20 = false ∧
    (9 : Word).extractLsb' 0 20 ≠ ob.modId ∧
    (lanes .resume).sprigReq? ((lanes .resume).seqIn.length + 0) = none ∧ (lanes .resume).laneIn[0]? = some (LaneMsg.to 9 .resume 0) ∧
    (lanes .resumed).sprigReq? ((lanes .resumed).seqIn.length + 0) = none ∧ (lanes .resumed).laneIn[0]? = some (LaneMsg.to 9 .resumed 0) := by decide +kernel

theorem witness_Sprigs_unreadable :
    (hasSprig sc).objRead false 5 0x4000000000 512 |>.isNone := by decide +kernel

theorem witness_Sprigs_stepOf :
    ((hasSprig sc).objRead false 5 0x30000 512).any (fun r => headerOk r.2) = false ∧ ((hasSprig sc).objRead false 5 0x30000 512).isSome = true ∧
    goesOn (hasSprig sc) (job .discard 0x20000) writes = true ∧ goesOn (readOnly (hasSprig sc)) (job .discard 0x20000) (fun v l b => !writes v l b) = true ∧
    goesOn (hasSprig sc) (job .copy 0x20000) (fun v _ b => (v.copySprig 5 b 0x100000).isSome) = true ∧
    goesOn (hasSprig sc) (job .copy 0x20000) (fun v _ b => (v.copySprig 5 b 0x10000000000).isNone) = true := by decide +kernel

/-- A sprig longer than its header, whose ninth line is poison. -/
def hasPoison : Machine.State := let s := withSprig (sprigOf 0x3F 576) sc; { s with edge := { s.edge with poison := [0x20200 / 64] } }

theorem witness_Sprigs_poison :
    ((hasPoison.objRead false 5 0x20000 512).any fun r => headerOk r.2 && sprigSize r.2 == 576) = true ∧ (hasPoison.objRead false 5 0x20000 576).isNone = true := by decide +kernel

/-- What a resume reads: the container and the trees. -/
def resumes (f : Machine.State → List Byte → Bool) (v : Machine.State) (l b : List Byte) : Bool :=
  match v.sprigImage (l ++ b.drop 64) with
  | (w, some _) => f w (l ++ b.drop 64)
  | _ => false

theorem witness_Sprigs_resume :
    goesOn (hasSprig sc) (job .resume 0x20000) (resumes fun w bs => (w.reserveTrees bs [1]).isOk && writes w (bs.take 64) bs) = true ∧
    goesOn (readOnly (hasSprig sc)) (job .resume 0x20000) (resumes fun w bs => (w.reserveTrees bs [1]).isOk && !writes w (bs.take 64) bs) = true ∧
    goesOn (withSprig sprigT sc) (job .resume 0x20000) (resumes fun w bs => !(w.reserveTrees bs [1]).isOk) = true := by
  repeat' apply And.intro
  all_goals decide +kernel

theorem unclean (bs : List Byte) (h : (numAt bs 32 2 != fld (contWord bs 64) 48 16) = true) : sprigClean bs = false := by
  rw [sprigClean, Bool.and_eq_false_iff]; exact .inr (by simpa using h)

/-- The container has gone. -/
def noContainer : Machine.State := let s := mm sc; { s with edge := { s.edge with mem := Mem.putBytes [] 0x20000 sprigD } }

theorem witness_Sprigs_checks :
    goesOn noContainer (job .resume 0x20000) (fun v l b => (v.sprigImage (l ++ b.drop 64)).2.isNone) = true ∧ (askSprig .resume 0).op ≠ .discard ∧
    (((withSprig (line0 1 5 0x37 0 9 ++ (sprigOf 0x37 512).drop 64) sc).objRead false 5 (askSprig .resume 0).a.toNat 512).any fun t => headerOk t.2 && (t.1.objRead false 5 0x20000 (sprigSize t.2)).any fun v =>
      !(contWord v.2 16).getLsbD 3 && numAt v.2 32 2 != fld (contWord v.2 64) 48 16) = true := by
  repeat' apply And.intro
  all_goals decide +kernel

theorem witness_Sprigs_debts :
    resuming.seq.debts[0]? = some debt ∧ (resuming.coreAt 0).streams.find? (fun y => y.id == 0) = none ∧
    (resuming.objWrite true 5 (0x20200 + 6) (natBytes (0 + 4096 * 1) 2)).any (fun v => (v.objRead true 5 0x20000 64).any fun w => w.2.length == 64 && (w.1.objWrite true 5 0x20000 w.2).isSome) = true := by
  decide +kernel

theorem witness_Sprigs_autoResume :
    resuming.seq.resumes[0]? = some entryR ∧ (∀ a ∈ resuming.advances, ∀ p ∈ a.pages, p ∉ entryR.pages) ∧ entryR.moved = none ∧
    ((resuming.objRead true 0 0x20000 512).any fun t => (t.1.objRead true 0 0x20000 (sprigSize t.2)).any fun v => sprigClean v.2 &&
      match sprigStep .resume (v.2.take 64) (contWord v.2 8) false (BitVec.ofNat 16 (numAt v.2 32 2)), v.1.sprigImage v.2 with
      | .ok l, (w, some _) => (w.spaWrite 0x20000 l).isSome && (w.placeSprig v.2).isSome && (w.reserveTrees v.2 [1]).isOk
      | _, _ => false) = true := by
  repeat' apply And.intro
  all_goals decide +kernel

/-- The container of a group of 30 by 32 pages, and of 32 by 32. -/
def containerOf (sh : Word) : List Byte := container.take 16 ++ natBytes sh.toNat 8 ++ container.drop 24

/-- The head of queue 1 has waited for 100 µs for pages; one group owns two pages in the middle, or one in the corner. -/
def waits (sh : Word) (pages : List Nat) : Machine.State :=
  let s := mm (sc.setQueue 1 { LQueue.empty with recs := [⟨recFor 0x3000 0, some (containerOf sh), some true, some 0⟩], why := 2 })
  { s with cycle := 330000, seq := { s.seq with groups := [{ grp with pages := pages }] },
           boot := { s.boot with compSize := 0x1000000000 } }

theorem witness_MakingRoom_compaction : ((waits 0x3BF03BF [15, 16]).waitingHead 1).any (fun img => ((waits 0x3BF03BF [15, 16]).compactPlan img).any fun x => x.2.length == 1) = true := by decide +kernel

theorem witness_MakingRoom_preemption :
    ((waits 0x3FF03FF [0]).waitingHead 1).any (fun img => ((waits 0x3FF03FF [0]).compactPlan img).isNone &&
      ((waits 0x3FF03FF [0]).takeVictims img [] ((waits 0x3FF03FF [0]).victims 1)).any fun x => x.2.length == 1 && (waits 0x3FF03FF [0]).roomFor x.2) = true ∧
    (waits 0x3FF03FF [0]).seq.resumes.length + 1 ≤ 1024 := by decide +kernel

/-- An access of core 0 to a line of system memory, written or read, at a stage. -/
def acc (write : Bool) (why : Purpose) (stage : XStage) (attempts : Nat) : XAcc :=
  ⟨0, why, 1, 5, 0x40000000, 64, write, if write then List.replicate 64 (7, true) else [], stage, attempts, 0, false⟩

/-- Port 0 has memory, port 1 is a host; the memory's set is exposed to hosts and coherent; the accesses and walks are given; a host holds line 1. -/
def mem (accs : List XAcc) (walks : List Walk) : Machine.State :=
  let s := mm ob
  { s with cycle := 165000, edge := { s.edge with
    roles := [(0, 2), (1, 1)], sets := [(0, (0xE000010000000000, 0x1000, 0))], accs := accs, walks := walks, filt := [(1, ⟨2, 2⟩)], snoops := [⟨1, 1, true⟩],
    mem := [(0x50, 1), (0x51, 0x10), (0x1000, 1), (0x1001, 0x20), (0x2000, 0x83)] } }

/-- A stream command that reads and stores. -/
def strm : Machine.State :=
  let s := mem [acc true (.store 0 0) (.port 0x40) 1, acc false (.read 0 0) (.port 0x80) 1] []
  s.setCore { s.core with streams := [{ s.core.newStream 0 .scpy with started := true }] }

/-- A walk of the home of page 0x40000 of address space 5, at its leaf or at its first table, which is absent for address space 9. -/
def leafWalk : Walk := ⟨1, 5, 0, 3, 0x2000, []⟩

theorem witness_SystemMemory_accesses :
    (mem [acc true (.store 0 0) (.owner 0x40) 0] []).owned 0 (acc true (.store 0 0) (.owner 0x40) 0) 0x40 ∧
    (1 : Nat) ∈ (mem [acc true (.store 0 0) (.owner 0x40) 0] []).edge.conflicts 0x40 true ∧
    (mem [acc true (.store 0 0) (.owner 0x80) 0] []).owned 0 (acc true (.store 0 0) (.owner 0x80) 0) 0x80 ∧
    (mem [acc true (.store 0 0) (.owner 0x80) 0] []).edge.conflicts 0x80 true = [] ∧ (∀ y ∈ (mem [] []).edge.snoops, y.line ≠ 0x80 / 64) ∧
    strm.edge.atPort 0 = some (acc true (.store 0 0) (.port 0x40) 1, 0x40) ∧ strm.edge.atPort 1 = some (acc false (.read 0 0) (.port 0x80) 1, 0x80) ∧
    (∃ b ∈ (acc true (.store 0 0) (.port 0x40) 1).data, b.2 = true) ∧ (∀ b ∈ (List.replicate 64 ((7 : Byte), false)), b.2 = false) ∧
    (strm.stream? 0 0).isSome = true ∧ 0 + 165000 ≤ strm.cycle ∧ 1 < 3 ∧
    (mem [acc true (.store 0 0) (.port 0x40) 3] []).edge.atPort 0 = some (acc true (.store 0 0) (.port 0x40) 3, 0x40) ∧ 3 ≤ 3 ∧
    (∃ g ∈ strm.seq.groups, g.gid = (acc true (.store 0 0) (.port 0x40) 1).gid) := by
  refine ⟨⟨?_, ?_, fun y hy => ?_⟩, ?_, ⟨?_, ?_, fun y hy => ?_⟩, ?_, ?_, ?_, ?_, ?_, ?_, ?_, ?_, ?_, ?_, ?_, ?_⟩
  case refine_3 => cases hy
  case refine_7 => cases hy
  all_goals decide +kernel

/-- Walks and accesses that wait for them, at a page that is mapped and at one that is not. -/
def walking : Machine.State := mem [{ acc false (.read 0 0) .walk 0 with va := 0x80 }, { acc true (.store 0 0) .walk 0 with asid := 9, va := 0x2000 }] [leafWalk, ⟨0, 9, 2, 5, 0, []⟩]

theorem witness_SystemMemory_walks :
    walking.edge.walks[0]? = some leafWalk ∧ walking.edge.hasSlot 0 = true ∧ walking.edge.walkHeld leafWalk = false ∧ walking.edge.walkHeld ⟨0, 9, 2, 5, 0, []⟩ = false ∧ (match walking.edge.walkStep leafWalk with | .leaf x => x == ⟨5, 3, 0, 0, true⟩ | _ => false) = true ∧
    (walking.edge.accs.filter (walking.edge.waitsFor ⟨1, 5, 0, 3, 0x2000, []⟩)).length ≠ 0 ∧ walking.edge.spaOf ⟨5, 3, 0, 0, true⟩ 0x80 false = some 0x80 ∧
    walking.edge.spaOf ⟨5, 3, 0, 0x80000000, true⟩ 0x80 false = none ∧
    walking.edge.walks[1]? = some ⟨0, 9, 2, 5, 0, []⟩ ∧ walking.edge.hasSlot 1 = true ∧ (match walking.edge.walkStep ⟨0, 9, 2, 5, 0, []⟩ with | .fail => true | _ => false) = true := by
  repeat' apply And.intro
  all_goals decide +kernel

/-- An interleave set of two ways of 256 bytes from 1 GiB on. -/
def ways2 : Word × Word × Word := (0x8000020000001000, 0x1000, 0x0100)

theorem witness_SystemMemory_sets :
    setGran ways2 ≤ 14 ∧ setBase ways2 ≤ 0x40000100 ∧ setBase ways2 ≤ 0x40000300 ∧
    (0x40000100 - setBase ways2) / 2 ^ setGran ways2 % setWays ways2 = (0x40000300 - setBase ways2) / 2 ^ setGran ways2 % setWays ways2 := by decide +kernel

theorem witness_HostsAndInvalidation :
    (mem [] []).edge.role 1 = 1 ∧ (mem [] []).edge.coherent (64 * 1) = true ∧ (mem [] []).edge.lineBusy 1 = true ∧ (mem [] []).edge.coherent (64 * 2) = true ∧
    (mem [] []).edge.lineBusy 2 = false ∧ (2 : BitVec 2).toNat = 2 ∧ (1 : BitVec 2).toNat < 2 ∧ (mem [] []).edge.coherent (64 * 2 ^ 40) = false ∧
    (hostWindow (2 ^ 46)).isSome = true ∧ (mem [] []).edge.owner (2 ^ 46) = some 1 ∧ (mem [] []).edge.coherent (2 ^ 46) = false ∧ 64 * 2 ^ 40 = 2 ^ 46 ∧
    hostWindow (64 * 0x1000000) = none ∧ (mem [] []).edge.coherent (64 * 0x1000000) = false ∧ (mem [] []).edge.setOf (64 * 0x1000000) = none ∧
    (mem [] []).edge.snoops.find? (fun x => x.host == (1 : BitVec 2).toNat && x.line == 1) = some ⟨1, 1, true⟩ ∧
    xinvHits 0x500000000 0 5 0 4096 = true ∧ xinvHits 0x500000000 0 6 0 4096 = false ∧ (0x500000000 : Word).extractLsb' 61 2 = 0 ∧ (0x4000000000000000 : Word).extractLsb' 61 2 = 2 := by
  repeat' apply And.intro
  all_goals decide +kernel

/-- A transient has hit core 0 so often already. -/
def hits (att : BitVec 2) : Machine.State := focus fun c => { c with win := { c.win with att := att } }

/-- A check of the remote-operation unit and of the stream unit of core 0 has failed so often already. -/
def fails (n : Nat) : Machine.State := focus fun c => { c with remFails := n, strFails := n }

theorem witness_Errors_units :
    (fails 0).islandOf 0 = none ∧ ((fails 0).coreAt 0).remFails < 3 ∧ ((fails 0).coreAt 0).strFails < 3 ∧ (fails 3).islandOf 0 = none ∧
    3 ≤ ((fails 3).coreAt 0).remFails ∧ 3 ≤ ((fails 3).coreAt 0).strFails ∧ isl.islandOf 0 = some ⟨1, 7, 2, [0, 65536], [], 0, [], false, false⟩ ∧
    (isl.coreAt 0).ctx.st = .running ∧ (isl.coreAt 0).captured = false ∧ (isl.coreAt 0).run = 0 := by decide +kernel

theorem witness_Errors :
    (∀ a ∈ [(0 : BitVec 2), 2, 3], (hits a).hitsWindow 0 (some 0) ∧ (hits a).hitsWindow 0 none ∧ ((hits a).coreAt 0).win.att = a) ∧ (hits 0).islandOf 0 = none ∧
    (ready2.coreAt 0).ctx.st ≠ .running ∧ ((((0 :: (sc.coreAt 0).ueHours).take 8).filter fun h => decide (0 < h + 24)).length < 8) ∧ (sc.fieldAt (fieldOf 0)).hoursNow = 0 ∧
    (mxBusy.coreAt 0).mma.isSome = true ∧ (mxBusy.coreAt 0).ueHours = [] ∧
    (ob.coreAt 0).retiring = none ∧ ob.islandOf 0 = none ∧ ob.owner? (pageOf 0) = some grp ∧ grp.ended = none ∧ grp.susp = none := by
  refine ⟨fun a ha => ?_, ?_, ?_, ?_, ?_, ?_, ?_, ?_, ?_, ?_, ?_, ?_⟩
  · obtain rfl | rfl | rfl : a = 0 ∨ a = 2 ∨ a = 3 := by simpa using ha
    all_goals exact ⟨⟨by decide +kernel, by decide +kernel, fun y h => (Option.some.inj h).symm.trans (by decide +kernel)⟩,
      ⟨by decide +kernel, by decide +kernel, fun y h => by cases h⟩, by decide +kernel⟩
  all_goals decide +kernel

/-- A field whose row 3 has a repaired fault in column 4. -/
def oneFault : Field := { Field.reset 0 with rows := [(3, ⟨4, true, false⟩)], faulty := [33 * 3 + 4], nflt := 1 }

theorem named_oneFault : oneFault.sound := by
  refine ⟨by decide, fun pr h hne => ⟨?_, fun pc hp hh => ?_, ?_⟩⟩
  · revert pr; decide
  · have : 33 * pr + pc = 33 * 3 + 4 := by simpa [Field.healthy, oneFault] using hh
    have h3 : pr = 3 ∧ pc = 4 := by omega
    rw [h3.1, h3.2]; decide
  · revert pr; decide

theorem witness_RepairCovers :
    oneFault.sound ∧ (oneFault.repair 0 5 7).isSome = true ∧ (oneFault.repair 0 3 9).isSome = true ∧ (oneFault.repair 0 5 32).isSome = true ∧ (oneFault.repair 0 32 1).isSome = true :=
  ⟨named_oneFault, by decide +kernel, by decide +kernel, by decide +kernel, by decide +kernel⟩

/-- An advance of page 0 which has begun; the routers that closed and opened, the markers. -/
def adv (closed opened : List Nat) (markers : List (Nat × BitVec 3 × BitVec 2)) (drained begun : Bool) : Advance :=
  ⟨4, [0], none, closed, markers, drained, opened, false, begun⟩

/-- It is in progress. -/
def advances (a : Advance) : Machine.State := { ob with advances := [a] }

theorem named_adv (cs os ms d) : (advances (adv cs os ms d true)).advancing (adv cs os ms d true) := by
  refine ⟨rfl, rfl, by simp [adv], by simp [adv], fun y hy => ?_⟩
  have h : y = adv cs os ms d true := by simpa [advances] using hy
  exact ⟨fun _ => h, fun _ hne => absurd (by rw [h]) hne⟩

/-- The first n routers have closed and have every marker. -/
def closedTo (n : Nat) : Advance :=
  adv (List.range n) [] ((List.range n).flatMap fun r => (inputPorts r).flatMap fun q => drainClasses.map fun c => (r, BitVec.ofNat 3 q.1, c)) false true

theorem named_closedTo (n : Nat) : (advances (closedTo n)).advancing (closedTo n) ∧ (closedTo n).drained = false ∧ (∀ r, r < n → (closedTo n).drainedAt r = true) ∧
    (advances (closedTo n)).noneLeft (closedTo n) = true := by
  refine ⟨named_adv _ _ _ _, rfl, fun r hr => ?_, rfl⟩
  have hc : (closedTo n).closed.contains r = true := by rw [List.contains_iff_mem]; exact List.mem_range.2 hr
  rw [Advance.drainedAt, hc, Bool.true_and, List.all_eq_true]
  intro q hq
  rw [List.all_eq_true]
  intro c hc
  rw [List.contains_iff_mem]
  exact List.mem_flatMap.2 ⟨r, List.mem_range.2 hr, List.mem_flatMap.2 ⟨q, hq, List.mem_map.2 ⟨c, hc, rfl⟩⟩⟩

theorem witness_AdvancesAndRotation_advances :
    (advances (adv [] [] [] false true)).advancing (adv [] [] [] false true) ∧ (131071 : Nat) ∉ (adv [] [] [] false true).closed ∧ (131071 : Nat) ∉ (adv [] [] [] false true).opened ∧
    (advances (adv [1] [] [] false true)).advancing (adv [1] [] [] false true) ∧ ((1 : BitVec 3).toNat, 1) ∈ inputPorts 0 ∧ 1 ∈ (adv [1] [] [] false true).closed ∧
    (0, (1 : BitVec 3), (2 : BitVec 2)) ∉ (adv [1] [] [] false true).markers ∧ (2 : BitVec 2) ≠ 3 ∧
    ((advances (closedTo 131072)).advancing (closedTo 131072) ∧ (closedTo 131072).drained = false ∧ (∀ r, r < 131072 → (closedTo 131072).drainedAt r = true) ∧
      (advances (closedTo 131072)).noneLeft (closedTo 131072) = true) ∧
    (advances (adv [0] [] [] true true)).advancing (adv [0] [] [] true true) ∧ (adv [0] [] [] true true).drained = true ∧ 0 ∈ (adv [0] [] [] true true).closed ∧
    (advances (adv [] [] [] false false)).advances.find? (fun a => !a.begun && a.pages.contains 0) = some (adv [] [] [] false false) ∧
    (advances (adv [] [] [] false false)).spaced (adv [] [] [] false false) = true ∧ (advances (adv [] [] [] false false)).advanceClear (adv [] [] [] false false) = true ∧
    (∀ b ∈ (advances (adv [] [] [] false false)).advances, b.id = (adv [] [] [] false false).id → b = adv [] [] [] false false) := by
  refine ⟨named_adv _ _ _ _, ?_, ?_, named_adv _ _ _ _, ?_, ?_, ?_, ?_, named_closedTo _, named_adv _ _ _ _, ?_, ?_, ?_, ?_, ?_, ?_⟩
  all_goals decide +kernel

/-- Field 0 is due for its rotation at this hour; then it is due, and its pages are free. -/
def rotates (due : Bool) : Machine.State := sc.setFieldAt 0 { Field.reset 0 with rotAt := 0, due := due }

theorem witness_AdvancesAndRotation_rotation :
    ((rotates false).fieldAt 0).due = false ∧ ((rotates false).fieldAt 0).rotAt ≤ ((rotates false).fieldAt 0).hoursNow ∧ ((rotates true).fieldAt 0).due = true ∧
    (∀ p ∈ fieldPages 0, (rotates true).owner? p = none ∧ ((rotates true).pageAt p).scrubbing = false) ∧ (rotates true).advances = [] ∧
    (Field.reset 0).rskip.toNat < 33 ∧ ((Field.reset 0).row 31).flt = false := by
  repeat' apply And.intro
  all_goals decide +kernel

/-- A module in phase 4 at cycle 0 of an epoch of field 0, with a droop-prone island. -/
def epochs (n : Nat) (sample : Option (Nat × Nat)) : Machine.State :=
  { (mm isl).setFieldAt 0 { Field.reset 0 with budget := 1500, epochAt := n, sample := sample, decideAt := sample.map fun _ => n } with cycle := n }

/-- A link of router 0 has failed 15 times for one flit. -/
def worn : Machine.State := { sc with linkFails := [(2, 15)] }

theorem witness_AdvancesAndRotation_retries :
    16 ≤ (NMap.get? worn.linkFails (8 * 0 + (2 : BitVec 3).toNat)).getD 0 + 1 ∧ (NMap.get? sc.linkFails (8 * 0 + (2 : BitVec 3).toNat)).getD 0 + 1 < 16 ∧ 0 + 1 < 16 := by decide +kernel

theorem witness_Governor :
    (∀ x ∈ [none, some (3, 0)], (epochs 5 x).boot.phase = 4 ∧ ((epochs 5 x).fieldAt 0).epochAt = (epochs 5 x).cycle) ∧
    ((epochs 5 (some (3, 0))).fieldAt 0).sample = some (3, 0) ∧ ((epochs 5 (some (3, 0))).fieldAt 0).decideAt = some 5 ∧ 5 ≤ (epochs 5 (some (3, 0))).cycle ∧
    NMap.sorted (epochs 5 none).querns = true ∧ ((epochs 5 (some (2000, 0))).fieldAt 0).budget < 2000 + linkFloor 0 + (epochs 5 (some (2000, 0))).islandCost 0 ∧
    3 + linkFloor 0 + (epochs 5 (some (3, 0))).islandCost 0 ≤ ((epochs 5 (some (3, 0))).fieldAt 0).budget ∧
    (∃ i ∈ (epochs 5 none).seq.islands, 0 ∈ i.members) ∧ ((epochs 5 none).coreAt 0).droop = none ∧ (∀ i ∈ sc.seq.islands, 5 ∉ i.members) ∧
    (∃ i, (epochs 5 none).seq.islands.find? (fun i => i.members.contains 65536) = some i ∧ 0 ∈ i.members) := by
  refine ⟨?_, ?_, ?_, ?_, ?_, ?_, ?_, ?_, ?_, ?_, ⟨_, rfl, ?_⟩⟩
  all_goals decide +kernel

/-- Before GO, in some step of the boot; after GO. -/
def phase (n : BitVec 4) (went : Bool) : Machine.State :=
  { sc with boot := { sc.boot with phase := if went then 4 else n, otsUsed := 2 ^ 20 - 1, goAt := if went then some 0 else none } }

/-- Slots that hold nothing, or firmware below the fused minimum. -/
def slots (valid : Bool) : Boot := { Boot.reset with slot0 := ⟨1, valid⟩, slot1 := ⟨0, false⟩, fusedMin := 2 }

theorem witness_BootAndManagement :
    (phase 0 false).boot.power = true ∧ ({ sc with boot := { sc.boot with power := false } } : Machine.State).boot.power = false ∧
    ((phase 0 false).boot.phase = 0 ∧ (phase 1 false).boot.phase = 1 ∧ (phase 2 false).boot.phase = 2) ∧ (phase 3 false).boot.phase = 3 ∧ (phase 4 false).boot.phase ≠ 3 ∧
    Boot.reset.bootable Boot.reset.slot0 ∧ (∀ v, ¬ (slots v).bootable (slots v).slot0 ∧ ¬ (slots v).bootable (slots v).slot1) ∧ (slots true).slot0.valid = true ∧ (slots false).slot0.valid = false ∧
    ({ Boot.reset with making := true } : Boot).making = true ∧ Boot.reset.making = false ∧ (3 : BitVec 2) = 3 ∧ (phase 3 false).boot.otsUsed < 2 ^ 20 ∧
    2 ^ 20 ≤ ({ Boot.reset with otsUsed := 2 ^ 20 } : Boot).otsUsed ∧ (phase 3 false).boot.went = false ∧ (phase 3 true).boot.went = true ∧
    (0x815F8 : BitVec 20).toNat % 8 = 0 ∧ (0x81000 ≤ (0x815F8 : BitVec 20).toNat ∧ (0x815F8 : BitVec 20).toNat < 0x81600) ∧
    (0x82000 ≤ (0x82178 : BitVec 20).toNat ∧ (0x82178 : BitVec 20).toNat < 0x82180) ∧ (0x82004 : BitVec 20).toNat % 8 ≠ 0 ∧
    (sc.edge.setFits 0 (0, 0, 0)) = true ∧ (sc.edge.setFits 0 (0x8000010000000000, 0, 0)) = false := by
  refine ⟨?_, ?_, ⟨?_, ?_, ?_⟩, ?_, ?_, ⟨?_, ?_⟩, fun v => ⟨fun h => ?s0, fun h => ?s1⟩, ?_, ?_, ?_, ?_, ?_, ?_, ?_, ?_, ?_, ?_, ⟨?_, ?_⟩, ⟨?_, ?_⟩, ?_, ?_, ?_⟩
  case s0 => exact absurd h.2 (by cases v <;> decide)
  case s1 => exact absurd h.1 (by cases v <;> decide)
  all_goals decide +kernel

theorem witness_LinkRecords : (List.replicate 32 (0 : Byte)).length = 32 ∧ (List.replicate 12 (0 : Byte)).length = 12 := by decide

/-- A session with module 9, open, with a frame or flit that nobody has acknowledged. -/
def session (st : SessSt) (sent : Bool) : Session :=
  { Session.new 9 0 with st := st, txSeq := if sent then 1 else 0, unacked := if sent then [⟨0, [⟨5, 0, 0⟩], 0, [1, 2]⟩] else [] }

/-- Port 47 in wide-area mode or in local mode toward module 9, with that session. -/
def port (loc : Bool) (e : Session) : Machine.State :=
  { sc.setPort 47 { YPort.reset with w := #v[if loc then 0xB0000009C73807D0 else 0xD0000000C73807D0, 0, 0, 0], sessions := [e] } with cycle := 33000000 }

/-- An Ethernet frame for port 47 from a machine of address 0. -/
def ether (body : List Byte) : List Byte :=
  let x := (port false (session .opened false)).portAt 47
  let addr := List.replicate 16 (0 : Byte)
  let len := 8 + body.length
  let udp (c : Nat) : List Byte := [0xC7, 0x38, 0xC7, 0x38] ++ beBytes len 2 ++ beBytes c 2 ++ body
  let f := beBytes (fld x.w[3] 0 48) 6 ++ List.replicate 6 0 ++ [0x86, 0xDD, 0x60, 0, 0, 0] ++ beBytes len 2 ++ [17, 64] ++ addr ++ addr ++ udp (udpSum addr addr (udp 0))
  f ++ etherFcs f

/-- A frame of module 9 without records. -/
def hdr9 (type seq : Nat) : List Byte := yunHeader type seq 0 9 0 0 0 (Vector.replicate 4 0)

/-- The frame sealed under the keys of that session. -/
def sealed9 : List Byte := hdr9 0 0 ++ [32, 220, 39, 225, 2, 128, 180, 251, 68, 34, 139, 37, 218, 111, 92, 82]

set_option maxRecDepth 100000 in
theorem witness_YunavyPorts_frames :
    ((port false (session .opened false)).portAt 3).enabled = false ∧ ((port false (session .opened false)).portAt 47).enabled = true ∧
    ((port false (session .opened false)).portAt 47).isLocal = false ∧ ((port false (session .opened false)).portAt 47).unpack (ether (hdr9 0 1)) = some (hdr9 0 1) ∧
    32 ≤ (hdr9 0 1).length ∧ fld (contWord (hdr9 0 1) 0) 60 4 = 1 ∧ hdrType (hdr9 0 1) ≤ 3 ∧ hdrType (hdr9 0 1) ≠ 2 ∧ hdrSmod (hdr9 0 1) = 9 ∧
    sc.sess 47 9 = none ∧ (port false (session .opened false)).sess 47 9 = some (session .opened false) ∧
    ¬ (port false (session .opened false)).fits (session .opened false) (hdr9 0 1) ∧ (port false (session .opened false)).fits (session .opened false) (hdr9 0 0) ∧
    ((port false (session .opened false)).portAt 47).unpack [] = none ∧ ((port false (session .opened false)).portAt 47).unpack (ether (hdr9 2 0)) = some (hdr9 2 0) ∧ hdrType (hdr9 2 0) = 2 ∧
    (∀ e, (port false (session .closed false)).sess 47 9 = some e → e.st ≠ .barred ∧ e.st ≠ .opening) := by
  refine ⟨?_, ?_, ?_, ?_, ?_, ?_, ?_, ?_, ?_, ?_, ?_, ?_, ?_, ?_, ?_, ?_, fun e he => ?_⟩
  case refine_17 =>
    have h : (port false (session .closed false)).sess 47 9 = some (session .closed false) := by decide +kernel
    rw [← Option.some.inj (h.symm.trans he)]; decide
  all_goals try unfold State.fits
  all_goals decide +kernel

set_option maxRecDepth 100000 in
theorem witness_YunavyPorts_sealed :
    ((port false (session .opened false)).portAt 47).unpack (ether sealed9) = some sealed9 ∧
    (gcmOpen (natBytes (session .opened false).rxKey.toNat 32) (gcmNonce (session .opened false).rxSalt 0) (sealed9.take 32) (sealed9.drop 32)).bind (frameRecs (fld (contWord sealed9 16) 16 8)) = some [] ∧
    (gcmOpen (natBytes (session .opened false).rxKey.toNat 32) (gcmNonce (session .opened false).rxSalt 0) (sealed9.take 32) []).bind (frameRecs (fld (contWord sealed9 16) 16 8)) = none := by
  repeat' apply And.intro
  all_goals decide +kernel

theorem witness_YunavyPorts_sessions :
    (port false (session .opened true)).sessionAt 47 false 9 (session .opened true) ∧ (session .opened true).unacked = [⟨0, [⟨5, 0, 0⟩], 0, [1, 2]⟩] ∧
    0 + max 165000 (2 * (session .opened true).rtt) ≤ (port false (session .opened true)).cycle ∧ (session .opened true).ackAt + 33000 ≤ (port false (session .opened true)).cycle ∧
    (session .opened true).unacked.length < 4096 ∧ (session .opened true).txSeq + 1 < 2 ^ 40 ∧
    (port false (session .closing false)).sess 47 9 = some (session .closing false) ∧
    (session .opening false).lastRx + 1000 ≤ (port false (session .opening false)).cycle ∧ ((port false (session .opened false)).portAt 47).tout = 2000 * 3300000 ∧
    ({ session .opened false with txSeq := 2 ^ 40 - 65536 } : Session).hs = none ∧ 2 ^ 40 - 65536 ≤ ({ session .opened false with txSeq := 2 ^ 40 - 65536 } : Session).txSeq ∧
    sc.sess 47 9 = none ∧ (port false (session .barred false)).sess 47 9 = some (session .barred false) ∧
    0 + ((port false (session .opened false)).portAt 47).tout ≤ ({ port false (session .opened false) with cycle := 6600000000 } : Machine.State).cycle := by
  refine ⟨⟨?_, ?_, ?_, ?_⟩, ?_, ?_, ?_, ?_, ?_, ?_, ?_, ?_, ?_, ?_, ?_, ?_, ?_⟩
  all_goals decide +kernel

/-- 36 bytes of a flit of number 0 whose check code is right. -/
def flit0 : List Byte := List.replicate 34 0 ++ natBytes (Config.linkCheck (List.replicate 34 0)).toNat 2

/-- The port retrains since cycle 5, or has seen 16 failures. -/
def retrains (n : Option Nat) (fails : Nat) : Machine.State :=
  let s := port true (session .opened true)
  s.setPort 47 { s.portAt 47 with retrain := n, fails := fails }

theorem witness_YunavyPorts_local :
    (port true (session .opened true)).sessionAt 47 true ((port true (session .opened true)).portAt 47).peer (session .opened true) ∧
    ((port true (session .opened true)).portAt 47).peer = 9 ∧ ((port true (session .opened true)).portAt 47).retrain = none ∧ ((port true (session .opened true)).portAt 47).down = false ∧
    (session .opened true).unacked = [] ++ ⟨0, [⟨5, 0, 0⟩], 0, [1, 2]⟩ :: [] ∧ BitVec.ofNat 8 0 = 0#8 ∧
    ((retrains none 16).portAt 47).isLocal = true ∧ 16 ≤ ((retrains none 16).portAt 47).fails ∧ ¬ (([] : List Byte).length = 36) ∧
    ((retrains (some 5) 0).portAt 47).retrain = some 5 ∧ (retrains (some 5) 0).sess 47 9 = some (session .opened true) ∧ (retrains (some 5) 0).cycle ≤ 5 + 33000000 := by
  refine ⟨⟨?_, ?_, ?_, ?_⟩, ?_, ?_, ?_, ?_, ?_, ?_, ?_, ?_, ?_, ?_, ?_⟩
  all_goals decide +kernel

theorem named_flit : flit0.length = 36 ∧ natBytes (Config.linkCheck (flit0.take 34)).toNat 2 = flit0.drop 34 ∧ flit0.getD 33 0 = BitVec.ofNat 8 (session .opened true).rxSeq := by
  have h : (natBytes (Config.linkCheck (List.replicate 34 0)).toNat 2).length = 2 := rfl
  refine ⟨rfl, ?_, rfl⟩
  rfl

/-- The head of queue 2 has passed its checks; the queue's other fields and the sequencer are changed. -/
def ready2q (f : LQueue → LQueue) (g : Seq → Seq) : Machine.State :=
  let s := passed (some true)
  let t := s.setQueue 2 (f (s.queueAt 2))
  { t with seq := g t.seq }

/-- The head of queue 2 can be placed now. -/
def placeable (s : Machine.State) : Bool := ((parseImage container).bind fun img => s.placeHead 2 img.sct img.pages img.w img.h).isSome

/-- A group keeps the page that was to be freed; nothing more is coming. -/
def madeNone : Machine.State := ready2q (fun x => { x with why := 3 }) fun x => { x with groups := [grp], making := some (2, [0]) }

/-- A group of queue 2 waits to be resumed; a head of queue 0 is ready. -/
def barredQ : Machine.State := ready2q id fun x => { x with resumes := [entryR] }
def behindQ : Machine.State := let s := ready2q id id; s.setQueue 0 (s.queueAt 2)

theorem witness_Launching_waits :
    (∀ s ∈ [madeNone, barredQ, behindQ], s.boot.phase = 4 ∧ (s.queueAt 2).recs.head? = some ⟨recFor 0x3000 1, some container, some true, none⟩) ∧
    placeable madeNone = false ∧ (madeNone.queueAt 2).why = 3 ∧ madeNone.madeAll 2 = true ∧
    placeable barredQ = true ∧ (barredQ.queueAt 2).why = 0 ∧ (∃ e ∈ barredQ.seq.resumes, e.queue = 2 ∧ e.moved ≠ some 2) ∧
    placeable behindQ = true ∧ (behindQ.queueAt 2).why = 0 ∧ (∃ j : BitVec 4, j.toNat < 2 ∧ behindQ.headReady j = true) ∧ (parseImage container).isSome = true := by
  refine ⟨?_, ?_, ?_, ?_, ?_, ?_, ?_, ?_, ?_, ⟨0, ?_, ?_⟩, ?_⟩
  all_goals decide +kernel

/-- A record of the retirement of the group waits for its resume; one of a group that nobody lists. -/
def postedR (resumes : List ResumeEnt) (flight : List Msg) : Machine.State :=
  { posted none 0 0 with
    posts := [{ rep 0 with words := [(Cause.code .retire).setWidth 64 <<< 52, 0, 0, 0, 0, 0, 0, 0] }], flight := flight,
    seq := { (posted none 0 0).seq with resumes := resumes } }

/-- A suspended group that has been resumed elsewhere still holds its page. -/
def goneG : Group := { away true with gid := 0 }

/-- What the sequencer knows of it. -/
def leavingS : Machine.State := { sc with seq := { sc.seq with groups := [goneG] } }

theorem witness_GroupEndAndReports_more :
    (∀ m ∈ (posted none 0 0).flight, ¬ (m.kind = 0x34 ∧ m.len = 64 ∧ m.grp = (rep 0).gid ∧ m.sender = (rep 0).src)) ∧
    ((rep 0).words.headD 0).extractLsb' 52 12 ≠ Cause.code .retire ∧
    ((postedR [] []).posts[0]?.map fun r => (r.words.headD 0).extractLsb' 52 12) = some (Cause.code .retire) ∧ (postedR [] []).group? 1 = some (grpF none) ∧
    (∀ e ∈ (postedR [] []).seq.resumes, e.gid ≠ 1) ∧ (∃ e ∈ (postedR [entryR] []).seq.resumes, e.gid = 1) ∧
    (posted none 0 0).faultChannel (grpF none) = true ∧ (∀ g ∈ (posted (some 0) 0 0).seq.groups, g.gid = 1 → (posted (some 0) 0 0).faultChannel g = false) ∧
    (∃ x, (away false).susp = some x ∧ x.isSealed = false ∧ (away false).rel0 ∈ x.recorded) ∧
    resuming.seq.resumes.find? (fun e => e.gid == 1) = some entryR ∧ (∀ e ∈ sc.seq.resumes, e.gid ≠ 1) ∧
    (grp.ended = none ∧ ∀ x, grp.susp = some x → x.isSealed = false) ∧ (∃ x, (away true).susp = some x ∧ x.isSealed = true) ∧
    leavingS.seq.groups.find? (fun g => g.gid == 0 && leavingS.vacated g) = some goneG ∧ goneG.ended = none ∧
    (grpF (some 0)).ended.isSome = true ∧ (grpF none).ended = none := by
  refine ⟨?_, ?_, ?_, ?_, ?_, ?_, ?_, ?_, ⟨_, rfl, ?_, ?_⟩, ?_, ?_, ⟨?_, fun x h => by cases h⟩, ⟨_, rfl, ?_⟩, ?_, ?_, ?_, ?_⟩
  all_goals decide +kernel

theorem witness_MakingRoom_heads :
    (∀ e ∈ resuming.seq.resumes, e.retired = true → ∀ a ∈ resuming.advances, ∀ p ∈ a.pages, p ∉ e.pages) ∧
    (∀ q, entryR.moved = some q → ∀ m, resuming.seq.making = some m → m.1 ≠ q) := by
  refine ⟨?_, fun q h => by cases h⟩
  decide +kernel

/-- The filter of the block that owns the line 2 is full. -/
def fullFilt : Machine.State :=
  let s := mem [] []
  { s with edge := { s.edge with filt := List.replicate 65536 (5, ⟨1, 0⟩) } }

theorem named_fullFilt : fullFilt.edge.filtRoom 2 = false := by
  have h : (fullFilt.edge.owner (64 * 5) == fullFilt.edge.owner (64 * 2)) = true := by decide +kernel
  have f : fullFilt.edge.filtered 2 = List.replicate 65536 5 := by
    show ((List.replicate 65536 ((5 : Nat), (⟨1, 0⟩ : Filt))).map Prod.fst).filter _ = _
    rw [List.map_replicate, List.filter_replicate_of_pos (by exact h)]
  rw [Edge.filtRoom, f, List.length_replicate, Bool.or_eq_false_iff]
  refine ⟨?_, decide_eq_false (Nat.lt_irrefl _)⟩
  rw [← Bool.not_eq_true, List.contains_iff_mem, List.mem_replicate]
  omega

theorem witness_HostsAndInvalidation_filter :
    fullFilt.edge.role 1 = 1 ∧ fullFilt.edge.coherent (64 * 2) = true ∧ fullFilt.edge.lineBusy 2 = false ∧ fullFilt.edge.filtRoom 2 = false ∧
    (mem [] []).edge.filtRoom 2 = true ∧ (mem [] []).edge.lineBusy 2 = false := by
  refine ⟨?_, ?_, ?_, named_fullFilt, ?_, ?_⟩
  all_goals decide +kernel

theorem witness_SystemMemory_links :
    strm.edge.linkUp 0x40 = true ∧ strm.edge.linkUp 0x80 = true ∧ (strm.edge.loc 0x40).isSome = true ∧ (mem [acc true (.store 0 0) (.port 0x40) 3] []).edge.linkUp 0x40 = true ∧
    { strm.edge with roles := [] }.linkUp 0x40 = false := by decide +kernel

/-- The hello of a rekey has gone out and found no answer. -/
def rekeyed : Session := { session .opened false with txSeq := 2 ^ 40 - 65536, hs := some ⟨[], 0, 0, .frame [1], 0⟩ }

/-- Module 9 is of a higher number than this one, or of a lower one. -/
def tied (own : BitVec 20) (e : Session) : Machine.State := { port false e with modId := own }

theorem witness_YunavyPorts_handshakes :
    (tied 3 rekeyed).sess 47 9 = some rekeyed ∧ rekeyed.hs.isSome = true ∧ (tied 3 rekeyed).modId < 9 ∧ ¬ (tied 20 rekeyed).modId < 9 ∧ (tied 20 rekeyed).sess 47 9 = some rekeyed ∧
    ((tied 20 rekeyed).portAt 47).isLocal = false ∧ rekeyed.st ≠ .barred ∧ rekeyed.st = .opened ∧ (session .opening false).hs = none ∧
    (port false (session .opening false)).sess 47 9 = some (session .opening false) ∧ 2 ^ 40 - 65536 ≤ rekeyed.txSeq ∧ rekeyed.hs = some ⟨[], 0, 0, .frame [1], 0⟩ ∧
    0 + ((tied 3 rekeyed).portAt 47).tout ≤ ({ tied 3 rekeyed with cycle := 6600000000 } : Machine.State).cycle ∧
    (port true (session .opened false)).sess 47 9 = some (session .opened false) ∧ ((port true (session .opened false)).portAt 47).isLocal = true ∧
    (session .opened false).lastRx + ((port true (session .opened false)).portAt 47).tout ≤ ({ port true (session .opened false) with cycle := 6600000000 } : Machine.State).cycle := by
  repeat' apply And.intro
  all_goals decide +kernel

/-- A flit of the port has failed its check. -/
def failing : Machine.State :=
  let s := retrains none 0
  s.setPort 47 { s.portAt 47 with rxFails := 3 }

theorem witness_YunavyPorts_failing :
    failing.sessionAt 47 true (failing.portAt 47).peer (session .opened true) ∧ (failing.portAt 47).rxFails ≠ 0 ∧ (failing.portAt 47).retrain = none ∧ (failing.portAt 47).down = false ∧
    (List.replicate 36 (1 : Byte)).getD 33 0 ≠ BitVec.ofNat 8 (session .opened true).rxSeq ∧ flit0.getD 33 0 = BitVec.ofNat 8 (session .opened true).rxSeq := by
  refine ⟨⟨?_, ?_, ?_, ?_⟩, ?_, ?_, ?_, ?_, ?_⟩
  all_goals decide +kernel

theorem witness_BootAndManagement_slots :
    Boot.reset.picked = some false ∧ ({ sc with boot := { sc.boot with picked := none } } : Machine.State).boot.picked = none ∧
    (3 : BitVec 2).toNat = 3 ∧ (0 : Nat) < 48 ∧ (mm sc).edge.named 0 = true ∧ (mm sc).edge.named 1 = false ∧
    (0x84000 : BitVec 20).toNat % 8 = 0 ∧ 0x84000 ≤ (0x861F8 : BitVec 20).toNat ∧ (0x861F8 : BitVec 20).toNat < 0x86200 := by decide +kernel

theorem witness_OriginWinner : [(0 : Org)] ≠ [] ∧ [(0 : Org), 1].Perm [1, 0] := by decide

theorem witness_RegisterFile : (31 : Reg) ≠ 0 ∧ (0 : Reg) ≠ 31 := by decide

/-- The step from this state ends in a next state. -/
noncomputable def goes (s : Machine.State) : Bool :=
  match step s with
  | .next _ => true
  | _ => false

theorem witness_BootStatusStaysLegal : (fetches 0x0090860000000004).boot.legal ∧ goes (fetches 0x0090860000000004) = true := by
  refine ⟨?_, ?_⟩
  · unfold Boot.legal; decide +kernel
  · decide +kernel

/-! ### Ill-formed instructions: one for each check, refused by WellFormed -/

theorem smoke_types :
    (Instr.fadd g0 1 2 3 .i32 .rne).wf = false ∧ (Instr.amAdd g0 1 2 3 .i8).wf = false ∧ (Instr.vaddI g0 1 (.reg 2) 3 .f16 every).wf = false ∧ (Instr.vaddF g0 1 (.reg 2) 3 .i8 .rne every).wf = false ∧
    (Instr.vdot g0 1 (.reg 2) 3 4 .f32 every).wf = false ∧ (Instr.vperm g0 1 (.reg 2) 3 .vb8 every).wf = false ∧ (Instr.badd g0 1 (.reg 2) 3 .f32 .rne every).wf = false ∧
    (Instr.raAdd g0 1 2 3 .i16).wf = false ∧ (Instr.isendLatch g0 1 2 0 0 .f32).wf = false ∧ (Instr.cvt g0 1 2 .vb8 .f32 .rne).wf = false ∧ (Instr.cvt g0 1 2 .f32 .f32 (.sr 1)).wf = false ∧
    (Instr.vcvt g0 1 (.reg 2) .i32 .i32 .rne 0 every).wf = false ∧ (Instr.btof g0 1 (.reg 2) .i8 .vb8 .rne 0 every).wf = false ∧ (Instr.bfromf g0 1 2 3 .vb8 .f16 .rne 0).wf = false ∧
    (Instr.brefmt g0 1 (.reg 2) .vb8 .vb8 .rne 0 every).wf = false ∧ (Instr.mma g0 0 1 2 0 .f16 0 0).wf = false ∧ (Instr.mma g0 0 1 2 0 .vb8 1 0).wf = false := by decide +kernel

theorem smoke_fields :
    (Instr.cmpEq g0 ⟨2, .plain, 2⟩ 1 2).wf = false ∧ (Instr.cmpEq g0 ⟨0, .plain, 0⟩ 1 2).wf = true ∧ (Instr.crr g0 1 5).wf = false ∧ (Instr.crw g0 0x040 1).wf = false ∧
    (Instr.vshl g0 1 (.reg 2) (.imm 8) .i8 every).wf = false ∧ (Instr.vshl g0 1 (.reg 2) (.imm 7) .i8 every).wf = true ∧ (Instr.vins g0 1 2 16 .i32 every).wf = false ∧ (Instr.vext g0 1 (.reg 2) 15 .i32).wf = true ∧
    (Instr.vslide g0 1 (.reg 2) 3 64 .i8 every).wf = false ∧ (Instr.vcvt g0 1 (.reg 2) .i8 .i32 .rne 4 every).wf = false ∧ (Instr.vcvt g0 1 (.reg 2) .i8 .i32 .rne 3 every).wf = true ∧
    (Instr.fqmark g0 ⟨1, .plain, 2⟩ 0 0).wf = false ∧ (Instr.accrd g0 1 0 0 2 .f32 .rne).wf = false ∧ (Instr.accwr g0 0 1 0 0 .f16).wf = false ∧ (Instr.accexp g0 1 0 0 3 .vb16 .rne).wf = false ∧
    (Instr.blld g0 0 8 9 .bf16).wf = false ∧ (Instr.vredAdd g0 1 (.reg 2) .i32 .rz 0).wf = false := by decide +kernel

theorem smoke_streams : (Instr.scpy g0 (some 1) 2 3 4 1 1 0).wf = false ∧ (Instr.scpy g0 none 2 3 4 0 3 0).wf = false ∧ (Instr.sgth g0 1 2 3 4 3 0).wf = false := by decide +kernel

theorem smoke_decode : (decode 0#64).toOption = none ∧ (decode 0x0021084000000040#64).toOption = none ∧ (decode 0x002108400000003F#64).toOption = some (.shli g0 4 4 63) := by decide +kernel

/-! ### Single steps -/

/-- The state after an operation. -/
noncomputable def after (i : Instr) (s : Machine.State) : Machine.State :=
  match exec i s with
  | .next t => t
  | _ => s

/-- What core 0 shows of scalar d after an operation on it: value and poison. -/
noncomputable def sees (d : Reg) (i : Instr) (s : Machine.State) : Word × Bool := let r := (after i s).regs; (r.rdS d, r.psn d)

-- Expected values: R98 to R102, by hand from the operands of `sc`: s1 = -1, s2 = -2^63, s3 = 0xEFFF8, s9 = 1, s7 poisoned.
theorem test_add_wraps : sees 10 (.add g0 10 1 9) sc = (0, false) ∧ (after (.add g0 10 1 9) sc).regs.pc = 8 := by decide +kernel
theorem test_add_to_s0 : sees 0 (.add g0 0 9 9) sc = (0, false) := by decide +kernel
theorem test_add_poison : sees 10 (.add g0 10 7 9) sc = (0, true) ∧ (after (.add g0 10 7 9) sc).regs.astat = fPSN := by decide +kernel
theorem test_sub_source_is_destination : sees 9 (.sub g0 9 0 9) sc = (0xFFFFFFFFFFFFFFFF, false) := by decide +kernel
theorem test_andn : sees 10 (.andn g0 10 1 3) sc = (0xFFFFFFFFFFF10007, false) := by decide +kernel
theorem test_shl_count_mod_64 : sees 10 (.shl g0 10 9 1) sc = (0x8000000000000000, false) := by decide +kernel
theorem test_sra_sign : sees 10 (.sra g0 10 2 1) sc = (0xFFFFFFFFFFFFFFFF, false) := by decide +kernel
theorem test_shr_zero_fill : sees 10 (.shr g0 10 2 1) sc = (1, false) := by decide +kernel
theorem test_ror_by_0 : sees 10 (.ror g0 10 3 0) sc = (0xEFFF8, false) ∧ sees 10 (.ror g0 10 9 9) sc = (0x8000000000000000, false) := by decide +kernel
theorem test_min_signed : sees 10 (.min g0 10 1 9) sc = (0xFFFFFFFFFFFFFFFF, false) := by decide +kernel
theorem test_minn_unsigned : sees 10 (.minn g0 10 1 9) sc = (1, false) := by decide +kernel
theorem test_addi_sign : sees 10 (.addi g0 10 9 0xFFFFFFFF) sc = (0, false) := by decide +kernel
theorem test_mulh : sees 10 (.mulh g0 10 1 1) sc = (0, false) := by decide +kernel
theorem test_mulhn : sees 10 (.mulhn g0 10 1 1) sc = (0xFFFFFFFFFFFFFFFE, false) := by decide +kernel
theorem test_div_by_zero : sees 10 (.div g0 10 9 0) sc = (0xFFFFFFFFFFFFFFFF, false) := by decide +kernel
theorem test_div_overflow : sees 10 (.div g0 10 2 1) sc = (0x8000000000000000, false) := by decide +kernel
theorem test_rem_by_zero : sees 10 (.rem g0 10 3 0) sc = (0xEFFF8, false) := by decide +kernel
theorem test_rem_overflow : sees 10 (.rem g0 10 2 1) sc = (0, false) := by decide +kernel
theorem test_divn : sees 10 (.divn g0 10 2 9) sc = (0x8000000000000000, false) := by decide +kernel
theorem test_clz_zero : sees 10 (.clz g0 10 0) sc = (64, false) := by decide +kernel
theorem test_popc : sees 10 (.popc g0 10 3) sc = (16, false) := by decide +kernel
theorem test_movi : sees 4 (.movi g0 4 0x9ABCDEF0) sc = (0xFFFFFFFF9ABCDEF0, false) := by decide +kernel
theorem test_movih : sees 4 (.movih g0 4 0x12345678) (after (.movi g0 4 0x9ABCDEF0) sc) = (0x123456789ABCDEF0, false) := by decide +kernel
theorem test_mov_poison : (sees 10 (.mov g0 10 7) sc).2 = true ∧ (sees 7 (.movi g0 7 1) sc) = (1, false) := by decide +kernel
theorem test_sel : sees 10 (.sel g0 10 1 9 1) sc = (1, false) ∧ sees 10 (.sel g0 10 1 9 0) sc = (0xFFFFFFFFFFFFFFFF, false) := by decide +kernel
theorem test_cmp_lt : (after (.cmpLt g0 ⟨2, .plain, 5⟩ 1 9) sc).regs.rdG 2 = true ∧ (after (.cmpLt g0 ⟨2, .plain, 5⟩ 1 9) sc).regs.rdG 5 = false := by decide +kernel
theorem test_cmp_lo : (after (.cmpLo g0 ⟨2, .plain, 5⟩ 1 9) sc).regs.rdG 2 = false ∧ (after (.cmpLo g0 ⟨2, .plain, 5⟩ 1 9) sc).regs.rdG 5 = true := by decide +kernel
theorem test_grd : sees 10 (.grd g0 10) sc = (1, false) := by decide +kernel
-- R48, R106: 1 / 3 in f32 rounds to 0x3EAAAAAB and sets INX; 1 / 0 is infinity with no flag; the root of -1 is the canonical NaN with IOE.
/-- s1 = 1, s2 = 3, s3 = 0, s4 = -1, in f32. -/
def fl : Machine.State := focus (scalars [(1, 0x3F800000), (2, 0x40400000), (4, 0xBF800000)] [7])
theorem test_fdiv : sees 10 (.fdiv g0 10 1 2 .f32 .rne) fl = (0x3EAAAAAB, false) ∧ (after (.fdiv g0 10 1 2 .f32 .rne) fl).regs.astat = fINX := by decide +kernel
theorem test_fdiv_by_zero : sees 10 (.fdiv g0 10 1 3 .f32 .rne) fl = (0x7F800000, false) ∧ (after (.fdiv g0 10 1 3 .f32 .rne) fl).regs.astat = 0 := by decide +kernel
theorem test_fsqrt_negative : sees 10 (.fsqrt g0 10 4 .f32 .rne) fl = (0x7FC00000, false) ∧ (after (.fsqrt g0 10 4 .f32 .rne) fl).regs.astat = fIOE := by decide +kernel
-- R108, R110: the store and the load of the last word of the program range.
theorem test_store_load :
    (after (.stI64 g0 2 3 0) sc).byte 0xEFFFF = 0x80 ∧ (after (.stI64 g0 2 3 0) sc).byte 0xEFFF8 = 0 ∧ sees 10 (.ldI8 g0 10 3 7) (after (.stI64 g0 2 3 0) sc) = (0xFFFFFFFFFFFFFF80, false) ∧
    sees 10 (.ldN8 g0 10 3 7) (after (.stI64 g0 2 3 0) sc) = (0x80, false) := by decide +kernel
-- R114, R115: a call links to the next word, and a branch counts words.
theorem test_call : (after (.call g0 2) sc).regs.pc = 16 ∧ (after (.call g0 2) sc).regs.rdS 31 = 8 := by decide +kernel
theorem test_br_back : (after (.br g0 (-1)) (at' 0x30)).regs.pc = 0x28 := by decide +kernel
-- R70, the worked example of the instruction words: a step stores the first word at the pc as these bytes, runs it, and the pc advances.
theorem test_step_movi :
    (fetches 0x0090860000000004).core.ls.bytes 0 8 = [4, 0, 0, 0, 0, 0x86, 0x90, 0] ∧
    (match step (fetches 0x0090860000000004) with | .next t => t.regs.rdS 3 == 4 && t.regs.pc == 8 | _ => false) = true := by decide +kernel

-- R37 to R40, the worked example of names: relative address 0x00030052 under the entry 0x050004A6 is 0x05012A32.
/-- A group of four pages whose page 3 has that entry. -/
def pages4 : Core := (focus fun c => { c.wrBytes (0xFC000 + 4 * 3) [0xA6, 0x04, 0x00, 0x05] with grpid := 0x30042 }).core
theorem test_name : (pages4.relToNamed 0x00030052).map Prod.snd = some 0x05012A32 := by decide +kernel

-- R325, the worked example: the record of a misaligned load.
/-- Context 1 of that core, on module 7, about to issue the load. -/
def ex325 : Machine.State := focus fun c =>
  let c := { c with name := 0x705012A32, grpid := 0x42, trapvec := 1, cycle := 1234567, run := 1 }
  let c := c.setCtx { c.ctx with st := .running }
  (c.modRegs fun r => { (r.wrS 6 0x3000 false) with pc := 0x210 }).wrBytes 0x210 [4, 0, 0, 0, 0x60, 0xD2, 0x00, 0x01]
theorem test_trap_record :
    let c := (after (.ldI64 g0 9 6 4) ex325).core
    (c.ctx.trapRec.toList.take 7 = [0x0041000000000210, 0x0100D26000000004, 0x3004, 0x0000000705012A32, 0x0042000000000000, 0, 0x12D687]) ∧
    c.ls.bytes 0xFD200 8 = [0x10, 0x02, 0, 0, 0, 0, 0x41, 0] ∧ c.regs.pc = 0 ∧ c.regs.handler = true := by decide +kernel

-- R269, R270, the worked example of placement: pages (0,0) to (0,3) and (1,2) are taken.
theorem test_placement :
    placeContig (fun p => !([0, 1, 2, 3, 34] : List Nat).contains p) 2 2 = some [4, 5, 36, 37] ∧ placeScatter (fun p => !([0, 1, 2, 3, 34] : List Nat).contains p) 3 = some [4, 5, 6] := by decide +kernel

-- R242, R251, the worked example of hops: a repaired field and its neighbour.
/-- Field (1,0) has CSKIP 30 in row 8; field (1,1) has RSKIP 9 and CSKIP 32 in row 8, 0 in row 10. -/
def fields2 : Machine.State := (sc.setFieldAt 8 { Field.reset 8 with rows := [(8, ⟨30, true, false⟩)] }).setFieldAt 9 { Field.reset 9 with rskip := 9, rows := [(8, ⟨32, false, false⟩), (10, ⟨0, true, false⟩)] }
theorem test_hops :
    fields2.hopCost (keyOf 0 40 29) (keyOf 1 40 29) = 1 ∧ fields2.hopCost (keyOf 1 40 29) (keyOf 1 40 30) = 4 ∧ fields2.hopCost (keyOf 1 40 30) (keyOf 1 40 31) = 2 ∧
    fields2.hopCost (keyOf 1 40 31) (keyOf 1 40 32) = 4 ∧ fields2.hopCost (keyOf 1 40 32) (keyOf 1 40 33) = 2 ∧ fields2.hopCost (keyOf 1 40 33) (keyOf 1 41 33) = 6 := by decide +kernel

/-! ### Decoding: words from the examples of the specification, and from its encoding tables -/

theorem test_word_movi : (decode 0x0090860000000004#64).toOption = some (.movi ⟨false, 0⟩ 3 4) := by decide +kernel
theorem test_word_movi2 : (decode 0x0090880000000100#64).toOption = some (.movi ⟨false, 0⟩ 4 256) := by decide +kernel
theorem test_word_addi : (decode 0x00200840FFFFFFC0#64).toOption = some (.addi ⟨false, 0⟩ 4 4 (-64)) := by decide +kernel
theorem test_word_cmp_lt : (decode 0x0040903250000000#64).toOption = some (.cmpLt ⟨false, 0⟩ ⟨2, .plain, 5⟩ 3 4) := by decide +kernel
theorem test_word_end : (decode 0x0A20800000000000#64).toOption = some (.endAct ⟨false, 0⟩) := by decide +kernel
theorem test_word_adr : (decode 0x00910C0000000040#64).toOption = some (.adr ⟨false, 0⟩ 6 0x40) := by decide +kernel
theorem test_word_ld_i32 : (decode 0x0100926000000000#64).toOption = some (.ldI32 ⟨false, 0⟩ 9 6 0) := by decide +kernel
theorem test_word_loop : (decode 0x01900070FFFFFFFD#64).toOption = some (.loop ⟨false, 0⟩ 7 (-3)) := by decide +kernel
theorem test_word_st_i64 : (decode 0x0110D06000000000#64).toOption = some (.stI64 ⟨false, 0⟩ 8 6 0) := by decide +kernel
theorem test_word_bld : (decode 0x04B2046383400001#64).toOption = some (.bld ⟨false, 0⟩ 2 6 7 .vb8 1) := by decide +kernel
theorem test_word_badd : (decode 0x0480061103400000#64).toOption = some (.badd ⟨false, 0⟩ 3 (.reg 1) 2 .vb8 .rne ⟨0, false⟩) := by decide +kernel
theorem test_word_bst : (decode 0x04B2466383400002#64).toOption = some (.bst ⟨false, 0⟩ 3 6 7 .vb8 2) := by decide +kernel
theorem test_word_macq : (decode 0x0820080020000000#64).toOption = some (.macq ⟨false, 0⟩ ⟨1, .plain, 2⟩) := by decide +kernel
theorem test_word_br_guarded : (decode 0x21800000FFFFFFFF#64).toOption = some (.br ⟨false, 2⟩ (-1)) := by decide +kernel
theorem test_word_blld : (decode 0x0840008483400000#64).toOption = some (.blld ⟨false, 0⟩ 0 8 9 .vb8) := by decide +kernel
theorem test_word_accz : (decode 0x08100000000003F8#64).toOption = some (.accz ⟨false, 0⟩ 0 (-8)) := by decide +kernel
theorem test_word_mma : (decode 0x0800006383400000#64).toOption = some (.mma ⟨false, 0⟩ 0 6 7 0 .vb8 0 0) := by decide +kernel
theorem test_word_accexp : (decode 0x0811060003400000#64).toOption = some (.accexp ⟨false, 0⟩ 3 0 0 0 .vb8 .rne) := by decide +kernel
theorem test_word_mrel : (decode 0x0820400000000000#64).toOption = some (.mrel ⟨false, 0⟩) := by decide +kernel
theorem test_word_chbind_land : (decode 0x0A100E0200000003#64).toOption = some (.chbindLand ⟨false, 0⟩ 7 0 ⟨3, 0, false, false, 0⟩) := by decide +kernel
theorem test_word_send : (decode 0x0A0000852C000003#64).toOption = some (.send ⟨false, 0⟩ 8 10 11 3) := by decide +kernel
theorem test_word_await_ctr : (decode 0x0A2000C000000002#64).toOption = some (.awaitCtr ⟨false, 0⟩ 12 2) := by decide +kernel
theorem test_word_crw_trapvec : (decode 0x01A0406000000020#64).toOption = some (.crw ⟨false, 0⟩ 0x020 6) := by decide +kernel
theorem test_word_bkpt : (decode 0x0C10800000000005#64).toOption = some (.bkpt ⟨false, 0⟩ 5) := by decide +kernel
theorem test_word_tret_next : (decode 0x0C10400000000001#64).toOption = some (.tretNext ⟨false, 0⟩) := by decide +kernel
theorem test_word_isend_latch : (decode 0x0C208061034000A1#64).toOption = some (.isendLatch ⟨false, 0⟩ 6 2 1 5 .vb8) := by decide +kernel
theorem test_word_ld_n16_guarded : (decode 0x71016A6000000060#64).toOption = some (.ldN16 ⟨false, 7⟩ 21 6 0x60) := by decide +kernel
theorem test_word_mov_negated : (decode 0x90901C8000000000#64).toOption = some (.mov ⟨true, 1⟩ 14 8) := by decide +kernel
theorem test_word_fcmp_lt : (decode 0x00484884A2400000#64).toOption = some (.fcmpLt ⟨false, 0⟩ ⟨1, .plain, 2⟩ 8 9 .f16) := by decide +kernel
theorem test_word_slvl : (decode 0x0A30032000000000#64).toOption = some (.slvl ⟨false, 0⟩ 1 18 0 0) := by decide +kernel
theorem test_word_scpy : (decode 0x0A30411584000014#64).toOption = some (.scpy ⟨false, 0⟩ none 17 11 1 0 1 0) := by decide +kernel
theorem test_word_isbind : (decode 0x0C200C7000000000#64).toOption = some (.isbind ⟨false, 0⟩ 6 7) := by decide +kernel
theorem test_word_await_tkt : (decode 0x0A20006300000000#64).toOption = some (.awaitTkt ⟨false, 0⟩ 6) := by decide +kernel
theorem test_word_issync : (decode 0x0C20C1D000000000#64).toOption = some (.issync ⟨false, 0⟩ 29) := by decide +kernel
theorem test_word_mma_shift : (decode 0x08000108A7400001#64).toOption = some (.mma ⟨false, 0⟩ 0 16 17 9 .vb8 0 1) := by decide +kernel
theorem test_word_mxfr_migrate : (decode 0x0820800000000001#64).toOption = some (.mxfrMigrate ⟨false, 0⟩ 0 0) := by decide +kernel
theorem test_word_ret : (decode 0x018101F000000000#64).toOption = some (.ret ⟨false, 0⟩ 31) := by decide +kernel
theorem test_word_cmpi_lo : (decode 0x0045093000000004#64).toOption = some (.cmpiLo ⟨false, 0⟩ ⟨1, .plain, 0⟩ 19 4) := by decide +kernel
theorem test_word_gor : (decode 0x0050601180000000#64).toOption = some (.gor ⟨false, 0⟩ ⟨4, .plain, 0⟩ 1 3) := by decide +kernel
theorem test_word_bseal : (decode 0x0A403C0000000000#64).toOption = some (.bseal ⟨false, 0⟩ 30) := by decide +kernel
theorem test_word_waitb : (decode 0x0A40400000000001#64).toOption = some (.waitb ⟨false, 0⟩ 1) := by decide +kernel
theorem test_word_bstat : (decode 0x0A40BBE000000000#64).toOption = some (.bstat ⟨false, 0⟩ 29 30) := by decide +kernel
theorem test_word_put : (decode 0x0A50398724000000#64).toOption = some (.put ⟨false, 0⟩ 28 24 14 9) := by decide +kernel
theorem test_word_crr_name : (decode 0x01A02E0000000002#64).toOption = some (.crr ⟨false, 0⟩ 23 2) := by decide +kernel
theorem test_word_tbuild : (decode 0x0A604E6000000000#64).toOption = some (.tbuild ⟨false, 0⟩ 7 6) := by decide +kernel
theorem test_word_chbind_land_prio : (decode 0x0A10140200000802#64).toOption = some (.chbindLand ⟨false, 0⟩ 10 0 ⟨2, 0, true, false, 0⟩) := by decide +kernel
theorem test_word_evsig : (decode 0x0C3040B600000000#64).toOption = some (.evsig ⟨false, 0⟩ 11 12) := by decide +kernel
theorem test_word_xsend : (decode 0x0A0081973C000002#64).toOption = some (.xsend ⟨false, 0⟩ 25 14 15 2) := by decide +kernel
theorem test_word_vred_max : (decode 0x0460901002C00000#64).toOption = some (.vredMax ⟨false, 0⟩ 8 (.reg 1) .f32 0) := by decide +kernel
theorem test_word_ctrb : (decode 0x0A600F3900000001#64).toOption = some (.ctrb ⟨false, 0⟩ 7 19 18 1) := by decide +kernel
theorem test_word_vperm : (decode 0x04500C1281C00000#64).toOption = some (.vperm ⟨false, 0⟩ 6 (.reg 1) 5 .n32 ⟨0, false⟩) := by decide +kernel
theorem test_word_vins : (decode 0x04508C9002C00000#64).toOption = some (.vins ⟨false, 0⟩ 6 9 0 .f32 ⟨0, false⟩) := by decide +kernel
theorem test_word_vlog2_ag : (decode 0x04A0D28002C30000#64).toOption = some (.vlog2 ⟨false, 0⟩ 9 (.reg 8) ⟨1, true⟩) := by decide +kernel
theorem test_word_vext : (decode 0x0450D68001C00001#64).toOption = some (.vext ⟨false, 0⟩ 11 (.reg 8) 1 .n32) := by decide +kernel
theorem test_word_fsub : (decode 0x00605AD582C00000#64).toOption = some (.fsub ⟨false, 0⟩ 13 13 11 .f32 .rne) := by decide +kernel
theorem test_word_fence_sys : (decode 0x0A70000500000000#64).toOption = some (.fenceSys ⟨false, 0⟩) := by decide +kernel
theorem test_word_cmpi_eq : (decode 0x0044187000000003#64).toOption = some (.cmpiEq ⟨false, 0⟩ ⟨3, .plain, 0⟩ 7 3) := by decide +kernel

end Sys2Proof.Tests
end

namespace Sys2Proof.Machine
open Sys2Proof.Laws

/-! ### The register file (R12) -/

theorem Regs.rdG_wrG (r : Regs) (d j : BitVec 3) (b : Bool) :
    (r.wrG d b).rdG j = if j = 0#3 then true else if j = d then b else r.rdG j := by
  by_cases hj : j = 0#3
  · simp [hj]
  · by_cases hd : d = 0#3
    · simp [Regs.wrG, hd, hj]
    · have hn : (j.toNat = d.toNat) = (j = d) := by simp [BitVec.toNat_inj]
      have h0 : (j == 0#3) = false := by simp [hj]
      simp [Regs.rdG, Regs.wrG, h0, hj, hd, getLsbD_setBit _ _ _ _ d.isLt, hn]

theorem Regs.rdM_wrM (r : Regs) (d j : BitVec 3) (x : Word) :
    (r.wrM d x).rdM j = if j = 0#3 then BitVec.allOnes 64 else if j = d then x else r.rdM j := by
  by_cases hj : j = 0#3
  · simp [hj]
  · by_cases hd : d = 0#3
    · simp [Regs.wrM, hd, hj]
    · have hn : (d.toNat = j.toNat) = (j = d) := by simp [BitVec.toNat_inj, eq_comm]
      simp [Regs.rdM, Regs.wrM, hj, hd, Vector.getElem_set, hn]

theorem Regs.rdV_wrV (r : Regs) (d j : Reg) (x : VData) (sd : Side) :
    (r.wrV d x sd).rdV j = if j = d then x else r.rdV j := by
  have hn : (d.toNat = j.toNat) = (j = d) := by simp [BitVec.toNat_inj, eq_comm]
  simp [Regs.rdV, Regs.wrV, Vector.getElem_set, hn]

theorem Regs.rdSide_wrV (r : Regs) (d j : Reg) (x : VData) (sd : Side) :
    (r.wrV d x sd).rdSide j = if j = d then sd else r.rdSide j := by
  have hn : (d.toNat = j.toNat) = (j = d) := by simp [BitVec.toNat_inj, eq_comm]
  simp [Regs.rdSide, Regs.wrV, Vector.getElem_set, hn]

/-- A scalar write reaches d alone, and a write to s0 reaches no register. -/
theorem Regs.wrS_elsewhere (r : Regs) {d j : Reg} (x : Word) (p : Bool) (h : j ≠ d ∨ d = 0#5) :
    (r.wrS d x p).rdS j = r.rdS j ∧ (r.wrS d x p).psn j = r.psn j := by
  rcases h with hj | rfl
  · by_cases h0 : j = 0#5
    · simp [h0]
    · simp [Regs.rdS_wrS, Regs.psn_wrS, h0, hj]
  · simp

/-- Settles O58: one reading lemma for each kind of register. -/
theorem registerFile : Obligations.RegisterFile := by
  unfold Obligations.RegisterFile
  refine ⟨fun r d x p hd => ?_, fun r d j x p h => Regs.wrS_elsewhere r x p h, fun r => ⟨rfl, rfl, rfl, rfl⟩, Regs.rdG_wrG, Regs.rdM_wrM,
    fun r d j x sd => ⟨Regs.rdV_wrV r d j x sd, Regs.rdSide_wrV r d j x sd⟩, fun r d x p => by simp⟩
  have h0 : d ≠ 0#5 := hd
  simp [Regs.rdS_wrS, Regs.psn_wrS, h0]

/-! ### Issue (R22, R70) -/

/-- An issue that is fixed as the next move is made at once; no other core's unit acts in it. -/
theorem step_issue {s : State} {k : Nat} (h : s.turn = some (.issue k)) : step s = State.issueAt { s with turn := none } k := by
  unfold step State.go
  rw [h]
  rfl

/-- A word in the program range that decodes is run. -/
theorem State.runWord_of_decode {s : State} {i : Instr} (hpc : s.core.regs.pc.toNat < 0xF0000) (hi : decode s.core.fetchWord = .ok i) :
    s.runWord = exec i s := by
  unfold State.runWord
  rw [if_neg (by omega), hi]

/-- An issue runs the word fetched by the core that it puts in focus. -/
theorem State.issueAt_of_decode {s u : State} {k : Nat} {i : Instr} (hu : u = { s with cur := k }) (h : s.mayIssue k = true)
    (hpc : u.core.regs.pc.toNat < 0xF0000) (hi : decode u.core.fetchWord = .ok i) :
    s.issueAt k = match exec i u with
      | .next t => .next (t.afterIssue k u.core)
      | .fault f => .fault f
      | .refused r => .refused r := by
  subst hu
  unfold State.issueAt
  rw [if_pos h, ← State.runWord_of_decode hpc hi]
  rfl

/-- Settles O5: the fixed move is the issue, and the fetched word is the one that decodes. -/
theorem stepRunsDecodedInstruction : Obligations.StepRunsDecodedInstruction := by
  unfold Obligations.StepRunsDecodedInstruction
  intro s k i u ht hm hpc hi
  rw [step_issue ht]
  exact State.issueAt_of_decode rfl hm hpc hi

/-! ### Reset -/

theorem State.coreAt_reset (k : Nat) : State.reset.coreAt k = { Core.reset 0 k with cycle := 0 } := rfl

theorem Core.ctxAt_replicate {c : Core} {x : Ctx} (h : c.ctxs = Vector.replicate 4 x) (k : BitVec 2) : c.ctxAt k = x := by
  simp [Core.ctxAt, h]

/-- With no READY context and nothing pending, there is nothing to select. -/
theorem Core.candidates_of_idle {c : Core} (hr : ∀ k, (c.ctxAt k).st ≠ .ready) (hp : c.pend = []) : c.candidates = [] := by
  simp [Core.candidates, hp, hr]

theorem LQueue.status_empty : LQueue.empty.status = 0 := by decide

/-- Settles O59: nothing is stored for a core, queue, event, page, field or port, so each reads as its default. -/
theorem resetState : Obligations.ResetState := by
  unfold Obligations.ResetState
  refine ⟨by simp [Boot.legal, State.reset, Boot.reset], rfl, fun k => ?_, fun _ => LQueue.status_empty, fun e => rfl, rfl, fun p _ => ⟨rfl, rfl⟩,
    fun f => ⟨rfl, fun pr => rfl⟩, fun p => rfl⟩
  rw [State.coreAt_reset]
  refine ⟨rfl, rfl, rfl, Core.candidates_of_idle (fun x => ?_) rfl, rfl, rfl⟩
  rw [Core.ctxAt_replicate rfl]
  exact nofun

end Sys2Proof.Machine

namespace Sys2Proof.Machine
open Sys2Proof.Laws

/-! ### What closing a window leaves of the registers (R153, R169, R329) -/

/-- The registers of a core follow from its contexts and which of them runs. -/
theorem Core.regs_congr {c d : Core} (hx : c.ctxs = d.ctxs) (hr : c.run = d.run) : c.regs = d.regs := by
  simp [Core.regs, Core.ctx, Core.ctxAt, hx, hr]

@[simp] theorem Core.wrBytes_regs (c : Core) (a : Nat) (bs : List Byte) : (c.wrBytes a bs).regs = c.regs :=
  Core.regs_congr (Core.wrBytes_ctxs c a bs) (Core.wrBytes_run c a bs)

@[simp] theorem Core.wrWord_regs (c : Core) (a : Nat) (x : Word) : (c.wrWord a x).regs = c.regs := Core.wrBytes_regs ..

@[simp] theorem Core.wrHold_regs (c : Core) (off : Nat) (bs : List Byte) : (c.wrHold off bs).regs = c.regs := by simp [Core.wrHold]

theorem Core.wrHeader_regs (c : Core) (o : Op) : (c.wrHeader o).regs = c.regs := by
  unfold Core.wrHeader
  split
  · rfl
  · exact Core.wrHold_regs ..

theorem Core.freeRetained_regs (c : Core) : c.freeRetained.regs = c.regs := by
  have h : ∀ (xs : List Retained), (xs.foldl (fun c x => c.wrWord (0xFE800 + 8 * x.slot) 0) c).regs = c.regs := fun xs =>
    foldl_keeps Core.regs _ (fun d x => Core.wrWord_regs d _ 0) xs c
  unfold Core.freeRetained
  simp only [Core.regs, Core.ctx_setCtx]
  exact h _

theorem Core.closeWindow_regs (c : Core) : c.closeWindow.regs = c.regs := by
  have h : ∀ (d : Core) (os : List Op), (os.foldl (fun c o => if o.id ≥ c.win.opFrom then c.wrHeader o else c) d).regs = d.regs := by
    intro d os
    refine foldl_keeps Core.regs _ (fun e o => ?_) os d
    split
    · exact Core.wrHeader_regs e o
    · rfl
  unfold Core.closeWindow
  exact (Core.freeRetained_regs _).trans (h _ _)

/-- Flags raised in a context reach the running one, or leave its registers alone. -/
theorem Core.regs_flagCtx (c : Core) (x : BitVec 2) (fl : Flags) :
    ∃ f, (c.setCtxAt x { c.ctxAt x with regs := (c.ctxAt x).regs.flag fl }).regs = c.regs.flag f := by
  by_cases h : c.run = x
  · subst h
    exact ⟨fl, by simp [Core.regs, Core.ctx]⟩
  · exact ⟨0, by simp [Core.regs, Core.ctx, Core.ctxAt_setCtxAt_other c _ h]⟩

theorem Core.writeTile_regs (c : Core) (m : MmaJob) : ∃ f, (c.writeTile m).regs = c.regs.flag f := Core.regs_flagCtx c m.ctx _

theorem Core.drainMma_regs (c : Core) : ∃ f, c.drainMma.regs = c.regs.flag f := by
  unfold Core.drainMma
  split
  · exact ⟨0, (Regs.flag_zero _).symm⟩
  · next m _ =>
    obtain ⟨f, hf⟩ := Core.writeTile_regs c m
    refine ⟨f, ?_⟩
    split
    · exact (Core.closeWindow_regs _).trans hf
    · exact hf

/-- Closing the window raises at most flags: those of an MMA in flight. -/
theorem Core.commit_regs (c : Core) : ∃ f, c.commit.regs = c.regs.flag f := by
  obtain ⟨f, hf⟩ := Core.drainMma_regs c
  exact ⟨f, (Core.closeWindow_regs _).trans hf⟩

@[simp] theorem Core.allocTicket_regs (c : Core) (kind : BitVec 4) : (c.allocTicket kind).1.regs = c.regs := Core.wrWord_regs ..

@[simp] theorem Core.pushOp_regs (c : Core) (o : Op) : (c.pushOp o).regs = c.regs := Core.wrHold_regs ..

/-! ### Entering an operation into the hold buffer (R169, R193) -/

/-- Two ways to fill in an operation agree on a core and on what closing its window makes of it. -/
def AgreeFrom (k : Core) (mk mk' : Core → Op) : Prop := ∀ c f, c.regs = k.regs.flag f → mk c = mk' c

theorem AgreeFrom.self {k : Core} {mk mk' : Core → Op} (h : AgreeFrom k mk mk') : mk k = mk' k := h k 0 (Regs.flag_zero _).symm

theorem AgreeFrom.commit {k : Core} {mk mk' : Core → Op} (h : AgreeFrom k mk mk') : mk k.commit = mk' k.commit :=
  (Core.commit_regs k).elim (h _)

theorem AgreeFrom.ite {k : Core} {mk mk' : Core → Op} (h : AgreeFrom k mk mk') (b : Bool) :
    mk (if b then k else k.commit) = mk' (if b then k else k.commit) := by
  cases b
  · exact h.commit
  · exact h.self

theorem AgreeFrom.allocTicket {k : Core} {mk mk' : Core → Op} (h : AgreeFrom k mk mk') (b : Bool) (kind : BitVec 4) :
    mk ((if b then k else k.commit).allocTicket kind).1 = mk' ((if b then k else k.commit).allocTicket kind).1 := by
  cases b
  · obtain ⟨f, hf⟩ := Core.commit_regs k
    exact h _ f ((Core.allocTicket_regs _ _).trans hf)
  · exact h _ 0 ((Core.allocTicket_regs _ _).trans (Regs.flag_zero _).symm)

/-- An operation without a ticket enters the buffer, or waits where it does not fit even in a new window. -/
theorem Core.issueOp_plain {k : Core} {mk mk' : Core → Op} (h : AgreeFrom k mk mk') :
    let fits (c : Core) := c.holdRoom (recordSize (mk' c).payload.length)
    let c' := if fits k then k else k.commit
    k.issueOp none mk = .ok (if fits c' then (c'.pushOp (mk' c')).adv else c') := by
  intro fits c'
  simp only [Core.issueOp, Option.isNone_none, Bool.true_or, Bool.and_true, h.self, h.ite, fits, c']
  exact (apply_ite Except.ok ..).symm

/-- An operation with a ticket also waits for the slot of the next ticket. -/
theorem Core.issueOp_ticketed {k : Core} {mk mk' : Core → Op} (d : Reg) (kind : BitVec 4) (h : AgreeFrom k mk mk') :
    let fits (c : Core) := c.holdRoom (recordSize (mk' c).payload.length) && !c.ticketBusy
    let c' := if fits k then k else k.commit
    let x := c'.allocTicket kind
    k.issueOp (some (d, kind)) mk = .ok (if fits c' then
      (x.1.pushOp { mk' x.1 with tkt := some x.2 }).modRegs fun r => (r.wrS d (x.2.setWidth 64) false).adv else c') := by
  intro fits c' x
  simp only [Core.issueOp, Option.isNone_some, Bool.false_or, h.self, h.ite, h.allocTicket, fits, c', x]
  exact (apply_ite Except.ok ..).symm

theorem sends_of {i : Instr} {p : Pred} {s : State} {f : Core → Except Trap Core} {k : Core} {mk mk' : Core → Op} (hx : s.executes p)
    (he : exec i s = issue p f s) (hf : f s.core = k.issueOp none mk) (h : AgreeFrom k mk mk') : Sends i s k mk' :=
  he.trans (issue_ok hx (hf.trans (Core.issueOp_plain h)))

theorem sendsTicketed_of {i : Instr} {p : Pred} {s : State} {f : Core → Except Trap Core} {k : Core} {d : Reg} {kind : BitVec 4}
    {mk mk' : Core → Op} (hx : s.executes p) (he : exec i s = issue p f s) (hf : f s.core = k.issueOp (some (d, kind)) mk)
    (h : AgreeFrom k mk mk') : SendsTicketed i s k d kind mk' :=
  he.trans (issue_ok hx (hf.trans (Core.issueOp_ticketed d kind h)))

/-! ### Names (R37 to R40, R170) -/

/-- A lookup touches the page-map cache with its miss count and the core's count of open choices, and nothing else. -/
theorem Core.pageLookup_fst (c : Core) (pg : BitVec 10) :
    ∃ pm mi fr, (c.pageLookup pg).1 = { c with pmCache := pm, pmMiss := mi, free := fr } := by
  unfold Core.pageLookup
  split
  · exact ⟨_, _, _, rfl⟩
  · exact ⟨_, _, _, rfl⟩

theorem NamedFrom.core_eq {c k : Core} {rel : BitVec 32} {w : Word} (h : NamedFrom c rel k w) :
    ∃ pm mi fr, k = { c with pmCache := pm, pmMiss := mi, free := fr } := by
  obtain ⟨_, _, _, _, rfl, _⟩ := h
  exact Core.pageLookup_fst ..

theorem NamedFrom.regs_eq {c k : Core} {rel : BitVec 32} {w : Word} (h : NamedFrom c rel k w) : k.regs = c.regs := by
  obtain ⟨pm, mi, fr, rfl⟩ := h.core_eq
  rfl

theorem NamedFrom.translate {c k : Core} {rel : BitVec 32} {w : Word} (h : NamedFrom c rel k w) (info : Word) :
    c.translate rel info = .ok (k, w) := by
  obtain ⟨h1, h2, hn, hv, rfl, rfl⟩ := h
  have hn' : ¬ (rel.extractLsb' 16 10).toNat > c.npg := Nat.not_lt.mpr hn
  unfold Core.translate Core.relToNamed
  simp only [h1, h2, ne_eq, not_true_eq_false, or_self, if_false, if_neg hn', hv, if_true]
  rfl

theorem wordMod_namedWord (m : BitVec 20) (a : BitVec 32) : wordMod (namedWord m a) = m := by
  apply BitVec.eq_of_getLsbD_eq
  intro i hi
  have h52 : 32 + i < 20 + 32 := by omega
  simp only [wordMod, namedWord, BitVec.getLsbD_extractLsb', BitVec.getLsbD_append, hi, h52, decide_true, Bool.true_and, if_true]
  rw [if_neg (by omega), Nat.add_sub_cancel_left]

theorem NamedFrom.wordMod_eq {c k : Core} {rel : BitVec 32} {w : Word} (h : NamedFrom c rel k w) : wordMod w = c.modu := by
  obtain ⟨_, _, _, _, _, rfl⟩ := h
  exact wordMod_namedWord ..

theorem extractLsb'_zero_eq_setWidth {n : Nat} (x : BitVec n) (m : Nat) : x.extractLsb' 0 m = x.setWidth m := by
  apply BitVec.eq_of_getLsbD_eq
  intro i hi
  simp

/-- An operand whose upper half is zero is taken as a relative address. -/
theorem Core.relOperand_of_named {c k : Core} {w dst : Word} (hw : w.toNat < 2 ^ 32) (h : NamedFrom c (w.setWidth 32) k dst) :
    c.relOperand w = .ok (k, dst) := by
  have h0 : w.extractLsb' 32 32 = 0 := by
    apply BitVec.eq_of_toNat_eq
    simp [BitVec.extractLsb'_toNat, Nat.shiftRight_eq_div_pow]
    omega
  unfold Core.relOperand
  rw [h0, if_neg (by simp), extractLsb'_zero_eq_setWidth]
  exact h.translate w

theorem Endpoint.regs_eq {c k : Core} {w dst : Word} (h : Endpoint c w k dst) : k.regs = c.regs := by
  obtain ⟨_, _, hn⟩ := h
  exact hn.regs_eq

theorem Endpoint.endOperand {c k : Core} {w dst : Word} (h : Endpoint c w k dst) : c.endOperand w = .ok (k, dst) := by
  obtain ⟨h1, h2, hn⟩ := h
  unfold Core.endOperand
  rw [h1, h2, if_neg (by simp)]
  exact hn.translate w

/-! ### Sends (R172) -/

/-- Each line of a payload is read before at most as many writes as units have made. -/
theorem State.lags_lag (s : State) : s.lags s.core.lag := fun _ => Nat.le_of_lt_succ (Nat.mod_lt _ (Nat.succ_pos _))

theorem psnUse_lenRegs {s : State} {a b c : Reg} (h : s.clean [a, b, c]) : psnUse s.core.regs (lenRegs s.core.regs a b c) = .ok () := by
  simp only [clean_cons] at h
  obtain ⟨ha, hb, hc, -⟩ := h
  unfold lenRegs
  split <;> simp [psnUse, ha, hb, hc]

theorem Core.payload_of_ok {s : State} {b c : Reg} (h : s.payloadOk b c) :
    s.core.payload b c = .ok (s.seenBy s.core.lag (s.regs.rdS b).toNat (s.regs.rdS c).toNat) := by
  obtain ⟨hlen, hread⟩ := h
  unfold State.regs at hlen hread ⊢
  unfold Core.payload
  dsimp only
  rw [if_neg (Nat.not_lt.mpr hlen)]
  by_cases h0 : s.core.regs.rdS c = 0
  · rw [if_pos h0, h0]
    rfl
  · obtain ⟨hr, ha⟩ := hread.resolve_left h0
    have hn : 0 < (s.core.regs.rdS c).toNat := Nat.pos_of_ne_zero fun e => h0 (BitVec.eq_of_toNat_eq e)
    rw [if_neg h0, (mayRead_iff s _ _ hn).mpr hr, if_neg (by simp), if_neg (by simpa using ha)]
    rfl

/-- The operation that a send enters, as its registers stand when it does. -/
def Core.sendOp (fn : BitVec 6) (rel : Option (BitVec 32)) (dst : Word) (b cr : Reg) (ch : BitVec 6) (bs : List MByte) (wait : Bool) (c : Core) : Op :=
  { c.newOp 0xA0 fn with
    kind := 1, ch := ch, dst := dst, rel := rel, opa := c.regs.rdS b, opb := c.regs.rdS cr, payload := bs
    after := if wait then
      { c.ctx.fence with streams := c.ctx.fence.streams ++ (c.streams.filter fun x => x.ctx == c.run && x.kind != .sbar).map Stream.id }
      else c.ctx.fence }

theorem Core.sendTo_ok {c : Core} {fn : BitVec 6} {rel : Option (BitVec 32)} {dst : Word} {b cr : Reg} {ch : BitVec 6} {bs : List MByte} {wait : Bool}
    (hp : c.payload b cr = .ok bs) (hm : wordMod dst = c.modu ∨ ∀ x ∈ bs, x.2 = false) :
    c.sendTo fn rel dst b cr ch wait = c.issueOp none (Core.sendOp fn rel dst b cr ch bs wait) := by
  have h : ¬ (wordMod dst ≠ c.modu ∧ bs.any Prod.snd = true) := by
    rintro ⟨hne, hb⟩
    obtain ⟨x, hx, hx2⟩ := List.any_eq_true.mp hb
    simp [(hm.resolve_left hne) x hx] at hx2
  unfold Core.sendTo
  rw [hp]
  exact if_neg h

theorem Core.sendTo_marked {c : Core} {fn : BitVec 6} {rel : Option (BitVec 32)} {dst : Word} {b cr : Reg} {ch : BitVec 6} {bs : List MByte} {wait : Bool}
    (hp : c.payload b cr = .ok bs) (hm : wordMod dst ≠ c.modu) (hb : ∃ x ∈ bs, x.2 = true) :
    c.sendTo fn rel dst b cr ch wait = .error (trap0 .psnsink) := by
  unfold Core.sendTo
  rw [hp]
  exact if_pos ⟨hm, List.any_eq_true.mpr hb⟩

/-- A channel that the context may name passes the first check of a send. -/
theorem not_privileged_channel {ch : BitVec 6} {c : Core} (h : ch.toNat < 56 ∨ c.prv = true) : ¬ (56 ≤ ch.toNat ∧ (!c.prv) = true) := by
  rintro ⟨h56, hp⟩
  rcases h with h | h
  · omega
  · simp [h] at hp

theorem Core.send_named {c k : Core} {a b cr : Reg} {ch : BitVec 6} {dst : Word} {bs : List MByte} {rel : Bool}
    (hch : ch.toNat < 56 ∨ c.prv = true) (hpsn : psnUse c.regs (lenRegs c.regs a b cr) = .ok ()) (hw : (c.regs.rdS a).toNat < 2 ^ 32)
    (hn : NamedFrom c ((c.regs.rdS a).setWidth 32) k dst) (hp : c.payload b cr = .ok bs) :
    c.send a b cr ch rel = k.issueOp none (Core.sendOp (if rel then 1 else 0) (some ((c.regs.rdS a).setWidth 32)) dst b cr ch bs rel) := by
  unfold Core.send
  rw [if_neg (not_privileged_channel hch), hpsn]
  dsimp only
  rw [Core.relOperand_of_named hw hn, extractLsb'_zero_eq_setWidth]
  obtain ⟨pm, mi, fr, rfl⟩ := hn.core_eq
  exact Core.sendTo_ok hp (.inl hn.wordMod_eq)

theorem Core.xsend_eq {c : Core} {a b cr : Reg} {ch : BitVec 6} {rel : Bool} (hch : ch.toNat < 56 ∨ c.prv = true)
    (hpsn : psnUse c.regs (lenRegs c.regs a b cr) = .ok ()) (h1 : (c.regs.rdS a).extractLsb' 52 12 = 0) (h2 : (c.regs.rdS a).extractLsb' 17 7 = 0) :
    c.xsend a b cr ch rel = c.sendTo (if rel then 3 else 2) none (c.regs.rdS a) b cr ch rel := by
  unfold Core.xsend
  rw [if_neg (not_privileged_channel hch), hpsn]
  simp [namedOperand, h1, h2]

/-- Closing the window changes nothing that a send's operation takes from the registers. -/
theorem agreeFrom_sendOp {k : Core} {r : Regs} {fn : BitVec 6} {rel : Option (BitVec 32)} {dst : Word} {b cr : Reg} {ch : BitVec 6} {bs : List MByte}
    {wait : Bool} (hr : k.regs = r) :
    AgreeFrom k (Core.sendOp fn rel dst b cr ch bs wait) fun c => { Core.sendOp fn rel dst b cr ch bs wait c with opa := r.rdS b, opb := r.rdS cr } := by
  intro c f h
  simp [Core.sendOp, h, hr]

/-! ### Remote operations (R191) -/

theorem lenRegs_put {s : State} {a b c : Reg} (ha : s.regs.psn a = false) (h : s.clean [b, c]) :
    psnUse s.core.regs (lenRegs s.core.regs a b c) = .ok () :=
  psnUse_lenRegs (clean_cons.mpr ⟨ha, h⟩)

theorem inProgram_iff {a n : Nat} : inProgram a n = true ↔ a + n ≤ 0xF0000 := by
  unfold inProgram
  rw [Bool.and_eq_true, decide_eq_true_eq, decide_eq_true_eq]
  omega

theorem endAddr_eq (w : Word) : endAddr w = w.setWidth 20 := extractLsb'_zero_eq_setWidth w 20

/-- The operation that a remote operation enters, but for its operands (R191). -/
def Core.remoteOp (fn kind : BitVec 6) (dst w : Word) (b : Reg) (c : Core) : Op :=
  { c.newOp 0xA5 fn with kind := kind, dst := dst, rel := some (endRel w), laddr := w.setWidth 20, opa := c.regs.rdS b }

/-- The operation of a PUT or a GET (R191). -/
def Core.transferOp (fn kind : BitVec 6) (dst w : Word) (b cr : Reg) (bs : List MByte) (c : Core) : Op :=
  { Core.remoteOp fn kind dst w b c with opb := c.regs.rdS cr, payload := bs }

theorem agreeFrom_transferOp {k : Core} {r : Regs} {fn kind : BitVec 6} {dst w : Word} {b cr : Reg} {bs : List MByte} (hr : k.regs = r) :
    AgreeFrom k (Core.transferOp fn kind dst w b cr bs) fun c => { Core.transferOp fn kind dst w b cr bs c with opa := r.rdS b, opb := r.rdS cr } := by
  intro c f h
  simp [Core.transferOp, Core.remoteOp, h, hr]

theorem Core.put_ok {s : State} {k : Core} {d a b c : Reg} {dst : Word} (hpsn : psnUse s.core.regs (lenRegs s.core.regs a b c) = .ok ())
    (he : Endpoint s.core (s.regs.rdS a) k dst) (hp : s.payloadOk b c)
    (hr : (s.regs.rdS c).toNat = 0 ∨
      (((s.regs.rdS a).setWidth 20).toNat + (s.regs.rdS c).toNat ≤ 0xF0000 ∧ ((s.regs.rdS a).setWidth 20).toNat % 8 = 0)) :
    s.core.put d a b c = k.issueOp (some (d, 1))
      (Core.transferOp 0 2 dst (s.regs.rdS a) b c (s.seenBy s.core.lag (s.regs.rdS b).toNat (s.regs.rdS c).toNat)) := by
  obtain ⟨hlen, hread⟩ := hp
  unfold State.regs at *
  unfold Core.put
  simp only [endAddr_eq]
  rw [hpsn]
  dsimp only
  rw [he.endOperand]
  dsimp only
  rw [if_neg (Nat.not_lt.mpr hlen)]
  by_cases h0 : (s.core.regs.rdS c).toNat = 0
  · simp only [h0, ne_eq, not_true_eq_false, false_and, if_false, if_true]
    rfl
  · obtain ⟨hm, ha⟩ := hread.resolve_left fun e => h0 (by rw [e]; rfl)
    obtain ⟨hfit, hal⟩ := hr.resolve_left h0
    simp only [inProgram_iff.mpr hfit, (mayRead_iff s _ _ (Nat.pos_of_ne_zero h0)).mpr hm, hal, ha, h0, Bool.not_true, Bool.false_eq_true, and_false,
      ne_eq, not_true_eq_false, if_false]
    rfl

theorem Core.get_ok {s : State} {k : Core} {d a b c : Reg} {dst : Word} (hpsn : psnUse s.core.regs (lenRegs s.core.regs a b c) = .ok ())
    (he : Endpoint s.core (s.regs.rdS a) k dst) (hlen : (s.regs.rdS c).toNat ≤ 2048)
    (hr : (s.regs.rdS c).toNat = 0 ∨
      (((s.regs.rdS a).setWidth 20).toNat + (s.regs.rdS c).toNat ≤ 0xF0000 ∧ ((s.regs.rdS a).setWidth 20).toNat % 8 = 0 ∧
        (s.regs.rdS b).toNat + (s.regs.rdS c).toNat ≤ 0xF0000 ∧ (s.regs.rdS b).toNat % 8 = 0)) :
    s.core.get d a b c = k.issueOp (some (d, 2)) (Core.transferOp 1 3 dst (s.regs.rdS a) b c []) := by
  unfold State.regs at *
  unfold Core.get
  simp only [endAddr_eq]
  rw [hpsn]
  dsimp only
  rw [he.endOperand]
  dsimp only
  rw [if_neg (Nat.not_lt.mpr hlen)]
  by_cases h0 : (s.core.regs.rdS c).toNat = 0
  · simp only [h0, ne_eq, not_true_eq_false, false_and, if_false]
    rfl
  · obtain ⟨hfit, hal, hfit', hal'⟩ := hr.resolve_left h0
    simp only [inProgram_iff.mpr hfit, inProgram_iff.mpr hfit', hal, hal', Bool.not_true, Bool.false_eq_true, and_false, ne_eq, not_true_eq_false,
      if_false]
    rfl

/-- The operation of a remote atomic: the compare register's value, the poison of the operands, and the type. -/
def Core.atomicOp (n : BitVec 3) (dst w : Word) (b : Reg) (cs : List Reg) (bad : Bool) (ty : Ty) (c : Core) : Op :=
  { Core.remoteOp (0#2 ++ (1#1 ++ n)) 4 dst w b c with opb := (cs.map c.regs.rdS).headD 0, psn := bad, ty := ty }

/-- An instruction that has entered its operation has advanced the pc; one that waits has left it. -/
theorem Core.flagWhenAdvanced {k c : Core} {pc : LAddr} {b : Bool} {g : Regs → Regs} {f : Flags} (hk : k.regs.pc = pc) (hc : c.regs.pc = pc)
    (hg : ∀ r, (g r).pc = r.pc + 8) :
    (let d := if b then c.modRegs g else k
     if d.regs.pc = pc then d else d.modRegs fun r => r.flag f) = if b then c.modRegs fun r => (g r).flag f else k := by
  cases b
  · exact if_pos hk
  · have hne : ¬ (c.modRegs g).regs.pc = pc := by
      rw [Core.regs_modRegs, hg, hc]
      bv_omega
    refine (if_neg hne).trans ?_
    simp [Core.modRegs_eq]

/-- Past its checks, a remote atomic enters its operation; the flags of its operands come with the pc's advance. -/
theorem Core.ra_eq {s : State} {k : Core} {n : BitVec 3} {d a b : Reg} {cs : List Reg} {ty : Ty} {dst : Word} {bad : Bool}
    (hpsn : s.regs.psn a = false) (he : Endpoint s.core (s.regs.rdS a) k dst) (hfit : ((s.regs.rdS a).setWidth 20).toNat + ty.width / 8 ≤ 0xF0000)
    (hal : ((s.regs.rdS a).setWidth 20).toNat % (ty.width / 8) = 0) (hbad : (b :: cs).any s.regs.psn = bad) {c' : Core}
    (hi : k.issueOp (some (d, 3)) (Core.atomicOp n dst (s.regs.rdS a) b cs bad ty) = .ok c') :
    s.core.ra n d a b cs ty = .ok (if c'.regs.pc = s.regs.pc then c' else c'.modRegs fun r => r.flag (psnFlag bad)) := by
  subst hbad
  unfold State.regs at *
  unfold Core.ra
  simp only [endAddr_eq]
  rw [psnUse_one hpsn]
  dsimp only
  rw [he.endOperand]
  dsimp only
  rw [inProgram_iff.mpr hfit, hal, if_neg (by simp), if_neg (by simp)]
  have hi' := hi
  unfold Core.atomicOp Core.remoteOp at hi'
  rw [hi']

theorem Core.ite_commit_pc (k : Core) (b : Bool) : (if b then k else k.commit).regs.pc = k.regs.pc := by
  cases b
  · obtain ⟨f, hf⟩ := Core.commit_regs k
    rw [if_neg (by simp), hf]
    rfl
  · rfl

theorem Core.ra_ok {s : State} {k : Core} {n : BitVec 3} {d a b : Reg} {cs : List Reg} {ty : Ty} {dst opb : Word} {bad : Bool} {fn : BitVec 6}
    (hpsn : s.regs.psn a = false) (he : Endpoint s.core (s.regs.rdS a) k dst) (hfit : ((s.regs.rdS a).setWidth 20).toNat + ty.width / 8 ≤ 0xF0000)
    (hal : ((s.regs.rdS a).setWidth 20).toNat % (ty.width / 8) = 0) (hopb : (cs.map s.regs.rdS).headD 0 = opb)
    (hbad : (b :: cs).any s.regs.psn = bad) (hfn : 0#2 ++ (1#1 ++ n) = fn) :
    let mk (q : Core) : Op := { Core.remoteOp fn 4 dst (s.regs.rdS a) b q with opa := s.regs.rdS b, opb := opb, psn := bad, ty := ty }
    let fits (q : Core) := q.holdRoom 32 && !q.ticketBusy
    let k' := if fits k then k else k.commit
    let t := k'.allocTicket 3
    s.core.ra n d a b cs ty = .ok (if fits k' then
      (t.1.pushOp { mk t.1 with tkt := some t.2 }).modRegs fun r => ((r.wrS d (t.2.setWidth 64) false).adv).flag (psnFlag bad) else k') := by
  intro mk fits k' t
  have hregs : k.regs = s.regs := he.regs_eq
  have hagree : AgreeFrom k (Core.atomicOp n dst (s.regs.rdS a) b cs bad ty) mk := by
    intro q f hq
    have hr : ∀ i, q.regs.rdS i = s.regs.rdS i := fun i => by rw [hq, hregs, Regs.rdS_flag]
    have hcs : (cs.map q.regs.rdS).headD 0 = opb := by rw [← hopb, funext hr]
    simp only [Core.atomicOp, Core.remoteOp, hcs, hr, hfn, mk]
  have hpc : k'.regs.pc = s.regs.pc := (Core.ite_commit_pc k _).trans (congrArg Regs.pc hregs)
  have hsize : ∀ q, recordSize (mk q).payload.length = 32 := fun q => by simp [mk, Core.remoteOp, Core.newOp, recordSize]
  have hi : k.issueOp (some (d, 3)) (Core.atomicOp n dst (s.regs.rdS a) b cs bad ty) =
      .ok (if fits k' then (t.1.pushOp { mk t.1 with tkt := some t.2 }).modRegs fun r => (r.wrS d (t.2.setWidth 64) false).adv else k') := by
    rw [Core.issueOp_ticketed d 3 hagree]
    simp only [hsize]
    rfl
  rw [Core.ra_eq hpsn he hfit hal hbad hi]
  refine congrArg Except.ok (Core.flagWhenAdvanced hpc ?_ fun r => ?_)
  · rw [Core.pushOp_regs, Core.allocTicket_regs]
    exact hpc
  · simp [Regs.adv]

/-- Settles O26: each instruction passes its checks and enters its operation, which closing the window does not change. -/
theorem outboundOperations : Obligations.OutboundOperations := by
  unfold Obligations.OutboundOperations
  refine ⟨fun p a b c ch s hx hch hclean hpay => ?_, fun p d a b c s k dst hx hpsn => ?_⟩
  · have hpsn := psnUse_lenRegs hclean
    have hp := Core.payload_of_ok hpay
    refine ⟨s.core.lag, s.lags_lag, fun k dst hw hn => ?_, fun h1 h2 => ⟨fun hm => ?_, fun hm hb => ?_⟩⟩
    · have hregs := hn.regs_eq
      exact ⟨sends_of hx (exec_send ..) (Core.send_named hch hpsn hw hn hp) (agreeFrom_sendOp hregs),
        sends_of hx (exec_sendRel ..) (Core.send_named hch hpsn hw hn hp) (agreeFrom_sendOp hregs)⟩
    · exact ⟨sends_of hx (exec_xsend ..) ((Core.xsend_eq hch hpsn h1 h2).trans (Core.sendTo_ok hp hm)) (agreeFrom_sendOp rfl),
        sends_of hx (exec_xsendRel ..) ((Core.xsend_eq hch hpsn h1 h2).trans (Core.sendTo_ok hp hm)) (agreeFrom_sendOp rfl)⟩
    · exact ⟨(exec_xsend ..).trans (issue_trap hx ((Core.xsend_eq hch hpsn h1 h2).trans (Core.sendTo_marked hp hm hb))),
        (exec_xsendRel ..).trans (issue_trap hx ((Core.xsend_eq hch hpsn h1 h2).trans (Core.sendTo_marked hp hm hb)))⟩
  · intro w n x at' op he
    have hregs := he.regs_eq
    refine ⟨s.core.lag, s.lags_lag, fun hclean hpay hr => ?_, fun hclean hlen hr => ?_, fun ty _ hfit hal => ?_⟩
    · exact sendsTicketed_of hx (exec_put ..) (Core.put_ok (lenRegs_put hpsn hclean) he hpay hr) (agreeFrom_transferOp hregs)
    · exact sendsTicketed_of hx (exec_get ..) (Core.get_ok (lenRegs_put hpsn hclean) he hlen hr) (agreeFrom_transferOp hregs)
    · intro ra
      have atomic : ∀ (i : Instr) (n : BitVec 3) (cs : List Reg) (fn : BitVec 6) (opb : Word) (bad : Bool), exec i s = issue p (Core.ra n d a b cs ty) s →
          (cs.map s.regs.rdS).headD 0 = opb → (b :: cs).any s.regs.psn = bad → 0#2 ++ (1#1 ++ n) = fn → ra i fn opb bad :=
        fun i n cs fn opb bad hi hopb hbad hfn => hi.trans (issue_ok hx (Core.ra_ok hpsn he hfit hal hopb hbad hfn))
      refine ⟨atomic _ 0 [] _ _ _ (exec_raAdd ..) rfl (by simp) rfl, atomic _ 1 [] _ _ _ (exec_raAnd ..) rfl (by simp) rfl,
        atomic _ 2 [] _ _ _ (exec_raOr ..) rfl (by simp) rfl, atomic _ 3 [] _ _ _ (exec_raXor ..) rfl (by simp) rfl,
        atomic _ 4 [] _ _ _ (exec_raMin ..) rfl (by simp) rfl, atomic _ 5 [] _ _ _ (exec_raMax ..) rfl (by simp) rfl,
        atomic _ 6 [] _ _ _ (exec_raSwp ..) rfl (by simp) rfl, atomic _ 7 [c] _ _ _ (exec_raCas ..) rfl (by simp) rfl⟩

end Sys2Proof.Machine

namespace Sys2Proof.Machine
open Sys2Proof.Laws

/-! ### The value of a control register, field by field (R26 to R36) -/

theorem toNat_append_add {m n : Nat} (x : BitVec m) (y : BitVec n) : (x ++ y).toNat = 2 ^ n * x.toNat + y.toNat := by
  rw [BitVec.toNat_append, Nat.shiftLeft_eq, Nat.mul_comm, Nat.two_pow_add_eq_or_of_lt y.isLt]

theorem bit1_toNat (x : Bool) : (bit1 x).toNat = if x then 1 else 0 := by cases x <;> rfl

theorem Core.ctxid_eq (c : Core) :
    c.ctxid = BitVec.ofNat 64 (c.run.toNat + 2 ^ 2 * (if c.prv then 1 else 0) + 2 ^ 8 * c.ctx.prio.toNat) := by
  apply BitVec.eq_of_toNat_eq
  have h1 := c.run.isLt
  have h2 := c.ctx.prio.isLt
  simp only [Core.ctxid, toNat_append_add, bit1_toNat, BitVec.toNat_ofNat]
  split <;> omega

theorem Core.islcfg_eq (c : Core) :
    c.islcfg = BitVec.ofNat 64 ((if c.islBnd then 1 else 0) + 2 ^ 8 * c.islPad.toNat + 2 ^ 32 * c.islIid.toNat + 2 ^ 48 * (c.scnt.toNat % 2 ^ 16)) := by
  apply BitVec.eq_of_toNat_eq
  have h1 := c.islPad.isLt
  have h2 := c.islIid.isLt
  simp only [Core.islcfg, toNat_append_add, bit1_toNat, BitVec.toNat_ofNat, BitVec.extractLsb'_toNat, Nat.shiftRight_zero]
  split <;> omega

theorem Core.pmapc_eq (c : Core) : c.pmapc = BitVec.ofNat 64 (2 ^ 16 * (c.pmCache.length % 32) + 2 ^ 32 * c.pmMiss.toNat) := by
  apply BitVec.eq_of_toNat_eq
  have h1 := c.pmMiss.isLt
  simp only [Core.pmapc, toNat_append_add, BitVec.toNat_ofNat]
  omega

theorem Acc.stWord_eq (a : Acc) :
    a.stWord = BitVec.ofNat 64 (a.flags.toNat + 2 ^ 8 * (if a.ptl then 1 else 0) + 2 ^ 32 * (if a.fp32 then 1 else 0) + 2 ^ 48 * a.t.toNat) := by
  apply BitVec.eq_of_toNat_eq
  have h1 := a.flags.isLt
  have h2 := a.t.isLt
  simp only [Acc.stWord, toNat_append_add, bit1_toNat, BitVec.toNat_ofNat]
  split <;> split <;> omega

theorem FeedQ.status_eq (q : FeedQ) :
    q.status = BitVec.ofNat 64 (q.live.length % 32 + 2 ^ 8 * (if q.live.any fun e => e.marks.getLsbD 8 then 1 else 0)) := by
  apply BitVec.eq_of_toNat_eq
  simp only [FeedQ.status, toNat_append_add, bit1_toNat, BitVec.toNat_ofNat]
  split <;> omega

theorem State.licst_eq (s : State) :
    let me := isRunner s.cur
    let lic := s.quern.view s.cycle
    let b (x : Bool) : Nat := if x then 1 else 0
    s.licst s.cur = BitVec.ofNat 64 (2 * b (lic.holder == some me && lic.hand.isNone) + 2 ^ 2 * b (lic.holder == some (!me) || lic.hand.isSome) +
      2 ^ 3 * b (lic.req me).isSome + 2 ^ 4 * b (lic.rreq.isSome && lic.holder == some me && lic.hand.isNone) + 2 ^ 7 * b s.core.twc) := by
  intro me lic b
  have hlic : s.licst s.cur = 0#56 ++ (bit1 s.core.twc ++ (0#2 ++ (bit1 (lic.rreq.isSome && lic.holder == some me && lic.hand.isNone) ++
      (bit1 (lic.req me).isSome ++ (bit1 (lic.holder == some (!me) || lic.hand.isSome) ++ (bit1 (lic.holder == some me && lic.hand.isNone) ++ 0#1)))))) := by
    rw [Bool.and_assoc, Bool.or_comm]
    rfl
  apply BitVec.eq_of_toNat_eq
  have hb : ∀ x, (bit1 x).toNat = b x := bit1_toNat
  have hle : ∀ x, b x ≤ 1 := fun x => by simp only [b]; split <;> omega
  have h1 := hle s.core.twc
  have h2 := hle (lic.rreq.isSome && lic.holder == some me && lic.hand.isNone)
  have h3 := hle (lic.req me).isSome
  have h4 := hle (lic.holder == some (!me) || lic.hand.isSome)
  have h5 := hle (lic.holder == some me && lic.hand.isNone)
  simp only [hlic, toNat_append_add, hb, BitVec.toNat_ofNat]
  omega

/-! ### CRR (R117, R118) -/

/-- The access finds nothing to wait for: at most the MMA unit is asked, which has nothing in flight. -/
def State.crIdle (s : State) (idx : BitVec 12) : Prop := s.crSync idx = s ∨ s.crSync idx = s.setCore s.core

theorem Core.drainMma_of_none {c : Core} (h : c.mma = none) : c.drainMma = c := by
  unfold Core.drainMma
  rw [h]

theorem State.crIdle_of_settled {s : State} (hm : s.core.mma = none) (hh : s.quern.hand = none) (idx : BitVec 12) : s.crIdle idx := by
  unfold State.crIdle State.crSync
  split
  · exact .inr (by rw [Core.drainMma_of_none hm])
  · split
    · simp [State.settle, Quern.moving, hh, hm]
    · exact .inl rfl

/-- Nothing that a control register shows is lost when the core in focus is stored as it is. -/
theorem State.crRead_setCore_core (s : State) (idx : BitVec 12) : (s.setCore s.core).crRead idx = s.crRead idx := by
  have hl : (s.setCore s.core).licst s.cur = s.licst s.cur := by
    unfold State.licst
    rw [show (s.setCore s.core).coreAt s.cur = s.coreAt s.cur from State.core_setCore s s.core]
    rfl
  unfold State.crRead
  rw [State.core_setCore, State.setCore_cur, hl]

theorem State.crInto_adv (s : State) (d : Reg) (x : Word) : (s.crInto d x).adv = s.putS d x := by
  simp [State.crInto, State.adv, State.putS, State.withRegs, State.regs, Core.adv, Core.modRegs]

theorem crr_eq {p : Pred} {s : State} {idx : BitVec 12} (hx : s.executes p) (hi : s.crIdle idx) (d : Reg) :
    exec (.crr p d idx) s = .next (s.putS d (s.crRead idx)) := by
  rw [exec_crr, execCrr, issueS_ok (t := ((s.crSync idx).crInto d ((s.crSync idx).crRead idx)).adv) hx rfl]
  rcases hi with h | h
  · rw [h, State.crInto_adv]
  · rw [h, State.crInto_adv, State.crRead_setCore_core]
    simp [State.putS, State.withRegs, State.regs]

theorem State.crRead_trapRec (s : State) {k : Nat} (h : k < 8) : s.crRead (BitVec.ofNat 12 (0x028 + k)) = s.core.ctx.trapRec[k] := by
  have hl : s.crRead (BitVec.ofNat 12 (0x028 + k)) = s.core.ctx.trapRec.toList.getD k 0 := by
    match k with
    | 0 | 1 | 2 | 3 | 4 | 5 | 6 | 7 => rfl
    | n + 8 => omega
  have hk : k < s.core.ctx.trapRec.toList.length := by rwa [Vector.length_toList]
  rw [hl, List.getD_eq_getElem?_getD, List.getElem?_eq_getElem hk, Vector.getElem_toList]
  rfl

theorem bitVec2_cases : ∀ k : BitVec 2, k = 0 ∨ k = 1 ∨ k = 2 ∨ k = 3 := by decide

theorem State.crRead_acc (s : State) (k : BitVec 2) : s.crRead (0x050 + k.setWidth 12) = (s.core.accAt k).stWord := by
  rcases bitVec2_cases k with rfl | rfl | rfl | rfl <;> rfl

theorem State.crRead_gen (s : State) : s.crRead 0x003 = BitVec.ofNat 64 (s.core.name.toNat / 2 ^ 24 % 2 ^ 8) := by
  apply BitVec.eq_of_toNat_eq
  simp [State.crRead, BitVec.extractLsb'_toNat, Nat.shiftRight_eq_div_pow]

/-! ### Control-register writes (R25, R117, R118, R119) -/

theorem State.crCheck_ok {s : State} {idx : BitVec 12} {a : Reg} (hp : crPriv idx = true → s.core.prv = true) (hc : s.clean [a]) :
    s.crCheck idx a = .ok () := by
  have hpriv : (crPriv idx && !s.core.prv) = false := by
    cases e : crPriv idx
    · rfl
    · simp [hp e]
  rw [State.crCheck, hpriv, if_neg (by simp)]
  exact psnUse_one (clean_cons.mp hc).1

/-- A write depends on the core in focus, not on whether the state has stored it. -/
theorem State.crStore_setCore_core (s : State) (idx : BitVec 12) (rw' w1c : Word) : (s.setCore s.core).crStore idx rw' w1c = s.crStore idx rw' w1c := by
  unfold State.crStore
  simp only [State.crRead_setCore_core, State.core_setCore, State.setCore_setCore, State.setCore_cur]

theorem crw_eq {p : Pred} {s : State} {idx : BitVec 12} {a : Reg} (hx : s.executes p) (hck : s.crCheck idx a = .ok ()) (hi : s.crIdle idx) :
    exec (.crw p idx a) s = .next
      (s.crStore idx ((s.crRead idx &&& ~~~crRw idx) ||| (s.regs.rdS a &&& crRw idx)) (s.regs.rdS a &&& crW1c idx)).adv := by
  rw [exec_crw]
  refine issueS_ok hx ?_
  simp only [State.crw, hck]
  rcases hi with h | h
  · rw [h]; rfl
  · rw [h, State.crRead_setCore_core, State.crStore_setCore_core, State.core_setCore]; rfl

/-- What CRS and CRC do: the register takes the RW fields of a value computed from the old one, which goes into D. -/
theorem crMod_eq {s : State} {idx : BitVec 12} {a : Reg} (hck : s.crCheck idx a = .ok ()) (hi : s.crIdle idx) (d : Reg) (f : Word → Word → Word) :
    s.crMod d idx a f = .ok
      ((s.crStore idx ((s.crRead idx &&& ~~~crRw idx) ||| (f (s.crRead idx) (s.regs.rdS a) &&& crRw idx)) 0).putS d (s.crRead idx)) := by
  simp only [State.crMod, hck, State.crInto_adv]
  rcases hi with h | h
  · rw [h]; rfl
  · rw [h, State.crRead_setCore_core, State.crStore_setCore_core, State.core_setCore]; rfl

theorem State.putS_setCore (s : State) (c : Core) (d : Reg) (x : Word) :
    (s.setCore c).putS d x = s.setCore (c.modRegs fun r => (r.wrS d x false).adv) := by
  simp [State.putS, State.withRegs, State.regs, Core.modRegs]

theorem crw_of_store {p : Pred} {s : State} {idx : BitVec 12} {a : Reg} {c : Core} (hx : s.executes p) (hck : s.crCheck idx a = .ok ())
    (hi : s.crIdle idx)
    (hst : s.crStore idx ((s.crRead idx &&& ~~~crRw idx) ||| (s.regs.rdS a &&& crRw idx)) (s.regs.rdS a &&& crW1c idx) = s.setCore c) :
    exec (.crw p idx a) s = .next (s.setCore c.adv) := by
  rw [crw_eq hx hck hi, hst]
  simp [State.adv]

theorem crs_of_store {p : Pred} {s : State} {idx : BitVec 12} {a : Reg} {c : Core} (hx : s.executes p) (hck : s.crCheck idx a = .ok ())
    (hi : s.crIdle idx) (d : Reg)
    (hst : s.crStore idx ((s.crRead idx &&& ~~~crRw idx) ||| ((s.crRead idx ||| s.regs.rdS a) &&& crRw idx)) 0 = s.setCore c) :
    exec (.crs p d idx a) s = .next (s.setCore (c.modRegs fun r => (r.wrS d (s.crRead idx) false).adv)) := by
  rw [exec_crs, execCrs, issueS_ok hx (crMod_eq hck hi d _), hst, State.putS_setCore]

theorem crc_of_store {p : Pred} {s : State} {idx : BitVec 12} {a : Reg} {c : Core} (hx : s.executes p) (hck : s.crCheck idx a = .ok ())
    (hi : s.crIdle idx) (d : Reg)
    (hst : s.crStore idx ((s.crRead idx &&& ~~~crRw idx) ||| ((s.crRead idx &&& ~~~s.regs.rdS a) &&& crRw idx)) 0 = s.setCore c) :
    exec (.crc p d idx a) s = .next (s.setCore (c.modRegs fun r => (r.wrS d (s.crRead idx) false).adv)) := by
  rw [exec_crc, execCrc, issueS_ok hx (crMod_eq hck hi d _), hst, State.putS_setCore]

/-! ### What a journal record of a control register leaves alone (R224) -/

/-- A part of the core that lies neither in local store and what follows its writes, nor in the contexts, the window and the queues that it closes. -/
structure Core.Apart {γ : Type} (g : Core → γ) : Prop where
  bytes : ∀ c a bs, g (Core.wrBytes c a bs) = g c
  window : ∀ (c : Core) ops xs rs w l, g { c with ops := ops, ctxs := xs, retained := rs, win := w, late := l } = g c

section
variable {γ : Type} {g : Core → γ} (h : Core.Apart g)
include h

theorem Core.Apart.wrHeader (c : Core) (o : Op) : g (c.wrHeader o) = g c := by
  unfold Core.wrHeader Core.wrHold
  split
  · rfl
  · exact (h.bytes ..).trans (h.bytes ..)

theorem Core.Apart.setCtx (c : Core) (x : Ctx) : g (c.setCtx x) = g c := h.window c c.ops _ c.retained c.win c.late

theorem Core.Apart.freeRetained (c : Core) : g c.freeRetained = g c := by
  have hfold : ∀ xs : List Retained, g (xs.foldl (fun c x => c.wrWord (0xFE800 + 8 * x.slot) 0) c) = g c := fun xs =>
    foldl_keeps g _ (fun d x => h.bytes d ..) xs c
  unfold Core.freeRetained
  exact (h.setCtx _ _).trans ((h.window _ _ _ _ _ _).trans (hfold _))

theorem Core.Apart.closeWindow (c : Core) : g c.closeWindow = g c := by
  have hfold : ∀ (d : Core) (os : List Op), g (os.foldl (fun c o => if o.id ≥ c.win.opFrom then c.wrHeader o else c) d) = g d := by
    refine fun d os => foldl_keeps g _ (fun e o => ?_) os d
    split
    · exact h.wrHeader e o
    · rfl
  unfold Core.closeWindow
  exact (h.window _ _ _ _ _ _).trans ((h.freeRetained _).trans ((hfold _ _).trans (h.window c _ c.ctxs c.retained c.win c.late)))

/-- Closing the window keeps such a part, where the MMA in flight does. -/
theorem Core.Apart.commit (c : Core) (hm : g c.drainMma = g c) : g c.commit = g c := (h.closeWindow _).trans hm

theorem Core.Apart.journalCr (c : Core) (hm : g c.drainMma = g c) (idx : BitVec 12) (old : Word) : g (c.journalCr idx old) = g c := by
  unfold Core.journalCr
  refine (h.window _ _ _ _ _ _).trans ((h.bytes ..).trans ?_)
  unfold Core.roomForJournal
  split
  · rfl
  · exact h.commit c hm

/-- An MMA in flight writes its tile and raises flags, and one that an error hit is reported. -/
theorem Core.Apart.drainMma (ht : ∀ c m, g (Core.writeTile c m) = g c) (hr : ∀ c ws, g (Core.report c ws) = g c) (c : Core) : g c.drainMma = g c := by
  unfold Core.drainMma
  split
  · rfl
  · split
    · exact (hr ..).trans ((h.closeWindow _).trans (ht ..))
    · exact ht ..

end

theorem Core.journalCr_twc (c : Core) (idx : BitVec 12) (old : Word) : (c.journalCr idx old).twc = c.twc :=
  have h : Core.Apart Core.twc := ⟨Core.wrBytes_twc, fun _ _ _ _ _ _ => rfl⟩
  h.journalCr c (h.drainMma (fun _ _ => rfl) (fun _ _ => rfl) c) idx old

theorem Core.journalCr_islBnd (c : Core) (idx : BitVec 12) (old : Word) : (c.journalCr idx old).islBnd = c.islBnd :=
  have h : Core.Apart Core.islBnd := ⟨Core.wrBytes_islBnd, fun _ _ _ _ _ _ => rfl⟩
  h.journalCr c (h.drainMma (fun _ _ => rfl) (fun _ _ => rfl) c) idx old

/-- With no MMA in flight, a record of a control register leaves the accumulators alone. -/
theorem Core.journalCr_acc {c : Core} (hm : c.mma = none) (idx : BitVec 12) (old : Word) : (c.journalCr idx old).acc = c.acc :=
  have h : Core.Apart Core.acc := ⟨Core.wrBytes_acc, fun _ _ _ _ _ _ => rfl⟩
  h.journalCr c (congrArg Core.acc (Core.drainMma_of_none hm)) idx old

/-! ### The store of each register (R26 to R36) -/

/-- The registers that hold nothing a write could change, and that need no journal record: CTXID, FQST0 and FQST1, and TRAPREC. -/
def crFixed : List (BitVec 12) := [0x000, 0x070, 0x071, 0x028, 0x029, 0x02A, 0x02B, 0x02C, 0x02D, 0x02E, 0x02F]

theorem State.crStore_fixed {idx : BitVec 12} (h : idx ∈ crFixed) (s : State) (x w1c : Word) : s.crStore idx x w1c = s.setCore s.core := by
  simp only [crFixed, List.mem_cons, List.not_mem_nil, or_false] at h
  rcases h with rfl | rfl | rfl | rfl | rfl | rfl | rfl | rfl | rfl | rfl | rfl <;> rfl

theorem State.crIdle_fixed {idx : BitVec 12} (h : idx ∈ crFixed) (s : State) : s.crIdle idx := by
  refine .inl ?_
  simp only [crFixed, List.mem_cons, List.not_mem_nil, or_false] at h
  rcases h with rfl | rfl | rfl | rfl | rfl | rfl | rfl | rfl | rfl | rfl | rfl <;> rfl

theorem State.crStore_astat (s : State) (x w1c : Word) :
    s.crStore 0x010 x w1c = s.setCore (s.core.modRegs fun r => r.unflag (w1c.extractLsb' 0 7)) := rfl

theorem Core.setRegs_regs_self (c : Core) : c.setRegs c.regs = c := by
  have h : c.ctxs.set c.run.toNat c.ctx c.run.isLt = c.ctxs := Vector.set_getElem_self c.run.isLt
  rw [Core.setRegs, Core.regs, Core.setCtx, Core.setCtxAt, h]

/-- Nothing is cleared where no bit is given. -/
theorem Flags.clear_none (f : Flags) : f &&& ~~~((0 : Word).extractLsb' 0 7) = f := BitVec.and_allOnes

/-- CRS and CRC leave the flags, so that they store nothing. -/
theorem State.crStore_astat_keep (s : State) (x : Word) : s.crStore 0x010 x 0 = s.setCore s.core := by
  have h : s.core.regs.unflag ((0 : Word).extractLsb' 0 7) = s.core.regs := by rw [Regs.unflag, Flags.clear_none]
  rw [State.crStore_astat, Core.modRegs, h, Core.setRegs_regs_self]

theorem State.crStore_licst (s : State) (x w1c : Word) :
    s.crStore 0x030 x w1c = s.setCore { s.core.journalCr 0x030 (s.licst s.cur) with twc := s.core.twc && !w1c.getLsbD 7 } := by
  rw [← Core.journalCr_twc s.core 0x030 (s.licst s.cur)]
  rfl

theorem State.crStore_licst_keep (s : State) (x : Word) : s.crStore 0x030 x 0 = s.setCore (s.core.journalCr 0x030 (s.licst s.cur)) := by
  rw [State.crStore_licst, ← Core.journalCr_twc s.core 0x030 (s.licst s.cur)]
  simp

theorem State.crStore_pmapc (s : State) (x w1c : Word) :
    s.crStore 0x040 x w1c = s.setCore (if x.getLsbD 0 then { s.core.journalCr 0x040 s.core.pmapc with pmCache := [] } else s.core.journalCr 0x040 s.core.pmapc) := rfl

theorem State.crStore_cycle (s : State) (x w1c : Word) : s.crStore 0x060 x w1c = s.setCore (s.core.journalCr 0x060 s.core.cycle) := rfl

theorem State.crStore_acc (s : State) (k : BitVec 2) (x w1c : Word) :
    let c := s.core.journalCr (0x050 + k.setWidth 12) (s.crRead (0x050 + k.setWidth 12))
    s.crStore (0x050 + k.setWidth 12) x w1c =
      s.setCore ((c.keepAcc k).setAcc k { c.accAt k with flags := (c.accAt k).flags &&& ~~~(w1c.extractLsb' 0 7) }) := by
  rcases bitVec2_cases k with rfl | rfl | rfl | rfl <;> rfl

/-- With no MMA in flight, the tile whose flags are cleared is the one that the core holds. -/
theorem State.crStore_acc_settled {s : State} (hm : s.core.mma = none) (k : BitVec 2) (x w1c : Word) :
    s.crStore (0x050 + k.setWidth 12) x w1c = s.setCore (((s.core.journalCr (0x050 + k.setWidth 12) (s.core.accAt k).stWord).keepAcc k).setAcc k
      { s.core.accAt k with flags := (s.core.accAt k).flags &&& ~~~(w1c.extractLsb' 0 7) }) := by
  have ha : (s.core.journalCr (0x050 + k.setWidth 12) (s.core.accAt k).stWord).accAt k = s.core.accAt k := by
    simp only [Core.accAt, Core.journalCr_acc hm]
  rw [State.crStore_acc, State.crRead_acc, ha]

/-- A 0 written to BND of a bound core releases the island; IID and PAD are taken only while it is not bound (R34). -/
theorem State.crStore_islcfg (s : State) (x w1c : Word) :
    let c := s.core.journalCr 0x031 s.core.islcfg
    s.crStore 0x031 x w1c =
      if s.core.islBnd then (if x.getLsbD 0 then s.setCore c else (s.setCore c).islandRelease s.cur)
      else s.setCore { c with islIid := x.extractLsb' 32 16, islPad := x.extractLsb' 8 8 } := by
  intro c
  rw [← Core.journalCr_islBnd s.core 0x031 s.core.islcfg]
  rfl

/-! ### The bits that a write takes -/

/-- A field that the mask of the RW fields holds in whole takes the new bits. -/
theorem masked_extract (old x m : Word) {i n : Nat} (h : m.extractLsb' i n = BitVec.allOnes n) :
    ((old &&& ~~~m) ||| (x &&& m)).extractLsb' i n = x.extractLsb' i n := by
  apply BitVec.eq_of_getLsbD_eq
  intro j hj
  have hm : m.getLsbD (i + j) = true := by
    have := congrArg (fun y => y.getLsbD j) h
    simpa [hj] using this
  simp [hj, hm]

theorem and_mask_extract (x m : Word) {i n : Nat} (h : m.extractLsb' i n = BitVec.allOnes n) : (x &&& m).extractLsb' i n = x.extractLsb' i n := by
  simpa using masked_extract 0 x m h

theorem masked_bit (old x m : Word) {i : Nat} (h : m.getLsbD i = true) : ((old &&& ~~~m) ||| (x &&& m)).getLsbD i = x.getLsbD i := by
  simp [h]

theorem getLsbD_zero_append {m n : Nat} (x : BitVec m) (y : BitVec (n + 1)) : (x ++ y).getLsbD 0 = y.getLsbD 0 := by
  rw [BitVec.getLsbD_append, if_pos (Nat.succ_pos n)]

theorem Core.pmapc_bit0 (c : Core) : c.pmapc.getLsbD 0 = false := by
  simp only [Core.pmapc, getLsbD_zero_append]
  rfl

theorem Core.islcfg_bit0 (c : Core) : c.islcfg.getLsbD 0 = c.islBnd := by
  simp only [Core.islcfg, getLsbD_zero_append]
  cases c.islBnd <;> rfl

/-- Bits [31:24] of a word replaced by the low byte of another. -/
theorem replace_byte3 (w x : Word) :
    (w.extractLsb' 32 32 ++ (x.extractLsb' 0 8 ++ w.extractLsb' 0 24) : Word) =
      (w &&& ~~~(0xFF000000 : Word)) ||| ((x &&& (0xFF : Word)) <<< 24) := by
  change _ = (w &&& ~~~0xFF000000#64) ||| ((x &&& 0xFF#64) <<< 24)
  have hhi : ∀ i : Fin 64, (0xFF000000#64).getLsbD i = decide (24 ≤ i.val ∧ i.val < 32) := by decide
  have hlo : ∀ i : Fin 64, (0xFF#64).getLsbD i = decide (i.val < 8) := by decide
  apply BitVec.eq_of_getLsbD_eq
  intro i hi
  have h1 := hhi ⟨i, hi⟩
  have h2 := hlo ⟨i - 24, by omega⟩
  simp only at h1 h2
  simp only [BitVec.getLsbD_append, BitVec.getLsbD_extractLsb', BitVec.getLsbD_or, BitVec.getLsbD_and, BitVec.getLsbD_not, BitVec.getLsbD_shiftLeft, h1, h2, hi]
  rcases Nat.lt_or_ge i 24 with h | h
  · simp [h, show i < 32 by omega]
  · rcases Nat.lt_or_ge i 32 with h' | h'
    · simp [h, h', show ¬ i < 24 by omega, show i - 24 < 8 by omega]
    · simp [show ¬ i < 24 by omega, show ¬ i < 32 by omega, show ¬ i - 24 < 8 by omega, show 32 + (i - 32) = i by omega, show i - 32 < 32 by omega]

/-! ### Release of an island (R34, R214) -/

/-- A change made at each core of a list, which does no more the second time, is made at those cores alone. -/
theorem State.coreAt_foldl_setCoreAt {f : Core → Core} (hf : ∀ c, f (f c) = f c) (ms : List Nat) (s : State) (k : Nat) :
    (ms.foldl (fun s m => s.setCoreAt m (f (s.coreAt m))) s).coreAt k = if k ∈ ms then f (s.coreAt k) else s.coreAt k := by
  induction ms generalizing s with
  | nil => rfl
  | cons m ms ih =>
    rw [List.foldl_cons, ih]
    by_cases hk : k = m
    · subst hk
      by_cases hm : k ∈ ms <;> simp [hm, hf]
    · rw [State.coreAt_setCoreAt_other _ _ hk]
      simp [hk]

theorem State.cur_foldl_setCoreAt (f : Core → Core) (ms : List Nat) (s : State) : (ms.foldl (fun s m => s.setCoreAt m (f (s.coreAt m))) s).cur = s.cur :=
  foldl_keeps State.cur (fun s m => s.setCoreAt m (f (s.coreAt m))) (fun _ _ => rfl) ms s

/-- What has been sent to the core has arrived. -/
def Core.landAll (c : Core) : Core := { c with landing := c.landing.map fun x => { x with path := [], on := none, arrived := true } }

theorem Core.landAll_landAll (c : Core) : c.landAll.landAll = c.landAll := by
  simp [Core.landAll, Function.comp_def]

/-- The island after member k has released it. -/
def Island.releasedBy (k : Nat) (i : Island) : Island :=
  if i.members.contains k && !i.released.contains k then { i with released := i.released ++ [k] } else i

/-- Every member has released the island. -/
def Island.over (i : Island) : Bool := i.members.all fun m => i.released.contains m

/-- A release changes BND at its core, lands what was sent to the members of the islands that are over, and leaves the others listed. -/
theorem State.islandRelease_bound {s : State} {k : Nat} (h : (s.coreAt k).islBnd = true) :
    let isls := s.seq.islands.map (Island.releasedBy k)
    let c : Core := { s.coreAt k with islBnd := false }
    let t := s.islandRelease k
    t.cur = s.cur ∧ t.seq.islands = (isls.filter fun i => !i.over) ∧
      t.coreAt k = if k ∈ (isls.filter Island.over).flatMap Island.members then c.landAll else c := by
  intro isls c t
  have ht : t = { ((isls.filter Island.over).flatMap Island.members).foldl (fun s m => s.setCoreAt m (s.coreAt m).landAll) (s.setCoreAt k c) with
      seq := t.seq } := by
    simp only [t, State.islandRelease, h, if_true]
    rfl
  have hseq : t.seq.islands = isls.filter fun i => !i.over := by
    simp only [t, State.islandRelease, h, if_true]
    rfl
  refine ⟨?_, hseq, ?_⟩
  · rw [ht]
    exact State.cur_foldl_setCoreAt Core.landAll _ _
  · rw [ht]
    exact (State.coreAt_foldl_setCoreAt Core.landAll_landAll _ _ k).trans (by rw [State.coreAt_setCoreAt])

theorem Island.releasedBy_eq (k : Nat) (i : Island) :
    i.releasedBy k = if k ∈ i.members ∧ k ∉ i.released then { i with released := i.released ++ [k] } else i := by
  simp [Island.releasedBy]

theorem Island.members_releasedBy (k : Nat) (i : Island) : (i.releasedBy k).members = i.members := by
  unfold Island.releasedBy
  split <;> rfl

theorem Island.released_of_releasedBy {k m : Nat} {i : Island} (h : m ∈ (i.releasedBy k).released) : m ∈ i.released ∨ m = k := by
  rw [Island.releasedBy_eq] at h
  split at h
  · simpa using h
  · exact .inl h

theorem Island.over_eq_false {i : Island} : i.over = false ↔ ∃ m ∈ i.members, m ∉ i.released := by
  simp [Island.over]

/-- A member that is not the last keeps its islands going, so nothing lands early. -/
theorem not_mem_over {k : Nat} {is : List Island} (h : ∀ j ∈ is, k ∈ j.members → ∃ m ∈ j.members, m ≠ k ∧ m ∉ j.released) :
    k ∉ ((is.map (Island.releasedBy k)).filter Island.over).flatMap Island.members := by
  intro hk
  obtain ⟨i, hi, hki⟩ := List.mem_flatMap.mp hk
  obtain ⟨hi, hover⟩ := List.mem_filter.mp hi
  obtain ⟨j, hj, rfl⟩ := List.mem_map.mp hi
  rw [Island.members_releasedBy] at hki
  obtain ⟨m, hm, hne, hnot⟩ := h j hj hki
  have hrel : m ∈ (j.releasedBy k).released := by
    rw [Island.over, List.all_eq_true] at hover
    simpa using hover m (by rwa [Island.members_releasedBy])
  exact (Island.released_of_releasedBy hrel).elim hnot hne

/-- CRC of BND at a bound core releases its island, and D takes the old value (R34, R117). -/
theorem released_crc {s : State} {c : Core} (hb : c.islBnd = true) (d : Reg) (old : Word) :
    Released (s.setCore (c.modRegs fun r => r.wrS d old false)) (((s.setCore c).islandRelease s.cur).putS d old) := by
  have hc : (s.setCore c).coreAt s.cur = c := State.core_setCore s c
  obtain ⟨hcur, hseq, hcore⟩ := State.islandRelease_bound (s := s.setCore c) (k := s.cur) (by rw [hc]; exact hb)
  rw [hc] at hcore
  generalize hu : (s.setCore c).islandRelease s.cur = u at hcur hseq hcore
  replace hcore : u.core = _ := (congrArg u.coreAt hcur).trans hcore
  have hput : (u.putS d old).core = (u.core.modRegs fun r => r.wrS d old false).adv := by
    simp [State.putS, State.withRegs, State.regs, Core.adv, Core.modRegs]
  constructor
  · rw [hput, hcore, State.core_setCore, State.setCore_seq]
    split
    · next hk =>
      refine ⟨_, rfl, fun x hx => ?_, fun h => absurd hk (not_mem_over h)⟩
      obtain ⟨y, hy, rfl⟩ := List.mem_map.mp hx
      exact ⟨y, hy, .inr rfl⟩
    · exact ⟨_, rfl, fun x hx => ⟨x, hx, .inl rfl⟩, fun _ => rfl⟩
  · intro i
    rw [show (u.putS d old).seq.islands = u.seq.islands from rfl, hseq]
    simp only [List.mem_filter, List.mem_map, Bool.not_eq_true', Island.over_eq_false, Island.releasedBy_eq, State.setCore_seq, State.setCore_cur]
    constructor
    · rintro ⟨⟨j, hj, rfl⟩, hm⟩
      exact ⟨j, hj, rfl, hm⟩
    · rintro ⟨j, hj, rfl, hm⟩
      exact ⟨⟨j, hj, rfl⟩, hm⟩

/-! ### The instructions on each register -/

theorem crFixed_privilege {idx : BitVec 12} (h : idx ∈ crFixed) {s : State} (hp : idx ∈ [0x000#12, 0x070#12, 0x071#12] ∨ s.core.prv = true) :
    crPriv idx = true → s.core.prv = true := by
  intro hpriv
  refine hp.resolve_left fun hi => ?_
  simp only [List.mem_cons, List.not_mem_nil, or_false] at hi
  rcases hi with rfl | rfl | rfl <;> exact absurd hpriv (by decide)

theorem crw_fixed {p : Pred} {s : State} {idx : BitVec 12} {a : Reg} (hx : s.executes p) (hck : s.crCheck idx a = .ok ()) (h : idx ∈ crFixed) :
    exec (.crw p idx a) s = .next (s.withRegs { s.regs with pc := s.regs.pc + 8 }) :=
  crw_of_store hx hck (s.crIdle_fixed h) (s.crStore_fixed h _ _)

theorem crs_fixed {p : Pred} {s : State} {idx : BitVec 12} {a : Reg} (hx : s.executes p) (hck : s.crCheck idx a = .ok ()) (h : idx ∈ crFixed) (d : Reg) :
    exec (.crs p d idx a) s = exec (.crr p d idx) s := by
  rw [crs_of_store hx hck (s.crIdle_fixed h) d (s.crStore_fixed h _ _), crr_eq hx (s.crIdle_fixed h) d, ← State.putS_setCore]
  simp [State.putS, State.withRegs, State.regs]

theorem crc_fixed {p : Pred} {s : State} {idx : BitVec 12} {a : Reg} (hx : s.executes p) (hck : s.crCheck idx a = .ok ()) (h : idx ∈ crFixed) (d : Reg) :
    exec (.crc p d idx a) s = exec (.crr p d idx) s := by
  rw [crc_of_store hx hck (s.crIdle_fixed h) d (s.crStore_fixed h _ _), crr_eq hx (s.crIdle_fixed h) d, ← State.putS_setCore]
  simp [State.putS, State.withRegs, State.regs]

theorem crFixed_of_trapRec {idx : BitVec 12} (h : idx ∈ (List.range 8).map fun k => BitVec.ofNat 12 (0x028 + k)) : idx ∈ crFixed :=
  List.mem_of_mem_drop (i := 3) h

theorem crFixed_of_status {idx : BitVec 12} (h : idx ∈ [0x000#12, 0x070#12, 0x071#12]) : idx ∈ crFixed :=
  List.mem_of_mem_take (i := 3) h

theorem crPriv_iff (idx : BitVec 12) : crPriv idx = true ↔
    idx.toNat ∈ [0x001, 0x002, 0x003, 0x004, 0x028, 0x029, 0x02A, 0x02B, 0x02C, 0x02D, 0x02E, 0x02F, 0x031, 0x060, 0x061] := by
  simp [crPriv]
  omega

/-- A check that fails traps, and none of the three writes does anything else. -/
theorem exec_of_crCheck_error {p : Pred} {s : State} {idx : BitVec 12} {a : Reg} {t : Trap} (hx : s.executes p) (h : s.crCheck idx a = .error t) (d : Reg) :
    ∀ i ∈ [Instr.crw p idx a, .crs p d idx a, .crc p d idx a], exec i s = .next (s.take t) := by
  have hw : State.crw idx a s = .error t := by simp only [State.crw, h]
  have hm : ∀ f, State.crMod d idx a f s = .error t := fun f => by simp only [State.crMod, h]
  simp only [List.forall_mem_cons, List.not_mem_nil, false_implies, implies_true, and_true]
  exact ⟨issueS_trap hx hw, issueS_trap hx (hm _), issueS_trap hx (hm _)⟩

theorem State.crCheck_priv {s : State} {idx : BitVec 12} (hp : crPriv idx = true) (hs : s.core.prv = false) (a : Reg) :
    s.crCheck idx a = .error ⟨.priv, 0⟩ := by
  simp [State.crCheck, hp, hs, trap0]

theorem State.crCheck_psn {s : State} {idx : BitVec 12} {a : Reg} (hp : s.core.prv = true ∨ crPriv idx = false) (h : s.regs.psn a = true) :
    s.crCheck idx a = .error ⟨.psnuse, a.setWidth 64⟩ := by
  have hpriv : (crPriv idx && !s.core.prv) = false := by rcases hp with e | e <;> simp [e]
  have hpsn : s.core.regs.psn a = true := h
  simp [State.crCheck, hpriv, psnUse, hpsn]

/-! ### The clauses on one register each -/

section
variable {p : Pred} {s : State} {a : Reg} (hx : s.executes p) (hc : s.clean [a])
include hx hc

theorem astat_writes (hm : s.core.mma = none) (d : Reg) :
    exec (.crw p 0x010 a) s =
      .next (s.withRegs { s.regs with astat := s.regs.astat &&& ~~~((s.regs.rdS a).setWidth 7), pc := s.regs.pc + 8 }) ∧
    exec (.crs p d 0x010 a) s = .next (s.putS d (s.regs.astat.setWidth 64)) ∧
    exec (.crc p d 0x010 a) s = .next (s.putS d (s.regs.astat.setWidth 64)) := by
  have hck : s.crCheck 0x010 a = .ok () := State.crCheck_ok (fun h => absurd h (by decide)) hc
  have hi : s.crIdle 0x010 := .inr (congrArg s.setCore (Core.drainMma_of_none hm))
  refine ⟨?_, crs_of_store hx hck hi d (s.crStore_astat_keep _), crc_of_store hx hck hi d (s.crStore_astat_keep _)⟩
  rw [crw_of_store hx hck hi (s.crStore_astat _ _), and_mask_extract _ _ (by decide), extractLsb'_zero_eq_setWidth]
  simp [Core.adv, Core.modRegs, State.withRegs, Regs.adv, Regs.unflag, State.regs]

theorem licst_writes (d : Reg) :
    let c := s.core.journalCr 0x030 (s.licst s.cur)
    let read : State := s.setCore (c.modRegs fun r => (r.wrS d (s.licst s.cur) false).adv)
    exec (.crw p 0x030 a) s = .next (s.setCore { c with twc := s.core.twc && !(s.regs.rdS a).getLsbD 7 }.adv) ∧
    exec (.crs p d 0x030 a) s = .next read ∧ exec (.crc p d 0x030 a) s = .next read := by
  have hck : s.crCheck 0x030 a = .ok () := State.crCheck_ok (fun h => absurd h (by decide)) hc
  have hbit : (s.regs.rdS a &&& crW1c 0x030).getLsbD 7 = (s.regs.rdS a).getLsbD 7 := by simp [crW1c]
  refine ⟨?_, crs_of_store hx hck (.inl rfl) d (s.crStore_licst_keep _), crc_of_store hx hck (.inl rfl) d (s.crStore_licst_keep _)⟩
  rw [crw_of_store hx hck (.inl rfl) (s.crStore_licst _ _), hbit]

theorem pmapc_writes (d : Reg) :
    let c := s.core.journalCr 0x040 s.core.pmapc
    let inv : Core := if (s.regs.rdS a).getLsbD 0 then { c with pmCache := [] } else c
    let into (c : Core) : State := s.setCore (c.modRegs fun r => (r.wrS d s.core.pmapc false).adv)
    exec (.pmapcInv p a) s = .next (s.setCore inv.adv) ∧
    exec (.crs p d 0x040 a) s = .next (into inv) ∧ exec (.crc p d 0x040 a) s = .next (into c) := by
  have hck : s.crCheck 0x040 a = .ok () := State.crCheck_ok (fun h => absurd h (by decide)) hc
  have hread : s.crRead 0x040 = s.core.pmapc := rfl
  refine ⟨(crw_of_store hx hck (.inl rfl) (s.crStore_pmapc _ _)).trans ?_, (crs_of_store hx hck (.inl rfl) d (s.crStore_pmapc _ _)).trans ?_,
    (crc_of_store hx hck (.inl rfl) d (s.crStore_pmapc _ _)).trans ?_⟩
  · rw [masked_bit _ _ _ (by decide)]
  · rw [masked_bit _ _ _ (by decide), BitVec.getLsbD_or, hread, s.core.pmapc_bit0, Bool.false_or]
  · rw [masked_bit _ _ _ (by decide), BitVec.getLsbD_and, hread, s.core.pmapc_bit0, Bool.false_and, if_neg Bool.false_ne_true]

theorem acc_writes (h : s.settled) (k : BitVec 2) (d : Reg) :
    let idx : BitVec 12 := 0x050 + k.setWidth 12
    let x := s.core.accAt k
    let c (f : Flags) : Core := ((s.core.journalCr idx x.stWord).keepAcc k).setAcc k { x with flags := f }
    let read : State := s.setCore ((c x.flags).modRegs fun r => (r.wrS d x.stWord false).adv)
    exec (.crw p idx a) s = .next (s.setCore (c (x.flags &&& ~~~((s.regs.rdS a).setWidth 7))).adv) ∧
    exec (.crs p d idx a) s = .next read ∧ exec (.crc p d idx a) s = .next read := by
  intro idx x c read
  obtain ⟨hh, hm⟩ := h
  have hfree : ∀ k : BitVec 2, crPriv (0x050 + k.setWidth 12) = false := by decide
  have hmask : ∀ k : BitVec 2, (crW1c (0x050 + k.setWidth 12)).extractLsb' 0 7 = BitVec.allOnes 7 := by decide
  have hck : s.crCheck idx a = .ok () := State.crCheck_ok (fun e => absurd (e.symm.trans (hfree k)) Bool.true_eq_false.mp) hc
  have hi := State.crIdle_of_settled hm hh idx
  have hkeep : ∀ y, s.crStore idx y 0 = s.setCore (c x.flags) := fun y => by
    rw [State.crStore_acc_settled hm, Flags.clear_none]
  refine ⟨?_, ?_, ?_⟩
  · rw [crw_of_store hx hck hi (State.crStore_acc_settled hm k _ _), and_mask_extract _ _ (hmask k), extractLsb'_zero_eq_setWidth]
  · rw [crs_of_store hx hck hi d (hkeep _), s.crRead_acc k]
  · rw [crc_of_store hx hck hi d (hkeep _), s.crRead_acc k]

theorem cycle_writes (hp : s.core.prv = true) (d : Reg) :
    let c := s.core.journalCr 0x060 s.core.cycle
    let read : State := s.setCore (c.modRegs fun r => (r.wrS d s.core.cycle false).adv)
    exec (.crw p 0x060 a) s = .next (s.setCore c.adv) ∧ exec (.crs p d 0x060 a) s = .next read ∧ exec (.crc p d 0x060 a) s = .next read := by
  have hck : s.crCheck 0x060 a = .ok () := State.crCheck_ok (fun _ => hp) hc
  exact ⟨crw_of_store hx hck (.inl rfl) (s.crStore_cycle _ _), crs_of_store hx hck (.inl rfl) d (s.crStore_cycle _ _),
    crc_of_store hx hck (.inl rfl) d (s.crStore_cycle _ _)⟩

/-- CRS and CRC of ISLCFG take IID and PAD while BND is 0. -/
theorem islcfg_writes_unbound (hp : s.core.prv = true) (hb : s.core.islBnd = false) (d : Reg) :
    let old := s.core.islcfg
    let put (x : Word) : Core := { s.core.journalCr 0x031 old with islIid := x.extractLsb' 32 16, islPad := x.extractLsb' 8 8 }
    let into (c : Core) : State := s.setCore (c.modRegs fun r => (r.wrS d old false).adv)
    exec (.crs p d 0x031 a) s = .next (into (put (old ||| s.regs.rdS a))) ∧
    exec (.crc p d 0x031 a) s = .next (into (put (old &&& ~~~s.regs.rdS a))) := by
  intro old put into
  have hck : s.crCheck 0x031 a = .ok () := State.crCheck_ok (fun _ => hp) hc
  have hst : ∀ x, s.crStore 0x031 ((s.crRead 0x031 &&& ~~~crRw 0x031) ||| (x &&& crRw 0x031)) 0 = s.setCore (put x) := fun x => by
    rw [s.crStore_islcfg, hb, if_neg Bool.false_ne_true, masked_extract _ _ _ (by decide), masked_extract _ _ _ (by decide)]
  exact ⟨crs_of_store hx hck (.inl rfl) d (hst _), crc_of_store hx hck (.inl rfl) d (hst _)⟩

/-- CRS of ISLCFG leaves BND at 1, and so does CRC without bit 0; CRC with it releases the island. -/
theorem islcfg_writes_bound (hp : s.core.prv = true) (hb : s.core.islBnd = true) (d : Reg) :
    let old := s.core.islcfg
    let c := s.core.journalCr 0x031 old
    let read : State := s.setCore (c.modRegs fun r => (r.wrS d old false).adv)
    exec (.crs p d 0x031 a) s = .next read ∧
    ((s.regs.rdS a).getLsbD 0 = false → exec (.crc p d 0x031 a) s = .next read) ∧
    ((s.regs.rdS a).getLsbD 0 = true →
      ∃ t, exec (.crc p d 0x031 a) s = .next t ∧ Released (s.setCore (c.modRegs fun r => r.wrS d old false)) t) := by
  intro old c read
  have hck : s.crCheck 0x031 a = .ok () := State.crCheck_ok (fun _ => hp) hc
  have hread : s.crRead 0x031 = old := rfl
  have hst : ∀ x : Word, s.crStore 0x031 ((s.crRead 0x031 &&& ~~~crRw 0x031) ||| (x &&& crRw 0x031)) 0 =
      if x.getLsbD 0 then s.setCore c else (s.setCore c).islandRelease s.cur := fun x => by
    rw [s.crStore_islcfg, hb, if_pos rfl, masked_bit _ _ _ (by decide)]
  have hor : (s.crRead 0x031 ||| s.regs.rdS a).getLsbD 0 = true := by
    rw [BitVec.getLsbD_or, hread, s.core.islcfg_bit0, hb, Bool.true_or]
  have hand : (s.crRead 0x031 &&& ~~~s.regs.rdS a).getLsbD 0 = !(s.regs.rdS a).getLsbD 0 := by
    rw [BitVec.getLsbD_and, hread, s.core.islcfg_bit0, hb, BitVec.getLsbD_not]
    rfl
  refine ⟨crs_of_store hx hck (.inl rfl) d ((hst _).trans (if_pos hor)), fun hv => ?_, fun hv => ?_⟩
  · exact crc_of_store hx hck (.inl rfl) d ((hst _).trans (if_pos (by rw [hand, hv]; rfl)))
  · refine ⟨_, (exec_crc ..).trans (issueS_ok hx (crMod_eq hck (.inl rfl) d _)), ?_⟩
    rw [hst, if_neg (by rw [hand, hv]; exact Bool.false_ne_true)]
    exact released_crc ((Core.journalCr_islBnd ..).trans hb) d old

end

/-- Settles O14: the value of each register, the store of each, and the checks before them. -/
theorem controlRegisters : Obligations.ControlRegisters := by
  unfold Obligations.ControlRegisters
  refine ⟨fun p d s hx hm hh => ?_, ⟨?_, ?_, ?_, ?_, ?_, ?_, fun p d a s hx hc hm => ?_, fun p d a s hx hc => ?_⟩, fun p d a idx s hx => ?_⟩
  · intro c reads b fq me lic
    have read : ∀ idx x, s.crRead idx = BitVec.ofNat 64 x → reads idx x := fun idx x h =>
      (crr_eq hx (State.crIdle_of_settled hm hh idx) d).trans (by rw [h])
    have word : ∀ (idx : BitVec 12) (x : Word), s.crRead idx = x → reads idx x.toNat := fun idx x h =>
      read idx _ (by rw [h, BitVec.ofNat_toNat, BitVec.setWidth_eq])
    exact ⟨read _ _ (Core.ctxid_eq _), word _ _ rfl, word _ _ rfl, read _ _ s.crRead_gen, word _ _ rfl,
      read _ _ (BitVec.ofNat_toNat 64 c.regs.astat).symm, word _ _ rfl, fun k h => word _ _ (s.crRead_trapRec h), read _ _ s.licst_eq,
      read _ _ (Core.islcfg_eq _), read _ _ (Core.pmapc_eq _), fun k => read _ _ ((s.crRead_acc k).trans (Acc.stWord_eq _)), word _ _ rfl,
      read _ _ (BitVec.ofNat_toNat 64 c.wdogLim).symm, read _ _ (FeedQ.status_eq _), read _ _ (FeedQ.status_eq _)⟩
  · exact crRule_of (fun _ => rfl) (fun _ => rfl) rfl fun _ _ _ => rfl
  · exact crRule_of (fun _ => rfl) (fun _ => rfl) rfl fun _ _ _ => rfl
  · exact crRule_of (fun _ => rfl) State.crRead_gen rfl fun s x w => by
      rw [← State.crRead_gen, ← replace_byte3]
      rfl
  · exact crRule_of (fun _ => rfl) (fun _ => rfl) rfl fun _ _ _ => rfl
  · exact crRule_of (fun _ => rfl) (fun _ => rfl) rfl fun _ _ _ => rfl
  · exact crRule_of (fun _ => rfl) (fun _ => rfl) rfl fun s x w => by
      rw [← extractLsb'_zero_eq_setWidth x]
      rfl
  · intro v
    obtain ⟨hastatW, hastatS, hastatC⟩ := astat_writes hx hc hm d
    obtain ⟨hlicst, -, -⟩ := licst_writes hx hc d
    obtain ⟨hpmapc, -, -⟩ := pmapc_writes hx hc d
    refine ⟨hastatW, hastatS, hastatC, hlicst, hpmapc, fun idx h => ?_, fun hp idx h => ?_⟩
    · have hf := crFixed_of_status h
      exact crw_fixed hx (State.crCheck_ok (crFixed_privilege hf (.inl h)) hc) hf
    · exact crw_fixed hx (State.crCheck_ok (fun _ => hp) hc) (crFixed_of_trapRec h)
  · intro v into
    obtain ⟨-, hlicst⟩ := licst_writes hx hc d
    obtain ⟨-, hpmapc⟩ := pmapc_writes hx hc d
    refine ⟨fun hset k => acc_writes hx hc hset k d, hpmapc, hlicst, fun idx h => ?_, fun hp => ⟨fun idx h => ?_, cycle_writes hx hc hp d, ?_⟩⟩
    · have hf := crFixed_of_status h
      have hck := State.crCheck_ok (crFixed_privilege hf (.inl h)) hc
      exact ⟨crs_fixed hx hck hf d, crc_fixed hx hck hf d⟩
    · have hf := crFixed_of_trapRec h
      have hck := State.crCheck_ok (idx := idx) (fun _ => hp) hc
      exact ⟨crs_fixed hx hck hf d, crc_fixed hx hck hf d⟩
    · exact ⟨rfl, fun hb => islcfg_writes_unbound hx hc hp hb d, fun hb => islcfg_writes_bound hx hc hp hb d⟩
  · intro writes privileged
    refine ⟨fun hs hp => ?_, fun hs hpsn => ?_, fun hs => ?_⟩
    · exact exec_of_crCheck_error hx (State.crCheck_priv ((crPriv_iff idx).mpr hp) hs a) d
    · refine exec_of_crCheck_error hx (State.crCheck_psn (hs.imp_right fun h => ?_) hpsn) d
      exact Bool.eq_false_iff.mpr fun e => h ((crPriv_iff idx).mp e)
    · exact exec_of_crCheck_error hx (State.crCheck_priv (idx := 0x031) rfl hs a) d (.crw p 0x031 a) (List.mem_cons_self ..)

end Sys2Proof.Machine

namespace Sys2Proof.Machine
open Sys2Proof.Laws

/-! ### A hand-over that leaves the core (R20, R164) -/

/-- A hand-over that has completed does so no more. -/
theorem State.migrateFrom_migrate (s : State) (k : Nat) : (s.migrate (quernOf k)).migrateFrom k = s.migrate (quernOf k) := by
  refine if_neg ?_
  have hhand : ((s.migrate (quernOf k)).quernAt (quernOf k)).hand = none := by
    unfold State.migrate
    split
    · assumption
    · rw [State.quernAt_setQuernAt]
      rfl
  simp [Quern.sends, hhand]

theorem State.migrateFrom_of_not_sends {s : State} {k : Nat} (h : (s.quernAt (quernOf k)).sends (isRunner k) = false) : s.migrateFrom k = s :=
  if_neg (by simp [h])

theorem State.migrateFrom_of_sends {s : State} {k : Nat} (h : (s.quernAt (quernOf k)).sends (isRunner k) = true) :
    s.migrateFrom k = s.migrate (quernOf k) := if_pos h

theorem State.takeAt_of_not_sends {s : State} {k : Nat} (h : (s.quernAt (quernOf k)).sends (isRunner k) = false) (t : Trap) (w : Word) :
    s.takeAt k t w = s.setCoreAt k ((s.coreAt k).takeTrap t w) := by
  rw [State.takeAt, State.migrateFrom_of_not_sends h]

theorem State.takeAt_of_sends {s : State} {k : Nat} (h : (s.quernAt (quernOf k)).sends (isRunner k) = true) (t : Trap) (w : Word) :
    s.takeAt k t w = (s.migrate (quernOf k)).setCoreAt k (((s.migrate (quernOf k)).coreAt k).takeTrap t w) := by
  rw [State.takeAt, State.migrateFrom_of_sends h]

/-- A core that sends a tile has its hand-over completed by MIGRATION_DONE. -/
theorem exec_migrationDone_of_sends {s : State} {k : Nat} (h : (s.quernAt (quernOf k)).sends (isRunner k) = true) :
    exec (.migrationDone (quernOf k)) s = .next (s.migrate (quernOf k)) := by
  obtain ⟨m, hm, -⟩ := Option.any_eq_true _ _ |>.mp h
  rw [exec_migrationDone, execMigrationDone, hm]
  rfl

/-! ### CONDITION_MET and WATCHDOG_EXPIRY (R180, R213) -/

theorem execConditionMet_of_met {k : Nat} {x : BitVec 2} {s : State} (hcap : (s.coreAt k).captured = false) (hst : ((s.coreAt k).ctxAt x).st = .parked)
    (hmet : (s.coreAt k).met x (((s.quernAt (quernOf k)).view s.cycle).held (isRunner k)) ((s.coreAt k).ctxAt x).wait = true) :
    execConditionMet k x s = .next (s.upd k fun c => c.setCtxAt x { c.ctxAt x with st := .ready, since := c.cycle.toNat }) := by
  exact if_pos (by simp [hst, hcap, hmet])

theorem execWatchdogExpiry_of_expired {k : Nat} {s : State} (hst : (s.coreAt k).ctx.st = .running) (hwd : (s.coreAt k).ctx.wdLimit ≤ (s.coreAt k).ctx.wd) :
    execWatchdogExpiry k s = .next ((s.setCoreAt k { s.coreAt k with sync := none, stalled := false }).takeAt k
      ⟨.wdog, BitVec.ofNat 64 (s.coreAt k).ctx.wdLimit⟩ (s.coreAt k).fetchWord) := by
  exact if_pos (by simp [hst, hwd])

/-! ### The scheduler's choice (R281) -/

/-- The choice between the best candidate so far and the next one. -/
def keepBest (y x : Nat × Pick) : Nat × Pick := if y.1 < x.1 then x else y

theorem Core.choose_cons {c : Core} {x : Nat × Pick} {xs : List (Nat × Pick)} (h : c.candidates = x :: xs) : c.choose = some (xs.foldl keepBest x) := by
  unfold Core.choose
  rw [h]
  exact List.foldl_hom some fun y x => (apply_ite some (y.1 < x.1) x y).symm

theorem keepBest_mem (y x : Nat × Pick) : keepBest y x = y ∨ keepBest y x = x := by
  unfold keepBest
  split
  · exact .inr rfl
  · exact .inl rfl

theorem le_keepBest (y x : Nat × Pick) : y.1 ≤ (keepBest y x).1 ∧ x.1 ≤ (keepBest y x).1 := by
  unfold keepBest
  split <;> omega

/-- What is left of a list of candidates is one of them, and none has a higher priority. -/
theorem foldl_keepBest (xs : List (Nat × Pick)) (y : Nat × Pick) :
    xs.foldl keepBest y ∈ y :: xs ∧ ∀ z ∈ y :: xs, z.1 ≤ (xs.foldl keepBest y).1 := by
  induction xs generalizing y with
  | nil => exact ⟨List.mem_cons_self .., fun z hz => by rw [List.mem_singleton.mp hz]; exact Nat.le_refl _⟩
  | cons x xs ih =>
    obtain ⟨hmem, hmax⟩ := ih (keepBest y x)
    obtain ⟨hy, hx⟩ := le_keepBest y x
    have hbest : (keepBest y x).1 ≤ (xs.foldl keepBest (keepBest y x)).1 := hmax _ (List.mem_cons_self ..)
    rw [List.foldl_cons]
    constructor
    · rcases List.mem_cons.mp hmem with e | hxs
      · rcases keepBest_mem y x with h | h
        · exact List.mem_cons.mpr (.inl (e.trans h))
        · exact List.mem_cons_of_mem _ (List.mem_cons.mpr (.inl (e.trans h)))
      · exact List.mem_cons_of_mem _ (List.mem_cons_of_mem _ hxs)
    · intro z hz
      rcases List.mem_cons.mp hz with rfl | hz
      · exact Nat.le_trans hy hbest
      · rcases List.mem_cons.mp hz with rfl | hz
        · exact Nat.le_trans hx hbest
        · exact hmax z (List.mem_cons_of_mem _ hz)

theorem Core.choose_spec {c : Core} (h : c.candidates ≠ []) :
    ∃ e, c.choose = some e ∧ e ∈ c.candidates ∧ ∀ y ∈ c.candidates, y.1 ≤ e.1 := by
  cases hc : c.candidates with
  | nil => exact absurd hc h
  | cons x xs => exact ⟨_, Core.choose_cons hc, foldl_keepBest xs x⟩

/-- A candidate that starts an activation names one that is pending. -/
theorem Core.pend_of_candidate {c : Core} {prio i : Nat} {x : BitVec 2} (h : (prio, Pick.start i x) ∈ c.candidates) : ∃ y, c.pend[i]? = some y := by
  simp only [Core.candidates, List.mem_append, List.mem_filterMap, List.mem_map, List.mem_mergeSort] at h
  rcases h with ⟨k, -, hk⟩ | ⟨e, ⟨j, -, hj⟩, he⟩
  · split at hk <;> simp at hk
  · obtain ⟨-, hi⟩ := Prod.mk.inj he
    obtain ⟨hi, -⟩ := Pick.start.inj hi
    split at hj
    · next y hy =>
      split at hj
      · cases hj
      · obtain ⟨k, -, rfl⟩ := Option.map_eq_some_iff.mp hj
        exact ⟨y, hi ▸ hy⟩
    · cases hj

/-- Nothing keeps core k from selecting: no tile migrates from it, and neither its state nor a resume of its group stands against it. -/
def State.selects (s : State) (k : Nat) : Prop :=
  (s.quernAt (quernOf k)).sends (isRunner k) = false ∧ (s.coreAt k).maySelect = true ∧ s.resuming (s.coreAt k).gid = false

theorem execSelectActivation_ready {k prio : Nat} {x : BitVec 2} {s : State} (hs : s.selects k) (hc : (s.coreAt k).choose = some (prio, .ready x)) :
    execSelectActivation k s = .next (s.setCoreAt k ((s.coreAt k).runReady x prio)) := by
  obtain ⟨hsend, hmay, hres⟩ := hs
  simp only [execSelectActivation, State.migrateFrom_of_not_sends hsend, hmay, hres, hc, Bool.not_false, Bool.and_true, if_true]

theorem execSelectActivation_start {k prio i : Nat} {x : BitVec 2} {y : Pend} {s : State} (hs : s.selects k)
    (hc : (s.coreAt k).choose = some (prio, .start i x)) (hy : (s.coreAt k).pend[i]? = some y) :
    execSelectActivation k s = .next (s.setCoreAt k ((s.coreAt k).startAct i y x prio)) := by
  obtain ⟨hsend, hmay, hres⟩ := hs
  simp only [execSelectActivation, State.migrateFrom_of_not_sends hsend, hmay, hres, hc, hy, Bool.not_false, Bool.and_true, if_true]

/-- A core of a group that is being resumed selects nothing. -/
theorem execSelectActivation_resuming {k : Nat} {s : State} (hsend : (s.quernAt (quernOf k)).sends (isRunner k) = false)
    (hres : s.resuming (s.coreAt k).gid = true) : execSelectActivation k s = .refused (.notEnabled "SELECT_ACTIVATION") := by
  simp only [execSelectActivation, State.migrateFrom_of_not_sends hsend, hres, Bool.not_true, Bool.and_false, Bool.false_eq_true, if_false]

theorem State.resuming_iff (s : State) (gid : BitVec 16) : s.resuming gid = true ↔ ∃ e ∈ s.seq.resuming, e.1 = gid := by
  simp [State.resuming]

theorem State.onlyAt_setCoreAt (s : State) (k : Nat) (c : Core) : s.onlyAt (s.setCoreAt k c) k := by
  rw [State.onlyAt, State.coreAt_setCoreAt]

/-! ### A context that starts to run (R17, R18) -/

theorem Core.ctx_runCtx (c : Core) (k : BitVec 2) (x : Ctx) : (c.runCtx k x).ctx = { x with st := .running, wait := .none } :=
  Core.ctxAt_setCtxAt c k _

theorem Core.runReady_of_not_chan {c : Core} {k : BitVec 2} (h : ¬ (c.ctxAt k).wait.isChan = true) (prio : Nat) :
    c.runReady k prio = c.runCtx k { c.ctxAt k with prio := BitVec.ofNat 3 prio } := by
  unfold Core.runReady
  dsimp only
  split
  · next ch hw => exact absurd (congrArg Wait.isChan hw) h
  · rfl

/-- Taking a pending message leaves alone what local store and the records are no part of. -/
theorem Core.Apart.takePend {γ : Type} {g : Core → γ} (h : Core.Apart g) (c : Core) (i : Nat) (x : Pend) (k : BitVec 2) :
    g (c.takePend i x k) = g { c with pend := c.pend.eraseIdx i } := by
  have hland : ∀ d : Core, g (d.showLand x.ch) = g d := fun d => h.bytes ..
  have hkeep : ∀ (d : Core) r, g (d.retain r) = g d := fun d r => (h.bytes ..).trans (h.window d d.ops d.ctxs _ d.win d.late)
  unfold Core.takePend
  dsimp only
  split
  · rw [hkeep]
    split
    · exact hland _
    · rfl
  · split
    · exact hland _
    · rfl

theorem Core.takePend_pend (c : Core) (i : Nat) (x : Pend) (k : BitVec 2) : (c.takePend i x k).pend = c.pend.eraseIdx i :=
  Core.Apart.takePend (g := Core.pend) ⟨Core.wrBytes_pend, fun _ _ _ _ _ _ => rfl⟩ c i x k

theorem Core.takePend_wdogLim (c : Core) (i : Nat) (x : Pend) (k : BitVec 2) : (c.takePend i x k).wdogLim = c.wdogLim :=
  Core.Apart.takePend (g := Core.wdogLim) ⟨Core.wrBytes_wdogLim, fun _ _ _ _ _ _ => rfl⟩ c i x k

theorem Core.takePend_s5 (c : Core) (i : Nat) (x : Pend) (k : BitVec 2) : (c.takePend i x k).s5 = c.s5 :=
  Core.Apart.takePend (g := Core.s5) ⟨fun c a bs => by simp [Core.s5, Core.gid], fun _ _ _ _ _ _ => rfl⟩ c i x k

/-- s5 by the fields of RELPOS and GRPID. -/
theorem Core.s5_eq (c : Core) :
    c.s5 = BitVec.ofNat 64 (c.relpos.toNat % 2 ^ 7 + 2 ^ 16 * (c.relpos.toNat / 2 ^ 16 % 2 ^ 10) + 2 ^ 32 * (c.grpid.toNat % 2 ^ 16)) := by
  simp [Core.s5, Core.gid, BitVec.extractLsb'_toNat, Nat.shiftRight_eq_div_pow]

/-- The dispatch words go into s1 to s4. -/
theorem Regs.dispatch_eq (r : Regs) (x : Pend) (prio : Nat) :
    r.dispatch x prio = (((r.wrS 1 (BitVec.ofNat 64 (x.ch.toNat + 2 ^ 8 * x.mode.toNat + 2 ^ 10 * x.set.toNat + 2 ^ 16 * x.psnMask.toNat + 2 ^ 32 * prio)) false).wrS 2
      x.sender false).wrS 3 (BitVec.ofNat 64 ((if x.mode = 3 then 0 else x.addr.toNat) + 2 ^ 32 * x.len.toNat)) false).wrS 4 x.word x.psn := by
  have hcopy : ∀ m : BitVec 2, (m == 0#2 || m == 1#2 || m == 2#2) = decide (m ≠ 3) := by decide
  have hif : (if x.mode ≠ 3 then x.addr.toNat else 0) = if x.mode = 3 then 0 else x.addr.toNat := ite_not ..
  simp only [Regs.dispatch, dispatchWords, hcopy, decide_eq_true_eq, hif, List.zip_cons_cons, List.foldl_cons]
  rfl

theorem Regs.rdS_reset (j : Reg) : Regs.reset.rdS j = 0 := by
  simp [Regs.rdS, Regs.reset]

/-- The scalar registers of a new activation: the dispatch words in s1 to s5, and zero above (R18). -/
theorem Regs.started (r : Regs) (x : Pend) (prio : Nat) (w : Word) :
    let u := (r.dispatch x prio).wrS 5 w false
    u.rdS 1 = BitVec.ofNat 64 (x.ch.toNat + 2 ^ 8 * x.mode.toNat + 2 ^ 10 * x.set.toNat + 2 ^ 16 * x.psnMask.toNat + 2 ^ 32 * prio) ∧
    u.rdS 2 = x.sender ∧ u.rdS 3 = BitVec.ofNat 64 ((if x.mode = 3 then 0 else x.addr.toNat) + 2 ^ 32 * x.len.toNat) ∧
    u.rdS 4 = x.word ∧ u.psn 4 = x.psn ∧ u.rdS 5 = w ∧ ∀ j : Reg, 5 < j.toNat → u.rdS j = r.rdS j := by
  intro u
  simp only [u, Regs.dispatch_eq, Regs.rdS_wrS, Regs.psn_wrS]
  refine ⟨rfl, rfl, rfl, rfl, rfl, rfl, fun j hj => ?_⟩
  have hne : ∀ i : Reg, i.toNat ≤ 5 → j ≠ i := fun i hi e => by
    subst e
    omega
  simp only [hne 0#5 (by decide), hne 1 (by decide), hne 2 (by decide), hne 3 (by decide), hne 4 (by decide), hne 5 (by decide), if_false]

/-- What is no scalar register is as the dispatch found it. -/
theorem Regs.dispatch_keeps {γ : Type} {g : Regs → γ} (hg : ∀ r i x p, g (Regs.wrS r i x p) = g r) (r : Regs) (x : Pend) (prio : Nat) (w : Word) :
    g ((r.dispatch x prio).wrS 5 w false) = g r := by
  simp only [Regs.dispatch_eq, hg]

/-- The registers of a new activation before its dispatch words: as after reset, but for the pc and the context's batch (R17). -/
def Core.startBase (c : Core) (i : Nat) (x : Pend) (k : BitVec 2) : Regs :=
  let old := ((c.takePend i x k).ctxAt k).regs
  { Regs.reset with openBatch := old.openBatch, batchUsed := old.batchUsed, pc := c.chEntry x.ch.toNat }

/-- The registers that a pending activation starts with. -/
def Core.startRegs (c : Core) (i : Nat) (x : Pend) (k : BitVec 2) (prio : Nat) : Regs :=
  ((c.startBase i x k).dispatch x prio).wrS 5 c.s5 false

/-- The parts of a core that an activation starts with. -/
theorem Core.startAct_parts (c : Core) (i : Nat) (x : Pend) (k : BitVec 2) (prio : Nat) :
    let u := c.startAct i x k prio
    let r := c.startRegs i x k prio
    u.run = k ∧ u.ctx.st = .running ∧ u.ctx.wait = .none ∧ u.ctx.wd = 0 ∧ u.pend = c.pend.eraseIdx i ∧ u.win.ckpt = r ∧ u.win.journal = [] ∧
      u.ctx.prv = decide (56 ≤ x.ch.toNat) ∧ u.ctx.wdLimit = (if c.wdogLim = 0 then 2 ^ 32 else c.wdogLim.toNat) ∧ u.regs = r := by
  intro u r
  have hs5 := c.takePend_s5 i x k
  have hlim := c.takePend_wdogLim i x k
  simp only [u, r, Core.startAct, Core.regs, Core.ctx_runCtx, Core.startRegs, Core.startBase, hs5, hlim]
  exact ⟨rfl, trivial, trivial, trivial, c.takePend_pend i x k, rfl, rfl, trivial, rfl, trivial⟩

/-- Settles O35: each event by its enabled case, and the choice as the first of the candidates of highest priority. -/
theorem activations : Obligations.Activations := by
  unfold Obligations.Activations
  refine ⟨fun k x s hcap hst hmet => execConditionMet_of_met hcap hst hmet, fun k s hst hwd => ⟨fun hs => ?_, fun hs => ?_⟩, fun k s hs => ?_,
    fun k s hs hres => ?_, fun k s hs hmay hne hres => ?_⟩
  · refine (execWatchdogExpiry_of_expired hst hwd).trans ?_
    rw [State.takeAt_of_not_sends (s := s.setCoreAt k _) hs, State.coreAt_setCoreAt, State.setCoreAt_setCoreAt]
  · refine ⟨_, exec_migrationDone_of_sends (s := s.setCoreAt k _) hs, (execWatchdogExpiry_of_expired hst hwd).trans ?_⟩
    rw [State.takeAt_of_sends (s := s.setCoreAt k _) hs]
  · refine ⟨_, exec_migrationDone_of_sends hs, ?_⟩
    simp only [exec_selectActivation, execSelectActivation]
    rw [State.migrateFrom_of_sends hs, State.migrateFrom_migrate]
  · rintro ⟨t, ht⟩
    exact nomatch ht.symm.trans (execSelectActivation_resuming hs ((State.resuming_iff ..).mpr hres))
  · intro c
    have hnot : s.resuming c.gid = false := Bool.eq_false_iff.mpr fun e => by
      obtain ⟨e, he, hgid⟩ := (State.resuming_iff ..).mp e
      exact hres e he hgid
    obtain ⟨⟨prio, pick⟩, hpick, hmem, hmax⟩ := Core.choose_spec hne
    have hsel : s.selects k := ⟨hs, hmay, hnot⟩
    refine ⟨prio, pick, hmem, hmax, ?_⟩
    cases pick with
    | ready x =>
      refine ⟨_, execSelectActivation_ready hsel hpick, State.onlyAt_setCoreAt .., fun hw => ?_⟩
      rw [State.coreAt_setCoreAt, Core.runReady_of_not_chan hw, Core.regs, Core.ctx_runCtx]
      exact ⟨rfl, rfl, rfl, rfl, rfl, rfl⟩
    | start i x =>
      obtain ⟨y, hy⟩ := Core.pend_of_candidate hmem
      refine ⟨y, _, hy, execSelectActivation_start hsel hpick hy, State.onlyAt_setCoreAt .., ?_⟩
      rw [State.coreAt_setCoreAt]
      obtain ⟨hrun, hst, hwait, hwd, hpend, hckpt, hjournal, hprv, hlimit, hregs⟩ := c.startAct_parts i y x prio
      obtain ⟨h1, h2, h3, h4, hpsn, h5, habove⟩ := (c.startBase i y x).started y prio c.s5
      refine ⟨hrun, hst, hwait, hwd, hpend, hckpt.trans hregs.symm, hjournal, hprv, hlimit, ?_⟩
      rw [hregs]
      exact ⟨Regs.dispatch_keeps Regs.wrS_pc .., Regs.dispatch_keeps Regs.wrS_astat .., Regs.dispatch_keeps Regs.wrS_handler ..,
        Regs.dispatch_keeps Regs.wrS_g .., Regs.dispatch_keeps Regs.wrS_v .., Regs.dispatch_keeps Regs.wrS_m .., fun _ => h1, h2, h3, h4, hpsn,
        h5.trans c.s5_eq, fun j hj => (habove j hj).trans (Regs.rdS_reset j)⟩

end Sys2Proof.Machine

namespace Sys2Proof.Machine
open Sys2Proof.Laws

/-! ### The keys of an origin as one number (R65) -/

theorem bitVec_append_inj {m n : Nat} {x x' : BitVec m} {y y' : BitVec n} : x ++ y = x' ++ y' ↔ x = x' ∧ y = y' := by
  refine ⟨fun h => ⟨?_, ?_⟩, fun ⟨hx, hy⟩ => by rw [hx, hy]⟩
  · simpa only [BitVec.extractLsb'_append_eq_left] using congrArg (BitVec.extractLsb' n m) h
  · simpa only [BitVec.extractLsb'_append_eq_right] using congrArg (BitVec.extractLsb' 0 n) h

/-- Concatenations of one shape compare as their parts do in order. -/
theorem toNat_append_lt_iff {m n : Nat} (x x' : BitVec m) (y y' : BitVec n) :
    (x ++ y).toNat < (x' ++ y').toNat ↔ x.toNat < x'.toNat ∨ x.toNat = x'.toNat ∧ y.toNat < y'.toNat := by
  have hy := y.isLt
  have hy' := y'.isLt
  rw [toNat_append_add, toNat_append_add]
  rcases Nat.lt_trichotomy x.toNat x'.toNat with h | h | h
  · have hstep := Nat.mul_le_mul_left (2 ^ n) (Nat.succ_le_of_lt h)
    rw [Nat.mul_succ] at hstep
    omega
  · rw [h]
    omega
  · have hstep := Nat.mul_le_mul_left (2 ^ n) (Nat.succ_le_of_lt h)
    rw [Nat.mul_succ] at hstep
    omega

theorem orgKey_lt_iff (o w : Org) : orgKey o < orgKey w ↔ orgKeys o < orgKeys w := by
  simp only [orgKey, orgKeys, toNat_append_lt_iff, List.cons_lt_cons_iff, List.lt_irrefl, and_false, or_false]

/-- The keys split NAME in two; together they hold all of it. -/
theorem orgName_eq_append (o : Org) : orgName o = (orgName o).extractLsb' 24 8 ++ (orgName o).extractLsb' 0 24 := by
  exact (BitVec.extractLsb'_append_extractLsb' (w := 8) (len := 24)).symm

/-- Every field of the record is a key, so equal keys leave only the reserved bits to differ. -/
theorem orgClean_eq_of_orgKey_eq {o w : Org} (h : orgKey o = orgKey w) : orgClean o = orgClean w := by
  obtain ⟨hhi, hmod, hlo, hpc, hcause, hgroup⟩ := by
    simpa only [orgKey, BitVec.toNat_inj, bitVec_append_inj] using h
  have hname : orgName o = orgName w := by rw [orgName_eq_append o, hhi, hlo, ← orgName_eq_append]
  rw [orgClean, orgClean, hgroup, hcause, hpc, hmod, hname]

/-! ### The winner (R65) -/

theorem orgMin_eq_or (a b : Org) : orgMin a b = a ∨ orgMin a b = b := by
  unfold orgMin
  split
  · exact .inr rfl
  · exact .inl rfl

theorem orgKey_orgMin (a b : Org) : orgKey (orgMin a b) = min (orgKey a) (orgKey b) := by
  unfold orgMin
  split <;> omega

/-- The winner is one of the origins that meet, and no other has a smaller key. -/
theorem orgWinner_spec {os : List Org} (h : os ≠ []) : ∃ w, orgWinner os = some w ∧ w ∈ os ∧ ∀ o ∈ os, orgKey w ≤ orgKey o := by
  induction os with
  | nil => exact absurd rfl h
  | cons o os ih =>
    by_cases hos : os = []
    · subst hos
      exact ⟨o, rfl, by simp, by simp⟩
    · obtain ⟨w, hw, hmem, hle⟩ := ih hos
      refine ⟨orgMin o w, by rw [orgWinner, hw], ?_, fun x hx => ?_⟩
      · rcases orgMin_eq_or o w with e | e <;> rw [e]
        · exact List.mem_cons_self
        · exact List.mem_cons_of_mem _ hmem
      · rw [orgKey_orgMin]
        rcases List.mem_cons.mp hx with rfl | hx
        · exact Nat.min_le_left ..
        · exact Nat.le_trans (Nat.min_le_right ..) (hle x hx)

/-- Lists with the same members have winners that agree in every field of R64. -/
theorem orgWinner_clean_congr {os ps : List Org} (h : ∀ o, o ∈ os ↔ o ∈ ps) : (orgWinner os).map orgClean = (orgWinner ps).map orgClean := by
  by_cases hos : os = []
  · have hps : ps = [] := List.eq_nil_iff_forall_not_mem.mpr fun o ho => by simpa [hos] using (h o).mpr ho
    rw [hos, hps]
  · have hps : ps ≠ [] := fun hps => hos (List.eq_nil_iff_forall_not_mem.mpr fun o ho => by simpa [hps] using (h o).mp ho)
    obtain ⟨w, hw, hmem, hle⟩ := orgWinner_spec hos
    obtain ⟨v, hv, hmem', hle'⟩ := orgWinner_spec hps
    have hkey : orgKey w = orgKey v := Nat.le_antisymm (hle v ((h v).mpr hmem')) (hle' w ((h w).mp hmem))
    rw [hw, hv, Option.map_some, Option.map_some, orgClean_eq_of_orgKey_eq hkey]

/-- Settles O57: the winner has the least key, and origins of the same key differ in reserved bits at most. -/
theorem originWinner : Obligations.OriginWinner := by
  unfold Obligations.OriginWinner
  refine ⟨fun os hos => ?_, fun os ps hperm => orgWinner_clean_congr fun _ => hperm.mem_iff⟩
  obtain ⟨w, hw, hmem, hle⟩ := orgWinner_spec hos
  exact ⟨w, hw, hmem, fun o ho hlt => Nat.not_lt.mpr (hle o ho) ((orgKey_lt_iff o w).mpr hlt)⟩

end Sys2Proof.Machine

namespace Sys2Proof.Machine
open Sys2Proof.Laws

/-! ### Powers of two and rounding to them (R51) -/

theorem pow2_pos (k : Int) : 0 < pow2 k := Int.pow_pos (by decide)

theorem pow2_add {j k : Int} (hj : 0 ≤ j) (hk : 0 ≤ k) : pow2 (j + k) = pow2 j * pow2 k := by
  rw [pow2, pow2, pow2, Int.toNat_add hj hk, Int.pow_add]

theorem pow2_le {j k : Int} (hj : 0 ≤ j) (hjk : j ≤ k) : pow2 j ≤ pow2 k := by
  have hk := pow2_pos (k - j)
  calc pow2 j = pow2 j * 1 := (Int.mul_one _).symm
    _ ≤ pow2 j * pow2 (k - j) := Int.mul_le_mul_of_nonneg_left hk (Int.le_of_lt (pow2_pos j))
    _ = pow2 k := by rw [← pow2_add hj (by omega)]; congr 1; omega

/-- Whatever the mode, the rounding of a fraction is its floor or the integer above it. -/
theorem roundInt_eq_floor_or (m : Int) {e : Int} (rm : RMode) (he : ¬ 0 ≤ e) :
    roundInt m e rm = m / pow2 (-e) ∨ roundInt m e rm = m / pow2 (-e) + 1 := by
  simp only [roundInt, if_neg he]
  split
  · exact .inl rfl
  · cases rm with
    | rne =>
      dsimp only
      split
      · exact .inr rfl
      · split
        · exact .inl rfl
        · split
          · exact .inl rfl
          · exact .inr rfl
    | rz =>
      dsimp only
      split
      · exact .inl rfl
      · exact .inr rfl
    | sr u =>
      dsimp only
      split
      · exact .inr rfl
      · exact .inl rfl

theorem roundInt_zero (e : Int) (rm : RMode) : roundInt 0 e rm = 0 := by
  unfold roundInt
  split
  · exact Int.zero_mul _
  · dsimp only
    rw [Int.zero_ediv, Int.zero_emod, if_pos rfl]

/-- Rounding m * 2^t at scale tn is off by at most one unit, both counted in units of 2^e. -/
theorem roundInt_error (m : Int) {e t tn : Int} (rm : RMode) (het : e ≤ t) (hen : e ≤ tn) :
    roundInt m (t - tn) rm * pow2 (tn - e) - m * pow2 (t - e) ≤ pow2 (tn - e) ∧
      m * pow2 (t - e) - roundInt m (t - tn) rm * pow2 (tn - e) ≤ pow2 (tn - e) := by
  have hunit := pow2_pos (tn - e)
  by_cases h : 0 ≤ t - tn
  · have hexact : roundInt m (t - tn) rm * pow2 (tn - e) = m * pow2 (t - e) := by
      rw [roundInt, if_pos h, Int.mul_assoc, ← pow2_add h (by omega)]
      congr 2
      omega
    omega
  · have hfine := pow2_pos (t - e)
    have hcoarse := pow2_pos (-(t - tn))
    have hsplit : pow2 (tn - e) = pow2 (-(t - tn)) * pow2 (t - e) := by
      rw [← pow2_add (by omega) (by omega)]
      congr 1
      omega
    have hdiv := Int.mul_ediv_add_emod m (pow2 (-(t - tn)))
    have hlo := Int.emod_nonneg m (Int.ne_of_gt hcoarse)
    have hhi := Int.emod_lt_of_pos m hcoarse
    have hnear : roundInt m (t - tn) rm * pow2 (-(t - tn)) - m ≤ pow2 (-(t - tn)) ∧ m - roundInt m (t - tn) rm * pow2 (-(t - tn)) ≤ pow2 (-(t - tn)) := by
      rw [Int.mul_comm] at hdiv
      rcases roundInt_eq_floor_or m rm h with hr | hr <;> rw [hr]
      · omega
      · rw [Int.add_mul, Int.one_mul]
        omega
    rw [hsplit, ← Int.mul_assoc, ← Int.sub_mul, ← Int.sub_mul]
    exact ⟨Int.mul_le_mul_of_nonneg_right hnear.1 (Int.le_of_lt hfine), Int.mul_le_mul_of_nonneg_right hnear.2 (Int.le_of_lt hfine)⟩

/-- The exact sum stands at the smaller exponent. -/
theorem dyAdd_eq (a b : Int × Int) :
    dyAdd a b = (a.1 * pow2 (a.2 - min a.2 b.2) + b.1 * pow2 (b.2 - min a.2 b.2), min a.2 b.2) := by
  unfold dyAdd
  split
  next h => rw [Int.min_eq_left h, Int.sub_self, show pow2 0 = 1 from rfl, Int.mul_one]
  next h => rw [Int.min_eq_right (by omega), Int.sub_self, show pow2 0 = 1 from rfl, Int.mul_one]

theorem pow2_ilog2_le {m : Int} (h : m ≠ 0) : pow2 (ilog2 m.natAbs) ≤ (m.natAbs : Int) := by
  have hlog : 2 ^ m.natAbs.log2 ≤ m.natAbs := Nat.log2_self_le (Int.natAbs_ne_zero.mpr h)
  rw [pow2, ilog2, Int.toNat_natCast]
  exact_mod_cast hlog

/-! ### The sums of a tile at a scale (R60) -/

/-- Element i of a tile with its contribution, each aligned at scale `tn`. -/
def tileSum (n : List Int) (t : Int) (sums : List (Int × Int)) (tn : Int) (i : Nat) : Int :=
  let c := sums.getD i (0, 0)
  roundInt (n.getD i 0) (t - tn) .rne + (if c.1 = 0 then 0 else roundInt c.1 (c.2 - tn) .rne)

/-- Every sum fits in 48 bits at scale `tn`. -/
def TileSumsFit (n : List Int) (t : Int) (sums : List (Int × Int)) (tn : Int) : Prop :=
  ∀ i, i < n.length → -2 ^ 47 ≤ tileSum n t sums tn i ∧ tileSum n t sums tn i ≤ 2 ^ 47 - 1

/-- An element and its contribution, added exactly. -/
def tileExact (n : List Int) (t : Int) (sums : List (Int × Int)) (i : Nat) : Int × Int := dyAdd (n.getD i 0, t) (sums.getD i (0, 0))

section
variable {n : List Int} {t : Int} {sums : List (Int × Int)}

theorem tileExact_scale_le (i : Nat) : (tileExact n t sums i).2 ≤ t := by
  rw [tileExact, dyAdd_eq]
  exact Int.min_le_left ..

/-- A contribution of zero rounds to zero as well. -/
theorem tileSum_eq (tn : Int) (i : Nat) : tileSum n t sums tn i =
    roundInt (n.getD i 0) (t - tn) .rne + roundInt (sums.getD i (0, 0)).1 ((sums.getD i (0, 0)).2 - tn) .rne := by
  unfold tileSum
  dsimp only
  split
  next h => rw [h, roundInt_zero]
  next => rfl

/-- A sum is off by one unit at most for each of its two roundings. -/
theorem tileSum_error {tn : Int} (ht : t ≤ tn) (i : Nat) :
    tileSum n t sums tn i * pow2 (tn - (tileExact n t sums i).2) - (tileExact n t sums i).1 ≤ 2 * pow2 (tn - (tileExact n t sums i).2) ∧
      (tileExact n t sums i).1 - tileSum n t sums tn i * pow2 (tn - (tileExact n t sums i).2) ≤ 2 * pow2 (tn - (tileExact n t sums i).2) := by
  rw [tileSum_eq, tileExact, dyAdd_eq]
  dsimp only
  generalize n.getD i 0 = x
  generalize sums.getD i (0, 0) = c
  have hx : min t c.2 ≤ t := Int.min_le_left ..
  have hc : min t c.2 ≤ c.2 := Int.min_le_right ..
  have hold := roundInt_error x .rne hx (Int.le_trans hx ht)
  have hnew := roundInt_error c.1 .rne hc (Int.le_trans hx ht)
  rw [Int.add_mul]
  omega

/-- At a scale more than 49 below the leading bit of an exact sum, that sum does not fit. -/
theorem not_tileSumsFit_of_lt {tn : Int} {i : Nat} (ht : t ≤ tn) (hi : i < n.length) (hv : (tileExact n t sums i).1 ≠ 0)
    (hlt : tn < ilog2 (tileExact n t sums i).1.natAbs + (tileExact n t sums i).2 - 49) : ¬ TileSumsFit n t sums tn := by
  intro hfit
  obtain ⟨hlo, hhi⟩ := hfit i hi
  obtain ⟨hup, hdown⟩ := tileSum_error (n := n) (sums := sums) ht i
  have hle := tileExact_scale_le (n := n) (t := t) (sums := sums) i
  have hlead := pow2_ilog2_le hv
  generalize tileExact n t sums i = v at *
  have hunit := pow2_pos (tn - v.2)
  have hbig : 2 ^ 50 * pow2 (tn - v.2) ≤ (v.1.natAbs : Int) := by
    calc 2 ^ 50 * pow2 (tn - v.2) = pow2 (50 + (tn - v.2)) := by rw [pow2_add (by decide) (by omega)]; rfl
      _ ≤ pow2 (ilog2 v.1.natAbs) := pow2_le (by omega) (by omega)
      _ ≤ _ := hlead
  have hmin := Int.mul_le_mul_of_nonneg_right hlo (Int.le_of_lt hunit)
  have hmax := Int.mul_le_mul_of_nonneg_right hhi (Int.le_of_lt hunit)
  rw [Int.neg_mul] at hmin
  rw [Int.sub_mul] at hmax
  omega

/-! ### Where the search starts and where it stops (R60) -/

/-- A maximum over the elements that are not zero is above no number that is above the start and all of them. -/
theorem le_foldl_max (k : Int × Int → Int) (vs : List (Int × Int)) (a : Int) :
    let r := vs.foldl (fun acc v => if v.1 = 0 then acc else max acc (k v)) a
    a ≤ r ∧ ∀ b, a ≤ b → b < r → ∃ v ∈ vs, v.1 ≠ 0 ∧ b < k v := by
  induction vs generalizing a with
  | nil => exact ⟨Int.le_refl a, fun b hb hlt => absurd hlt (Int.not_lt.mpr hb)⟩
  | cons v vs ih =>
    rw [List.foldl_cons]
    by_cases hv : v.1 = 0
    · rw [if_pos hv]
      obtain ⟨hle, hex⟩ := ih a
      refine ⟨hle, fun b hb hlt => ?_⟩
      obtain ⟨w, hw, hbw⟩ := hex b hb hlt
      exact ⟨w, List.mem_cons_of_mem _ hw, hbw⟩
    · rw [if_neg hv]
      obtain ⟨hle, hex⟩ := ih (max a (k v))
      refine ⟨Int.le_trans (Int.le_max_left ..) hle, fun b hb hlt => ?_⟩
      by_cases hbv : b < k v
      · exact ⟨v, List.mem_cons_self, hv, hbv⟩
      · obtain ⟨w, hw, hbw⟩ := hex b (Int.max_le.mpr ⟨hb, Int.not_lt.mp hbv⟩) hlt
        exact ⟨w, List.mem_cons_of_mem _ hw, hbw⟩

theorem getD_eq_getElem {α : Type} {xs : List α} {i : Nat} (h : i < xs.length) (z : α) : xs.getD i z = xs[i] := by
  rw [List.getD_eq_getElem?_getD, List.getElem?_eq_getElem h, Option.getD_some]

/-- The search begins at the tile's scale or above, and no scale that it leaves out fits. -/
theorem tileStart_spec (hlen : n.length = sums.length) :
    t ≤ tileStart n t sums ∧ ∀ tn, t ≤ tn → tn < tileStart n t sums → ¬ TileSumsFit n t sums tn := by
  obtain ⟨hle, hex⟩ := le_foldl_max (fun v => ilog2 v.1.natAbs + v.2 - 49) (List.zipWith (fun x c => dyAdd (x, t) c) n sums) t
  refine ⟨hle, fun tn ht hlt => ?_⟩
  obtain ⟨v, hv, hne, hb⟩ := hex tn ht hlt
  obtain ⟨i, hi, rfl⟩ := List.mem_iff_getElem.mp hv
  have hn : i < n.length := by rw [List.length_zipWith] at hi; omega
  have hexact : tileExact n t sums i = (List.zipWith (fun x c => dyAdd (x, t) c) n sums)[i] := by
    rw [tileExact, getD_eq_getElem hn, getD_eq_getElem (hlen ▸ hn), List.getElem_zipWith]
  rw [← hexact] at hne hb
  exact not_tileSumsFit_of_lt ht hn hne hb

/-- The aligned contents, without the flags. -/
theorem tileAlign_fst (tn : Int) : (tileAlign n t sums tn).1 =
    List.zipWith (fun x (c : Int × Int) => roundInt x (t - tn) .rne + if c.1 = 0 then 0 else roundInt c.1 (c.2 - tn) .rne) n sums := by
  rw [tileAlign, List.map_zipWith]

theorem length_tileAlign (hlen : n.length = sums.length) (tn : Int) : (tileAlign n t sums tn).1.length = n.length := by
  rw [tileAlign_fst, List.length_zipWith, ← hlen, Nat.min_self]

theorem tileAlign_getD (hlen : n.length = sums.length) (tn : Int) {i : Nat} (hi : i < n.length) :
    (tileAlign n t sums tn).1.getD i 0 = tileSum n t sums tn i := by
  rw [getD_eq_getElem (by rwa [length_tileAlign hlen]), tileSum, getD_eq_getElem hi, getD_eq_getElem (hlen ▸ hi)]
  simp only [tileAlign_fst, List.getElem_zipWith]

theorem tileFits_iff (hlen : n.length = sums.length) (tn : Int) : tileFits (tileAlign n t sums tn).1 = true ↔ TileSumsFit n t sums tn := by
  simp only [tileFits, TileSumsFit, List.all_eq_true, Bool.and_eq_true, decide_eq_true_eq, List.forall_mem_iff_forall_getElem, length_tileAlign hlen]
  refine forall₂_congr fun i hi => ?_
  rw [← tileAlign_getD hlen tn hi, getD_eq_getElem (by rwa [length_tileAlign hlen])]
  rfl

/-- A result that holds the sums of its scale: as they are where they fit, and clamped at the last scale otherwise. -/
def TileHolds (n : List Int) (t : Int) (sums : List (Int × Int)) (last : Int) (r : TileRes) : Prop :=
  (TileSumsFit n t sums r.t ∧ r.n = (tileAlign n t sums r.t).1) ∨
    (¬ TileSumsFit n t sums r.t ∧ r.t = last ∧ r.n = (tileAlign n t sums r.t).1.map fun x => clampInt x (-accMax) accMax)

/-- The search stops at the first scale that fits, or at the last. -/
theorem tileGo_spec (hlen : n.length = sums.length) (fuel : Nat) (tn : Int) :
    let r := tileGo n t sums fuel tn
    tn ≤ r.t ∧ r.t ≤ tn + fuel ∧ (∀ u, tn ≤ u → u < r.t → ¬ TileSumsFit n t sums u) ∧ TileHolds n t sums (tn + fuel) r := by
  have hnone (u : Int) : tn ≤ u → u < tn → ¬ TileSumsFit n t sums u := fun h h' => absurd h' (Int.not_lt.mpr h)
  induction fuel generalizing tn with
  | zero =>
    rw [tileGo]
    split
    next h => exact ⟨Int.le_refl tn, by dsimp only; omega, hnone, .inl ⟨(tileFits_iff hlen tn).mp h, rfl⟩⟩
    next h => exact ⟨Int.le_refl tn, by dsimp only; omega, hnone, .inr ⟨fun hfit => h ((tileFits_iff hlen tn).mpr hfit), by dsimp only; omega, rfl⟩⟩
  | succ fuel ih =>
    rw [tileGo]
    split
    next h => exact ⟨Int.le_refl tn, by dsimp only; omega, hnone, .inl ⟨(tileFits_iff hlen tn).mp h, rfl⟩⟩
    next h =>
      obtain ⟨hlo, hhi, hfirst, hholds⟩ := ih (tn + 1) fun u h h' => absurd h' (Int.not_lt.mpr h)
      have hlast : tn + 1 + (fuel : Int) = tn + (fuel + 1 : Nat) := by omega
      rw [hlast] at hhi hholds
      refine ⟨by omega, hhi, fun u hu hlt => ?_, hholds⟩
      by_cases he : u = tn
      · exact fun hfit => h ((tileFits_iff hlen tn).mpr (he ▸ hfit))
      · exact hfirst u (by omega) hlt

theorem TileHolds.length {last : Int} {r : TileRes} (hlen : n.length = sums.length) (h : TileHolds n t sums last r) : r.n.length = n.length := by
  rcases h with ⟨-, h⟩ | ⟨-, -, h⟩ <;> simp only [h, List.length_map, length_tileAlign hlen]

theorem clampInt_accMax (x : Int) : clampInt x (-accMax) accMax = max (-(2 ^ 47 - 1)) (min x (2 ^ 47 - 1)) := by
  unfold clampInt accMax
  split
  next => omega
  next => split <;> omega

theorem TileHolds.clamped {last : Int} {r : TileRes} (hlen : n.length = sums.length) (h : TileHolds n t sums last r) (hfit : ¬ TileSumsFit n t sums r.t) :
    r.t = last ∧ ∀ i, i < n.length → r.n.getD i 0 = max (-(2 ^ 47 - 1)) (min (tileSum n t sums r.t i) (2 ^ 47 - 1)) := by
  obtain ⟨hlast, hn⟩ := (h.resolve_left fun ⟨hf, _⟩ => hfit hf).2
  refine ⟨hlast, fun i hi => ?_⟩
  have hi' : i < (tileAlign n t sums r.t).1.length := by rwa [length_tileAlign hlen]
  rw [hn, ← clampInt_accMax, ← tileAlign_getD hlen _ hi, getD_eq_getElem hi', getD_eq_getElem (by rwa [List.length_map]), List.getElem_map]

theorem TileHolds.kept {last : Int} {r : TileRes} (hlen : n.length = sums.length) (h : TileHolds n t sums last r) (hfit : TileSumsFit n t sums r.t) :
    ∀ i, i < n.length → r.n.getD i 0 = tileSum n t sums r.t i := fun i hi => by
  rw [(h.resolve_right fun ⟨hf, _⟩ => hf hfit).2, tileAlign_getD hlen _ hi]

theorem tileUpdate_spec (hlen : n.length = sums.length) (ht : t ≤ 32767) :
    let r := tileUpdate n t sums
    t ≤ r.t ∧ r.t ≤ 32767 ∧ (∀ tn, t ≤ tn → tn < r.t → ¬ TileSumsFit n t sums tn) ∧ TileHolds n t sums 32767 r := by
  obtain ⟨hstart, hskip⟩ := tileStart_spec (t := t) hlen
  obtain ⟨hlo, hhi, hfirst, hholds⟩ := tileGo_spec (t := t) hlen (32767 - min (tileStart n t sums) 32767).toNat (min (tileStart n t sums) 32767)
  have hlast : min (tileStart n t sums) 32767 + ((32767 - min (tileStart n t sums) 32767).toNat : Int) = 32767 := by omega
  rw [hlast] at hhi hholds
  refine ⟨Int.le_trans (Int.le_min.mpr ⟨hstart, ht⟩) hlo, hhi, fun tn htn hlt => ?_, hholds⟩
  by_cases h : tn < min (tileStart n t sums) 32767
  · exact hskip tn htn (by omega)
  · exact hfirst tn (Int.not_lt.mp h) hlt

end

/-- Settles O22: no scale below the start of the search fits, and the search takes the first that does. -/
theorem tileUpdateIsLeastScale : Obligations.TileUpdateIsLeastScale := by
  unfold Obligations.TileUpdateIsLeastScale
  intro n t sums hlen ht
  obtain ⟨hlo, hhi, hfirst, hholds⟩ := tileUpdate_spec hlen ht
  exact ⟨hlo, hhi, hfirst, hholds.length hlen, hholds.kept hlen, hholds.clamped hlen⟩

end Sys2Proof.Machine

namespace Sys2Proof.Machine
open Sys2Proof.Laws

/-! ### Headers in a side word (R14, R141) -/

theorem header_clear (x : Word) : x.extractLsb' 2 30 ++ 0#2 = x.setWidth 32 &&& 0xFFFFFFFC := by
  have hm : (0xFFFFFFFC : BitVec 32) = BitVec.allOnes 30 ++ 0#2 := by decide
  have hx : x.setWidth 32 = x.extractLsb' 2 30 ++ x.extractLsb' 0 2 := by
    rw [BitVec.extractLsb'_append_extractLsb'_eq_extractLsb' (by rfl), extractLsb'_zero_eq_setWidth]
  rw [hm, hx, BitVec.and_append, BitVec.and_allOnes, BitVec.and_zero]

theorem sideHdr_setHdr (s : Side) (h : BitVec 32) {j k : Nat} (hj : j < 4) (hk : k < 4) :
    sideHdr (setHdr s k h) j = if j = k then h else sideHdr s j := by
  have hm : (0xFFFFFFFF : Side) = (BitVec.allOnes 32).setWidth 128 := by decide
  refine BitVec.eq_of_getLsbD_eq fun i hi => ?_
  simp only [sideHdr, setHdr, hm, BitVec.getLsbD_extractLsb', BitVec.getLsbD_or, BitVec.getLsbD_and, BitVec.getLsbD_not, BitVec.getLsbD_shiftLeft,
    BitVec.getLsbD_setWidth, BitVec.getLsbD_allOnes]
  have hb : 32 * j + i < 128 := by omega
  rcases Nat.lt_trichotomy j k with hlt | rfl | hgt
  · have hlo : 32 * j + i < 32 * k := by omega
    rw [if_neg (Nat.ne_of_lt hlt)]
    simp [hi, hb, hlo]
  · rw [if_pos rfl]
    have hlo : ¬ 32 * j + i < 32 * j := by omega
    simp [hi, hb, hlo, Nat.add_sub_cancel_left, show i < 128 by omega]
  · have hlo : ¬ 32 * j + i < 32 * k := by omega
    have hout : ¬ 32 * j + i - 32 * k < 32 := by omega
    have hh : h.getLsbD (32 * j + i - 32 * k) = false := BitVec.getLsbD_of_ge _ _ (by omega)
    rw [if_neg (Nat.ne_of_gt hgt)]
    simp [hi, hb, hlo, hout, hh]

theorem poisonReg_poisoned (o : Org) : (poisonReg o).poisoned = true := by
  show (hdrSlots.any fun k => hdrE (sideHdr ((mkHdr 255 0 15 false false).setWidth 128) k) == 255#8) = true
  decide

/-! ### A condition into two guards (R76) -/

theorem Regs.wrG_eq (r : Regs) (i : BitVec 3) (b : Bool) : r.wrG i b = { r with g := (r.wrG i b).g } := by
  unfold Regs.wrG
  split <;> rfl

/-- Each guard takes its half of the condition, from the guards as they were before. -/
theorem Regs.setGuards_eq (r : Regs) (gd : GDst) (c : Bool) :
    let v := cmbValues gd.cmb (r.rdG gd.pd1) (r.rdG gd.pd2) c
    r.setGuards gd c = (r.wrG gd.pd1 v.1).wrG gd.pd2 v.2 := by
  obtain ⟨pd1, cmb, pd2⟩ := gd
  cases cmb <;> rfl

theorem Regs.rdG_adv (r : Regs) (i : BitVec 3) : r.adv.rdG i = r.rdG i := rfl

theorem Regs.setGuards_condition (r : Regs) (gd : GDst) (c : Bool) : r.condition gd c (r.setGuards gd c).adv := by
  refine ⟨fun i => ?_, ?_⟩
  · rw [Regs.rdG_adv, Regs.setGuards_eq, Regs.rdG_wrG, Regs.rdG_wrG]
    by_cases hi : i = 0#3 <;> simp [hi]
  · rw [Regs.setGuards_eq, Regs.wrG_eq, Regs.wrG_eq r]
    rfl

/-! ### Bodies that take the head of a feed queue (R124, R230) -/

/-- An instruction body stalls its core when the queue is empty. -/
def FeedWaits (q : BitVec 1) (f : Core → Except Trap Core) : Prop := ∀ c, (c.ctx.feed q).live = [] → f c = .ok (c.feedStall q)

section
variable {q : BitVec 1} {d b e : Reg} {ty : Ty} {l : Lane}

theorem feedWaits_withA (g : VVal → Core → Except Trap Core) : FeedWaits q fun c => c.withA (.fq q) g := fun c h => by
  simp only [Core.withA, h]

theorem feedWaits_vec1 (f : BitVec 64 → FRes) : FeedWaits q (Core.vec1 d (.fq q) ty l f) := feedWaits_withA _

theorem feedWaits_vec2 (f : BitVec 64 → BitVec 64 → FRes) : FeedWaits q (Core.vec2 d (.fq q) b ty l f) := feedWaits_withA _

theorem feedWaits_vecF2 (f : FVal → FVal → FRes) : FeedWaits q (Core.vecF2 d (.fq q) b ty l f) := fun c h => by
  rw [Core.vecF2, feedWaits_vec2 _ c h]

/-- A shift takes its queue whether its count comes from a register or from the word. -/
theorem feedWaits_vshift (sh : ShSrc) (f : BitVec 64 → Nat → BitVec 64) : FeedWaits q (Core.vshift d (.fq q) sh ty l f) := fun c h => by
  cases sh with
  | imm k => rw [Core.vshift, feedWaits_vec1 _ c h]
  | reg b => rw [Core.vshift, feedWaits_vec2 _ c h]

theorem feedWaits_vcmpV (m : BitVec 3) (f : BitVec 64 → BitVec 64 → Bool × Flags) : FeedWaits q (Core.vcmpV m (.fq q) b ty l f) := feedWaits_withA _

end

section
variable {s : State} {p : Pred} {q : BitVec 1}

theorem State.feedWait_eq (s : State) (q : BitVec 1) : s.feedWait q = s.setCore (s.core.feedStall q) := by
  simp only [State.feedWait, Core.feedStall, List.isEmpty_iff]
  split <;> rfl

theorem exec_waits {i : Instr} {f : Core → Except Trap Core} (hp : s.executes p) (hq : (s.core.ctx.feed q).live = []) (hf : FeedWaits q f)
    (hi : exec i s = issue p f s) : exec i s = .next (s.feedWait q) := by
  rw [hi, State.feedWait_eq, issue_ok hp (hf _ hq)]

theorem exec_fqmark_waits {gd : GDst} {msk : BitVec 9} (hp : s.executes p) (hq : (s.core.ctx.feed q).live = []) :
    exec (.fqmark p gd q msk) s = .next (s.feedWait q) :=
  exec_waits hp hq (fun c h => by simp only [h]) (exec_fqmark ..)

theorem exec_fqmark_head {gd : GDst} {msk : BitVec 9} {e : FqEntry} {es : List FqEntry} (hp : s.executes p) (hq : (s.core.ctx.feed q).live = e :: es) :
    exec (.fqmark p gd q msk) s = .next (s.withRegs (s.regs.setGuards gd (e.marks &&& msk != 0)).adv) := by
  rw [exec_fqmark, execFqmark]
  exact issue_ok hp (by simp only [hq]; rfl)

/-- An instruction that finds its A operand is its body, run on what it found. -/
theorem exec_reads {i : Instr} {a : VSrc} {x : VVal} {c c' : Core} {g : VVal → Core → Except Trap Core} (hp : s.executes p) (ha : readsA s.core a x c)
    (hi : exec i s = issue p (fun c => c.withA a g) s) (hg : g x c = .ok c') : exec i s = .next (s.setCore c') :=
  hi.trans (issue_ok hp ((withA_reads ha g).trans hg))

/-! ### BSETH (R141) -/

/-- D receives poison of a poisoned scalar, or its old value with one header replaced. -/
theorem exec_bseth_put {d a : Reg} {k : BitVec 2} (hp : s.executes p) :
    let old := s.regs.rdVV d
    let z : VVal := if s.regs.psn a then poisonReg (s.core.ownOrigin .spsn) else
      ⟨old.data, setHdr old.side k.toNat ((s.regs.rdS a).setWidth 32 &&& 0xFFFFFFFC)⟩
    exec (.bseth p d a k) s = .next (s.putV s.core d z (psnFlag (old.poisoned || z.poisoned))) := by
  rw [exec_bseth, execBseth]
  simp only [header_clear]
  exact issue_ok hp rfl

theorem exec_bseth_poisoned {d a : Reg} {k : BitVec 2} (hp : s.executes p) (ha : s.regs.psn a = true) :
    exec (.bseth p d a k) s = .next (s.putV s.core d (poisonReg (s.core.ownOrigin .spsn)) fPSN) := by
  rw [exec_bseth_put hp, if_pos ha, poisonReg_poisoned, Bool.or_true, psnFlag, if_pos rfl]

theorem exec_bseth_clean {d a : Reg} {k : BitVec 2} (hp : s.executes p) (ha : s.regs.psn a = false) :
    let old := s.regs.rdVV d
    let z : VVal := ⟨old.data, setHdr old.side k.toNat ((s.regs.rdS a).setWidth 32 &&& 0xFFFFFFFC)⟩
    exec (.bseth p d a k) s = .next (s.putV s.core d z (if old.poisoned || z.poisoned then fPSN else 0)) := by
  intro old z
  rw [exec_bseth_put hp, if_neg (ne_true_of_eq_false ha), psnFlag]

end

/-- Settles O20: each instruction by what its body does with the operand it found, and the waits by the shapes of the bodies. -/
theorem blockHeadersAndFeeds : Obligations.BlockHeadersAndFeeds := by
  unfold Obligations.BlockHeadersAndFeeds
  refine ⟨⟨fun p d a k s x c hp ha => exec_reads hp ha (exec_bgeth ..) rfl, fun p d a k s hp => ⟨fun ha => exec_bseth_poisoned hp ha, fun ha => ?_⟩⟩,
    ⟨fun p q s x c hp ha => ⟨fun d => exec_reads hp ha (exec_fqpop ..) rfl, exec_reads hp ha (exec_fqdrop ..) rfl⟩,
      fun p gd q msk s e es hp hq => ⟨_, ?_, exec_fqmark_head hp hq⟩⟩, ?_⟩
  · refine ⟨_, ?_, fun j hj => ?_, exec_bseth_clean hp ha⟩
    · rfl
    · exact sideHdr_setHdr _ _ hj k.isLt
  · have hcond : decide (e.marks &&& msk ≠ 0) = (e.marks &&& msk != 0) := by rw [bne, decide_not]; rfl
    rw [hcond]
    exact Regs.setGuards_condition ..
  · intro p d b e ty ty2 rm rnd k n part m h gd msk q sh l s hp hq a
    -- The families in the order of the list: those whose body is `withA` by its definition, and FQMARK, the shifts, IEEE lanes of two sources and the compares between them.
    iterate 2 refine List.forall_mem_cons.mpr ⟨exec_waits hp hq (feedWaits_withA _) rfl, ?_⟩
    refine List.forall_mem_cons.mpr ⟨exec_fqmark_waits hp hq, ?_⟩
    iterate 9 refine List.forall_mem_cons.mpr ⟨exec_waits hp hq (feedWaits_withA _) rfl, ?_⟩
    iterate 3 refine List.forall_mem_cons.mpr ⟨exec_waits hp hq (feedWaits_vshift _ _) rfl, ?_⟩
    iterate 4 refine List.forall_mem_cons.mpr ⟨exec_waits hp hq (feedWaits_withA _) rfl, ?_⟩
    iterate 3 refine List.forall_mem_cons.mpr ⟨exec_waits hp hq (feedWaits_vecF2 _) rfl, ?_⟩
    iterate 12 refine List.forall_mem_cons.mpr ⟨exec_waits hp hq (feedWaits_withA _) rfl, ?_⟩
    iterate 10 refine List.forall_mem_cons.mpr ⟨exec_waits hp hq (feedWaits_vcmpV _ _) rfl, ?_⟩
    iterate 26 refine List.forall_mem_cons.mpr ⟨exec_waits hp hq (feedWaits_withA _) rfl, ?_⟩
    exact List.forall_mem_nil _

end Sys2Proof.Machine

namespace Sys2Proof.Laws

/-! ### The decoder against the encoder (R77) -/

/-- The word of each instruction names it: one lemma for each constructor, in their order. -/
theorem candidate_encode : ∀ i, EncodeWord.Statement i :=
  @Instr.rec EncodeWord.Statement
    EncodeWord.add EncodeWord.sub EncodeWord.and EncodeWord.or EncodeWord.xor EncodeWord.andn EncodeWord.shl EncodeWord.shr EncodeWord.sra
    EncodeWord.ror EncodeWord.min EncodeWord.max EncodeWord.minn EncodeWord.maxn EncodeWord.addi EncodeWord.andi EncodeWord.ori EncodeWord.xori
    EncodeWord.shli EncodeWord.shri EncodeWord.srai EncodeWord.mul EncodeWord.mulh EncodeWord.mulhn EncodeWord.div EncodeWord.divn EncodeWord.rem
    EncodeWord.remn EncodeWord.cmpEq EncodeWord.cmpNe EncodeWord.cmpLt EncodeWord.cmpGe EncodeWord.cmpLo EncodeWord.cmpHs EncodeWord.cmpiEq
    EncodeWord.cmpiNe EncodeWord.cmpiLt EncodeWord.cmpiGe EncodeWord.cmpiLo EncodeWord.cmpiHs EncodeWord.fcmpEq EncodeWord.fcmpLt EncodeWord.fcmpLe
    EncodeWord.fcmpUn EncodeWord.gand EncodeWord.gor EncodeWord.gxor EncodeWord.gandn EncodeWord.gset EncodeWord.grd EncodeWord.fadd EncodeWord.fsub
    EncodeWord.fmul EncodeWord.fdiv EncodeWord.fsqrt EncodeWord.fma EncodeWord.fmin EncodeWord.fmax EncodeWord.cvt EncodeWord.clz EncodeWord.ctz
    EncodeWord.popc EncodeWord.bext EncodeWord.bins EncodeWord.mov EncodeWord.sel EncodeWord.movi EncodeWord.movih EncodeWord.adr EncodeWord.ldI8
    EncodeWord.ldI16 EncodeWord.ldI32 EncodeWord.ldI64 EncodeWord.ldN8 EncodeWord.ldN16 EncodeWord.ldN32 EncodeWord.stI8 EncodeWord.stI16
    EncodeWord.stI32 EncodeWord.stI64 EncodeWord.amAdd EncodeWord.amAnd EncodeWord.amOr EncodeWord.amXor EncodeWord.amMin EncodeWord.amMax
    EncodeWord.amSwp EncodeWord.amCas EncodeWord.br EncodeWord.call EncodeWord.jmp EncodeWord.callr EncodeWord.ret EncodeWord.loop EncodeWord.crr
    EncodeWord.crw EncodeWord.crs EncodeWord.crc EncodeWord.pmapcInv EncodeWord.islcfgUnbind EncodeWord.vaddI EncodeWord.vsubI EncodeWord.vmulI
    EncodeWord.vmulh EncodeWord.vminI EncodeWord.vmaxI EncodeWord.vand EncodeWord.vor EncodeWord.vxor EncodeWord.vshl EncodeWord.vshr EncodeWord.vsra
    EncodeWord.vabsI EncodeWord.vnegI EncodeWord.vadds EncodeWord.vsubs EncodeWord.vaddF EncodeWord.vsubF EncodeWord.vmulF EncodeWord.vminF
    EncodeWord.vmaxF EncodeWord.vabsF EncodeWord.vnegF EncodeWord.vfma EncodeWord.vfms EncodeWord.vfnma EncodeWord.vdot EncodeWord.vcmpEq
    EncodeWord.vcmpNe EncodeWord.vcmpLt EncodeWord.vcmpGe EncodeWord.vcmpLo EncodeWord.vcmpHs EncodeWord.vcmpEqF EncodeWord.vcmpLtF EncodeWord.vcmpLeF
    EncodeWord.vcmpUnF EncodeWord.mand EncodeWord.mor EncodeWord.mxor EncodeWord.mandn EncodeWord.mpopc EncodeWord.mfirst EncodeWord.mtos
    EncodeWord.mfroms EncodeWord.vperm EncodeWord.vbcast EncodeWord.vins EncodeWord.vext EncodeWord.vslide EncodeWord.vslided EncodeWord.vcomp
    EncodeWord.vexpd EncodeWord.vzip EncodeWord.vunzip EncodeWord.vredAdd EncodeWord.vredMin EncodeWord.vredMax EncodeWord.vredAnd EncodeWord.vredOr
    EncodeWord.vredXor EncodeWord.vcvt EncodeWord.badd EncodeWord.bsub EncodeWord.bmul EncodeWord.bmin EncodeWord.bmax EncodeWord.bneg
    EncodeWord.bscale EncodeWord.bnorm EncodeWord.btof EncodeWord.bfromf EncodeWord.brefmt EncodeWord.bgeth EncodeWord.bseth EncodeWord.vrcp
    EncodeWord.vrsq EncodeWord.vexp2 EncodeWord.vlog2 EncodeWord.vld EncodeWord.vst EncodeWord.vldx EncodeWord.vstx EncodeWord.bld EncodeWord.bst
    EncodeWord.fqpop EncodeWord.fqdrop EncodeWord.fqmark EncodeWord.mma EncodeWord.mman EncodeWord.mmaTileWrite EncodeWord.accz EncodeWord.accmode
    EncodeWord.accrd EncodeWord.accwr EncodeWord.accexp EncodeWord.accswp EncodeWord.accsc EncodeWord.accscFit EncodeWord.accraw EncodeWord.accrawOrg
    EncodeWord.macq EncodeWord.mrel EncodeWord.mxfr EncodeWord.mxfrMigrate EncodeWord.migrationDone EncodeWord.twr EncodeWord.tww EncodeWord.xcht
    EncodeWord.blld EncodeWord.blmv EncodeWord.blclr EncodeWord.send EncodeWord.sendRel EncodeWord.xsend EncodeWord.xsendRel EncodeWord.chbindWake
    EncodeWord.chbindLand EncodeWord.chbindFeed EncodeWord.jset EncodeWord.chunb EncodeWord.chst EncodeWord.awaitCtr EncodeWord.awaitBatch
    EncodeWord.awaitLic EncodeWord.awaitTkt EncodeWord.awaitChan EncodeWord.yield EncodeWord.endAct EncodeWord.slvl EncodeWord.scpy EncodeWord.sgth
    EncodeWord.sfq EncodeWord.sfqRemote EncodeWord.sbar EncodeWord.bseal EncodeWord.waitb EncodeWord.bstat EncodeWord.put EncodeWord.get
    EncodeWord.tkst EncodeWord.tkstValue EncodeWord.raAdd EncodeWord.raAnd EncodeWord.raOr EncodeWord.raXor EncodeWord.raMin EncodeWord.raMax
    EncodeWord.raSwp EncodeWord.raCas EncodeWord.ctrb EncodeWord.tbuild EncodeWord.tfree EncodeWord.tabort EncodeWord.tqryStatus
    EncodeWord.tqryDoneBitmap EncodeWord.tqryQuorumCount EncodeWord.fenceCtx EncodeWord.fenceCore EncodeWord.fencePair EncodeWord.fenceGrp
    EncodeWord.fenceMod EncodeWord.fenceSys EncodeWord.acset EncodeWord.acadd EncodeWord.acrd EncodeWord.suspend EncodeWord.resume EncodeWord.resumeSt
    EncodeWord.copy EncodeWord.copySt EncodeWord.discard EncodeWord.discardSt EncodeWord.trap EncodeWord.bkpt EncodeWord.tretReissue
    EncodeWord.tretNext EncodeWord.tretTarget EncodeWord.isbind EncodeWord.isrel EncodeWord.isendLatch EncodeWord.isendTwin EncodeWord.issync
    EncodeWord.scheduleValueReached EncodeWord.launch EncodeWord.evsig EncodeWord.evarm EncodeWord.evrd EncodeWord.psnqScalar EncodeWord.psnqVector
    EncodeWord.psnqAcc EncodeWord.psnqTwin EncodeWord.psncls EncodeWord.psnclv EncodeWord.psncla EncodeWord.selectActivation EncodeWord.conditionMet
    EncodeWord.watchdogExpiry EncodeWord.messageOffer EncodeWord.reoffer EncodeWord.putPerform EncodeWord.getServe EncodeWord.raPerform
    EncodeWord.streamStorePerform EncodeWord.streamReadServe EncodeWord.acknowledgement EncodeWord.getData EncodeWord.refusal EncodeWord.staleName
    EncodeWord.retranslateCheck EncodeWord.deliveryFailure EncodeWord.unlistedKind EncodeWord.streamStart EncodeWord.streamFinish
    EncodeWord.timedLanding EncodeWord.islandBind EncodeWord.isto EncodeWord.droopTrip EncodeWord.droopClear EncodeWord.epochStep
    EncodeWord.launchEnqueue EncodeWord.recordSlotWrite EncodeWord.startGroup EncodeWord.eventSignal EncodeWord.evrdResponse
    EncodeWord.faultRecordPost EncodeWord.treeBuild EncodeWord.treeRemove EncodeWord.terminationProbe EncodeWord.probeWave EncodeWord.pageRelease
    EncodeWord.scrubDone EncodeWord.compaction EncodeWord.preemption EncodeWord.sprigMarker EncodeWord.sealSprig EncodeWord.debtResolution
    EncodeWord.sprigStep EncodeWord.autoResume EncodeWord.generationClose EncodeWord.drainMarker EncodeWord.allDrained EncodeWord.generationOpen
    EncodeWord.rotationDue EncodeWord.rotate EncodeWord.detectedTransient EncodeWord.uncorrectableError EncodeWord.correctableError
    EncodeWord.linkRetry EncodeWord.retireCore EncodeWord.cxlAccess EncodeWord.cxlCompletion EncodeWord.cxlTimeout EncodeWord.walkComplete
    EncodeWord.hostAccess EncodeWord.birsp EncodeWord.xinv EncodeWord.eventWordAdd EncodeWord.clrf EncodeWord.msixArm EncodeWord.faultLogEmpty
    EncodeWord.mgmtLogEmpty EncodeWord.treeSlotSelect EncodeWord.routeUpdate EncodeWord.mgmtWrite EncodeWord.go EncodeWord.rst EncodeWord.moduleReset
    EncodeWord.nonceWrite EncodeWord.attestReady EncodeWord.thermalTrip EncodeWord.combineUnit EncodeWord.rnq EncodeWord.rnm EncodeWord.resultDelivery
    EncodeWord.quorumWait EncodeWord.quorumDeadline EncodeWord.treeJoin EncodeWord.treePartial EncodeWord.detach EncodeWord.frameReceive
    EncodeWord.frameResend EncodeWord.ackTimer EncodeWord.handshake EncodeWord.sessionClose EncodeWord.sessionTimeout EncodeWord.rekey
    EncodeWord.localRetry EncodeWord.retraining EncodeWord.linkDown EncodeWord.killGroup EncodeWord.suspendRequest EncodeWord.sprigOperationRequest
    EncodeWord.advanceSpacingElapsed EncodeWord.localLinkAck EncodeWord.retrainingComplete EncodeWord.selfTestFailure EncodeWord.powerLoss
    EncodeWord.clearBar EncodeWord.firmwareUpdate EncodeWord.raiseFusedMinimum

/-- A word decodes to the instruction that it names, when that one is well formed and this is its word. -/
theorem decode_eq_ok_iff {w : Word} {i : Instr} : decode w = .ok i ↔ candidate w = .ok i ∧ i.wf = true ∧ encode i = some w := by
  unfold decode
  cases candidate w with
  | error e => exact ⟨nofun, fun ⟨h, _⟩ => nomatch h⟩
  | ok j =>
    cases hwf : j.wf with
    | false =>
      simp only [hwf, Bool.not_false, if_true]
      exact ⟨nofun, fun ⟨hj, h, _⟩ => absurd h (Except.ok.inj hj ▸ ne_true_of_eq_false hwf)⟩
    | true =>
      simp only [hwf, Bool.not_true, Bool.false_eq_true, if_false]
      split
      next he => exact ⟨fun h => ⟨h, Except.ok.inj h ▸ ⟨hwf, he⟩⟩, And.left⟩
      next he => exact ⟨nofun, fun ⟨hj, _, h⟩ => absurd (Except.ok.inj hj ▸ h) he⟩

/-- Settles O1: the word names the instruction, and passes the checks because it is its word. -/
theorem decodeOfEncode : Obligations.DecodeOfEncode := by
  unfold Obligations.DecodeOfEncode
  exact fun i w hwf he => decode_eq_ok_iff.mpr ⟨candidate_encode i hwf w he, hwf, he⟩

/-- Settles O2: the last checks of the decoder. -/
theorem decodedWordIsAnEncoding : Obligations.DecodedWordIsAnEncoding := by
  unfold Obligations.DecodedWordIsAnEncoding
  exact fun w i h => (decode_eq_ok_iff.mp h).2

/-- Settles O3: each word is the encoding of its instruction, which decodes to it. -/
theorem decodedWords : Obligations.DecodedWords := by
  unfold Obligations.DecodedWords
  repeat' apply And.intro
  all_goals exact decodeOfEncode _ _ rfl rfl

end Sys2Proof.Laws

namespace Sys2Proof.Machine
open Sys2Proof.Laws

/-! ### Instructions under a false guard (R75) -/

/-- Under guard p, an instruction whose guard is false only passes. -/
def OnlyPasses (p : Pred) (i : Instr) : Prop := ∀ s, s.regs.guard p = false → exec i s = .next (s.withRegs s.regs.adv)

section
variable {p : Pred} {i : Instr} {op : BitVec 8} {fn : BitVec 6} {gd : GDst} {d a b c : Reg} {sub : BitVec 4} {im : BitVec 32} {x : BitVec 26}

theorem OnlyPasses.reg (h : OnlyPasses p i) : OnlyPasses (wP (packReg p op fn d a b c x)) i := by rwa [wP_packReg]

theorem OnlyPasses.imm (h : OnlyPasses p i) : OnlyPasses (wP (packImm p op fn d a sub im)) i := by rwa [wP_packImm]

theorem OnlyPasses.prd (h : OnlyPasses p i) : OnlyPasses (wP (packPrd p op fn gd a b x)) i := by rwa [wP_packPrd]

theorem OnlyPasses.pri (h : OnlyPasses p i) : OnlyPasses (wP (packPri p op fn gd a im)) i := by rwa [wP_packPri]

end

/-- The guard of an instruction's word is the guard that it is issued under: by the format of its word (R71), and by how far its effect reaches. -/
theorem onlyPasses_of_encode {i : Instr} {w : Word} (h : encode i = some w) : OnlyPasses (wP w) i := by
  -- The operations without a word go; the last line is the rest: REG words with their effect in the core.
  cases i <;> cases h
  case addi | andi | ori | xori | shli | shri | srai | movi | movih | adr | ldI8 | ldI16 | ldI32 | ldI64 | ldN8 | ldN16 | ldN32 |
    stI8 | stI16 | stI32 | stI64 | br | call | loop | chbindWake | chbindLand | chbindFeed | chunb | chst | awaitCtr |
    awaitBatch | awaitTkt | awaitChan | waitb | fenceCtx | fenceCore | fencePair | fenceGrp | fenceMod | fenceSys =>
    exact .imm fun _ hp => by unfold exec; exact issue_skip hp
  case cmpEq | cmpNe | cmpLt | cmpGe | cmpLo | cmpHs | fcmpEq | fcmpLt | fcmpLe | fcmpUn | gand | gor | gxor | gandn | gset |
    fqmark =>
    exact .prd fun _ hp => by unfold exec; exact issue_skip hp
  case cmpiEq | cmpiNe | cmpiLt | cmpiGe | cmpiLo | cmpiHs =>
    exact .pri fun _ hp => by unfold exec; exact issue_skip hp
  case mma | mman | mrel | mxfr | mxfrMigrate | twr | tww | xcht | ctrb | tabort | tqryStatus | tqryDoneBitmap | tqryQuorumCount |
    suspend | isrel | isendLatch | isendTwin | psnqTwin =>
    exact .reg fun _ hp => by unfold exec; exact issueS_skip hp
  case crr | crw | crs | crc | pmapcInv | islcfgUnbind | awaitLic =>
    exact .imm fun _ hp => by unfold exec; exact issueS_skip hp
  case macq =>
    exact .prd fun _ hp => by unfold exec; exact issueS_skip hp
  case accz | accmode | accrd | accwr | accexp | accswp | accsc | accscFit | accraw | accrawOrg | psnqAcc | psncla =>
    exact .reg fun _ hp => by unfold exec; exact issueA_skip hp
  all_goals exact .reg fun _ hp => by unfold exec; exact issue_skip hp

/-- Settles O4: the guard is looked at before anything else. -/
theorem falseGuardOnlyPasses : Obligations.FalseGuardOnlyPasses := by
  unfold Obligations.FalseGuardOnlyPasses
  exact fun i w s h => onlyPasses_of_encode h s

/-! ### Words that are no instruction, and fetches outside the program range (R43, R77) -/

theorem State.runWord_of_reject {s : State} {e : Reject} (hpc : s.core.regs.pc.toNat < 0xF0000) (he : decode s.core.fetchWord = .error e) :
    s.runWord = .next (s.take ⟨.ill, 0⟩) := by
  unfold State.runWord
  rw [if_neg (Nat.not_le.mpr hpc), he]
  rfl

theorem State.runWord_outside {s : State} (hpc : 0xF0000 ≤ s.core.regs.pc.toNat) :
    s.runWord = .next (s.takeAt s.cur ⟨.badaddr, s.core.regs.pc.setWidth 64⟩ 0) := by
  unfold State.runWord
  rw [if_pos hpc]

theorem State.issueAt_of_runWord {s u t : State} {k : Nat} (hu : u = { s with cur := k }) (h : s.mayIssue k = true) (hr : u.runWord = .next t) :
    s.issueAt k = .next (t.afterIssue k u.core) := by
  subst hu
  unfold State.issueAt
  simp only [if_pos h, hr]

/-- Settles O6: the fixed move is the issue, and what it runs traps. -/
theorem illegalFetchTraps : Obligations.IllegalFetchTraps := by
  unfold Obligations.IllegalFetchTraps
  intro s k u ht hm
  rw [step_issue ht]
  exact ⟨fun hpc ⟨_, he⟩ => State.issueAt_of_runWord rfl hm (State.runWord_of_reject hpc he), fun hpc => State.issueAt_of_runWord rfl hm (State.runWord_outside hpc)⟩

end Sys2Proof.Machine
